-- ==== Sys2Proof/Word.lean ====
section
/-! DEFINITION. The word types of the machine: bytes, parcels, doublewords and vector registers (R2, R3, R195, R198). -/
namespace Sys2Proof

/-- A doubleword: a scalar register, an address, a T64 pattern, a memory doubleword. -/
abbrev Word := BitVec 64

/-- A byte of memory. -/
abbrev Byte := BitVec 8

/-- A 32-bit instruction parcel (R195). -/
abbrev Parcel := BitVec 32

end Sys2Proof
end

