-- ==== Sys2Proof/Syntax.lean ====
section
/-! DEFINITION. The instruction set: one constructor for each row of the opcode table. Operand fields keep the names and the
widths of the encoding tables of 10_encoding.md (R200 to R220); a row that has no encoding is a step that the hardware takes by
itself or that a host or a firmware asks for; the unit and the values that it concerns stand in the state (DESIGN CHOICE, log entry 3). The park
bit P is no field: it is legal on every instruction and acts before the instruction does (R136, R195). -/
namespace Sys2Proof

/-- One step of the machine. The one-parcel instructions (R201 to R214), the two-parcel vector instructions (R209), the long
forms (R215), the switch words (R218 to R220) and the steps of the hardware itself. -/
inductive Instr where
  /-- ADD (R234). -/
  | add (d a b : BitVec 6)
  /-- SUB (R234). -/
  | sub (d a b : BitVec 6)
  /-- MUL (R235). -/
  | mul (d a b : BitVec 6)
  /-- MULH (R235). -/
  | mulh (d a b : BitVec 6)
  /-- MULHU (R235). -/
  | mulhu (d a b : BitVec 6)
  /-- DIV (R235). -/
  | div (d a b : BitVec 6)
  /-- DIVU (R235). -/
  | divu (d a b : BitVec 6)
  /-- REM (R235). -/
  | rem (d a b : BitVec 6)
  /-- REMU (R235). -/
  | remu (d a b : BitVec 6)
  /-- AND (R234). -/
  | and (d a b : BitVec 6)
  /-- OR (R234). -/
  | or (d a b : BitVec 6)
  /-- XOR (R234). -/
  | xor (d a b : BitVec 6)
  /-- ANDN (R234). -/
  | andn (d a b : BitVec 6)
  /-- ORN (R234). -/
  | orn (d a b : BitVec 6)
  /-- XNOR (R234). -/
  | xnor (d a b : BitVec 6)
  /-- SHL (R234). -/
  | shl (d a b : BitVec 6)
  /-- SHR (R234). -/
  | shr (d a b : BitVec 6)
  /-- SAR (R234). -/
  | sar (d a b : BitVec 6)
  /-- ROL (R234). -/
  | rol (d a b : BitVec 6)
  /-- MIN (R234). -/
  | min (d a b : BitVec 6)
  /-- MAX (R234). -/
  | max (d a b : BitVec 6)
  /-- MINU (R234). -/
  | minu (d a b : BitVec 6)
  /-- MAXU (R234). -/
  | maxu (d a b : BitVec 6)
  /-- SEQ (R234). -/
  | seq (d a b : BitVec 6)
  /-- SNE (R234). -/
  | sne (d a b : BitVec 6)
  /-- SLT (R234). -/
  | slt (d a b : BitVec 6)
  /-- SLTU (R234). -/
  | sltu (d a b : BitVec 6)
  /-- SEL (R237). -/
  | sel (d a b : BitVec 6)
  /-- CLZ (R236). -/
  | clz (d a : BitVec 6)
  /-- CTZ (R236). -/
  | ctz (d a : BitVec 6)
  /-- POPC (R236). -/
  | popc (d a : BitVec 6)
  /-- BREV (R236). -/
  | brev (d a : BitVec 6)
  /-- BSWAP (R236). -/
  | bswap (d a : BitVec 6)
  /-- ADD_IMM (R238). -/
  | addImm (d a : BitVec 6) (i : BitVec 13)
  /-- MUL_IMM (R238). -/
  | mulImm (d a : BitVec 6) (i : BitVec 13)
  /-- AND_IMM (R238). -/
  | andImm (d a : BitVec 6) (i : BitVec 13)
  /-- OR_IMM (R238). -/
  | orImm (d a : BitVec 6) (i : BitVec 13)
  /-- XOR_IMM (R238). -/
  | xorImm (d a : BitVec 6) (i : BitVec 13)
  /-- SEQ_IMM (R238). -/
  | seqImm (d a : BitVec 6) (i : BitVec 13)
  /-- SNE_IMM (R238). -/
  | sneImm (d a : BitVec 6) (i : BitVec 13)
  /-- SLT_IMM (R238). -/
  | sltImm (d a : BitVec 6) (i : BitVec 13)
  /-- SLTU_IMM (R238). -/
  | sltuImm (d a : BitVec 6) (i : BitVec 13)
  /-- SHL_IMM (R239). -/
  | shlImm (d a n : BitVec 6)
  /-- SHR_IMM (R239). -/
  | shrImm (d a n : BitVec 6)
  /-- SAR_IMM (R239). -/
  | sarImm (d a n : BitVec 6)
  /-- ROL_IMM (R239). -/
  | rolImm (d a n : BitVec 6)
  /-- SEXT (R241). -/
  | sext (d a w : BitVec 6)
  /-- ZEXT (R241). -/
  | zext (d a w : BitVec 6)
  /-- EXTR (R242). -/
  | extr (d a o l : BitVec 6)
  /-- INSR (R242). -/
  | insr (d a o l : BitVec 6)
  /-- LI (R243). -/
  | li (d : BitVec 6) (i : BitVec 19)
  /-- ADDPC (R243). -/
  | addpc (d : BitVec 6) (i : BitVec 19)
  /-- BEQ (R244). -/
  | beq (a b : BitVec 6) (d : BitVec 13)
  /-- BNE (R244). -/
  | bne (a b : BitVec 6) (d : BitVec 13)
  /-- BLT (R244). -/
  | blt (a b : BitVec 6) (d : BitVec 13)
  /-- BGE (R244). -/
  | bge (a b : BitVec 6) (d : BitVec 13)
  /-- BLTU (R244). -/
  | bltu (a b : BitVec 6) (d : BitVec 13)
  /-- BGEU (R244). -/
  | bgeu (a b : BitVec 6) (d : BitVec 13)
  /-- BZ (R245). -/
  | bz (t : BitVec 6) (i : BitVec 19)
  /-- BNZ (R245). -/
  | bnz (t : BitVec 6) (i : BitVec 19)
  /-- JMP (R246). -/
  | jmp (d : BitVec 25)
  /-- CALL (R246). -/
  | call (d : BitVec 25)
  /-- CALLR (R248). -/
  | callr (a : BitVec 6) (c : BitVec 12)
  /-- LOOP (R250). -/
  | loop (a : BitVec 6) (d : BitVec 13)
  /-- LDB (R275). -/
  | ldb (d a : BitVec 6) (i : BitVec 13)
  /-- LDBU (R275). -/
  | ldbu (d a : BitVec 6) (i : BitVec 13)
  /-- LDH (R275). -/
  | ldh (d a : BitVec 6) (i : BitVec 13)
  /-- LDHU (R275). -/
  | ldhu (d a : BitVec 6) (i : BitVec 13)
  /-- LDW (R275). -/
  | ldw (d a : BitVec 6) (i : BitVec 13)
  /-- LDWU (R275). -/
  | ldwu (d a : BitVec 6) (i : BitVec 13)
  /-- LDD (R275). -/
  | ldd (d a : BitVec 6) (i : BitVec 13)
  /-- STB (R275). -/
  | stb (d a : BitVec 6) (i : BitVec 13)
  /-- STH (R275). -/
  | sth (d a : BitVec 6) (i : BitVec 13)
  /-- STW (R275). -/
  | stw (d a : BitVec 6) (i : BitVec 13)
  /-- STD (R275). -/
  | std (d a : BitVec 6) (i : BitVec 13)
  /-- VLD (R278). -/
  | vld (d : BitVec 5) (a : BitVec 6) (m : BitVec 3) (o : BitVec 8)
  /-- VST (R278). -/
  | vst (d : BitVec 5) (a : BitVec 6) (m : BitVec 3) (o : BitVec 8)
  /-- VLDS (R278). -/
  | vlds (d : BitVec 5) (a : BitVec 6) (m : BitVec 3) (b : BitVec 6)
  /-- VSTS (R278). -/
  | vsts (d : BitVec 5) (a : BitVec 6) (m : BitVec 3) (b : BitVec 6)
  /-- VLDX (R278). -/
  | vldx (d : BitVec 5) (a : BitVec 6) (m : BitVec 3) (b : BitVec 5)
  /-- VSTX (R278). -/
  | vstx (d : BitVec 5) (a : BitVec 6) (m : BitVec 3) (b : BitVec 5)
  /-- AMO_SWAP (R279). -/
  | amoSwap (d a b : BitVec 6)
  /-- AMO_ADD (R279). -/
  | amoAdd (d a b : BitVec 6)
  /-- AMO_AND (R279). -/
  | amoAnd (d a b : BitVec 6)
  /-- AMO_OR (R279). -/
  | amoOr (d a b : BitVec 6)
  /-- AMO_XOR (R279). -/
  | amoXor (d a b : BitVec 6)
  /-- AMO_MIN (R279). -/
  | amoMin (d a b : BitVec 6)
  /-- AMO_MAX (R279). -/
  | amoMax (d a b : BitVec 6)
  /-- AMO_MINU (R279). -/
  | amoMinu (d a b : BitVec 6)
  /-- AMO_MAXU (R279). -/
  | amoMaxu (d a b : BitVec 6)
  /-- AMO_FADD (R279). -/
  | amoFadd (d a b : BitVec 6)
  /-- CAS (R279). -/
  | cas (d a b : BitVec 6)
  /-- RED_ADD (R279). -/
  | redAdd (a b : BitVec 6)
  /-- RED_AND (R279). -/
  | redAnd (a b : BitVec 6)
  /-- RED_OR (R279). -/
  | redOr (a b : BitVec 6)
  /-- RED_XOR (R279). -/
  | redXor (a b : BitVec 6)
  /-- RED_MIN (R279). -/
  | redMin (a b : BitVec 6)
  /-- RED_MAX (R279). -/
  | redMax (a b : BitVec 6)
  /-- RED_MINU (R279). -/
  | redMinu (a b : BitVec 6)
  /-- RED_MAXU (R279). -/
  | redMaxu (a b : BitVec 6)
  /-- RED_FADD (R279). -/
  | redFadd (a b : BitVec 6)
  /-- REDF_ADD (R280). -/
  | redfAdd (f a b : BitVec 6)
  /-- REDF_AND (R280). -/
  | redfAnd (f a b : BitVec 6)
  /-- REDF_OR (R280). -/
  | redfOr (f a b : BitVec 6)
  /-- REDF_XOR (R280). -/
  | redfXor (f a b : BitVec 6)
  /-- REDF_MIN (R280). -/
  | redfMin (f a b : BitVec 6)
  /-- REDF_MAX (R280). -/
  | redfMax (f a b : BitVec 6)
  /-- REDF_MINU (R280). -/
  | redfMinu (f a b : BitVec 6)
  /-- REDF_MAXU (R280). -/
  | redfMaxu (f a b : BitVec 6)
  /-- REDF_FADD (R280). -/
  | redfFadd (f a b : BitVec 6)
  /-- XFENCE (R99). -/
  | xfence (s t : BitVec 6)
  /-- WAITGE (R283). -/
  | waitge (a b : BitVec 6)
  /-- WAITNE (R283). -/
  | waitne (a b : BitVec 6)
  /-- BARINIT (R284). -/
  | barinit (a b : BitVec 6)
  /-- BARARV (R284). -/
  | bararv (a : BitVec 6)
  /-- BARWT (R284). -/
  | barwt (a b : BitVec 6)
  /-- COPY (R293). -/
  | copy (a : BitVec 6)
  /-- COPYS (R293). -/
  | copys (a : BitVec 6)
  /-- COPYG (R293). -/
  | copyg (a : BitVec 6)
  /-- IPREF (R294). -/
  | ipref (l a b : BitVec 6)
  /-- DPREF (R295). -/
  | dpref (a : BitVec 6)
  /-- CFLUSH (R295). -/
  | cflush (a : BitVec 6)
  /-- CINV (R295). -/
  | cinv (a : BitVec 6)
  /-- SBIND (R286). -/
  | sbind (n : BitVec 3) (a : BitVec 6) (f s : BitVec 4) (c r : BitVec 1)
  /-- SBINDV (R286). -/
  | sbindv (n : BitVec 3) (a : BitVec 6) (f s : BitVec 4) (c r : BitVec 1)
  /-- SDRAIN (R290). -/
  | sdrain (v : BitVec 1) (n : BitVec 3)
  /-- SSTAT (R291). -/
  | sstat (v : BitVec 1) (n : BitVec 3) (d : BitVec 6)
  /-- EOS (R292). -/
  | eos (v : BitVec 1) (n l : BitVec 3)
  /-- VADD (R257). -/
  | vadd (d a b : BitVec 5) (m r : BitVec 3)
  /-- VSUB (R257). -/
  | vsub (d a b : BitVec 5) (m r : BitVec 3)
  /-- VMUL (R257). -/
  | vmul (d a b : BitVec 5) (m r : BitVec 3)
  /-- VDIV (R257). -/
  | vdiv (d a b : BitVec 5) (m r : BitVec 3)
  /-- VFMA (R257). -/
  | vfma (d a b c : BitVec 5) (m r : BitVec 3)
  /-- VFMS (R257). -/
  | vfms (d a b c : BitVec 5) (m r : BitVec 3)
  /-- VFNMA (R257). -/
  | vfnma (d a b c : BitVec 5) (m r : BitVec 3)
  /-- VSQRT (R257). -/
  | vsqrt (d a : BitVec 5) (m r : BitVec 3)
  /-- VMIN (R258). -/
  | vmin (d a b : BitVec 5) (m : BitVec 3)
  /-- VMAX (R258). -/
  | vmax (d a b : BitVec 5) (m : BitVec 3)
  /-- VABS (R258). -/
  | vabs (d a : BitVec 5) (m : BitVec 3)
  /-- VNEG (R258). -/
  | vneg (d a : BitVec 5) (m : BitVec 3)
  /-- VCPYS (R258). -/
  | vcpys (d a b : BitVec 5) (m : BitVec 3)
  /-- VCMP_EQ (R259). -/
  | vcmpEq (d a b : BitVec 5) (m : BitVec 3)
  /-- VCMP_NE (R259). -/
  | vcmpNe (d a b : BitVec 5) (m : BitVec 3)
  /-- VCMP_LT (R259). -/
  | vcmpLt (d a b : BitVec 5) (m : BitVec 3)
  /-- VCMP_LE (R259). -/
  | vcmpLe (d a b : BitVec 5) (m : BitVec 3)
  /-- VCMP_UN (R259). -/
  | vcmpUn (d a b : BitVec 5) (m : BitVec 3)
  /-- VCMP_ORD (R259). -/
  | vcmpOrd (d a b : BitVec 5) (m : BitVec 3)
  /-- VCLASS (R260). -/
  | vclass (d a : BitVec 5) (m : BitVec 3)
  /-- VCVTI (R261). -/
  | vcvti (d a : BitVec 5) (m r t : BitVec 3) (u : BitVec 1)
  /-- VCVTF (R261). -/
  | vcvtf (d a : BitVec 5) (m r t : BitVec 3) (u : BitVec 1)
  /-- VRNDP (R262). -/
  | vrndp (d a : BitVec 5) (m r : BitVec 3)
  /-- VREDF (R263). -/
  | vredf (d a : BitVec 5) (m r : BitVec 3)
  /-- VSCAN (R264). -/
  | vscan (d a : BitVec 5) (m r t : BitVec 3)
  /-- VIADD (R265). -/
  | viadd (d a b : BitVec 5) (m : BitVec 3) (w : BitVec 2)
  /-- VISUB (R265). -/
  | visub (d a b : BitVec 5) (m : BitVec 3) (w : BitVec 2)
  /-- VIMUL (R265). -/
  | vimul (d a b : BitVec 5) (m : BitVec 3) (w : BitVec 2)
  /-- VIMULH (R265). -/
  | vimulh (d a b : BitVec 5) (m : BitVec 3) (w : BitVec 2)
  /-- VAND (R265). -/
  | vand (d a b : BitVec 5) (m : BitVec 3) (w : BitVec 2)
  /-- VOR (R265). -/
  | vor (d a b : BitVec 5) (m : BitVec 3) (w : BitVec 2)
  /-- VXOR (R265). -/
  | vxor (d a b : BitVec 5) (m : BitVec 3) (w : BitVec 2)
  /-- VSHL (R265). -/
  | vshl (d a b : BitVec 5) (m : BitVec 3) (w : BitVec 2)
  /-- VSHR (R265). -/
  | vshr (d a b : BitVec 5) (m : BitVec 3) (w : BitVec 2)
  /-- VSAR (R265). -/
  | vsar (d a b : BitVec 5) (m : BitVec 3) (w : BitVec 2)
  /-- VIMIN (R265). -/
  | vimin (d a b : BitVec 5) (m : BitVec 3) (w : BitVec 2)
  /-- VIMAX (R265). -/
  | vimax (d a b : BitVec 5) (m : BitVec 3) (w : BitVec 2)
  /-- VICMP_EQ (R266). -/
  | vicmpEq (d a b : BitVec 5) (m : BitVec 3) (w : BitVec 2)
  /-- VICMP_NE (R266). -/
  | vicmpNe (d a b : BitVec 5) (m : BitVec 3) (w : BitVec 2)
  /-- VICMP_LT (R266). -/
  | vicmpLt (d a b : BitVec 5) (m : BitVec 3) (w : BitVec 2)
  /-- VICMP_GE (R266). -/
  | vicmpGe (d a b : BitVec 5) (m : BitVec 3) (w : BitVec 2)
  /-- VICMP_LTU (R266). -/
  | vicmpLtu (d a b : BitVec 5) (m : BitVec 3) (w : BitVec 2)
  /-- VICMP_GEU (R266). -/
  | vicmpGeu (d a b : BitVec 5) (m : BitVec 3) (w : BitVec 2)
  /-- VSEL (R267). -/
  | vsel (d a b : BitVec 5) (m : BitVec 3) (w : BitVec 2)
  /-- VPERM (R267). -/
  | vperm (d a b : BitVec 5) (m : BitVec 3) (w : BitVec 2)
  /-- VSLIDE (R267). -/
  | vslide (d a : BitVec 5) (u : BitVec 1) (n : BitVec 4) (m : BitVec 3) (w : BitVec 2)
  /-- VCOMP (R268). -/
  | vcomp (d a : BitVec 5) (m : BitVec 3) (w : BitVec 2)
  /-- VEXPD (R268). -/
  | vexpd (d a : BitVec 5) (m : BitVec 3) (w : BitVec 2)
  /-- VREDX (R270). -/
  | vredx (a : BitVec 5) (m : BitVec 3)
  /-- MAND (R271). -/
  | mand (d a b : BitVec 5)
  /-- MOR (R271). -/
  | mor (d a b : BitVec 5)
  /-- MXOR (R271). -/
  | mxor (d a b : BitVec 5)
  /-- MNOT (R271). -/
  | mnot (d a : BitVec 5)
  /-- VMOVX (R269). -/
  | vmovx (s : BitVec 6) (v : BitVec 5) (l : BitVec 3)
  /-- VMOVV (R269). -/
  | vmovv (s : BitVec 6) (v : BitVec 5) (l : BitVec 3)
  /-- VBCAST (R269). -/
  | vbcast (s : BitVec 6) (v : BitVec 5)
  /-- LAADD (R270). -/
  | laadd (s : BitVec 6)
  /-- LARD (R270). -/
  | lard (s : BitVec 6) (r : BitVec 3)
  /-- MPOPC (R271). -/
  | mpopc (s : BitVec 6) (v : BitVec 5)
  /-- MFIRST (R271). -/
  | mfirst (s : BitVec 6) (v : BitVec 5)
  /-- MFORM (R302). -/
  | mform (a b : BitVec 6) (r s : BitVec 3)
  /-- MLDB (R303). -/
  | mldb (a b : BitVec 6) (s : BitVec 3)
  /-- MMA (R304). -/
  | mma (a b : BitVec 6) (s : BitVec 3)
  /-- MZERO (R305). -/
  | mzero (g : BitVec 3)
  /-- MWIN (R306). -/
  | mwin (a : BitVec 6) (g : BitVec 3)
  /-- MDRN (R307). -/
  | mdrn (a b : BitVec 6) (r g : BitVec 3)
  /-- MSTAT (R309). -/
  | mstat (d : BitVec 6)
  /-- QSEL (R317). -/
  | qsel (d a b : BitVec 6)
  /-- QFILT (R318). -/
  | qfilt (d a b : BitVec 6)
  /-- QPEEK (R320). -/
  | qpeek (d a : BitVec 6)
  /-- QTRY (R320). -/
  | qtry (d a : BitVec 6)
  /-- QEND (R322). -/
  | qend (d : BitVec 6) (l : BitVec 3)
  /-- QLVL (R320). -/
  | qlvl (d a : BitVec 6)
  /-- BQPUSH (R323). -/
  | bqpush (a : BitVec 6)
  /-- MSG (R325). -/
  | msg (a b c : BitVec 6) (u : BitVec 1) (h : BitVec 6)
  /-- JMPR (R246). -/
  | jmpr (a : BitVec 6)
  /-- TRAP (R337). -/
  | trap (c : BitVec 6)
  /-- HSET (R327). -/
  | hset (a b c : BitVec 6)
  /-- HMASK (R328). -/
  | hmask (a b : BitVec 6)
  /-- SPAWN (R155). -/
  | spawn (a : BitVec 6)
  /-- CANCEL (R341). -/
  | cancel (a : BitVec 6)
  /-- CWAIT (R346). -/
  | cwait (a : BitVec 6)
  /-- CFGLD (R348). -/
  | cfgld (a : BitVec 6)
  /-- CFGDRN (R349). -/
  | cfgdrn (d : BitVec 6)
  /-- BANKPASS (R351). -/
  | bankpass (a b : BitVec 6)
  /-- TLBINV (R352). -/
  | tlbinv (a b : BitVec 6)
  /-- IFENCE (R353). -/
  | ifence (a b c : BitVec 6)
  /-- TOPOREQ (R354). -/
  | toporeq (a b : BitVec 6)
  /-- TOPOGEN (R355). -/
  | topogen (d b : BitVec 6)
  /-- PREEMPT (R369). -/
  | preempt (a : BitVec 6)
  /-- RESUME (R375). -/
  | resume (a : BitVec 6)
  /-- FMTSET (R357). -/
  | fmtset (b c : BitVec 6)
  /-- OWNSET (R358). -/
  | ownset (a b : BitVec 6)
  /-- RANKSET (R359). -/
  | rankset (a b : BitVec 6)
  /-- CRR (R335). -/
  | crr (d : BitVec 6) (n : BitVec 12)
  /-- CRW (R335). -/
  | crw (a : BitVec 6) (n : BitVec 12)
  /-- CRS (R335). -/
  | crs (a : BitVec 6) (n : BitVec 12)
  /-- CRC (R335). -/
  | crc (a : BitVec 6) (n : BitVec 12)
  /-- ADD_IMM32 (R240). -/
  | addImm32 (d a : BitVec 6) (i : BitVec 32)
  /-- AND_IMM32 (R240). -/
  | andImm32 (d a : BitVec 6) (i : BitVec 32)
  /-- OR_IMM32 (R240). -/
  | orImm32 (d a : BitVec 6) (i : BitVec 32)
  /-- XOR_IMM32 (R240). -/
  | xorImm32 (d a : BitVec 6) (i : BitVec 32)
  /-- LI_IMM32 (R243). -/
  | liImm32 (d : BitVec 6) (i : BitVec 32)
  /-- LDD_IMM32 (R276). -/
  | lddImm32 (d a : BitVec 6) (i : BitVec 32)
  /-- STD_IMM32 (R276). -/
  | stdImm32 (d a : BitVec 6) (i : BitVec 32)
  /-- LIW (R243). -/
  | liw (d : BitVec 6) (i : BitVec 64)
  /-- BRL (R246). -/
  | brl (i : BitVec 64)
  /-- CALLL (R246). -/
  | calll (i : BitVec 64)
  /-- ADDPC_LONG (R243). -/
  | addpcLong (d : BitVec 6) (i : BitVec 64)
  /-- ROUTE (R329). -/
  | route (sel : BitVec 30) (mc : BitVec 1)
  /-- ROUTEN (R330). -/
  | routen (sel : BitVec 30) (mc : BitVec 1) (n : BitVec 16)
  /-- SJMP (R330). -/
  | sjmp (sel : BitVec 30) (mc : BitVec 1) (t : BitVec 16)
  /-- SBNZ (R330). -/
  | sbnz (sel : BitVec 30) (mc : BitVec 1) (t : BitVec 16) (i : BitVec 3)
  /-- SBQ (R330). -/
  | sbq (sel : BitVec 30) (mc : BitVec 1) (t : BitVec 16)
  /-- SWAITM (R330). -/
  | swaitm (sel : BitVec 30) (mc : BitVec 1) (i l : BitVec 3)
  /-- SMCAST (R331). -/
  | smcast (sel : BitVec 30) (n : BitVec 16)
  /-- FENCE (R100). -/
  | fence
  /-- LAZ (R270). -/
  | laz
  /-- MSYNC (R308). -/
  | msync
  /-- RET (R246). -/
  | ret
  /-- TRET (R363). -/
  | tret
  /-- EXIT (R149). -/
  | exit
  /-- IDLE (R338). -/
  | idle
  /-- HRET (R326). -/
  | hret
  /-- CFGSWP (R350). -/
  | cfgswp
  /-- SNOP (R330). -/
  | snop
  /-- SHALT (R330). -/
  | shalt
  /-- HANDLER_SELECT (R141). -/
  | handlerSelect
  /-- HSET_PENDING_CLEAR (R327), with c. -/
  | hsetPendingClear
  /-- MESSAGE_ARRIVAL (R144). -/
  | messageArrival
  /-- MSG_INJECT (R325). -/
  | msgInject
  /-- LONG_RESULT_RETURN (R134), with k. -/
  | longResultReturn
  /-- PARK_COMMIT (R135). -/
  | parkCommit
  /-- LOOP_END_CHECK (R251), with last. -/
  | loopEndCheck
  /-- RESIDUE_ARBITRATION (R386), with unit, pred, seen, third. -/
  | residueArbitration
  /-- CORE_OUTPUT_DEPART (R314), with port. -/
  | coreOutputDepart
  /-- RECORD_CLOSE (R319), with port. -/
  | recordClose
  /-- ROUTEN_COUNT_END (R330). -/
  | routenCountEnd
  /-- SMCAST_WINDOW_END (R331). -/
  | smcastWindowEnd
  /-- SWITCH_WORD_FETCH (R69). -/
  | switchWordFetch
  /-- SWITCH_ILLEGAL_RAISE (R334). -/
  | switchIllegalRaise
  /-- SWITCH_FETCH_FAULT_RAISE (R45). -/
  | switchFetchFaultRaise
  /-- FETCH_FILL (R68). -/
  | fetchFill
  /-- SEQUENTIAL_PREFETCH (R71). -/
  | sequentialPrefetch
  /-- IPREF_FILL (R73). -/
  | iprefFill
  /-- WALK_START (R43), with f. -/
  | walkStart
  /-- WALK_COMPLETE (R44), with f. -/
  | walkComplete
  /-- RANK_TABLE_FILL (R16), with r. -/
  | rankTableFill
  /-- PLACE_WINDOW_ACCESS (R31). -/
  | placeWindowAccess
  /-- ATOMIC_APPLY (R106). -/
  | atomicApply
  /-- LINE_RECALL (R106), with line. -/
  | lineRecall
  /-- BARRIER_ARRIVAL (R109). -/
  | barrierArrival
  /-- REDF_FORWARD (R107). -/
  | redfForward
  /-- WAIT_WAKE (R94). -/
  | waitWake
  /-- CISTERN_REQUEST (R81), with line. -/
  | cisternRequest
  /-- CISTERN_FILL (R84), with line. -/
  | cisternFill
  /-- HBM_REFRESH (R82), with c, bank. -/
  | hbmRefresh
  /-- PATROL_SCRUB (R83), with line. -/
  | patrolScrub
  /-- STREAM_ELEMENT_FETCH (R287), with r. -/
  | streamElementFetch
  /-- STREAM_ELEMENT_PERFORM (R287), with r. -/
  | streamElementPerform
  /-- STREAM_BANK_RETRY (R61), with r. -/
  | streamBankRetry
  /-- STREAM_RESUME (R46), with r. -/
  | streamResume
  /-- COPY_REQUEST_ARRIVAL (R115), with id. -/
  | copyRequestArrival
  /-- SPOUT_SECTOR (R117), with id. -/
  | spoutSector
  /-- COPY_COUNTER_ADDITION (R123), with id. -/
  | copyCounterAddition
  /-- COPY_PIECE_RESUME (R125), with id. -/
  | copyPieceResume
  /-- STREAM_PORT_SOURCE_ELEMENT (R86), with plane. -/
  | streamPortSourceElement
  /-- STREAM_PORT_SINK_TOKEN (R86), with plane. -/
  | streamPortSinkToken
  /-- STREAM_PORT_RESUME (R87), with plane. -/
  | streamPortResume
  /-- RIM_OUTPUT_TOKEN (R86), with plane. -/
  | rimOutputToken
  /-- WEIR_INGRESS (R18), with port. -/
  | weirIngress
  /-- SPILL_RING_DRAIN (R89), with port. -/
  | spillRingDrain
  /-- TILE_RETIRE (R149). -/
  | tileRetire
  /-- LAUNCH_SLOT_ENTER (R154), with f, q. -/
  | launchSlotEnter
  /-- DEPENDENCE_SATISFIED (R157), with f, q, i. -/
  | dependenceSatisfied
  /-- HEAD_AGING (R158), with f, q. -/
  | headAging
  /-- LS_SELECTION (R158), with f. -/
  | lsSelection
  /-- HOLD_GRANT (R159), with f, q. -/
  | holdGrant
  /-- PLACEMENT_SWAP (R163), with lid. -/
  | placementSwap
  /-- FOLLOW_SWAP (R163), with lid. -/
  | followSwap
  /-- LAUNCH_COMPLETE (R167), with lid. -/
  | launchComplete
  /-- SCOPE_END (R339), with part, sc. -/
  | scopeEnd
  /-- CANCEL_KILL (R342). -/
  | cancelKill
  /-- CUT_STOP (R369). -/
  | cutStop
  /-- CUT_MARKER_ARRIVAL (R370), with port. -/
  | cutMarkerArrival
  /-- TILE_SAVE (R369). -/
  | tileSave
  /-- CUT_COMPLETE (R371), with cid. -/
  | cutComplete
  /-- RESUME_COMPLETE (R375), with cid. -/
  | resumeComplete
  /-- FIELD_RESET (R380), with f. -/
  | fieldReset
  /-- INC_TABLE_UPDATE (R381), with f, g. -/
  | incTableUpdate
  /-- FIELD_RESET_COMPLETE (R380), with f. -/
  | fieldResetComplete
  /-- TILE_KILL (R389). -/
  | tileKill
  /-- SCORE_DECAY (R388), with f, i. -/
  | scoreDecay
  /-- QUARANTINE (R388), with f, i. -/
  | quarantine
  /-- ENGINE_COMMAND_START (R298), with cl. -/
  | engineCommandStart
  /-- ENGINE_COMMAND_FINISH (R299). -/
  | engineCommandFinish
  /-- STAGING_ELEMENT (R302). -/
  | stagingElement
  /-- DRAIN_WRITE_PERFORM (R307). -/
  | drainWritePerform
  /-- MR_VALUE_READY (R309), with k. -/
  | mrValueReady
  /-- COLLECTIVE_NODE_COMBINE (R397), with cid, node, e. -/
  | collectiveNodeCombine
  /-- COLLECTIVE_PAIR_COMBINE (R398), with cid, node, e. -/
  | collectivePairCombine
  /-- COLLECTIVE_RESEND (R399), with cid, node. -/
  | collectiveResend
  /-- COLLECTIVE_FLEET_TIMEOUT (R399), with cid. -/
  | collectiveFleetTimeout
  /-- COLLECTIVE_RERUN (R399), with cid. -/
  | collectiveRerun
  /-- TOPO_ACCEPT (R402), with k. -/
  | topoAccept
  /-- TOPO_INSTALL (R402), with k. -/
  | topoInstall
  /-- TOPO_REQUEST_TIMEOUT (R402), with k. -/
  | topoRequestTimeout
  /-- SLOT_PERIOD_START (R405), with k. -/
  | slotPeriodStart
  /-- CHUNK_START (R406), with c, d. -/
  | chunkStart
  /-- CHUNK_DELIVER (R407), with c. -/
  | chunkDeliver
  /-- CREDIT_RETURN (R407), with c, src, port. -/
  | creditReturn
  /-- RILL_READ (R409), with port, vf, addr, n. -/
  | rillRead
  /-- RILL_WRITE (R409), with port, vf, addr, n, data. -/
  | rillWrite
  /-- WATCH_ARM (R413), with vf, i. -/
  | watchArm
  /-- WATCH_FIRE (R413), with vf, i. -/
  | watchFire
  /-- LOADREQ_SUBMIT (R419), with vf. -/
  | loadreqSubmit
  /-- MODULE_LOAD (R417), with part. -/
  | moduleLoad
  /-- MODULE_UNLOAD (R418), with part. -/
  | moduleUnload
  /-- UNLOAD_RELEASE (R418), with part. -/
  | unloadRelease
  /-- ATTESTATION_REQUEST (R427), with nonce. -/
  | attestationRequest
  /-- POWER_ON (R426). -/
  | powerOn
  /-- FIRMWARE_UPDATE (R392), with f. -/
  | firmwareUpdate
  /-- HBM_RETRAIN (R392), with c, ch. -/
  | hbmRetrain
  /-- WAVELENGTH_RECALIBRATE (R392), with c, w. -/
  | wavelengthRecalibrate
  /-- CLOCK_STEP (R428), with f. -/
  | clockStep
  /-- LIFETIME_RECORD_UPDATE (R391). -/
  | lifetimeRecordUpdate
  /-- TILE_SPLIT_WRITE (R58), with v. -/
  | tileSplitWrite
  /-- CLUSTER_POOL_WRITE (R67), with v. -/
  | clusterPoolWrite
  /-- LOOP_CTL_WRITE (R252), with v. -/
  | loopCtlWrite
  /-- REPLAY_CTL_WRITE (R363), with v. -/
  | replayCtlWrite
  /-- TOKEN_CFG_WRITE (R313), with v. -/
  | tokenCfgWrite
  /-- OPT_SEND_WRITE (R436), with v. -/
  | optSendWrite
  /-- FORMAT_STATE_CHANGE (R184), with kind, n, v. -/
  | formatStateChange
  /-- BANK_TOKEN_WRITE (R62), with b, v. -/
  | bankTokenWrite
  /-- STRIPE_CTL_WRITE (R79), with addr, v. -/
  | stripeCtlWrite
  /-- PART_FIELDS_WRITE (R376), with part, v. -/
  | partFieldsWrite
  /-- WINDOW_WRITE (R379), with w, v. -/
  | windowWrite
  /-- VF_CTL_WRITE (R377), with vf, v. -/
  | vfCtlWrite
  /-- LQ_CTL_WRITE (R156), with f, q, v. -/
  | lqCtlWrite
  /-- CSET_CTL_WRITE (R400), with k, v. -/
  | csetCtlWrite
  /-- DEVICE_REGISTER_WRITE (R33), with addr, v. -/
  | deviceRegisterWrite
  /-- MATRIX_FAULT_RESUME (R310). -/
  | matrixFaultResume
  /-- KILLED_TILE_ERR_OUTPUT (R389), with port. -/
  | killedTileErrOutput
  /-- STATIC_LINK_FAILURE (R399), with port. -/
  | staticLinkFailure
  deriving DecidableEq, Repr

end Sys2Proof
end

