-- ==== Sys2Proof/WellFormed.lean ====
section
/-! DEFINITION. The static checks of an instruction's fields: operand codes (class 4 of R216), raw fields, immediates and
rounding fields (class 5) and switch words (class 6). -/
namespace Sys2Proof

/-- A source code (R197): a register, a port, a stream, di or bq, but not mr. -/
def srcOk (c : BitVec 6) : Bool := decide (c ≤ 47#6) || c == 49#6 || c == 50#6

/-- A destination code (R197). -/
def dstOk (c : BitVec 6) : Bool := decide (c ≤ 47#6) || c == 50#6

/-- A field that names x0 to x31. -/
def xregOk (c : BitVec 6) : Bool := decide (c ≤ 31#6)

/-- The ra field of majors 0x01 to 0x0D: mr as well, when the destination is x1 to x31 (R232). -/
def mrOk (d c : BitVec 6) : Bool := srcOk c || (c == 48#6 && d != 0#6 && decide (d ≤ 31#6))

/-- A port code. -/
def portOk (c : BitVec 6) : Bool := decide (32#6 ≤ c) && decide (c ≤ 39#6)

/-- A vector operand: v0 to v15 or vk0 to vk7 (R198). -/
def vecOk (c : BitVec 5) : Bool := decide (c ≤ 23#5)

/-- A vector register. -/
def vregOk (c : BitVec 5) : Bool := decide (c ≤ 15#5)

/-- A mask (R198). -/
def maskOk (c : BitVec 5) : Bool := decide (c ≤ 7#5)

/-- Rounding codes 5 and 6 (R174). -/
def rmBad (r : BitVec 3) : Bool := r == 5#3 || r == 6#3

/-- pos + len > 64, where a len of 0 stands for 64 (R242). -/
def fieldPast (pos len : BitVec 6) : Bool := decide (64 < pos.toNat + (if len = 0#6 then 64 else len.toNat))

/-- Is a control-register number assigned by a register map (R217)? -/
def crAssigned (n : BitVec 12) : Bool :=
  let k := n.toNat
  let r := fun (lo hi : Nat) => decide (lo ≤ k) && decide (k ≤ hi)
  k == 0x20 || r 0x40 0x4C || r 0x50 0x57 || r 0x60 0x70 || r 0x78 0x90 || r 0x98 0x9A || r 0x9C 0xA0 || k == 0xA4 || k == 0xA8 ||
  r 0xB0 0xBB || r 0xC0 0xE4 || k == 0xE8 || k == 0xE9 || r 0x100 0x17F

/-- Selector `k` of a switch word: N0 E0 S0 W0 N1 E1 S1 W1 CI0 CI1 (R218). -/
def selector (sel : BitVec 30) (k : Nat) : Nat := (sel.extractLsb' (3 * k) 3).toNat

/-- The plane of selector `k`. -/
def selPlane (k : Nat) : Nat := if k < 4 ∨ k = 8 then 0 else 1

/-- The link inputs, 0 to 7, that the selectors of a word name, in selector order (R219). -/
def namedInputs (sel : BitVec 30) : List Nat :=
  (List.range 10).filterMap (fun k => if selector sel k = 0 then none else some (4 * selPlane k + (selector sel k - 1)))

/-- A selector of 5 to 7, or an input selected twice with MC = 0 (R219, R220). -/
def swBad (sel : BitVec 30) (mc : BitVec 1) : Bool :=
  (List.range 10).any (fun k => decide (4 < selector sel k)) ||
  (mc == 0#1 && (List.range 8).any (fun i => decide (1 < ((namedInputs sel).filter (· == i)).length)))

/-- Does an operand field hold a reserved code or a code not allowed in its position (class 4 of R216)? -/
def operandBad (i : Instr) : Bool :=
  match i with
  | .add d a b => !dstOk d || !mrOk d a || !srcOk b
  | .sub d a b => !dstOk d || !mrOk d a || !srcOk b
  | .mul d a b => !dstOk d || !mrOk d a || !srcOk b
  | .mulh d a b => !dstOk d || !mrOk d a || !srcOk b
  | .mulhu d a b => !dstOk d || !mrOk d a || !srcOk b
  | .div d a b => !dstOk d || !mrOk d a || !srcOk b
  | .divu d a b => !dstOk d || !mrOk d a || !srcOk b
  | .rem d a b => !dstOk d || !mrOk d a || !srcOk b
  | .remu d a b => !dstOk d || !mrOk d a || !srcOk b
  | .and d a b => !dstOk d || !mrOk d a || !srcOk b
  | .or d a b => !dstOk d || !mrOk d a || !srcOk b
  | .xor d a b => !dstOk d || !mrOk d a || !srcOk b
  | .andn d a b => !dstOk d || !mrOk d a || !srcOk b
  | .orn d a b => !dstOk d || !mrOk d a || !srcOk b
  | .xnor d a b => !dstOk d || !mrOk d a || !srcOk b
  | .shl d a b => !dstOk d || !mrOk d a || !srcOk b
  | .shr d a b => !dstOk d || !mrOk d a || !srcOk b
  | .sar d a b => !dstOk d || !mrOk d a || !srcOk b
  | .rol d a b => !dstOk d || !mrOk d a || !srcOk b
  | .min d a b => !dstOk d || !mrOk d a || !srcOk b
  | .max d a b => !dstOk d || !mrOk d a || !srcOk b
  | .minu d a b => !dstOk d || !mrOk d a || !srcOk b
  | .maxu d a b => !dstOk d || !mrOk d a || !srcOk b
  | .seq d a b => !dstOk d || !mrOk d a || !srcOk b
  | .sne d a b => !dstOk d || !mrOk d a || !srcOk b
  | .slt d a b => !dstOk d || !mrOk d a || !srcOk b
  | .sltu d a b => !dstOk d || !mrOk d a || !srcOk b
  | .sel d a b => !xregOk d || !mrOk d a || !srcOk b
  | .clz d a => !dstOk d || !mrOk d a
  | .ctz d a => !dstOk d || !mrOk d a
  | .popc d a => !dstOk d || !mrOk d a
  | .brev d a => !dstOk d || !mrOk d a
  | .bswap d a => !dstOk d || !mrOk d a
  | .addImm d a _ => !dstOk d || !mrOk d a
  | .mulImm d a _ => !dstOk d || !mrOk d a
  | .andImm d a _ => !dstOk d || !mrOk d a
  | .orImm d a _ => !dstOk d || !mrOk d a
  | .xorImm d a _ => !dstOk d || !mrOk d a
  | .seqImm d a _ => !dstOk d || !mrOk d a
  | .sneImm d a _ => !dstOk d || !mrOk d a
  | .sltImm d a _ => !dstOk d || !mrOk d a
  | .sltuImm d a _ => !dstOk d || !mrOk d a
  | .shlImm d a _ => !dstOk d || !mrOk d a
  | .shrImm d a _ => !dstOk d || !mrOk d a
  | .sarImm d a _ => !dstOk d || !mrOk d a
  | .rolImm d a _ => !dstOk d || !mrOk d a
  | .sext d a _ => !dstOk d || !mrOk d a
  | .zext d a _ => !dstOk d || !mrOk d a
  | .extr d a _ _ => !dstOk d || !mrOk d a
  | .insr d a _ _ => !xregOk d || !mrOk d a
  | .li d _ => !dstOk d
  | .addpc d _ => !dstOk d
  | .beq a b _ => !srcOk a || !srcOk b
  | .bne a b _ => !srcOk a || !srcOk b
  | .blt a b _ => !srcOk a || !srcOk b
  | .bge a b _ => !srcOk a || !srcOk b
  | .bltu a b _ => !srcOk a || !srcOk b
  | .bgeu a b _ => !srcOk a || !srcOk b
  | .bz t _ => !srcOk t
  | .bnz t _ => !srcOk t
  | .jmp _ => false
  | .call _ => false
  | .callr a _ => !srcOk a
  | .loop a _ => !srcOk a
  | .ldb d a _ => !dstOk d || !srcOk a
  | .ldbu d a _ => !dstOk d || !srcOk a
  | .ldh d a _ => !dstOk d || !srcOk a
  | .ldhu d a _ => !dstOk d || !srcOk a
  | .ldw d a _ => !dstOk d || !srcOk a
  | .ldwu d a _ => !dstOk d || !srcOk a
  | .ldd d a _ => !dstOk d || !srcOk a
  | .stb d a _ => !srcOk d || !srcOk a
  | .sth d a _ => !srcOk d || !srcOk a
  | .stw d a _ => !srcOk d || !srcOk a
  | .std d a _ => !srcOk d || !srcOk a
  | .vld d a _ _ => !vregOk d || !srcOk a
  | .vst d a _ _ => !vecOk d || !srcOk a
  | .vlds d a _ b => !vregOk d || !srcOk a || !srcOk b
  | .vsts d a _ b => !vecOk d || !srcOk a || !srcOk b
  | .vldx d a _ b => !vregOk d || !srcOk a || !vecOk b
  | .vstx d a _ b => !vecOk d || !srcOk a || !vecOk b
  | .amoSwap d a b => !dstOk d || !srcOk a || !srcOk b
  | .amoAdd d a b => !dstOk d || !srcOk a || !srcOk b
  | .amoAnd d a b => !dstOk d || !srcOk a || !srcOk b
  | .amoOr d a b => !dstOk d || !srcOk a || !srcOk b
  | .amoXor d a b => !dstOk d || !srcOk a || !srcOk b
  | .amoMin d a b => !dstOk d || !srcOk a || !srcOk b
  | .amoMax d a b => !dstOk d || !srcOk a || !srcOk b
  | .amoMinu d a b => !dstOk d || !srcOk a || !srcOk b
  | .amoMaxu d a b => !dstOk d || !srcOk a || !srcOk b
  | .amoFadd d a b => !dstOk d || !srcOk a || !srcOk b
  | .cas d a b => !xregOk d || !srcOk a || !srcOk b
  | .redAdd a b => !srcOk a || !srcOk b
  | .redAnd a b => !srcOk a || !srcOk b
  | .redOr a b => !srcOk a || !srcOk b
  | .redXor a b => !srcOk a || !srcOk b
  | .redMin a b => !srcOk a || !srcOk b
  | .redMax a b => !srcOk a || !srcOk b
  | .redMinu a b => !srcOk a || !srcOk b
  | .redMaxu a b => !srcOk a || !srcOk b
  | .redFadd a b => !srcOk a || !srcOk b
  | .redfAdd f a b => !srcOk f || !srcOk a || !srcOk b
  | .redfAnd f a b => !srcOk f || !srcOk a || !srcOk b
  | .redfOr f a b => !srcOk f || !srcOk a || !srcOk b
  | .redfXor f a b => !srcOk f || !srcOk a || !srcOk b
  | .redfMin f a b => !srcOk f || !srcOk a || !srcOk b
  | .redfMax f a b => !srcOk f || !srcOk a || !srcOk b
  | .redfMinu f a b => !srcOk f || !srcOk a || !srcOk b
  | .redfMaxu f a b => !srcOk f || !srcOk a || !srcOk b
  | .redfFadd f a b => !srcOk f || !srcOk a || !srcOk b
  | .xfence _ _ => false
  | .waitge a b => !srcOk a || !srcOk b
  | .waitne a b => !srcOk a || !srcOk b
  | .barinit a b => !srcOk a || !srcOk b
  | .bararv a => !srcOk a
  | .barwt a b => !srcOk a || !srcOk b
  | .copy a => !srcOk a
  | .copys a => !srcOk a
  | .copyg a => !srcOk a
  | .ipref _ a b => !srcOk a || !srcOk b
  | .dpref a => !srcOk a
  | .cflush a => !srcOk a
  | .cinv a => !srcOk a
  | .sbind _ a _ _ _ _ => !srcOk a
  | .sbindv _ a _ _ _ _ => !srcOk a
  | .sdrain _ _ => false
  | .sstat _ _ d => !dstOk d
  | .eos _ _ _ => false
  | .vadd d a b _ _ => !vecOk d || !vecOk a || !vecOk b
  | .vsub d a b _ _ => !vecOk d || !vecOk a || !vecOk b
  | .vmul d a b _ _ => !vecOk d || !vecOk a || !vecOk b
  | .vdiv d a b _ _ => !vecOk d || !vecOk a || !vecOk b
  | .vfma d a b c _ _ => !vecOk d || !vecOk a || !vecOk b || !vecOk c
  | .vfms d a b c _ _ => !vecOk d || !vecOk a || !vecOk b || !vecOk c
  | .vfnma d a b c _ _ => !vecOk d || !vecOk a || !vecOk b || !vecOk c
  | .vsqrt d a _ _ => !vecOk d || !vecOk a
  | .vmin d a b _ => !vecOk d || !vecOk a || !vecOk b
  | .vmax d a b _ => !vecOk d || !vecOk a || !vecOk b
  | .vabs d a _ => !vecOk d || !vecOk a
  | .vneg d a _ => !vecOk d || !vecOk a
  | .vcpys d a b _ => !vecOk d || !vecOk a || !vecOk b
  | .vcmpEq d a b _ => !maskOk d || !vecOk a || !vecOk b
  | .vcmpNe d a b _ => !maskOk d || !vecOk a || !vecOk b
  | .vcmpLt d a b _ => !maskOk d || !vecOk a || !vecOk b
  | .vcmpLe d a b _ => !maskOk d || !vecOk a || !vecOk b
  | .vcmpUn d a b _ => !maskOk d || !vecOk a || !vecOk b
  | .vcmpOrd d a b _ => !maskOk d || !vecOk a || !vecOk b
  | .vclass d a _ => !vecOk d || !vecOk a
  | .vcvti d a _ _ _ _ => !vecOk d || !vecOk a
  | .vcvtf d a _ _ _ _ => !vecOk d || !vecOk a
  | .vrndp d a _ _ => !vecOk d || !vecOk a
  | .vredf d a _ _ => !vecOk d || !vecOk a
  | .vscan d a _ _ _ => !vecOk d || !vecOk a
  | .viadd d a b _ _ => !vecOk d || !vecOk a || !vecOk b
  | .visub d a b _ _ => !vecOk d || !vecOk a || !vecOk b
  | .vimul d a b _ _ => !vecOk d || !vecOk a || !vecOk b
  | .vimulh d a b _ _ => !vecOk d || !vecOk a || !vecOk b
  | .vand d a b _ _ => !vecOk d || !vecOk a || !vecOk b
  | .vor d a b _ _ => !vecOk d || !vecOk a || !vecOk b
  | .vxor d a b _ _ => !vecOk d || !vecOk a || !vecOk b
  | .vshl d a b _ _ => !vecOk d || !vecOk a || !vecOk b
  | .vshr d a b _ _ => !vecOk d || !vecOk a || !vecOk b
  | .vsar d a b _ _ => !vecOk d || !vecOk a || !vecOk b
  | .vimin d a b _ _ => !vecOk d || !vecOk a || !vecOk b
  | .vimax d a b _ _ => !vecOk d || !vecOk a || !vecOk b
  | .vicmpEq d a b _ _ => !maskOk d || !vecOk a || !vecOk b
  | .vicmpNe d a b _ _ => !maskOk d || !vecOk a || !vecOk b
  | .vicmpLt d a b _ _ => !maskOk d || !vecOk a || !vecOk b
  | .vicmpGe d a b _ _ => !maskOk d || !vecOk a || !vecOk b
  | .vicmpLtu d a b _ _ => !maskOk d || !vecOk a || !vecOk b
  | .vicmpGeu d a b _ _ => !maskOk d || !vecOk a || !vecOk b
  | .vsel d a b _ _ => !vecOk d || !vecOk a || !vecOk b
  | .vperm d a b _ _ => !vecOk d || !vecOk a || !vecOk b
  | .vslide d a _ _ _ _ => !vecOk d || !vecOk a
  | .vcomp d a _ _ => !vecOk d || !vecOk a
  | .vexpd d a _ _ => !vecOk d || !vecOk a
  | .vredx a _ => !vecOk a
  | .mand d a b => !maskOk d || !maskOk a || !maskOk b
  | .mor d a b => !maskOk d || !maskOk a || !maskOk b
  | .mxor d a b => !maskOk d || !maskOk a || !maskOk b
  | .mnot d a => !maskOk d || !maskOk a
  | .vmovx s v _ => !dstOk s || !vecOk v
  | .vmovv s v _ => !srcOk s || !vregOk v
  | .vbcast s v => !srcOk s || !vecOk v
  | .laadd s => !srcOk s
  | .lard s _ => !dstOk s
  | .mpopc s v => !dstOk s || !maskOk v
  | .mfirst s v => !dstOk s || !maskOk v
  | .mform a b _ _ => !srcOk a || !srcOk b
  | .mldb a b _ => !srcOk a || !srcOk b
  | .mma a b _ => !srcOk a || !srcOk b
  | .mzero _ => false
  | .mwin a _ => !srcOk a
  | .mdrn a b _ _ => !srcOk a || !srcOk b
  | .mstat d => !dstOk d
  | .qsel d a b => !portOk d || !portOk a || !portOk b || a == b
  | .qfilt d a b => !portOk d || !portOk a || !srcOk b
  | .qpeek d a => !dstOk d || !portOk a
  | .qtry d a => !dstOk d || !portOk a
  | .qend d _ => !portOk d
  | .qlvl d a => !dstOk d || !portOk a
  | .bqpush a => !srcOk a
  | .msg a b c _ _ => !srcOk a || !srcOk b || !srcOk c
  | .jmpr a => !srcOk a
  | .trap _ => false
  | .hset a b c => !srcOk a || !srcOk b || !srcOk c
  | .hmask a b => !srcOk a || !srcOk b
  | .spawn a => !srcOk a
  | .cancel a => !srcOk a
  | .cwait a => !srcOk a
  | .cfgld a => !srcOk a
  | .cfgdrn d => !dstOk d
  | .bankpass a b => !srcOk a || !srcOk b
  | .tlbinv a b => !srcOk a || !srcOk b
  | .ifence a b _ => !srcOk a || !srcOk b
  | .toporeq a b => !srcOk a || !srcOk b
  | .topogen d b => !dstOk d || !srcOk b
  | .preempt a => !srcOk a
  | .resume a => !srcOk a
  | .fmtset b _ => !srcOk b
  | .ownset a b => !srcOk a || !srcOk b
  | .rankset a b => !srcOk a || !srcOk b
  | .crr d _ => !dstOk d
  | .crw a _ => !srcOk a
  | .crs a _ => !srcOk a
  | .crc a _ => !srcOk a
  | .addImm32 d a _ => !dstOk d || !srcOk a
  | .andImm32 d a _ => !dstOk d || !srcOk a
  | .orImm32 d a _ => !dstOk d || !srcOk a
  | .xorImm32 d a _ => !dstOk d || !srcOk a
  | .liImm32 d _ => !dstOk d
  | .lddImm32 d a _ => !dstOk d || !srcOk a
  | .stdImm32 d a _ => !srcOk d || !srcOk a
  | .liw d _ => !dstOk d
  | .brl _ => false
  | .calll _ => false
  | .addpcLong d _ => !dstOk d
  | .route _ _ => false
  | .routen _ _ _ => false
  | .sjmp _ _ _ => false
  | .sbnz _ _ _ _ => false
  | .sbq _ _ _ => false
  | .swaitm _ _ _ _ => false
  | .smcast _ _ => false
  | .fence => false
  | .laz => false
  | .msync => false
  | .ret => false
  | .tret => false
  | .exit => false
  | .idle => false
  | .hret => false
  | .cfgswp => false
  | .snop => false
  | .shalt => false
  | .handlerSelect => false
  | .hsetPendingClear => false
  | .messageArrival => false
  | .msgInject => false
  | .longResultReturn => false
  | .parkCommit => false
  | .loopEndCheck => false
  | .residueArbitration => false
  | .coreOutputDepart => false
  | .recordClose => false
  | .routenCountEnd => false
  | .smcastWindowEnd => false
  | .switchWordFetch => false
  | .switchIllegalRaise => false
  | .switchFetchFaultRaise => false
  | .fetchFill => false
  | .sequentialPrefetch => false
  | .iprefFill => false
  | .walkStart => false
  | .walkComplete => false
  | .rankTableFill => false
  | .placeWindowAccess => false
  | .atomicApply => false
  | .lineRecall => false
  | .barrierArrival => false
  | .redfForward => false
  | .waitWake => false
  | .cisternRequest => false
  | .cisternFill => false
  | .hbmRefresh => false
  | .patrolScrub => false
  | .streamElementFetch => false
  | .streamElementPerform => false
  | .streamBankRetry => false
  | .streamResume => false
  | .copyRequestArrival => false
  | .spoutSector => false
  | .copyCounterAddition => false
  | .copyPieceResume => false
  | .streamPortSourceElement => false
  | .streamPortSinkToken => false
  | .streamPortResume => false
  | .rimOutputToken => false
  | .weirIngress => false
  | .spillRingDrain => false
  | .tileRetire => false
  | .launchSlotEnter => false
  | .dependenceSatisfied => false
  | .headAging => false
  | .lsSelection => false
  | .holdGrant => false
  | .placementSwap => false
  | .followSwap => false
  | .launchComplete => false
  | .scopeEnd => false
  | .cancelKill => false
  | .cutStop => false
  | .cutMarkerArrival => false
  | .tileSave => false
  | .cutComplete => false
  | .resumeComplete => false
  | .fieldReset => false
  | .incTableUpdate => false
  | .fieldResetComplete => false
  | .tileKill => false
  | .scoreDecay => false
  | .quarantine => false
  | .engineCommandStart => false
  | .engineCommandFinish => false
  | .stagingElement => false
  | .drainWritePerform => false
  | .mrValueReady => false
  | .collectiveNodeCombine => false
  | .collectivePairCombine => false
  | .collectiveResend => false
  | .collectiveFleetTimeout => false
  | .collectiveRerun => false
  | .topoAccept => false
  | .topoInstall => false
  | .topoRequestTimeout => false
  | .slotPeriodStart => false
  | .chunkStart => false
  | .chunkDeliver => false
  | .creditReturn => false
  | .rillRead => false
  | .rillWrite => false
  | .watchArm => false
  | .watchFire => false
  | .loadreqSubmit => false
  | .moduleLoad => false
  | .moduleUnload => false
  | .unloadRelease => false
  | .attestationRequest => false
  | .powerOn => false
  | .firmwareUpdate => false
  | .hbmRetrain => false
  | .wavelengthRecalibrate => false
  | .clockStep => false
  | .lifetimeRecordUpdate => false
  | .tileSplitWrite => false
  | .clusterPoolWrite => false
  | .loopCtlWrite => false
  | .replayCtlWrite => false
  | .tokenCfgWrite => false
  | .optSendWrite => false
  | .formatStateChange => false
  | .bankTokenWrite => false
  | .stripeCtlWrite => false
  | .partFieldsWrite => false
  | .windowWrite => false
  | .vfCtlWrite => false
  | .lqCtlWrite => false
  | .csetCtlWrite => false
  | .deviceRegisterWrite => false
  | .matrixFaultResume => false
  | .killedTileErrOutput => false
  | .staticLinkFailure => false

/-- Is a raw field, an immediate, a rounding field or a switch-word field outside its values (classes 5 and 6 of R216)? -/
def rawBad (i : Instr) : Bool :=
  match i with
  | .add _ _ _ => false
  | .sub _ _ _ => false
  | .mul _ _ _ => false
  | .mulh _ _ _ => false
  | .mulhu _ _ _ => false
  | .div _ _ _ => false
  | .divu _ _ _ => false
  | .rem _ _ _ => false
  | .remu _ _ _ => false
  | .and _ _ _ => false
  | .or _ _ _ => false
  | .xor _ _ _ => false
  | .andn _ _ _ => false
  | .orn _ _ _ => false
  | .xnor _ _ _ => false
  | .shl _ _ _ => false
  | .shr _ _ _ => false
  | .sar _ _ _ => false
  | .rol _ _ _ => false
  | .min _ _ _ => false
  | .max _ _ _ => false
  | .minu _ _ _ => false
  | .maxu _ _ _ => false
  | .seq _ _ _ => false
  | .sne _ _ _ => false
  | .slt _ _ _ => false
  | .sltu _ _ _ => false
  | .sel _ _ _ => false
  | .clz _ _ => false
  | .ctz _ _ => false
  | .popc _ _ => false
  | .brev _ _ => false
  | .bswap _ _ => false
  | .addImm _ _ _ => false
  | .mulImm _ _ _ => false
  | .andImm _ _ _ => false
  | .orImm _ _ _ => false
  | .xorImm _ _ _ => false
  | .seqImm _ _ _ => false
  | .sneImm _ _ _ => false
  | .sltImm _ _ _ => false
  | .sltuImm _ _ _ => false
  | .shlImm _ _ _ => false
  | .shrImm _ _ _ => false
  | .sarImm _ _ _ => false
  | .rolImm _ _ _ => false
  | .sext _ _ w => w == 0#6
  | .zext _ _ w => w == 0#6
  | .extr _ _ o l => fieldPast o l
  | .insr _ _ o l => fieldPast o l
  | .li _ _ => false
  | .addpc _ _ => false
  | .beq _ _ _ => false
  | .bne _ _ _ => false
  | .blt _ _ _ => false
  | .bge _ _ _ => false
  | .bltu _ _ _ => false
  | .bgeu _ _ _ => false
  | .bz _ _ => false
  | .bnz _ _ => false
  | .jmp _ => false
  | .call _ => false
  | .callr _ _ => false
  | .loop _ d => d == 0#13 || d.getLsbD 12
  | .ldb _ _ _ => false
  | .ldbu _ _ _ => false
  | .ldh _ _ _ => false
  | .ldhu _ _ _ => false
  | .ldw _ _ _ => false
  | .ldwu _ _ _ => false
  | .ldd _ _ _ => false
  | .stb _ _ _ => false
  | .sth _ _ _ => false
  | .stw _ _ _ => false
  | .std _ _ _ => false
  | .vld _ _ _ _ => false
  | .vst _ _ _ _ => false
  | .vlds _ _ _ _ => false
  | .vsts _ _ _ _ => false
  | .vldx _ _ _ _ => false
  | .vstx _ _ _ _ => false
  | .amoSwap _ _ _ => false
  | .amoAdd _ _ _ => false
  | .amoAnd _ _ _ => false
  | .amoOr _ _ _ => false
  | .amoXor _ _ _ => false
  | .amoMin _ _ _ => false
  | .amoMax _ _ _ => false
  | .amoMinu _ _ _ => false
  | .amoMaxu _ _ _ => false
  | .amoFadd _ _ _ => false
  | .cas _ _ _ => false
  | .redAdd _ _ => false
  | .redAnd _ _ => false
  | .redOr _ _ => false
  | .redXor _ _ => false
  | .redMin _ _ => false
  | .redMax _ _ => false
  | .redMinu _ _ => false
  | .redMaxu _ _ => false
  | .redFadd _ _ => false
  | .redfAdd _ _ _ => false
  | .redfAnd _ _ _ => false
  | .redfOr _ _ _ => false
  | .redfXor _ _ _ => false
  | .redfMin _ _ _ => false
  | .redfMax _ _ _ => false
  | .redfMinu _ _ _ => false
  | .redfMaxu _ _ _ => false
  | .redfFadd _ _ _ => false
  | .xfence s t => decide (4#6 < s) || decide (4#6 < t)
  | .waitge _ _ => false
  | .waitne _ _ => false
  | .barinit _ _ => false
  | .bararv _ => false
  | .barwt _ _ => false
  | .copy _ => false
  | .copys _ => false
  | .copyg _ => false
  | .ipref l _ _ => l == 0#6 || decide (3#6 < l)
  | .dpref _ => false
  | .cflush _ => false
  | .cinv _ => false
  | .sbind _ _ _ _ _ _ => false
  | .sbindv _ _ _ _ _ _ => false
  | .sdrain _ _ => false
  | .sstat _ _ _ => false
  | .eos _ _ l => l == 0#3
  | .vadd _ _ _ _ r => rmBad r
  | .vsub _ _ _ _ r => rmBad r
  | .vmul _ _ _ _ r => rmBad r
  | .vdiv _ _ _ _ r => rmBad r
  | .vfma _ _ _ _ _ r => rmBad r
  | .vfms _ _ _ _ _ r => rmBad r
  | .vfnma _ _ _ _ _ r => rmBad r
  | .vsqrt _ _ _ r => rmBad r
  | .vmin _ _ _ _ => false
  | .vmax _ _ _ _ => false
  | .vabs _ _ _ => false
  | .vneg _ _ _ => false
  | .vcpys _ _ _ _ => false
  | .vcmpEq _ _ _ _ => false
  | .vcmpNe _ _ _ _ => false
  | .vcmpLt _ _ _ _ => false
  | .vcmpLe _ _ _ _ => false
  | .vcmpUn _ _ _ _ => false
  | .vcmpOrd _ _ _ _ => false
  | .vclass _ _ _ => false
  | .vcvti _ _ _ r t _ => t == 0#3 || decide (4#3 < t) || rmBad r
  | .vcvtf _ _ _ r t _ => t == 0#3 || decide (4#3 < t) || rmBad r
  | .vrndp _ _ _ r => rmBad r
  | .vredf _ _ _ r => rmBad r
  | .vscan _ _ _ r t => decide (4#3 < t) || (t != 0#3 && r != 0#3) || rmBad r
  | .viadd _ _ _ _ _ => false
  | .visub _ _ _ _ _ => false
  | .vimul _ _ _ _ _ => false
  | .vimulh _ _ _ _ _ => false
  | .vand _ _ _ _ _ => false
  | .vor _ _ _ _ _ => false
  | .vxor _ _ _ _ _ => false
  | .vshl _ _ _ _ _ => false
  | .vshr _ _ _ _ _ => false
  | .vsar _ _ _ _ _ => false
  | .vimin _ _ _ _ _ => false
  | .vimax _ _ _ _ _ => false
  | .vicmpEq _ _ _ _ _ => false
  | .vicmpNe _ _ _ _ _ => false
  | .vicmpLt _ _ _ _ _ => false
  | .vicmpGe _ _ _ _ _ => false
  | .vicmpLtu _ _ _ _ _ => false
  | .vicmpGeu _ _ _ _ _ => false
  | .vsel _ _ _ _ _ => false
  | .vperm _ _ _ _ _ => false
  | .vslide _ _ _ n _ w => w == 3#2 && decide (7#4 < n)
  | .vcomp _ _ _ _ => false
  | .vexpd _ _ _ _ => false
  | .vredx _ _ => false
  | .mand _ _ _ => false
  | .mor _ _ _ => false
  | .mxor _ _ _ => false
  | .mnot _ _ => false
  | .vmovx _ _ _ => false
  | .vmovv _ _ _ => false
  | .vbcast _ _ => false
  | .laadd _ => false
  | .lard _ r => rmBad r
  | .mpopc _ _ => false
  | .mfirst _ _ => false
  | .mform _ _ r _ => rmBad r
  | .mldb _ _ _ => false
  | .mma _ _ _ => false
  | .mzero _ => false
  | .mwin _ _ => false
  | .mdrn _ _ r _ => rmBad r
  | .mstat _ => false
  | .qsel _ _ _ => false
  | .qfilt _ _ _ => false
  | .qpeek _ _ => false
  | .qtry _ _ => false
  | .qend _ l => l == 0#3
  | .qlvl _ _ => false
  | .bqpush _ => false
  | .msg _ _ _ _ _ => false
  | .jmpr _ => false
  | .trap _ => false
  | .hset _ _ _ => false
  | .hmask _ _ => false
  | .spawn _ => false
  | .cancel _ => false
  | .cwait _ => false
  | .cfgld _ => false
  | .cfgdrn _ => false
  | .bankpass _ _ => false
  | .tlbinv _ _ => false
  | .ifence _ _ c => decide (3#6 < c)
  | .toporeq _ _ => false
  | .topogen _ _ => false
  | .preempt _ => false
  | .resume _ => false
  | .fmtset _ c => decide (15#6 < c)
  | .ownset _ _ => false
  | .rankset _ _ => false
  | .crr _ n => !crAssigned n
  | .crw _ n => !crAssigned n
  | .crs _ n => !crAssigned n
  | .crc _ n => !crAssigned n
  | .addImm32 _ _ _ => false
  | .andImm32 _ _ _ => false
  | .orImm32 _ _ _ => false
  | .xorImm32 _ _ _ => false
  | .liImm32 _ _ => false
  | .lddImm32 _ _ _ => false
  | .stdImm32 _ _ _ => false
  | .liw _ _ => false
  | .brl i => i.extractLsb' 0 2 != 0#2
  | .calll i => i.extractLsb' 0 2 != 0#2
  | .addpcLong _ _ => false
  | .route sel mc => swBad sel mc
  | .routen sel mc n => swBad sel mc || n == 0#16
  | .sjmp sel mc _ => swBad sel mc
  | .sbnz sel mc _ _ => swBad sel mc
  | .sbq sel mc _ => swBad sel mc
  | .swaitm sel mc _ l => swBad sel mc || l == 0#3
  | .smcast sel n => swBad sel 1#1 || n == 0#16 || decide (64#16 < n)
  | .fence => false
  | .laz => false
  | .msync => false
  | .ret => false
  | .tret => false
  | .exit => false
  | .idle => false
  | .hret => false
  | .cfgswp => false
  | .snop => false
  | .shalt => false
  | .handlerSelect => false
  | .hsetPendingClear => false
  | .messageArrival => false
  | .msgInject => false
  | .longResultReturn => false
  | .parkCommit => false
  | .loopEndCheck => false
  | .residueArbitration => false
  | .coreOutputDepart => false
  | .recordClose => false
  | .routenCountEnd => false
  | .smcastWindowEnd => false
  | .switchWordFetch => false
  | .switchIllegalRaise => false
  | .switchFetchFaultRaise => false
  | .fetchFill => false
  | .sequentialPrefetch => false
  | .iprefFill => false
  | .walkStart => false
  | .walkComplete => false
  | .rankTableFill => false
  | .placeWindowAccess => false
  | .atomicApply => false
  | .lineRecall => false
  | .barrierArrival => false
  | .redfForward => false
  | .waitWake => false
  | .cisternRequest => false
  | .cisternFill => false
  | .hbmRefresh => false
  | .patrolScrub => false
  | .streamElementFetch => false
  | .streamElementPerform => false
  | .streamBankRetry => false
  | .streamResume => false
  | .copyRequestArrival => false
  | .spoutSector => false
  | .copyCounterAddition => false
  | .copyPieceResume => false
  | .streamPortSourceElement => false
  | .streamPortSinkToken => false
  | .streamPortResume => false
  | .rimOutputToken => false
  | .weirIngress => false
  | .spillRingDrain => false
  | .tileRetire => false
  | .launchSlotEnter => false
  | .dependenceSatisfied => false
  | .headAging => false
  | .lsSelection => false
  | .holdGrant => false
  | .placementSwap => false
  | .followSwap => false
  | .launchComplete => false
  | .scopeEnd => false
  | .cancelKill => false
  | .cutStop => false
  | .cutMarkerArrival => false
  | .tileSave => false
  | .cutComplete => false
  | .resumeComplete => false
  | .fieldReset => false
  | .incTableUpdate => false
  | .fieldResetComplete => false
  | .tileKill => false
  | .scoreDecay => false
  | .quarantine => false
  | .engineCommandStart => false
  | .engineCommandFinish => false
  | .stagingElement => false
  | .drainWritePerform => false
  | .mrValueReady => false
  | .collectiveNodeCombine => false
  | .collectivePairCombine => false
  | .collectiveResend => false
  | .collectiveFleetTimeout => false
  | .collectiveRerun => false
  | .topoAccept => false
  | .topoInstall => false
  | .topoRequestTimeout => false
  | .slotPeriodStart => false
  | .chunkStart => false
  | .chunkDeliver => false
  | .creditReturn => false
  | .rillRead => false
  | .rillWrite => false
  | .watchArm => false
  | .watchFire => false
  | .loadreqSubmit => false
  | .moduleLoad => false
  | .moduleUnload => false
  | .unloadRelease => false
  | .attestationRequest => false
  | .powerOn => false
  | .firmwareUpdate => false
  | .hbmRetrain => false
  | .wavelengthRecalibrate => false
  | .clockStep => false
  | .lifetimeRecordUpdate => false
  | .tileSplitWrite => false
  | .clusterPoolWrite => false
  | .loopCtlWrite => false
  | .replayCtlWrite => false
  | .tokenCfgWrite => false
  | .optSendWrite => false
  | .formatStateChange => false
  | .bankTokenWrite => false
  | .stripeCtlWrite => false
  | .partFieldsWrite => false
  | .windowWrite => false
  | .vfCtlWrite => false
  | .lqCtlWrite => false
  | .csetCtlWrite => false
  | .deviceRegisterWrite => false
  | .matrixFaultResume => false
  | .killedTileErrOutput => false
  | .staticLinkFailure => false

/-- A well-formed instruction: the checks of R216 that its fields decide all pass. -/
def wellFormed (i : Instr) : Bool := !operandBad i && !rawBad i

end Sys2Proof
end

