-- ==== Sys2Proof/Decode.lean ====
section
/-! DEFINITION. The decoder and the encoder: 10_encoding.md (R195 to R220). Decoding is total; an encoding that is not an
instruction is rejected by the class of R216 that its first failed check has. -/
namespace Sys2Proof

/-- Why an encoding is rejected, in the order of R216. The checks of classes 4 and 5 need the instruction's operands, so those
rejections carry it: a stream register's binding (class 4) is tested before a raw field (class 5). -/
inductive Reject where
  /-- Class 1: the major opcode is unallocated. -/
  | major
  /-- Class 2: the minor, sub-op, op or kind is unallocated. -/
  | minor
  /-- Class 3: a field marked 0 is not zero. -/
  | reserved
  /-- Class 4: an operand field holds a reserved or excluded code. -/
  | operand (i : Instr)
  /-- Class 5: a raw field, an immediate or a rounding field is outside its values. -/
  | raw (i : Instr)
  /-- Class 6: an illegal switch word (R220). -/
  | switchWord
  /-- Fewer bytes than the instruction has. -/
  | short
  deriving DecidableEq, Repr

/-- The field of `len` bits from `lo` of a word. -/
def f {n : Nat} (w : BitVec n) (lo len : Nat) : BitVec len := w.extractLsb' lo len

/-- Is a field non-zero? -/
def nz {n : Nat} (w : BitVec n) (lo len : Nat) : Bool := f w lo len != 0#len

/-- Class 3 of R216: reject when a field marked 0 is not zero. -/
def zero {α : Type} (bad : Bool) (r : Except Reject α) : Except Reject α := bif bad then .error .reserved else r

/-- Instructions of major 0x01 (R201 to R214). -/
def decode01 (w : Parcel) : Except Reject (Instr × Bool) :=
  match (f w 0 7).toNat with
  | 0x0 => .ok (.add (f w 19 6) (f w 13 6) (f w 7 6), false)
  | 0x1 => .ok (.sub (f w 19 6) (f w 13 6) (f w 7 6), false)
  | 0x2 => .ok (.mul (f w 19 6) (f w 13 6) (f w 7 6), false)
  | 0x3 => .ok (.mulh (f w 19 6) (f w 13 6) (f w 7 6), false)
  | 0x4 => .ok (.mulhu (f w 19 6) (f w 13 6) (f w 7 6), false)
  | 0x5 => .ok (.div (f w 19 6) (f w 13 6) (f w 7 6), false)
  | 0x6 => .ok (.divu (f w 19 6) (f w 13 6) (f w 7 6), false)
  | 0x7 => .ok (.rem (f w 19 6) (f w 13 6) (f w 7 6), false)
  | 0x8 => .ok (.remu (f w 19 6) (f w 13 6) (f w 7 6), false)
  | 0x10 => .ok (.and (f w 19 6) (f w 13 6) (f w 7 6), false)
  | 0x11 => .ok (.or (f w 19 6) (f w 13 6) (f w 7 6), false)
  | 0x12 => .ok (.xor (f w 19 6) (f w 13 6) (f w 7 6), false)
  | 0x13 => .ok (.andn (f w 19 6) (f w 13 6) (f w 7 6), false)
  | 0x14 => .ok (.orn (f w 19 6) (f w 13 6) (f w 7 6), false)
  | 0x15 => .ok (.xnor (f w 19 6) (f w 13 6) (f w 7 6), false)
  | 0x18 => .ok (.shl (f w 19 6) (f w 13 6) (f w 7 6), false)
  | 0x19 => .ok (.shr (f w 19 6) (f w 13 6) (f w 7 6), false)
  | 0x1a => .ok (.sar (f w 19 6) (f w 13 6) (f w 7 6), false)
  | 0x1b => .ok (.rol (f w 19 6) (f w 13 6) (f w 7 6), false)
  | 0x20 => .ok (.min (f w 19 6) (f w 13 6) (f w 7 6), false)
  | 0x21 => .ok (.max (f w 19 6) (f w 13 6) (f w 7 6), false)
  | 0x22 => .ok (.minu (f w 19 6) (f w 13 6) (f w 7 6), false)
  | 0x23 => .ok (.maxu (f w 19 6) (f w 13 6) (f w 7 6), false)
  | 0x28 => .ok (.seq (f w 19 6) (f w 13 6) (f w 7 6), false)
  | 0x29 => .ok (.sne (f w 19 6) (f w 13 6) (f w 7 6), false)
  | 0x2a => .ok (.slt (f w 19 6) (f w 13 6) (f w 7 6), false)
  | 0x2b => .ok (.sltu (f w 19 6) (f w 13 6) (f w 7 6), false)
  | 0x2c => .ok (.sel (f w 19 6) (f w 13 6) (f w 7 6), false)
  | 0x30 => zero (nz w 7 6) (.ok (.clz (f w 19 6) (f w 13 6), false))
  | 0x31 => zero (nz w 7 6) (.ok (.ctz (f w 19 6) (f w 13 6), false))
  | 0x32 => zero (nz w 7 6) (.ok (.popc (f w 19 6) (f w 13 6), false))
  | 0x33 => zero (nz w 7 6) (.ok (.brev (f w 19 6) (f w 13 6), false))
  | 0x34 => zero (nz w 7 6) (.ok (.bswap (f w 19 6) (f w 13 6), false))
  | _ => .error .minor

/-- Instructions of major 0x02 (R201 to R214). -/
def decode02 (w : Parcel) : Except Reject (Instr × Bool) :=
  .ok (.addImm (f w 19 6) (f w 13 6) (f w 0 13), false)

/-- Instructions of major 0x03 (R201 to R214). -/
def decode03 (w : Parcel) : Except Reject (Instr × Bool) :=
  .ok (.mulImm (f w 19 6) (f w 13 6) (f w 0 13), false)

/-- Instructions of major 0x04 (R201 to R214). -/
def decode04 (w : Parcel) : Except Reject (Instr × Bool) :=
  .ok (.andImm (f w 19 6) (f w 13 6) (f w 0 13), false)

/-- Instructions of major 0x05 (R201 to R214). -/
def decode05 (w : Parcel) : Except Reject (Instr × Bool) :=
  .ok (.orImm (f w 19 6) (f w 13 6) (f w 0 13), false)

/-- Instructions of major 0x06 (R201 to R214). -/
def decode06 (w : Parcel) : Except Reject (Instr × Bool) :=
  .ok (.xorImm (f w 19 6) (f w 13 6) (f w 0 13), false)

/-- Instructions of major 0x07 (R201 to R214). -/
def decode07 (w : Parcel) : Except Reject (Instr × Bool) :=
  .ok (.seqImm (f w 19 6) (f w 13 6) (f w 0 13), false)

/-- Instructions of major 0x08 (R201 to R214). -/
def decode08 (w : Parcel) : Except Reject (Instr × Bool) :=
  .ok (.sneImm (f w 19 6) (f w 13 6) (f w 0 13), false)

/-- Instructions of major 0x09 (R201 to R214). -/
def decode09 (w : Parcel) : Except Reject (Instr × Bool) :=
  .ok (.sltImm (f w 19 6) (f w 13 6) (f w 0 13), false)

/-- Instructions of major 0x0A (R201 to R214). -/
def decode0A (w : Parcel) : Except Reject (Instr × Bool) :=
  .ok (.sltuImm (f w 19 6) (f w 13 6) (f w 0 13), false)

/-- Instructions of major 0x0B (R201 to R214). -/
def decode0B (w : Parcel) : Except Reject (Instr × Bool) :=
  match (f w 6 2).toNat with
  | 0 => zero (nz w 8 5) (.ok (.shlImm (f w 19 6) (f w 13 6) (f w 0 6), false))
  | 1 => zero (nz w 8 5) (.ok (.shrImm (f w 19 6) (f w 13 6) (f w 0 6), false))
  | 2 => zero (nz w 8 5) (.ok (.sarImm (f w 19 6) (f w 13 6) (f w 0 6), false))
  | _ => zero (nz w 8 5) (.ok (.rolImm (f w 19 6) (f w 13 6) (f w 0 6), false))

/-- Instructions of major 0x0C (R201 to R214). -/
def decode0C (w : Parcel) : Except Reject (Instr × Bool) :=
  match (f w 6 1).toNat with
  | 0 => zero (nz w 7 6) (.ok (.sext (f w 19 6) (f w 13 6) (f w 0 6), false))
  | _ => zero (nz w 7 6) (.ok (.zext (f w 19 6) (f w 13 6) (f w 0 6), false))

/-- Instructions of major 0x0D (R201 to R214). -/
def decode0D (w : Parcel) : Except Reject (Instr × Bool) :=
  match (f w 12 1).toNat with
  | 0 => .ok (.extr (f w 19 6) (f w 13 6) (f w 6 6) (f w 0 6), false)
  | _ => .ok (.insr (f w 19 6) (f w 13 6) (f w 6 6) (f w 0 6), false)

/-- Instructions of major 0x0E (R201 to R214). -/
def decode0E (w : Parcel) : Except Reject (Instr × Bool) :=
  .ok (.li (f w 19 6) (f w 0 19), false)

/-- Instructions of major 0x0F (R201 to R214). -/
def decode0F (w : Parcel) : Except Reject (Instr × Bool) :=
  .ok (.addpc (f w 19 6) (f w 0 19), false)

/-- Instructions of major 0x10 (R201 to R214). -/
def decode10 (w : Parcel) : Except Reject (Instr × Bool) :=
  .ok (.beq (f w 19 6) (f w 13 6) (f w 0 13), false)

/-- Instructions of major 0x11 (R201 to R214). -/
def decode11 (w : Parcel) : Except Reject (Instr × Bool) :=
  .ok (.bne (f w 19 6) (f w 13 6) (f w 0 13), false)

/-- Instructions of major 0x12 (R201 to R214). -/
def decode12 (w : Parcel) : Except Reject (Instr × Bool) :=
  .ok (.blt (f w 19 6) (f w 13 6) (f w 0 13), false)

/-- Instructions of major 0x13 (R201 to R214). -/
def decode13 (w : Parcel) : Except Reject (Instr × Bool) :=
  .ok (.bge (f w 19 6) (f w 13 6) (f w 0 13), false)

/-- Instructions of major 0x14 (R201 to R214). -/
def decode14 (w : Parcel) : Except Reject (Instr × Bool) :=
  .ok (.bltu (f w 19 6) (f w 13 6) (f w 0 13), false)

/-- Instructions of major 0x15 (R201 to R214). -/
def decode15 (w : Parcel) : Except Reject (Instr × Bool) :=
  .ok (.bgeu (f w 19 6) (f w 13 6) (f w 0 13), false)

/-- Instructions of major 0x16 (R201 to R214). -/
def decode16 (w : Parcel) : Except Reject (Instr × Bool) :=
  .ok (.bz (f w 19 6) (f w 0 19), false)

/-- Instructions of major 0x17 (R201 to R214). -/
def decode17 (w : Parcel) : Except Reject (Instr × Bool) :=
  .ok (.bnz (f w 19 6) (f w 0 19), false)

/-- Instructions of major 0x18 (R201 to R214). -/
def decode18 (w : Parcel) : Except Reject (Instr × Bool) :=
  .ok (.jmp (f w 0 25), false)

/-- Instructions of major 0x19 (R201 to R214). -/
def decode19 (w : Parcel) : Except Reject (Instr × Bool) :=
  .ok (.call (f w 0 25), false)

/-- Instructions of major 0x1A (R201 to R214). -/
def decode1A (w : Parcel) : Except Reject (Instr × Bool) :=
  zero (nz w 19 6 || nz w 12 1) (.ok (.callr (f w 13 6) (f w 0 12), false))

/-- Instructions of major 0x1B (R201 to R214). -/
def decode1B (w : Parcel) : Except Reject (Instr × Bool) :=
  zero (nz w 13 6) (.ok (.loop (f w 19 6) (f w 0 13), false))

/-- Instructions of major 0x1C (R201 to R214). -/
def decode1C (w : Parcel) : Except Reject (Instr × Bool) :=
  .ok (.ldb (f w 19 6) (f w 13 6) (f w 0 13), false)

/-- Instructions of major 0x1D (R201 to R214). -/
def decode1D (w : Parcel) : Except Reject (Instr × Bool) :=
  .ok (.ldbu (f w 19 6) (f w 13 6) (f w 0 13), false)

/-- Instructions of major 0x1E (R201 to R214). -/
def decode1E (w : Parcel) : Except Reject (Instr × Bool) :=
  .ok (.ldh (f w 19 6) (f w 13 6) (f w 0 13), false)

/-- Instructions of major 0x1F (R201 to R214). -/
def decode1F (w : Parcel) : Except Reject (Instr × Bool) :=
  .ok (.ldhu (f w 19 6) (f w 13 6) (f w 0 13), false)

/-- Instructions of major 0x20 (R201 to R214). -/
def decode20 (w : Parcel) : Except Reject (Instr × Bool) :=
  .ok (.ldw (f w 19 6) (f w 13 6) (f w 0 13), false)

/-- Instructions of major 0x21 (R201 to R214). -/
def decode21 (w : Parcel) : Except Reject (Instr × Bool) :=
  .ok (.ldwu (f w 19 6) (f w 13 6) (f w 0 13), false)

/-- Instructions of major 0x22 (R201 to R214). -/
def decode22 (w : Parcel) : Except Reject (Instr × Bool) :=
  .ok (.ldd (f w 19 6) (f w 13 6) (f w 0 13), false)

/-- Instructions of major 0x23 (R201 to R214). -/
def decode23 (w : Parcel) : Except Reject (Instr × Bool) :=
  .ok (.stb (f w 19 6) (f w 13 6) (f w 0 13), false)

/-- Instructions of major 0x24 (R201 to R214). -/
def decode24 (w : Parcel) : Except Reject (Instr × Bool) :=
  .ok (.sth (f w 19 6) (f w 13 6) (f w 0 13), false)

/-- Instructions of major 0x25 (R201 to R214). -/
def decode25 (w : Parcel) : Except Reject (Instr × Bool) :=
  .ok (.stw (f w 19 6) (f w 13 6) (f w 0 13), false)

/-- Instructions of major 0x26 (R201 to R214). -/
def decode26 (w : Parcel) : Except Reject (Instr × Bool) :=
  .ok (.std (f w 19 6) (f w 13 6) (f w 0 13), false)

/-- Instructions of major 0x27 (R201 to R214). -/
def decode27 (w : Parcel) : Except Reject (Instr × Bool) :=
  match (f w 8 3).toNat with
  | 0x0 => .ok (.vld (f w 20 5) (f w 14 6) (f w 11 3) (f w 0 8), false)
  | 0x1 => .ok (.vst (f w 20 5) (f w 14 6) (f w 11 3) (f w 0 8), false)
  | 0x2 => zero (nz w 0 2) (.ok (.vlds (f w 20 5) (f w 14 6) (f w 11 3) (f w 2 6), false))
  | 0x3 => zero (nz w 0 2) (.ok (.vsts (f w 20 5) (f w 14 6) (f w 11 3) (f w 2 6), false))
  | 0x4 => zero (nz w 0 3) (.ok (.vldx (f w 20 5) (f w 14 6) (f w 11 3) (f w 3 5), false))
  | 0x5 => zero (nz w 0 3) (.ok (.vstx (f w 20 5) (f w 14 6) (f w 11 3) (f w 3 5), false))
  | _ => .error .minor

/-- Instructions of major 0x28 (R201 to R214). -/
def decode28 (w : Parcel) : Except Reject (Instr × Bool) :=
  match (f w 0 7).toNat with
  | 0x0 => .ok (.amoSwap (f w 19 6) (f w 13 6) (f w 7 6), false)
  | 0x1 => .ok (.amoAdd (f w 19 6) (f w 13 6) (f w 7 6), false)
  | 0x2 => .ok (.amoAnd (f w 19 6) (f w 13 6) (f w 7 6), false)
  | 0x3 => .ok (.amoOr (f w 19 6) (f w 13 6) (f w 7 6), false)
  | 0x4 => .ok (.amoXor (f w 19 6) (f w 13 6) (f w 7 6), false)
  | 0x5 => .ok (.amoMin (f w 19 6) (f w 13 6) (f w 7 6), false)
  | 0x6 => .ok (.amoMax (f w 19 6) (f w 13 6) (f w 7 6), false)
  | 0x7 => .ok (.amoMinu (f w 19 6) (f w 13 6) (f w 7 6), false)
  | 0x8 => .ok (.amoMaxu (f w 19 6) (f w 13 6) (f w 7 6), false)
  | 0x9 => .ok (.amoFadd (f w 19 6) (f w 13 6) (f w 7 6), false)
  | 0x10 => .ok (.cas (f w 19 6) (f w 13 6) (f w 7 6), false)
  | 0x21 => zero (nz w 19 6) (.ok (.redAdd (f w 13 6) (f w 7 6), false))
  | 0x22 => zero (nz w 19 6) (.ok (.redAnd (f w 13 6) (f w 7 6), false))
  | 0x23 => zero (nz w 19 6) (.ok (.redOr (f w 13 6) (f w 7 6), false))
  | 0x24 => zero (nz w 19 6) (.ok (.redXor (f w 13 6) (f w 7 6), false))
  | 0x25 => zero (nz w 19 6) (.ok (.redMin (f w 13 6) (f w 7 6), false))
  | 0x26 => zero (nz w 19 6) (.ok (.redMax (f w 13 6) (f w 7 6), false))
  | 0x27 => zero (nz w 19 6) (.ok (.redMinu (f w 13 6) (f w 7 6), false))
  | 0x28 => zero (nz w 19 6) (.ok (.redMaxu (f w 13 6) (f w 7 6), false))
  | 0x29 => zero (nz w 19 6) (.ok (.redFadd (f w 13 6) (f w 7 6), false))
  | 0x31 => .ok (.redfAdd (f w 19 6) (f w 13 6) (f w 7 6), false)
  | 0x32 => .ok (.redfAnd (f w 19 6) (f w 13 6) (f w 7 6), false)
  | 0x33 => .ok (.redfOr (f w 19 6) (f w 13 6) (f w 7 6), false)
  | 0x34 => .ok (.redfXor (f w 19 6) (f w 13 6) (f w 7 6), false)
  | 0x35 => .ok (.redfMin (f w 19 6) (f w 13 6) (f w 7 6), false)
  | 0x36 => .ok (.redfMax (f w 19 6) (f w 13 6) (f w 7 6), false)
  | 0x37 => .ok (.redfMinu (f w 19 6) (f w 13 6) (f w 7 6), false)
  | 0x38 => .ok (.redfMaxu (f w 19 6) (f w 13 6) (f w 7 6), false)
  | 0x39 => .ok (.redfFadd (f w 19 6) (f w 13 6) (f w 7 6), false)
  | _ => .error .minor

/-- Instructions of major 0x29 (R201 to R214). -/
def decode29 (w : Parcel) : Except Reject (Instr × Bool) :=
  match (f w 0 7).toNat with
  | 0x0 => zero (nz w 7 18) (.ok (.fence, false))
  | 0x1 => zero (nz w 19 6) (.ok (.xfence (f w 13 6) (f w 7 6), false))
  | 0x2 => zero (nz w 19 6) (.ok (.waitge (f w 13 6) (f w 7 6), false))
  | 0x3 => zero (nz w 19 6) (.ok (.waitne (f w 13 6) (f w 7 6), false))
  | 0x4 => zero (nz w 19 6) (.ok (.barinit (f w 13 6) (f w 7 6), false))
  | 0x5 => zero (nz w 19 6 || nz w 7 6) (.ok (.bararv (f w 13 6), false))
  | 0x6 => zero (nz w 19 6) (.ok (.barwt (f w 13 6) (f w 7 6), false))
  | _ => .error .minor

/-- Instructions of major 0x2A (R201 to R214). -/
def decode2A (w : Parcel) : Except Reject (Instr × Bool) :=
  match (f w 0 7).toNat with
  | 0x0 => zero (nz w 19 6 || nz w 7 6) (.ok (.copy (f w 13 6), false))
  | 0x1 => zero (nz w 19 6 || nz w 7 6) (.ok (.copys (f w 13 6), false))
  | 0x2 => zero (nz w 19 6 || nz w 7 6) (.ok (.copyg (f w 13 6), false))
  | 0x8 => .ok (.ipref (f w 19 6) (f w 13 6) (f w 7 6), false)
  | 0x9 => zero (nz w 19 6 || nz w 7 6) (.ok (.dpref (f w 13 6), false))
  | 0xa => zero (nz w 19 6 || nz w 7 6) (.ok (.cflush (f w 13 6), false))
  | 0xb => zero (nz w 19 6 || nz w 7 6) (.ok (.cinv (f w 13 6), false))
  | _ => .error .minor

/-- Instructions of major 0x2B (R201 to R214). -/
def decode2B (w : Parcel) : Except Reject (Instr × Bool) :=
  match (f w 0 2).toNat with
  | 0 => bif f w 24 1 == 0#1 then zero (nz w 2 3 || (!nz w 6 1 && nz w 7 4)) (.ok (.sbind (f w 21 3) (f w 15 6) (f w 11 4) (f w 7 4) (f w 6 1) (f w 5 1), false)) else zero (nz w 2 3 || (!nz w 6 1 && nz w 7 4)) (.ok (.sbindv (f w 21 3) (f w 15 6) (f w 11 4) (f w 7 4) (f w 6 1) (f w 5 1), false))
  | 1 => zero (nz w 2 19) (.ok (.sdrain (f w 24 1) (f w 21 3), false))
  | 2 => zero (nz w 2 13) (.ok (.sstat (f w 24 1) (f w 21 3) (f w 15 6), false))
  | _ => zero (nz w 5 16) (.ok (.eos (f w 24 1) (f w 21 3) (f w 2 3), false))

/-- Instructions of major 0x2D (R201 to R214). -/
def decode2D (w : Parcel) : Except Reject (Instr × Bool) :=
  match (f w 2 5).toNat with
  | 0x0 => .ok (.viadd (f w 20 5) (f w 15 5) (f w 10 5) (f w 7 3) (f w 0 2), false)
  | 0x1 => .ok (.visub (f w 20 5) (f w 15 5) (f w 10 5) (f w 7 3) (f w 0 2), false)
  | 0x2 => .ok (.vimul (f w 20 5) (f w 15 5) (f w 10 5) (f w 7 3) (f w 0 2), false)
  | 0x3 => .ok (.vimulh (f w 20 5) (f w 15 5) (f w 10 5) (f w 7 3) (f w 0 2), false)
  | 0x4 => .ok (.vand (f w 20 5) (f w 15 5) (f w 10 5) (f w 7 3) (f w 0 2), false)
  | 0x5 => .ok (.vor (f w 20 5) (f w 15 5) (f w 10 5) (f w 7 3) (f w 0 2), false)
  | 0x6 => .ok (.vxor (f w 20 5) (f w 15 5) (f w 10 5) (f w 7 3) (f w 0 2), false)
  | 0x7 => .ok (.vshl (f w 20 5) (f w 15 5) (f w 10 5) (f w 7 3) (f w 0 2), false)
  | 0x8 => .ok (.vshr (f w 20 5) (f w 15 5) (f w 10 5) (f w 7 3) (f w 0 2), false)
  | 0x9 => .ok (.vsar (f w 20 5) (f w 15 5) (f w 10 5) (f w 7 3) (f w 0 2), false)
  | 0xa => .ok (.vimin (f w 20 5) (f w 15 5) (f w 10 5) (f w 7 3) (f w 0 2), false)
  | 0xb => .ok (.vimax (f w 20 5) (f w 15 5) (f w 10 5) (f w 7 3) (f w 0 2), false)
  | 0xc => .ok (.vicmpEq (f w 20 5) (f w 15 5) (f w 10 5) (f w 7 3) (f w 0 2), false)
  | 0xd => .ok (.vicmpNe (f w 20 5) (f w 15 5) (f w 10 5) (f w 7 3) (f w 0 2), false)
  | 0xe => .ok (.vicmpLt (f w 20 5) (f w 15 5) (f w 10 5) (f w 7 3) (f w 0 2), false)
  | 0xf => .ok (.vicmpGe (f w 20 5) (f w 15 5) (f w 10 5) (f w 7 3) (f w 0 2), false)
  | 0x10 => .ok (.vicmpLtu (f w 20 5) (f w 15 5) (f w 10 5) (f w 7 3) (f w 0 2), false)
  | 0x11 => .ok (.vicmpGeu (f w 20 5) (f w 15 5) (f w 10 5) (f w 7 3) (f w 0 2), false)
  | _ => .error .minor

/-- Instructions of major 0x2E (R201 to R214). -/
def decode2E (w : Parcel) : Except Reject (Instr × Bool) :=
  match (f w 2 5).toNat with
  | 0x0 => .ok (.vsel (f w 20 5) (f w 15 5) (f w 10 5) (f w 7 3) (f w 0 2), false)
  | 0x1 => .ok (.vperm (f w 20 5) (f w 15 5) (f w 10 5) (f w 7 3) (f w 0 2), false)
  | 0x2 => .ok (.vslide (f w 20 5) (f w 15 5) (f w 14 1) (f w 10 4) (f w 7 3) (f w 0 2), false)
  | 0x3 => zero (nz w 10 5) (.ok (.vcomp (f w 20 5) (f w 15 5) (f w 7 3) (f w 0 2), false))
  | 0x4 => zero (nz w 10 5) (.ok (.vexpd (f w 20 5) (f w 15 5) (f w 7 3) (f w 0 2), false))
  | 0x5 => zero (nz w 20 5 || nz w 10 5) (.ok (.vredx (f w 15 5) (f w 7 3), (f w 0 2 != 3#2)))
  | 0x6 => zero (nz w 7 3) (.ok (.mand (f w 20 5) (f w 15 5) (f w 10 5), nz w 0 2))
  | 0x7 => zero (nz w 7 3) (.ok (.mor (f w 20 5) (f w 15 5) (f w 10 5), nz w 0 2))
  | 0x8 => zero (nz w 7 3) (.ok (.mxor (f w 20 5) (f w 15 5) (f w 10 5), nz w 0 2))
  | 0x9 => zero (nz w 7 8) (.ok (.mnot (f w 20 5) (f w 15 5), nz w 0 2))
  | _ => .error .minor

/-- Instructions of major 0x2F (R201 to R214). -/
def decode2F (w : Parcel) : Except Reject (Instr × Bool) :=
  match (f w 0 7).toNat with
  | 0x0 => zero (nz w 7 1) (.ok (.vmovx (f w 19 6) (f w 14 5) (f w 11 3), nz w 8 3))
  | 0x1 => zero (nz w 7 1) (.ok (.vmovv (f w 19 6) (f w 14 5) (f w 11 3), nz w 8 3))
  | 0x2 => zero (nz w 11 3 || nz w 7 1) (.ok (.vbcast (f w 19 6) (f w 14 5), nz w 8 3))
  | 0x3 => zero (nz w 11 14 || nz w 7 1) (.ok (.laz, nz w 8 3))
  | 0x4 => zero (nz w 11 8 || nz w 7 1) (.ok (.laadd (f w 19 6), nz w 8 3))
  | 0x5 => zero (nz w 11 8 || nz w 7 1) (.ok (.lard (f w 19 6) (f w 8 3), false))
  | 0x6 => zero (nz w 11 3 || nz w 7 1) (.ok (.mpopc (f w 19 6) (f w 14 5), nz w 8 3))
  | 0x7 => zero (nz w 11 3 || nz w 7 1) (.ok (.mfirst (f w 19 6) (f w 14 5), nz w 8 3))
  | _ => .error .minor

/-- Instructions of major 0x30 (R201 to R214). -/
def decode30 (w : Parcel) : Except Reject (Instr × Bool) :=
  match (f w 0 7).toNat with
  | 0x0 => .ok (.mform (f w 19 6) (f w 13 6) (f w 10 3) (f w 7 3), false)
  | 0x1 => .ok (.mldb (f w 19 6) (f w 13 6) (f w 7 3), nz w 10 3)
  | 0x2 => .ok (.mma (f w 19 6) (f w 13 6) (f w 7 3), nz w 10 3)
  | 0x3 => zero (nz w 13 12) (.ok (.mzero (f w 7 3), nz w 10 3))
  | 0x4 => zero (nz w 13 6) (.ok (.mwin (f w 19 6) (f w 7 3), nz w 10 3))
  | 0x5 => .ok (.mdrn (f w 19 6) (f w 13 6) (f w 10 3) (f w 7 3), false)
  | 0x6 => zero (nz w 13 12 || nz w 7 3) (.ok (.msync, nz w 10 3))
  | 0x7 => zero (nz w 13 6 || nz w 7 3) (.ok (.mstat (f w 19 6), nz w 10 3))
  | _ => .error .minor

/-- Instructions of major 0x31 (R201 to R214). -/
def decode31 (w : Parcel) : Except Reject (Instr × Bool) :=
  match (f w 0 4).toNat with
  | 0x0 => zero (nz w 4 3) (.ok (.qsel (f w 19 6) (f w 13 6) (f w 7 6), false))
  | 0x1 => zero (nz w 4 3) (.ok (.qfilt (f w 19 6) (f w 13 6) (f w 7 6), false))
  | 0x2 => zero (nz w 4 9) (.ok (.qpeek (f w 19 6) (f w 13 6), false))
  | 0x3 => zero (nz w 4 9) (.ok (.qtry (f w 19 6) (f w 13 6), false))
  | 0x4 => zero (nz w 7 12) (.ok (.qend (f w 19 6) (f w 4 3), false))
  | 0x5 => zero (nz w 4 9) (.ok (.qlvl (f w 19 6) (f w 13 6), false))
  | 0x6 => zero (nz w 19 6 || nz w 4 9) (.ok (.bqpush (f w 13 6), false))
  | _ => .error .minor

/-- Instructions of major 0x32 (R201 to R214). -/
def decode32 (w : Parcel) : Except Reject (Instr × Bool) :=
  .ok (.msg (f w 19 6) (f w 13 6) (f w 7 6) (f w 6 1) (f w 0 6), false)

/-- Instructions of major 0x33 (R201 to R214). -/
def decode33 (w : Parcel) : Except Reject (Instr × Bool) :=
  match (f w 0 7).toNat with
  | 0x0 => zero (nz w 7 12) (.ok (.jmpr (f w 19 6), false))
  | 0x1 => zero (nz w 7 18) (.ok (.ret, false))
  | 0x2 => zero (nz w 13 12) (.ok (.trap (f w 7 6), false))
  | 0x3 => zero (nz w 7 18) (.ok (.tret, false))
  | 0x4 => zero (nz w 7 18) (.ok (.exit, false))
  | 0x5 => zero (nz w 7 18) (.ok (.idle, false))
  | 0x8 => zero (nz w 7 18) (.ok (.hret, false))
  | 0x9 => .ok (.hset (f w 19 6) (f w 13 6) (f w 7 6), false)
  | 0xa => zero (nz w 7 6) (.ok (.hmask (f w 19 6) (f w 13 6), false))
  | 0x10 => zero (nz w 7 12) (.ok (.spawn (f w 19 6), false))
  | 0x11 => zero (nz w 7 12) (.ok (.cancel (f w 19 6), false))
  | 0x12 => zero (nz w 7 12) (.ok (.cwait (f w 19 6), false))
  | 0x18 => zero (nz w 7 12) (.ok (.cfgld (f w 19 6), false))
  | 0x19 => zero (nz w 7 18) (.ok (.cfgswp, false))
  | 0x1a => zero (nz w 7 12) (.ok (.cfgdrn (f w 19 6), false))
  | 0x1b => zero (nz w 7 6) (.ok (.bankpass (f w 19 6) (f w 13 6), false))
  | 0x20 => zero (nz w 7 6) (.ok (.tlbinv (f w 19 6) (f w 13 6), false))
  | 0x21 => .ok (.ifence (f w 19 6) (f w 13 6) (f w 7 6), false)
  | 0x28 => zero (nz w 7 6) (.ok (.toporeq (f w 19 6) (f w 13 6), false))
  | 0x29 => zero (nz w 7 6) (.ok (.topogen (f w 19 6) (f w 13 6), false))
  | 0x30 => zero (nz w 7 12) (.ok (.preempt (f w 19 6), false))
  | 0x31 => zero (nz w 7 12) (.ok (.resume (f w 19 6), false))
  | 0x32 => zero (nz w 19 6) (.ok (.fmtset (f w 13 6) (f w 7 6), false))
  | 0x33 => zero (nz w 7 6) (.ok (.ownset (f w 19 6) (f w 13 6), false))
  | 0x34 => zero (nz w 7 6) (.ok (.rankset (f w 19 6) (f w 13 6), false))
  | _ => .error .minor

/-- Instructions of major 0x34 (R201 to R214). -/
def decode34 (w : Parcel) : Except Reject (Instr × Bool) :=
  zero (nz w 12 7) (.ok (.crr (f w 19 6) (f w 0 12), false))

/-- Instructions of major 0x35 (R201 to R214). -/
def decode35 (w : Parcel) : Except Reject (Instr × Bool) :=
  zero (nz w 12 1) (match (f w 19 6).toNat with
  | 0 => .ok (.crw (f w 13 6) (f w 0 12), false)
  | 1 => .ok (.crs (f w 13 6) (f w 0 12), false)
  | 2 => .ok (.crc (f w 13 6) (f w 0 12), false)
  | _ => .ok (.crw (f w 13 6) (f w 0 12), true))

/-- The condition of a VCMP (R209): fn 6 to 31 are outside the stated values. -/
def decodeVcmp (w x : Parcel) : Except Reject (Instr × Bool) :=
  match (f x 16 5).toNat with
  | 0 => zero (nz x 0 16 || nz x 27 5) (.ok (.vcmpEq (f w 20 5) (f w 15 5) (f w 10 5) (f w 7 3), nz x 24 3 || nz x 21 3))
  | 1 => zero (nz x 0 16 || nz x 27 5) (.ok (.vcmpNe (f w 20 5) (f w 15 5) (f w 10 5) (f w 7 3), nz x 24 3 || nz x 21 3))
  | 2 => zero (nz x 0 16 || nz x 27 5) (.ok (.vcmpLt (f w 20 5) (f w 15 5) (f w 10 5) (f w 7 3), nz x 24 3 || nz x 21 3))
  | 3 => zero (nz x 0 16 || nz x 27 5) (.ok (.vcmpLe (f w 20 5) (f w 15 5) (f w 10 5) (f w 7 3), nz x 24 3 || nz x 21 3))
  | 4 => zero (nz x 0 16 || nz x 27 5) (.ok (.vcmpUn (f w 20 5) (f w 15 5) (f w 10 5) (f w 7 3), nz x 24 3 || nz x 21 3))
  | 5 => zero (nz x 0 16 || nz x 27 5) (.ok (.vcmpOrd (f w 20 5) (f w 15 5) (f w 10 5) (f w 7 3), nz x 24 3 || nz x 21 3))
  | _ => zero (nz x 0 16 || nz x 27 5) (.ok (.vcmpEq (f w 20 5) (f w 15 5) (f w 10 5) (f w 7 3), true))

/-- Instructions of major 0x2C: `x` is the second parcel (R200, R209). -/
def decode2C (w x : Parcel) : Except Reject (Instr × Bool) :=
  match (f w 0 7).toNat with
  | 0x0 => zero (nz x 0 16 || nz x 27 5 || nz x 16 5) (.ok (.vadd (f w 20 5) (f w 15 5) (f w 10 5) (f w 7 3) (f x 24 3), nz x 21 3))
  | 0x1 => zero (nz x 0 16 || nz x 27 5 || nz x 16 5) (.ok (.vsub (f w 20 5) (f w 15 5) (f w 10 5) (f w 7 3) (f x 24 3), nz x 21 3))
  | 0x2 => zero (nz x 0 16 || nz x 27 5 || nz x 16 5) (.ok (.vmul (f w 20 5) (f w 15 5) (f w 10 5) (f w 7 3) (f x 24 3), nz x 21 3))
  | 0x3 => zero (nz x 0 16 || nz x 27 5 || nz x 16 5) (.ok (.vdiv (f w 20 5) (f w 15 5) (f w 10 5) (f w 7 3) (f x 24 3), nz x 21 3))
  | 0x4 => zero (nz x 0 16 || nz x 16 5) (.ok (.vfma (f w 20 5) (f w 15 5) (f w 10 5) (f x 27 5) (f w 7 3) (f x 24 3), nz x 21 3))
  | 0x5 => zero (nz x 0 16 || nz x 16 5) (.ok (.vfms (f w 20 5) (f w 15 5) (f w 10 5) (f x 27 5) (f w 7 3) (f x 24 3), nz x 21 3))
  | 0x6 => zero (nz x 0 16 || nz x 16 5) (.ok (.vfnma (f w 20 5) (f w 15 5) (f w 10 5) (f x 27 5) (f w 7 3) (f x 24 3), nz x 21 3))
  | 0x7 => zero (nz x 0 16 || nz w 10 5 || nz x 27 5 || nz x 16 5) (.ok (.vsqrt (f w 20 5) (f w 15 5) (f w 7 3) (f x 24 3), nz x 21 3))
  | 0x8 => zero (nz x 0 16 || nz x 27 5 || nz x 16 5) (.ok (.vmin (f w 20 5) (f w 15 5) (f w 10 5) (f w 7 3), nz x 24 3 || nz x 21 3))
  | 0x9 => zero (nz x 0 16 || nz x 27 5 || nz x 16 5) (.ok (.vmax (f w 20 5) (f w 15 5) (f w 10 5) (f w 7 3), nz x 24 3 || nz x 21 3))
  | 0xa => zero (nz x 0 16 || nz w 10 5 || nz x 27 5 || nz x 16 5) (.ok (.vabs (f w 20 5) (f w 15 5) (f w 7 3), nz x 24 3 || nz x 21 3))
  | 0xb => zero (nz x 0 16 || nz w 10 5 || nz x 27 5 || nz x 16 5) (.ok (.vneg (f w 20 5) (f w 15 5) (f w 7 3), nz x 24 3 || nz x 21 3))
  | 0xc => zero (nz x 0 16 || nz x 27 5 || nz x 16 5) (.ok (.vcpys (f w 20 5) (f w 15 5) (f w 10 5) (f w 7 3), nz x 24 3 || nz x 21 3))
  | 0xd => decodeVcmp w x
  | 0xe => zero (nz x 0 16 || nz w 10 5 || nz x 27 5 || nz x 16 5) (.ok (.vclass (f w 20 5) (f w 15 5) (f w 7 3), nz x 24 3 || nz x 21 3))
  | 0xf => zero (nz x 0 16 || nz w 10 5 || nz x 27 5) (.ok (.vcvti (f w 20 5) (f w 15 5) (f w 7 3) (f x 24 3) (f x 21 3) (f x 16 1), nz x 17 4))
  | 0x10 => zero (nz x 0 16 || nz w 10 5 || nz x 27 5) (.ok (.vcvtf (f w 20 5) (f w 15 5) (f w 7 3) (f x 24 3) (f x 21 3) (f x 16 1), nz x 17 4))
  | 0x11 => zero (nz x 0 16 || nz w 10 5 || nz x 27 5 || nz x 16 5) (.ok (.vrndp (f w 20 5) (f w 15 5) (f w 7 3) (f x 24 3), nz x 21 3))
  | 0x12 => zero (nz x 0 16 || nz w 10 5 || nz x 27 5 || nz x 16 5) (.ok (.vredf (f w 20 5) (f w 15 5) (f w 7 3) (f x 24 3), nz x 21 3))
  | 0x13 => zero (nz x 0 16 || nz w 10 5 || nz x 27 5 || nz x 16 5) (.ok (.vscan (f w 20 5) (f w 15 5) (f w 7 3) (f x 24 3) (f x 21 3), false))
  | _ => .error .minor

/-- Long forms of major 0x3E (R215). -/
def decode3E (w : Parcel) (x : Parcel) : Except Reject (Instr × Bool) :=
  match (f w 0 7).toNat with
  | 0 => zero (nz w 7 6) (.ok (.addImm32 (f w 19 6) (f w 13 6) x, false))
  | 1 => zero (nz w 7 6) (.ok (.andImm32 (f w 19 6) (f w 13 6) x, false))
  | 2 => zero (nz w 7 6) (.ok (.orImm32 (f w 19 6) (f w 13 6) x, false))
  | 3 => zero (nz w 7 6) (.ok (.xorImm32 (f w 19 6) (f w 13 6) x, false))
  | 4 => zero (nz w 7 6 || nz w 13 6) (.ok (.liImm32 (f w 19 6) x, false))
  | 5 => zero (nz w 7 6) (.ok (.lddImm32 (f w 19 6) (f w 13 6) x, false))
  | 6 => zero (nz w 7 6) (.ok (.stdImm32 (f w 19 6) (f w 13 6) x, false))
  | _ => .error .minor

/-- Long forms of major 0x3F (R215). -/
def decode3F (w : Parcel) (x y : Parcel) : Except Reject (Instr × Bool) :=
  match (f w 0 7).toNat with
  | 0 => zero (nz w 7 6 || nz w 13 6) (.ok (.liw (f w 19 6) (y ++ x), false))
  | 1 => zero (nz w 7 6 || nz w 13 6 || nz w 19 6) (.ok (.brl (y ++ x), false))
  | 2 => zero (nz w 7 6 || nz w 13 6 || nz w 19 6) (.ok (.calll (y ++ x), false))
  | 3 => zero (nz w 7 6 || nz w 13 6) (.ok (.addpcLong (f w 19 6) (y ++ x), false))
  | _ => .error .minor

/-- The number of parcels of an instruction, by its major opcode alone (R195). -/
def lengthOf (w : Parcel) : Nat :=
  match (f w 25 6).toNat with
  | 0x2c => 2
  | 0x3e => 2
  | 0x3f => 3
  | _ => 1

/-- Classes 1 to 3 of R216, and the instruction with the remaining class 5 checks on bits that no field of it holds. -/
def decodeFields (w x y : Parcel) : Except Reject (Instr × Bool) :=
  match (f w 25 6).toNat with
  | 0x1 => decode01 w
  | 0x2 => decode02 w
  | 0x3 => decode03 w
  | 0x4 => decode04 w
  | 0x5 => decode05 w
  | 0x6 => decode06 w
  | 0x7 => decode07 w
  | 0x8 => decode08 w
  | 0x9 => decode09 w
  | 0xa => decode0A w
  | 0xb => decode0B w
  | 0xc => decode0C w
  | 0xd => decode0D w
  | 0xe => decode0E w
  | 0xf => decode0F w
  | 0x10 => decode10 w
  | 0x11 => decode11 w
  | 0x12 => decode12 w
  | 0x13 => decode13 w
  | 0x14 => decode14 w
  | 0x15 => decode15 w
  | 0x16 => decode16 w
  | 0x17 => decode17 w
  | 0x18 => decode18 w
  | 0x19 => decode19 w
  | 0x1a => decode1A w
  | 0x1b => decode1B w
  | 0x1c => decode1C w
  | 0x1d => decode1D w
  | 0x1e => decode1E w
  | 0x1f => decode1F w
  | 0x20 => decode20 w
  | 0x21 => decode21 w
  | 0x22 => decode22 w
  | 0x23 => decode23 w
  | 0x24 => decode24 w
  | 0x25 => decode25 w
  | 0x26 => decode26 w
  | 0x27 => decode27 w
  | 0x28 => decode28 w
  | 0x29 => decode29 w
  | 0x2a => decode2A w
  | 0x2b => decode2B w
  | 0x2c => decode2C w x
  | 0x2d => decode2D w
  | 0x2e => decode2E w
  | 0x2f => decode2F w
  | 0x30 => decode30 w
  | 0x31 => decode31 w
  | 0x32 => decode32 w
  | 0x33 => decode33 w
  | 0x34 => decode34 w
  | 0x35 => decode35 w
  | 0x3e => decode3E w x
  | 0x3f => decode3F w x y
  | _ => .error .major
/-- The park bit P of a first parcel (R195). -/
def parkBit (w : Parcel) : Bool := f w 31 1 == 1#1

/-- The checks of R216 that the encoding alone decides. -/
def decode (w x y : Parcel) : Except Reject Instr :=
  match decodeFields w x y with
  | .error e => .error e
  | .ok (i, bad) => bif operandBad i then .error (.operand i) else bif bad || rawBad i then .error (.raw i) else .ok i

/-- The switch word's instruction (R218 to R220): every check that does not depend on the program's length or the tile. -/
def decodeSwitch (w : BitVec 64) : Except Reject Instr :=
  let sel : BitVec 30 := f w 0 30
  let cnt : BitVec 16 := f w 34 16
  let mc : BitVec 1 := f w 50 1
  let arg : BitVec 3 := f w 51 3
  let i? : Option Instr :=
    match (f w 30 4).toNat with
    | 0 => bif nz w 0 30 || nz w 34 20 then none else some .snop
    | 1 => bif nz w 34 16 || nz w 51 3 then none else some (.route sel mc)
    | 2 => bif nz w 51 3 then none else some (.routen sel mc cnt)
    | 3 => bif nz w 51 3 then none else some (.sjmp sel mc cnt)
    | 4 => some (.sbnz sel mc cnt arg)
    | 5 => bif nz w 51 3 then none else some (.sbq sel mc cnt)
    | 6 => bif nz w 37 13 then none else some (.swaitm sel mc (f w 34 3) arg)
    | 7 => bif nz w 51 3 || mc == 0#1 then none else some (.smcast sel cnt)
    | 8 => bif nz w 0 30 || nz w 34 20 then none else some .shalt
    | _ => none
  match i? with
  | none => .error .switchWord
  | some i => bif nz w 54 10 || !wellFormed i then .error .switchWord else .ok i

/-- A parcel from little-endian bytes (R195). -/
def parcelOf : List Byte → Option (Parcel × List Byte)
  | b0 :: b1 :: b2 :: b3 :: r => some (b3 ++ b2 ++ b1 ++ b0, r)
  | _ => none

/-- The instruction at the start of any bytes, and how many bytes it has (R195). -/
def decodeBytes (bs : List Byte) : Except Reject (Instr × Nat) :=
  match parcelOf bs with
  | none => .error .short
  | some (w, r) =>
    let answer := fun (x y : Parcel) => match decode w x y with
      | .ok i => .ok (i, 4 * lengthOf w)
      | .error e => .error e
    match lengthOf w, parcelOf r with
    | 1, _ => answer 0#32 0#32
    | 2, some (x, _) => answer x 0#32
    | _, some (x, r2) => (match parcelOf r2 with
      | some (y, _) => answer x y
      | none => .error .short)
    | _, none => .error .short

/-- A doubleword as two parcels, low half first (R3). -/
def halves (w : BitVec 64) : List Parcel := [f w 0 32, f w 32 32]

/-- The parcels of an instruction with its park bit (R195 to R215), or the two halves of a switch word (R218). A hardware step has none. -/
def encode (p : BitVec 1) (i : Instr) : List Parcel :=
  match i with
  | .add d a b => [p ++ 1#6 ++ d ++ a ++ b ++ 0#7]
  | .sub d a b => [p ++ 1#6 ++ d ++ a ++ b ++ 1#7]
  | .mul d a b => [p ++ 1#6 ++ d ++ a ++ b ++ 2#7]
  | .mulh d a b => [p ++ 1#6 ++ d ++ a ++ b ++ 3#7]
  | .mulhu d a b => [p ++ 1#6 ++ d ++ a ++ b ++ 4#7]
  | .div d a b => [p ++ 1#6 ++ d ++ a ++ b ++ 5#7]
  | .divu d a b => [p ++ 1#6 ++ d ++ a ++ b ++ 6#7]
  | .rem d a b => [p ++ 1#6 ++ d ++ a ++ b ++ 7#7]
  | .remu d a b => [p ++ 1#6 ++ d ++ a ++ b ++ 8#7]
  | .and d a b => [p ++ 1#6 ++ d ++ a ++ b ++ 16#7]
  | .or d a b => [p ++ 1#6 ++ d ++ a ++ b ++ 17#7]
  | .xor d a b => [p ++ 1#6 ++ d ++ a ++ b ++ 18#7]
  | .andn d a b => [p ++ 1#6 ++ d ++ a ++ b ++ 19#7]
  | .orn d a b => [p ++ 1#6 ++ d ++ a ++ b ++ 20#7]
  | .xnor d a b => [p ++ 1#6 ++ d ++ a ++ b ++ 21#7]
  | .shl d a b => [p ++ 1#6 ++ d ++ a ++ b ++ 24#7]
  | .shr d a b => [p ++ 1#6 ++ d ++ a ++ b ++ 25#7]
  | .sar d a b => [p ++ 1#6 ++ d ++ a ++ b ++ 26#7]
  | .rol d a b => [p ++ 1#6 ++ d ++ a ++ b ++ 27#7]
  | .min d a b => [p ++ 1#6 ++ d ++ a ++ b ++ 32#7]
  | .max d a b => [p ++ 1#6 ++ d ++ a ++ b ++ 33#7]
  | .minu d a b => [p ++ 1#6 ++ d ++ a ++ b ++ 34#7]
  | .maxu d a b => [p ++ 1#6 ++ d ++ a ++ b ++ 35#7]
  | .seq d a b => [p ++ 1#6 ++ d ++ a ++ b ++ 40#7]
  | .sne d a b => [p ++ 1#6 ++ d ++ a ++ b ++ 41#7]
  | .slt d a b => [p ++ 1#6 ++ d ++ a ++ b ++ 42#7]
  | .sltu d a b => [p ++ 1#6 ++ d ++ a ++ b ++ 43#7]
  | .sel d a b => [p ++ 1#6 ++ d ++ a ++ b ++ 44#7]
  | .clz d a => [p ++ 1#6 ++ d ++ a ++ 48#13]
  | .ctz d a => [p ++ 1#6 ++ d ++ a ++ 49#13]
  | .popc d a => [p ++ 1#6 ++ d ++ a ++ 50#13]
  | .brev d a => [p ++ 1#6 ++ d ++ a ++ 51#13]
  | .bswap d a => [p ++ 1#6 ++ d ++ a ++ 52#13]
  | .addImm d a i => [p ++ 2#6 ++ d ++ a ++ i]
  | .mulImm d a i => [p ++ 3#6 ++ d ++ a ++ i]
  | .andImm d a i => [p ++ 4#6 ++ d ++ a ++ i]
  | .orImm d a i => [p ++ 5#6 ++ d ++ a ++ i]
  | .xorImm d a i => [p ++ 6#6 ++ d ++ a ++ i]
  | .seqImm d a i => [p ++ 7#6 ++ d ++ a ++ i]
  | .sneImm d a i => [p ++ 8#6 ++ d ++ a ++ i]
  | .sltImm d a i => [p ++ 9#6 ++ d ++ a ++ i]
  | .sltuImm d a i => [p ++ 10#6 ++ d ++ a ++ i]
  | .shlImm d a n => [p ++ 11#6 ++ d ++ a ++ 0#7 ++ n]
  | .shrImm d a n => [p ++ 11#6 ++ d ++ a ++ 1#7 ++ n]
  | .sarImm d a n => [p ++ 11#6 ++ d ++ a ++ 2#7 ++ n]
  | .rolImm d a n => [p ++ 11#6 ++ d ++ a ++ 3#7 ++ n]
  | .sext d a w => [p ++ 12#6 ++ d ++ a ++ 0#7 ++ w]
  | .zext d a w => [p ++ 12#6 ++ d ++ a ++ 1#7 ++ w]
  | .extr d a o l => [p ++ 13#6 ++ d ++ a ++ 0#1 ++ o ++ l]
  | .insr d a o l => [p ++ 13#6 ++ d ++ a ++ 1#1 ++ o ++ l]
  | .li d i => [p ++ 14#6 ++ d ++ i]
  | .addpc d i => [p ++ 15#6 ++ d ++ i]
  | .beq a b d => [p ++ 16#6 ++ a ++ b ++ d]
  | .bne a b d => [p ++ 17#6 ++ a ++ b ++ d]
  | .blt a b d => [p ++ 18#6 ++ a ++ b ++ d]
  | .bge a b d => [p ++ 19#6 ++ a ++ b ++ d]
  | .bltu a b d => [p ++ 20#6 ++ a ++ b ++ d]
  | .bgeu a b d => [p ++ 21#6 ++ a ++ b ++ d]
  | .bz t i => [p ++ 22#6 ++ t ++ i]
  | .bnz t i => [p ++ 23#6 ++ t ++ i]
  | .jmp d => [p ++ 24#6 ++ d]
  | .call d => [p ++ 25#6 ++ d]
  | .callr a c => [p ++ 26#6 ++ 0#6 ++ a ++ 0#1 ++ c]
  | .loop a d => [p ++ 27#6 ++ a ++ 0#6 ++ d]
  | .ldb d a i => [p ++ 28#6 ++ d ++ a ++ i]
  | .ldbu d a i => [p ++ 29#6 ++ d ++ a ++ i]
  | .ldh d a i => [p ++ 30#6 ++ d ++ a ++ i]
  | .ldhu d a i => [p ++ 31#6 ++ d ++ a ++ i]
  | .ldw d a i => [p ++ 32#6 ++ d ++ a ++ i]
  | .ldwu d a i => [p ++ 33#6 ++ d ++ a ++ i]
  | .ldd d a i => [p ++ 34#6 ++ d ++ a ++ i]
  | .stb d a i => [p ++ 35#6 ++ d ++ a ++ i]
  | .sth d a i => [p ++ 36#6 ++ d ++ a ++ i]
  | .stw d a i => [p ++ 37#6 ++ d ++ a ++ i]
  | .std d a i => [p ++ 38#6 ++ d ++ a ++ i]
  | .vld d a m o => [p ++ 39#6 ++ d ++ a ++ m ++ 0#3 ++ o]
  | .vst d a m o => [p ++ 39#6 ++ d ++ a ++ m ++ 1#3 ++ o]
  | .vlds d a m b => [p ++ 39#6 ++ d ++ a ++ m ++ 2#3 ++ b ++ 0#2]
  | .vsts d a m b => [p ++ 39#6 ++ d ++ a ++ m ++ 3#3 ++ b ++ 0#2]
  | .vldx d a m b => [p ++ 39#6 ++ d ++ a ++ m ++ 4#3 ++ b ++ 0#3]
  | .vstx d a m b => [p ++ 39#6 ++ d ++ a ++ m ++ 5#3 ++ b ++ 0#3]
  | .amoSwap d a b => [p ++ 40#6 ++ d ++ a ++ b ++ 0#7]
  | .amoAdd d a b => [p ++ 40#6 ++ d ++ a ++ b ++ 1#7]
  | .amoAnd d a b => [p ++ 40#6 ++ d ++ a ++ b ++ 2#7]
  | .amoOr d a b => [p ++ 40#6 ++ d ++ a ++ b ++ 3#7]
  | .amoXor d a b => [p ++ 40#6 ++ d ++ a ++ b ++ 4#7]
  | .amoMin d a b => [p ++ 40#6 ++ d ++ a ++ b ++ 5#7]
  | .amoMax d a b => [p ++ 40#6 ++ d ++ a ++ b ++ 6#7]
  | .amoMinu d a b => [p ++ 40#6 ++ d ++ a ++ b ++ 7#7]
  | .amoMaxu d a b => [p ++ 40#6 ++ d ++ a ++ b ++ 8#7]
  | .amoFadd d a b => [p ++ 40#6 ++ d ++ a ++ b ++ 9#7]
  | .cas d a b => [p ++ 40#6 ++ d ++ a ++ b ++ 16#7]
  | .redAdd a b => [p ++ 40#6 ++ 0#6 ++ a ++ b ++ 33#7]
  | .redAnd a b => [p ++ 40#6 ++ 0#6 ++ a ++ b ++ 34#7]
  | .redOr a b => [p ++ 40#6 ++ 0#6 ++ a ++ b ++ 35#7]
  | .redXor a b => [p ++ 40#6 ++ 0#6 ++ a ++ b ++ 36#7]
  | .redMin a b => [p ++ 40#6 ++ 0#6 ++ a ++ b ++ 37#7]
  | .redMax a b => [p ++ 40#6 ++ 0#6 ++ a ++ b ++ 38#7]
  | .redMinu a b => [p ++ 40#6 ++ 0#6 ++ a ++ b ++ 39#7]
  | .redMaxu a b => [p ++ 40#6 ++ 0#6 ++ a ++ b ++ 40#7]
  | .redFadd a b => [p ++ 40#6 ++ 0#6 ++ a ++ b ++ 41#7]
  | .redfAdd f a b => [p ++ 40#6 ++ f ++ a ++ b ++ 49#7]
  | .redfAnd f a b => [p ++ 40#6 ++ f ++ a ++ b ++ 50#7]
  | .redfOr f a b => [p ++ 40#6 ++ f ++ a ++ b ++ 51#7]
  | .redfXor f a b => [p ++ 40#6 ++ f ++ a ++ b ++ 52#7]
  | .redfMin f a b => [p ++ 40#6 ++ f ++ a ++ b ++ 53#7]
  | .redfMax f a b => [p ++ 40#6 ++ f ++ a ++ b ++ 54#7]
  | .redfMinu f a b => [p ++ 40#6 ++ f ++ a ++ b ++ 55#7]
  | .redfMaxu f a b => [p ++ 40#6 ++ f ++ a ++ b ++ 56#7]
  | .redfFadd f a b => [p ++ 40#6 ++ f ++ a ++ b ++ 57#7]
  | .xfence s t => [p ++ 41#6 ++ 0#6 ++ s ++ t ++ 1#7]
  | .waitge a b => [p ++ 41#6 ++ 0#6 ++ a ++ b ++ 2#7]
  | .waitne a b => [p ++ 41#6 ++ 0#6 ++ a ++ b ++ 3#7]
  | .barinit a b => [p ++ 41#6 ++ 0#6 ++ a ++ b ++ 4#7]
  | .bararv a => [p ++ 41#6 ++ 0#6 ++ a ++ 5#13]
  | .barwt a b => [p ++ 41#6 ++ 0#6 ++ a ++ b ++ 6#7]
  | .copy a => [p ++ 42#6 ++ 0#6 ++ a ++ 0#13]
  | .copys a => [p ++ 42#6 ++ 0#6 ++ a ++ 1#13]
  | .copyg a => [p ++ 42#6 ++ 0#6 ++ a ++ 2#13]
  | .ipref l a b => [p ++ 42#6 ++ l ++ a ++ b ++ 8#7]
  | .dpref a => [p ++ 42#6 ++ 0#6 ++ a ++ 9#13]
  | .cflush a => [p ++ 42#6 ++ 0#6 ++ a ++ 10#13]
  | .cinv a => [p ++ 42#6 ++ 0#6 ++ a ++ 11#13]
  | .sbind n a f s c r => [p ++ 43#6 ++ 0#1 ++ n ++ a ++ f ++ s ++ c ++ r ++ 0#5]
  | .sbindv n a f s c r => [p ++ 43#6 ++ 1#1 ++ n ++ a ++ f ++ s ++ c ++ r ++ 0#5]
  | .sdrain v n => [p ++ 43#6 ++ v ++ n ++ 1#21]
  | .sstat v n d => [p ++ 43#6 ++ v ++ n ++ d ++ 2#15]
  | .eos v n l => [p ++ 43#6 ++ v ++ n ++ 0#16 ++ l ++ 3#2]
  | .vadd d a b m r => [p ++ 44#6 ++ d ++ a ++ b ++ m ++ 0#7, 0#5 ++ r ++ 0#3 ++ 0#5 ++ 0#16]
  | .vsub d a b m r => [p ++ 44#6 ++ d ++ a ++ b ++ m ++ 1#7, 0#5 ++ r ++ 0#3 ++ 0#5 ++ 0#16]
  | .vmul d a b m r => [p ++ 44#6 ++ d ++ a ++ b ++ m ++ 2#7, 0#5 ++ r ++ 0#3 ++ 0#5 ++ 0#16]
  | .vdiv d a b m r => [p ++ 44#6 ++ d ++ a ++ b ++ m ++ 3#7, 0#5 ++ r ++ 0#3 ++ 0#5 ++ 0#16]
  | .vfma d a b c m r => [p ++ 44#6 ++ d ++ a ++ b ++ m ++ 4#7, c ++ r ++ 0#3 ++ 0#5 ++ 0#16]
  | .vfms d a b c m r => [p ++ 44#6 ++ d ++ a ++ b ++ m ++ 5#7, c ++ r ++ 0#3 ++ 0#5 ++ 0#16]
  | .vfnma d a b c m r => [p ++ 44#6 ++ d ++ a ++ b ++ m ++ 6#7, c ++ r ++ 0#3 ++ 0#5 ++ 0#16]
  | .vsqrt d a m r => [p ++ 44#6 ++ d ++ a ++ 0#5 ++ m ++ 7#7, 0#5 ++ r ++ 0#3 ++ 0#5 ++ 0#16]
  | .vmin d a b m => [p ++ 44#6 ++ d ++ a ++ b ++ m ++ 8#7, 0#5 ++ 0#3 ++ 0#3 ++ 0#5 ++ 0#16]
  | .vmax d a b m => [p ++ 44#6 ++ d ++ a ++ b ++ m ++ 9#7, 0#5 ++ 0#3 ++ 0#3 ++ 0#5 ++ 0#16]
  | .vabs d a m => [p ++ 44#6 ++ d ++ a ++ 0#5 ++ m ++ 10#7, 0#5 ++ 0#3 ++ 0#3 ++ 0#5 ++ 0#16]
  | .vneg d a m => [p ++ 44#6 ++ d ++ a ++ 0#5 ++ m ++ 11#7, 0#5 ++ 0#3 ++ 0#3 ++ 0#5 ++ 0#16]
  | .vcpys d a b m => [p ++ 44#6 ++ d ++ a ++ b ++ m ++ 12#7, 0#5 ++ 0#3 ++ 0#3 ++ 0#5 ++ 0#16]
  | .vcmpEq d a b m => [p ++ 44#6 ++ d ++ a ++ b ++ m ++ 13#7, 0#5 ++ 0#3 ++ 0#3 ++ 0#5 ++ 0#16]
  | .vcmpNe d a b m => [p ++ 44#6 ++ d ++ a ++ b ++ m ++ 13#7, 0#5 ++ 0#3 ++ 0#3 ++ 1#5 ++ 0#16]
  | .vcmpLt d a b m => [p ++ 44#6 ++ d ++ a ++ b ++ m ++ 13#7, 0#5 ++ 0#3 ++ 0#3 ++ 2#5 ++ 0#16]
  | .vcmpLe d a b m => [p ++ 44#6 ++ d ++ a ++ b ++ m ++ 13#7, 0#5 ++ 0#3 ++ 0#3 ++ 3#5 ++ 0#16]
  | .vcmpUn d a b m => [p ++ 44#6 ++ d ++ a ++ b ++ m ++ 13#7, 0#5 ++ 0#3 ++ 0#3 ++ 4#5 ++ 0#16]
  | .vcmpOrd d a b m => [p ++ 44#6 ++ d ++ a ++ b ++ m ++ 13#7, 0#5 ++ 0#3 ++ 0#3 ++ 5#5 ++ 0#16]
  | .vclass d a m => [p ++ 44#6 ++ d ++ a ++ 0#5 ++ m ++ 14#7, 0#5 ++ 0#3 ++ 0#3 ++ 0#5 ++ 0#16]
  | .vcvti d a m r t u => [p ++ 44#6 ++ d ++ a ++ 0#5 ++ m ++ 15#7, 0#5 ++ r ++ t ++ 0#4 ++ u ++ 0#16]
  | .vcvtf d a m r t u => [p ++ 44#6 ++ d ++ a ++ 0#5 ++ m ++ 16#7, 0#5 ++ r ++ t ++ 0#4 ++ u ++ 0#16]
  | .vrndp d a m r => [p ++ 44#6 ++ d ++ a ++ 0#5 ++ m ++ 17#7, 0#5 ++ r ++ 0#3 ++ 0#5 ++ 0#16]
  | .vredf d a m r => [p ++ 44#6 ++ d ++ a ++ 0#5 ++ m ++ 18#7, 0#5 ++ r ++ 0#3 ++ 0#5 ++ 0#16]
  | .vscan d a m r t => [p ++ 44#6 ++ d ++ a ++ 0#5 ++ m ++ 19#7, 0#5 ++ r ++ t ++ 0#5 ++ 0#16]
  | .viadd d a b m w => [p ++ 45#6 ++ d ++ a ++ b ++ m ++ 0#5 ++ w]
  | .visub d a b m w => [p ++ 45#6 ++ d ++ a ++ b ++ m ++ 1#5 ++ w]
  | .vimul d a b m w => [p ++ 45#6 ++ d ++ a ++ b ++ m ++ 2#5 ++ w]
  | .vimulh d a b m w => [p ++ 45#6 ++ d ++ a ++ b ++ m ++ 3#5 ++ w]
  | .vand d a b m w => [p ++ 45#6 ++ d ++ a ++ b ++ m ++ 4#5 ++ w]
  | .vor d a b m w => [p ++ 45#6 ++ d ++ a ++ b ++ m ++ 5#5 ++ w]
  | .vxor d a b m w => [p ++ 45#6 ++ d ++ a ++ b ++ m ++ 6#5 ++ w]
  | .vshl d a b m w => [p ++ 45#6 ++ d ++ a ++ b ++ m ++ 7#5 ++ w]
  | .vshr d a b m w => [p ++ 45#6 ++ d ++ a ++ b ++ m ++ 8#5 ++ w]
  | .vsar d a b m w => [p ++ 45#6 ++ d ++ a ++ b ++ m ++ 9#5 ++ w]
  | .vimin d a b m w => [p ++ 45#6 ++ d ++ a ++ b ++ m ++ 10#5 ++ w]
  | .vimax d a b m w => [p ++ 45#6 ++ d ++ a ++ b ++ m ++ 11#5 ++ w]
  | .vicmpEq d a b m w => [p ++ 45#6 ++ d ++ a ++ b ++ m ++ 12#5 ++ w]
  | .vicmpNe d a b m w => [p ++ 45#6 ++ d ++ a ++ b ++ m ++ 13#5 ++ w]
  | .vicmpLt d a b m w => [p ++ 45#6 ++ d ++ a ++ b ++ m ++ 14#5 ++ w]
  | .vicmpGe d a b m w => [p ++ 45#6 ++ d ++ a ++ b ++ m ++ 15#5 ++ w]
  | .vicmpLtu d a b m w => [p ++ 45#6 ++ d ++ a ++ b ++ m ++ 16#5 ++ w]
  | .vicmpGeu d a b m w => [p ++ 45#6 ++ d ++ a ++ b ++ m ++ 17#5 ++ w]
  | .vsel d a b m w => [p ++ 46#6 ++ d ++ a ++ b ++ m ++ 0#5 ++ w]
  | .vperm d a b m w => [p ++ 46#6 ++ d ++ a ++ b ++ m ++ 1#5 ++ w]
  | .vslide d a u n m w => [p ++ 46#6 ++ d ++ a ++ u ++ n ++ m ++ 2#5 ++ w]
  | .vcomp d a m w => [p ++ 46#6 ++ d ++ a ++ 0#5 ++ m ++ 3#5 ++ w]
  | .vexpd d a m w => [p ++ 46#6 ++ d ++ a ++ 0#5 ++ m ++ 4#5 ++ w]
  | .vredx a m => [p ++ 46#6 ++ 0#5 ++ a ++ 0#5 ++ m ++ 23#7]
  | .mand d a b => [p ++ 46#6 ++ d ++ a ++ b ++ 24#10]
  | .mor d a b => [p ++ 46#6 ++ d ++ a ++ b ++ 28#10]
  | .mxor d a b => [p ++ 46#6 ++ d ++ a ++ b ++ 32#10]
  | .mnot d a => [p ++ 46#6 ++ d ++ a ++ 36#15]
  | .vmovx s v l => [p ++ 47#6 ++ s ++ v ++ l ++ 0#11]
  | .vmovv s v l => [p ++ 47#6 ++ s ++ v ++ l ++ 1#11]
  | .vbcast s v => [p ++ 47#6 ++ s ++ v ++ 2#14]
  | .laadd s => [p ++ 47#6 ++ s ++ 4#19]
  | .lard s r => [p ++ 47#6 ++ s ++ 0#8 ++ r ++ 5#8]
  | .mpopc s v => [p ++ 47#6 ++ s ++ v ++ 6#14]
  | .mfirst s v => [p ++ 47#6 ++ s ++ v ++ 7#14]
  | .mform a b r s => [p ++ 48#6 ++ a ++ b ++ r ++ s ++ 0#7]
  | .mldb a b s => [p ++ 48#6 ++ a ++ b ++ 0#3 ++ s ++ 1#7]
  | .mma a b s => [p ++ 48#6 ++ a ++ b ++ 0#3 ++ s ++ 2#7]
  | .mzero g => [p ++ 48#6 ++ 0#15 ++ g ++ 3#7]
  | .mwin a g => [p ++ 48#6 ++ a ++ 0#9 ++ g ++ 4#7]
  | .mdrn a b r g => [p ++ 48#6 ++ a ++ b ++ r ++ g ++ 5#7]
  | .mstat d => [p ++ 48#6 ++ d ++ 7#19]
  | .qsel d a b => [p ++ 49#6 ++ d ++ a ++ b ++ 0#7]
  | .qfilt d a b => [p ++ 49#6 ++ d ++ a ++ b ++ 1#7]
  | .qpeek d a => [p ++ 49#6 ++ d ++ a ++ 2#13]
  | .qtry d a => [p ++ 49#6 ++ d ++ a ++ 3#13]
  | .qend d l => [p ++ 49#6 ++ d ++ 0#12 ++ l ++ 4#4]
  | .qlvl d a => [p ++ 49#6 ++ d ++ a ++ 5#13]
  | .bqpush a => [p ++ 49#6 ++ 0#6 ++ a ++ 6#13]
  | .msg a b c u h => [p ++ 50#6 ++ a ++ b ++ c ++ u ++ h]
  | .jmpr a => [p ++ 51#6 ++ a ++ 0#19]
  | .trap c => [p ++ 51#6 ++ 0#12 ++ c ++ 2#7]
  | .hset a b c => [p ++ 51#6 ++ a ++ b ++ c ++ 9#7]
  | .hmask a b => [p ++ 51#6 ++ a ++ b ++ 10#13]
  | .spawn a => [p ++ 51#6 ++ a ++ 16#19]
  | .cancel a => [p ++ 51#6 ++ a ++ 17#19]
  | .cwait a => [p ++ 51#6 ++ a ++ 18#19]
  | .cfgld a => [p ++ 51#6 ++ a ++ 24#19]
  | .cfgdrn d => [p ++ 51#6 ++ d ++ 26#19]
  | .bankpass a b => [p ++ 51#6 ++ a ++ b ++ 27#13]
  | .tlbinv a b => [p ++ 51#6 ++ a ++ b ++ 32#13]
  | .ifence a b c => [p ++ 51#6 ++ a ++ b ++ c ++ 33#7]
  | .toporeq a b => [p ++ 51#6 ++ a ++ b ++ 40#13]
  | .topogen d b => [p ++ 51#6 ++ d ++ b ++ 41#13]
  | .preempt a => [p ++ 51#6 ++ a ++ 48#19]
  | .resume a => [p ++ 51#6 ++ a ++ 49#19]
  | .fmtset b c => [p ++ 51#6 ++ 0#6 ++ b ++ c ++ 50#7]
  | .ownset a b => [p ++ 51#6 ++ a ++ b ++ 51#13]
  | .rankset a b => [p ++ 51#6 ++ a ++ b ++ 52#13]
  | .crr d n => [p ++ 52#6 ++ d ++ 0#7 ++ n]
  | .crw a n => [p ++ 53#6 ++ 0#6 ++ a ++ 0#1 ++ n]
  | .crs a n => [p ++ 53#6 ++ 1#6 ++ a ++ 0#1 ++ n]
  | .crc a n => [p ++ 53#6 ++ 2#6 ++ a ++ 0#1 ++ n]
  | .addImm32 d a i => [p ++ 62#6 ++ d ++ a ++ 0#6 ++ 0#7, i]
  | .andImm32 d a i => [p ++ 62#6 ++ d ++ a ++ 0#6 ++ 1#7, i]
  | .orImm32 d a i => [p ++ 62#6 ++ d ++ a ++ 0#6 ++ 2#7, i]
  | .xorImm32 d a i => [p ++ 62#6 ++ d ++ a ++ 0#6 ++ 3#7, i]
  | .liImm32 d i => [p ++ 62#6 ++ d ++ 0#6 ++ 0#6 ++ 4#7, i]
  | .lddImm32 d a i => [p ++ 62#6 ++ d ++ a ++ 0#6 ++ 5#7, i]
  | .stdImm32 d a i => [p ++ 62#6 ++ d ++ a ++ 0#6 ++ 6#7, i]
  | .liw d i => [p ++ 63#6 ++ d ++ 0#6 ++ 0#6 ++ 0#7, f i 0 32, f i 32 32]
  | .brl i => [p ++ 63#6 ++ 0#6 ++ 0#6 ++ 0#6 ++ 1#7, f i 0 32, f i 32 32]
  | .calll i => [p ++ 63#6 ++ 0#6 ++ 0#6 ++ 0#6 ++ 2#7, f i 0 32, f i 32 32]
  | .addpcLong d i => [p ++ 63#6 ++ d ++ 0#6 ++ 0#6 ++ 3#7, f i 0 32, f i 32 32]
  | .route sel mc => halves (0#10 ++ 0#3 ++ mc ++ (0#16) ++ 1#4 ++ sel)
  | .routen sel mc n => halves (0#10 ++ 0#3 ++ mc ++ (n) ++ 2#4 ++ sel)
  | .sjmp sel mc t => halves (0#10 ++ 0#3 ++ mc ++ (t) ++ 3#4 ++ sel)
  | .sbnz sel mc t i => halves (0#10 ++ i ++ mc ++ (t) ++ 4#4 ++ sel)
  | .sbq sel mc t => halves (0#10 ++ 0#3 ++ mc ++ (t) ++ 5#4 ++ sel)
  | .swaitm sel mc i l => halves (0#10 ++ l ++ mc ++ (0#13 ++ i) ++ 6#4 ++ sel)
  | .smcast sel n => halves (0#10 ++ 0#3 ++ 1#1 ++ (n) ++ 7#4 ++ sel)
  | .fence => [p ++ 41#6 ++ 0#25]
  | .laz => [p ++ 47#6 ++ 3#25]
  | .msync => [p ++ 48#6 ++ 6#25]
  | .ret => [p ++ 51#6 ++ 1#25]
  | .tret => [p ++ 51#6 ++ 3#25]
  | .exit => [p ++ 51#6 ++ 4#25]
  | .idle => [p ++ 51#6 ++ 5#25]
  | .hret => [p ++ 51#6 ++ 8#25]
  | .cfgswp => [p ++ 51#6 ++ 25#25]
  | .snop => halves (0#10 ++ 0#3 ++ 0#1 ++ (0#16) ++ 0#4 ++ 0#30)
  | .shalt => halves (0#10 ++ 0#3 ++ 0#1 ++ (0#16) ++ 8#4 ++ 0#30)
  | .handlerSelect => []
  | .hsetPendingClear => []
  | .messageArrival => []
  | .msgInject => []
  | .longResultReturn => []
  | .parkCommit => []
  | .loopEndCheck => []
  | .residueArbitration => []
  | .coreOutputDepart => []
  | .recordClose => []
  | .routenCountEnd => []
  | .smcastWindowEnd => []
  | .switchWordFetch => []
  | .switchIllegalRaise => []
  | .switchFetchFaultRaise => []
  | .fetchFill => []
  | .sequentialPrefetch => []
  | .iprefFill => []
  | .walkStart => []
  | .walkComplete => []
  | .rankTableFill => []
  | .placeWindowAccess => []
  | .atomicApply => []
  | .lineRecall => []
  | .barrierArrival => []
  | .redfForward => []
  | .waitWake => []
  | .cisternRequest => []
  | .cisternFill => []
  | .hbmRefresh => []
  | .patrolScrub => []
  | .streamElementFetch => []
  | .streamElementPerform => []
  | .streamBankRetry => []
  | .streamResume => []
  | .copyRequestArrival => []
  | .spoutSector => []
  | .copyCounterAddition => []
  | .copyPieceResume => []
  | .streamPortSourceElement => []
  | .streamPortSinkToken => []
  | .streamPortResume => []
  | .rimOutputToken => []
  | .weirIngress => []
  | .spillRingDrain => []
  | .tileRetire => []
  | .launchSlotEnter => []
  | .dependenceSatisfied => []
  | .headAging => []
  | .lsSelection => []
  | .holdGrant => []
  | .placementSwap => []
  | .followSwap => []
  | .launchComplete => []
  | .scopeEnd => []
  | .cancelKill => []
  | .cutStop => []
  | .cutMarkerArrival => []
  | .tileSave => []
  | .cutComplete => []
  | .resumeComplete => []
  | .fieldReset => []
  | .incTableUpdate => []
  | .fieldResetComplete => []
  | .tileKill => []
  | .scoreDecay => []
  | .quarantine => []
  | .engineCommandStart => []
  | .engineCommandFinish => []
  | .stagingElement => []
  | .drainWritePerform => []
  | .mrValueReady => []
  | .collectiveNodeCombine => []
  | .collectivePairCombine => []
  | .collectiveResend => []
  | .collectiveFleetTimeout => []
  | .collectiveRerun => []
  | .topoAccept => []
  | .topoInstall => []
  | .topoRequestTimeout => []
  | .slotPeriodStart => []
  | .chunkStart => []
  | .chunkDeliver => []
  | .creditReturn => []
  | .rillRead => []
  | .rillWrite => []
  | .watchArm => []
  | .watchFire => []
  | .loadreqSubmit => []
  | .moduleLoad => []
  | .moduleUnload => []
  | .unloadRelease => []
  | .attestationRequest => []
  | .powerOn => []
  | .firmwareUpdate => []
  | .hbmRetrain => []
  | .wavelengthRecalibrate => []
  | .clockStep => []
  | .lifetimeRecordUpdate => []
  | .tileSplitWrite => []
  | .clusterPoolWrite => []
  | .loopCtlWrite => []
  | .replayCtlWrite => []
  | .tokenCfgWrite => []
  | .optSendWrite => []
  | .formatStateChange => []
  | .bankTokenWrite => []
  | .stripeCtlWrite => []
  | .partFieldsWrite => []
  | .windowWrite => []
  | .vfCtlWrite => []
  | .lqCtlWrite => []
  | .csetCtlWrite => []
  | .deviceRegisterWrite => []
  | .matrixFaultResume => []
  | .killedTileErrOutput => []
  | .staticLinkFailure => []

/-- The bytes of parcels as memory holds them (R195). -/
def parcelBytes : List Parcel → List Byte
  | [] => []
  | w :: r => f w 0 8 :: f w 8 8 :: f w 16 8 :: f w 24 8 :: parcelBytes r

/-- The parcels of a word whose bit 0 is the lowest bit of the first parcel, cut to `nbits`, with zero bits above. -/
def tableParcels (nbits w : Nat) : List Parcel :=
  let u := w % 2 ^ nbits
  [BitVec.ofNat 32 u, BitVec.ofNat 32 (u / 2 ^ 32), BitVec.ofNat 32 (u / 2 ^ 64)]

/-- Does the opcode table number these bits as a switch word: 64 bits that are no instruction of two parcels, and a legal word (R218)? -/
def isSwitchRow (nbits w : Nat) : Bool :=
  nbits == 64 &&
    (match decodeBytes (parcelBytes (tableParcels nbits w)) with
     | .ok (_, n) => n == 4
     | .error _ => true) &&
    (match decodeSwitch (BitVec.ofNat 64 w) with
     | .ok _ => true
     | .error _ => false)

/-- What the decoder reads from an instruction with bits `w`, numbered as the opcode table numbers them. -/
def decodeTableWord (nbits w : Nat) : Option Instr :=
  if isSwitchRow nbits w then
    (match decodeSwitch (BitVec.ofNat 64 w) with
     | .ok i => some i
     | .error _ => none)
  else match decodeBytes (parcelBytes (tableParcels nbits w)) with
    | .ok (i, _) => some i
    | .error _ => none

end Sys2Proof
end

