-- ==== Sys2Proof/Machine/State.lean ====
section
/-! DEFINITION. The state of the whole module: the tile whose turn it is, the other tiles, the fields, clusters, cisterns,
conduits, partitions, memory, and the schedule of pending hardware steps. Plain data throughout. -/
namespace Sys2Proof.Machine

/-- A sparse table: keys strictly rising; a key that is not listed holds the default of the table's reader. -/
abbrev SMap (α : Type) := List (Nat × α)

/-- The privilege of a thread (R39, R361). -/
inductive Mode where
  | user
  | supervisor
  deriving DecidableEq, Repr, Inhabited

/-- The kind of a static token (R312). -/
inductive TokKind where
  | data
  | marker
  | err
  | config
  deriving DecidableEq, Repr, Inhabited

/-- A static token: payload and sideband (R312). `inc` is the incarnation that an egress weir adds, `dest` the destination
stamped on a send (R404). -/
structure Token where
  payload : Word := 0
  kind : TokKind := .data
  level : Nat := 0
  csub : Nat := 0
  carg : Nat := 0
  res : Nat := 0
  route : Nat := 0
  inc : Nat := 0
  dest : Nat := 0
  deriving DecidableEq, Repr, Inhabited

/-- The trap causes of R360. -/
inductive Cause where
  | illegal
  | priv
  | align
  | xlate
  | prot
  | portErr
  | stray
  | fmt
  | topo
  | cls
  | residue
  | window
  | trap
  deriving DecidableEq, Repr, Inhabited

/-- A translation, protection or alignment fault with the two doublewords of R47; `loads` says whether XFAULT_VA is loaded
(an ALIGN of a scalar access names no address, R278 and R286 name theirs). -/
structure MemFault where
  cause : Cause
  va : Word := 0
  info : Word := 0
  loads : Bool := true
  deriving DecidableEq, Repr, Inhabited

/-- The operations of the atomics (R206). -/
inductive AtomOp where
  | swap | add | and | or | xor | min | max | minu | maxu | fadd
  deriving DecidableEq, Repr, Inhabited

/-- A long operation with the operand values read at issue (R134, R272), so that a replay can issue it again (R137). -/
inductive LongOp where
  | load (size : Nat) (signed : Bool) (va : Word)
  | store (size : Nat) (va data : Word)
  | vload (vas : List Word) (mask : Word)
  | vstore (vas : List Word) (mask : Word) (data : List Word)
  | amo (op : AtomOp) (va b : Word)
  | cas (va expect new : Word)
  | red (op : AtomOp) (va b : Word)
  | redf (op : AtomOp) (va b fwd : Word) (old : Option Word)
  | barinit (va n : Word)
  | bararv (va : Word)
  | cancelMark (va : Word) (phase : Nat)
  | mr (i : Instr) (other old : Word) (upTo : Nat)
  deriving DecidableEq, Repr

/-- Where a long result goes (R135). `lanes` is the set of lanes still to be written. -/
inductive LongDst where
  | none
  | x (n : Nat)
  | v (n : Nat) (lanes : List Bool)
  deriving DecidableEq, Repr, Inhabited

/-- What a long operation returned. `err` is the ERR result of R381 and R389, `poison` an uncorrectable error (R83, R84). -/
inductive LongRes where
  | pending
  | word (w : Word)
  | lanes (ws : List Word)
  | ack
  | fault (f : MemFault)
  | err
  | poison
  deriving DecidableEq, Repr, Inhabited

/-- One entry of the long-result buffer (R134). `pc` is the address of the operation. -/
structure LongEntry where
  op : LongOp
  dst : LongDst := .none
  pc : Word := 0
  mode : Mode := .user
  res : LongRes := .pending
  returned : Bool := false
  deriving DecidableEq, Repr

/-- A control register that a trap loads beside TRAP_CAUSE (R249, R350, R387, R404). -/
inductive InfoReg where
  | cls | stray | topo | residue
  deriving DecidableEq, Repr

/-- A trap to be taken (R360, R361): the fields of TRAP_CAUSE, the fault whose address and information are loaded, and whether
TRAP_PC names the next instruction. `eat` is the port whose ERR token the trap consumes (R132). -/
structure TrapInfo where
  cause : Cause
  cls : Nat := 0
  tcode : Nat := 0
  port : Nat := 0
  mark : Bool := false
  repl : Bool := false
  fault : Option MemFault := none
  va : Option Word := none
  info : Option (InfoReg × Word) := none
  eat : Option Nat := none
  next : Bool := false
  deriving DecidableEq, Repr

/-- One live hardware loop (R250 to R252). -/
structure LoopEntry where
  start : Word := 0
  count : Word := 0
  len : Nat := 0
  level : Nat := 0
  deriving DecidableEq, Repr, Inhabited

/-- The loop state of a running context: all four entries are stored, `depth` of them live (R252). -/
structure Loops where
  depth : Nat := 0
  level : Nat := 0
  entries : Vector LoopEntry 4 := Vector.replicate 4 (LoopEntry.mk 0 0 0 0)
  deriving DecidableEq, Repr, Inhabited

/-- The exception state of an exact accumulator (R189, R192). -/
inductive Exc where
  | none | posInf | negInf | nan
  deriving DecidableEq, Repr, Inhabited

/-- The long accumulator la (R192): the value is `l · 2^-300`, with `l` inside 640-bit two's complement. -/
structure LongAcc where
  l : Int := 0
  sticky : Bool := false
  exc : Exc := .none
  deriving DecidableEq, Repr, Inhabited

/-- A message in the inbox (R141, R324). `chan` is the channel it is queued under; `pos` words of it have been read; `sel` marks the current message
of the running handler. -/
structure InMsg where
  chan : Nat := 0
  redir : Bool := false
  ovrd : Bool := false
  words : List Word := []
  pos : Nat := 0
  sel : Bool := false
  deriving DecidableEq, Repr, Inhabited

/-- A message in a send queue or in the network (R325). `dest` is a logical rank, `tile` the tile it was resolved to,
`field` the sender's field and `src` the sender's tile; `mask` are the fields over which its route was fixed (R19), and `sup` says that a supervisor
core sends it (R379). -/
structure OutMsg where
  dest : Nat := 0
  tile : Nat := 0
  field : Nat := 0
  part : Nat := 0
  words : List Word := []
  src : Nat := 0
  mask : BitVec 48 := 0
  sup : Bool := false
  deriving DecidableEq, Repr, Inhabited

/-- The affine pattern of a stream or a port (R85, R285). -/
structure Pattern where
  dims : Nat := 1
  base : Word := 0
  c0 : Nat := 1
  c1 : Nat := 1
  c2 : Nat := 1
  s0 : Word := 0
  s1 : Word := 0
  s2 : Word := 0
  stage : Bool := false
  deriving DecidableEq, Repr, Inhabited

/-- A position in a pattern; `done` when the pattern has no further element (R287, R292). -/
structure Pos where
  i0 : Nat := 0
  i1 : Nat := 0
  i2 : Nat := 0
  done : Bool := false
  deriving DecidableEq, Repr, Inhabited

/-- An input element fetched ahead, in its storage form, or the fault met at it (R45, R46). -/
structure FetchedElem where
  raw : Nat := 0
  at_ : Pos := {}
  fault : Option MemFault := none
  deriving DecidableEq, Repr, Inhabited

/-- An accepted output element not yet performed: its address, the bits to write and where they stand in the byte (R181, R287), and its place
among the elements that the tile's output streams accepted (R98). -/
structure OutElem where
  va : Word := 0
  bitOff : Nat := 0
  width : Nat := 0
  raw : Nat := 0
  idx : Nat := 0
  seq : Nat := 0
  deriving DecidableEq, Repr, Inhabited

/-- A stream binding (R286, R287, R291); `promised` is the number of its elements that commands have been given since it was made (R297). -/
structure Binding where
  pat : Pattern := {}
  out : Bool := false
  fmtN : Nat := 0
  scaleN : Option Nat := none
  tag : BitVec 16 := 0
  width : Nat := 64
  mode : Mode := .user
  pos : Pos := {}
  fetchPos : Pos := {}
  count : Nat := 0
  ahead : List FetchedElem := []
  held : List OutElem := []
  fault : Option MemFault := none
  refused : Bool := false
  promised : Nat := 0
  deriving DecidableEq, Repr, Inhabited

/-- The plane form of a staging register (R188, R302). -/
structure PlaneForm where
  p : Nat := 47
  q : Nat := 16
  b : Int := -32766
  rm : Nat := 0
  deriving DecidableEq, Repr, Inhabited

/-- A staged element (R188): its finite value is `(-1)^s · g · 2^(b + o - (P - 1))`; `t` is `b + o`, `e` the weight of g's bit 0. -/
structure PlaneElem where
  exc : Exc := .none
  s : Bool := false
  g : Nat := 0
  t : Int := 0
  e : Int := 0
  deriving DecidableEq, Repr, Inhabited

/-- An element in the staging store (R188, R302): its plane form, the flags that gathering and staging it raised, and the P of the form in force. -/
structure Staged where
  elem : PlaneElem := {}
  flags : Word := 0
  p : Nat := 47
  deriving DecidableEq, Repr, Inhabited

/-- One windowed accumulator (R189, R306). -/
structure Acc where
  a : Int := 0
  wb : Option Int := none
  sticky : Bool := false
  exc : Exc := .none
  pinned : Bool := false
  deriving DecidableEq, Repr, Inhabited

/-- A plane-engine command with the operands read at issue (R302 to R307); one that takes elements keeps the format, the scale and the TXR that
convert them, those of its place in program order (R184). -/
inductive MCmd where
  | form (vk : Nat) (f : PlaneForm)
  | ldb (vk k n : Nat) (trans : Bool) (conv : Word × Option Word × Bool)
  | mma (vk m k base : Nat) (conv : Word × Option Word × Bool)
  | zero (g : Nat)
  | win (g : Nat) (w : Int) (pin : Bool)
  | drn (g : Nat) (d : Word) (stride : Int) (nc rm : Nat) (mode : Mode)
  deriving DecidableEq, Repr

/-- A drain write still to be performed (R307): its address, its doubleword, the mode of its command, and the number of the command among those
that the member has finished. -/
structure DrainWord where
  va : Word := 0
  w : Word := 0
  mode : Mode := .user
  cmd : Nat := 0
  deriving DecidableEq, Repr, Inhabited

/-- The sub-tile of a member (R296): the B store, the accumulators, the queue, the elements staged for its commands in queue order, of which the first
`kept` reach to the last one whose binding has been replaced since, the drain writes still to be performed, the held fault, and the counts of R309. The first `draining` commands of the queue
are MDRNs that have finished on the engine and whose writes are still to be performed (R307, R310). `discard` says that the started command's task has
been cancelled, so that its drain writes are dropped (R311). -/
structure SubTile where
  b : SMap PlaneElem := []
  pB : Nat := 1
  acc : SMap Acc := []
  queue : List MCmd := []
  draining : Nat := 0
  started : Bool := false
  staged : List Staged := []
  kept : Nat := 0
  drains : List DrainWord := []
  discard : Bool := false
  held : Option MemFault := none
  issued : Nat := 0
  finished : Nat := 0
  forms : SMap PlaneForm := []
  deriving DecidableEq, Repr, Inhabited

/-- A destination sector of a copy (R115, R121): its row, column and bytes, the virtual addresses of its first destination and source byte, and
the home addresses of its source bytes where the lead spout has translated them. -/
structure CopySector where
  row : Nat := 0
  col : Nat := 0
  n : Nat := 0
  dst : Word := 0
  src : Word := 0
  homes : List Nat := []
  deriving DecidableEq, Repr, Inhabited

/-- A piece of a copy at the spout that holds it (R115, R117): its number, the spout (a cistern's index, or 64 and the tile), its cistern (24 for
a scratch source), the sectors still to be moved, the index of the first of them, the sectors written since the last addition, those that wait in
a network interface, and the fault that it stands at. `closed` says that no sector will join it, `blocked` that its last try could not move. -/
structure CopyPiece where
  num : Nat := 0
  spout : Nat := 0
  cistern : Nat := 24
  closed : Bool := false
  queue : List CopySector := []
  idx : Nat := 0
  uncounted : Nat := 0
  inRing : Nat := 0
  blocked : Bool := false
  fault : Option MemFault := none
  passed : Bool := false
  deriving DecidableEq, Repr, Inhabited

/-- How far the lead spout, that of a cistern or of a tile, has cut a copy (R115): the spout, the row and the column, the index that a gather has read for the row (R120), and the fault that
it stands at. -/
structure CopyLead where
  spout : Nat := 0
  row : Nat := 0
  col : Nat := 0
  ix : Option Nat := none
  fault : Option MemFault := none
  passed : Bool := false
  deriving DecidableEq, Repr, Inhabited

/-- One copy slot (R124): the descriptor read at issue, its place among the copies of its tile (R98) and its launch, the lead spout's place, the
pieces still at work and the count of those made, whether the check of R126 has passed, the additions owed to the counter with their pieces, and
the pieces whose refused addition has been reported (R123). -/
structure CopySlot where
  desc : List Word := []
  descVa : Word := 0
  mode : Mode := .user
  txr : Bool := false
  seq : Nat := 0
  launch : Nat := 0
  arrived : Bool := false
  lead : Option CopyLead := none
  pieces : List CopyPiece := []
  made : Nat := 0
  first : Option Word := none
  checked : Bool := false
  owed : List (Nat × Nat) := []
  counterFault : Bool := false
  reported : List Nat := []
  deriving DecidableEq, Repr, Inhabited

/-- What the switch thread is doing (R129, R220, R334). `illegal` waits to be raised in the thread; `stopped` has been raised. -/
inductive SwStatus where
  | halted
  | running
  | illegal
  | stopped
  | fetchWait
  | fetchFault (f : MemFault)
  | fetchPassed (f : MemFault)
  deriving DecidableEq, Repr

/-- The switch thread (R334): program base and length in words, word index, the fetched word, the remaining repeat count and
the tokens moved by each branch of the current window (N0 E0 S0 W0 N1 E1 S1 W1 CI0 CI1). `last` is the word that it has finished last, which
is the current word of its cycle until the next one is fetched (R314). -/
structure Switch where
  base : Word := 0
  len : Nat := 0
  pc : Nat := 0
  st : SwStatus := .halted
  word : Option Instr := none
  rem : Nat := 0
  moved : List Nat := []
  last : Option Instr := none
  deriving DecidableEq, Repr

/-- A weir on one link input (R18, R88, R89): tokens in flight toward it, its 64-token store, and its spill ring, with the ring's slots and its
first physical address where local units hold it. DEDUCED, log entry 47.
DEDUCED, log entry 70. -/
structure Weir where
  inflight : List Token := []
  fifo : List Token := []
  ring : List Token := []
  ringCap : Nat := 0
  ringAt : Option Nat := none
  deriving DecidableEq, Repr, Inhabited

/-- A cistern stream port of an edge tile (R85 to R87): the active descriptor (the shadow one stands in the shadow plane), the place
in the pattern, the tokens in the die-edge weir on the way out of the tile, the tokens that a source port has read ahead of the weir on the way
in, and the fault it stopped at. `fence` is the number of tokens at the front of `toRim`, and `coreFence` that at the front of the core-output buffer, up
to the last one that an XFENCE or FENCE in progress awaits (R430). DEDUCED, log entry 70. -/
structure RimPort where
  active : List Word := []
  pos : Pos := {}
  idle : Bool := true
  toRim : List Token := []
  ahead : List Token := []
  fault : Option MemFault := none
  passed : Bool := false
  cut : Bool := false
  fence : Nat := 0
  coreFence : Nat := 0
  deriving DecidableEq, Repr, Inhabited

/-- A cached translation of one leaf (R42): the first virtual address, the log2 of the size, the leaf entry and the table
level it came from. -/
structure TlbEntry where
  vaBase : Nat := 0
  log2 : Nat := 12
  pte : Word := 0
  pteAddr : Nat := 0
  level : Nat := 1
  part : Nat := 0
  deriving DecidableEq, Repr, Inhabited

/-- A pointer entry that a field's walk cache holds (R42): the table level that it was read at (4 to 2), the part of the virtual address that
led to it, its partition, and the physical address of the table that it names. -/
structure WalkPtr where
  level : Nat := 4
  tag : Nat := 0
  part : Nat := 0
  table : Nat := 0
  deriving DecidableEq, Repr, Inhabited

/-- An instruction-cache line: physical line address and its 64 bytes as they were filled (R68, R70). -/
structure ILine where
  pa : Nat
  bytes : BitVec 512
  deriving DecidableEq, Repr

/-- A line of a data cache, of a victim pool or of a cistern's slice: its address and whether it is dirty (R55, R56, R65, R80); for a line
of a pool, the tile whose accesses placed it there (R100) and the member whose ways hold it. The contents are the home's, since
no read may tell them apart (R91; DEDUCED, log entry 13). -/
structure DLine where
  line : Nat
  dirty : Bool
  placer : Nat := 0
  member : Nat := 0
  deriving DecidableEq, Repr, Inhabited

/-- A fetch that has missed (R45, R68): its address and the cycles waited so far (R74); a fault of its walk waits here. -/
structure FetchMiss where
  va : Word
  fault : Option MemFault := none
  waited : Nat := 0
  deriving DecidableEq, Repr

/-- An IPREF range in progress (R73). -/
structure IprefRange where
  next : Nat
  last : Nat
  level : Nat
  deriving DecidableEq, Repr

/-- An entry of the rank table (R16, R359): the tile and the TRANSIT bit. -/
structure RankEntry where
  tile : Nat := 0
  transit : Bool := false
  deriving DecidableEq, Repr, Inhabited

/-- What a sequencer waits for; the first part of R138's table. `fence` is a wait that counts under the park cause and is no park, `scope` one for the
scope table, which counts with those of CANCEL and CWAIT (R341, R346). -/
inductive WaitCause where
  | dep | empty | full | park | wait | xlate | inbox | idle | fetch | fence | scope
  deriving DecidableEq, Repr, Inhabited

/-- A request held in an NI's spill ring during a cut, to be performed at the replay (R369): the tile that issued it, its
operation, its mode, the entry of that tile's long-result buffer that awaits the answer (16 when none does), the launch whose task
issued it, and its place among the requests of that tile which were held (R92). -/
structure OwnerReq where
  tile : Nat
  op : LongOp
  mode : Mode := .user
  entry : Nat := 16
  launch : Nat := 0
  seq : Nat := 0
  deriving DecidableEq, Repr

/-- What a network interface has not taken yet, in arrival order (R143, R369): a request, a message, or a sector that piece `piece` of the copy in
slot `slot` of tile `tile` writes, as offsets and bytes; or the access of a stream, of the engine or of a port of the task of `launch` on `tile`, which step `i`
performs when it comes to the head. -/
inductive NiItem where
  | req (q : OwnerReq)
  | msg (m : OutMsg)
  | sector (tile slot piece : Nat) (bytes : List (Nat × Byte))
  | access (tile launch : Nat) (i : Instr) (args : List Nat)
  deriving DecidableEq, Repr

/-- The state of a tile's thread. DESIGN CHOICE, log entry 6. -/
inductive RunState where
  | inactive
  | running
  | idling
  | exited
  | retired
  | killed
  deriving DecidableEq, Repr, Inhabited

/-- Where the image of a configuration plane was loaded from (R416): the image table of a module, at placement, or the address that a CFGLD named. -/
inductive ImageSource where
  | table (m : Nat)
  | address (va : Word)
  deriving DecidableEq, Repr

/-- The thread's context while a handler runs in its place (R128, R252), with the handler's channel and the words of its message
that it has read (R141). -/
structure Interrupted where
  pc : Word
  bank : Vector Word 8
  loops : Loops
  report : Bool := false
  chan : Nat := 0
  pos : Nat := 0
  deriving DecidableEq, Repr

/-- The operands that WAITGE, WAITNE and BARWT read once at issue, with the instruction's address and the context that waits: 0 the
thread, 1 a handler, 2 and 3 the trap code of either (R283, R284). -/
structure WaitOps where
  ctx : Nat
  pc : Word
  a : Word
  v : Word
  deriving DecidableEq, Repr

/-- A dispute over a result that has been decided (R386): the unit whose result it is, the element, and the value used, which the instruction takes when it
completes. DESIGN CHOICE, log entry 21. -/
structure Dispute where
  unit : Nat
  lane : Nat := 0
  value : Nat
  deriving DecidableEq, Repr

/-- One tile: core, network interface, switch, streams, sub-tile and caches. `id` is `y · 256 + x` (R8). `rankCache` is the network interface's
copy of entries of the rank table (R16), `reqSeq` counts its requests that a network interface held (R92), `ownerLines` the lines that its owner-window atomic unit holds dirty (R30, R106). `waitPoint` says that the
wait is a blocking wait of R139, `parkNext` that a replay owes a park before the next instruction (R137, R363), `selPark` that the thread parks for a handler selection (R136, R139),
`pendTrap` is a trap whose entry parks (R361), and `dispute` a decided dispute over a result of the instruction that comes next (R386).
`fetchMiss` and `swMiss` are the misses of the thread and of the switch, `fetchSw` says which of them is served next (R69), and `prefetch` is the
line after which sequential prefetches have not been sent, `prefetchSw` the same of the switch, `lastLine` the line that the thread's last fetch demanded (R71). DESIGN CHOICE, log entry 6. -/
structure Tile where
  id : Nat := 0
  run : RunState := .inactive
  mode : Mode := .user
  pc : Word := 0xFF40000000000000
  x : Vector Word 32 := Vector.replicate 32 0
  v : Vector (BitVec 512) 16 := Vector.replicate 16 0
  m : Vector Word 8 := Vector.replicate 8 0
  la : LongAcc := {}
  loops : Loops := {}
  intr : Option Interrupted := none
  trapBank : Vector Word 8 := Vector.replicate 8 0
  wait : Option WaitCause := none
  waitPoint : Bool := false
  parkNext : Bool := false
  waitOps : List WaitOps := []
  longBuf : List LongEntry := []
  replay : List LongEntry := []
  passed : List LongEntry := []
  coreStatus : Word := 0
  xfaultVa : Word := 0
  xfaultInfo : Word := 0
  classInfo : Word := 0
  strayInfo : Word := 0
  cwaitGen : Word := 0
  trapCause : Word := 0
  trapPc : Word := 0
  trapVec : Word := 0
  replayPc : Word := 0
  residueInfo : Word := 0
  topoInfo : Word := 0
  passPc : Word := 0
  tileSplit : Nat := 16
  cfgTag : BitVec 16 := 0
  bankSucc : Vector (BitVec 16) 16 := Vector.replicate 16 0
  bankToken : Vector (BitVec 16) 16 := Vector.replicate 16 0
  fetchCtl : Word := 0x84
  counters : Vector Word 25 := Vector.replicate 25 0
  inboxInfo : Word := 0
  tokenCfg : Word := 0
  qrecCtl : Word := 0
  qlock : Vector Word 2 := Vector.replicate 2 0
  optSend : Word := 0
  fmt : Vector Word 16 := Vector.replicate 16 0
  scale : Vector Word 16 := Vector.replicate 16 0x3FFFC00000000000
  htPc : Vector Word 64 := Vector.replicate 64 0
  htCtl : Vector Word 64 := Vector.replicate 64 0
  touch : List Nat := []
  touchFull : Bool := false
  corrCnt : Word := 0
  discardCnt : Word := 0
  inbox : List InMsg := []
  report : Option InMsg := none
  sendQ : List OutMsg := []
  barRec : List (Word × Nat) := []
  coreIn : Vector (List Token) 8 := Vector.replicate 8 []
  coreOut : Vector (List Token) 8 := Vector.replicate 8 []
  swIn : Vector (List Token) 8 := Vector.replicate 8 []
  weirs : SMap Weir := []
  bq : List Bool := []
  emq : List Nat := []
  sw : Switch := {}
  streams : SMap Binding := []
  outSeq : Nat := 0
  copies : SMap CopySlot := []
  sub : SubTile := {}
  ports : SMap RimPort := []
  chan : List Word := []
  shadow : Option (List Word) := none
  activeImg : Option ImageSource := none
  shadowImg : Option ImageSource := none
  carried : List Nat := []
  dcache : List DLine := []
  tlb : List TlbEntry := []
  icache : List ILine := []
  fetchMiss : Option FetchMiss := none
  swMiss : Option FetchMiss := none
  fetchSw : Bool := false
  prefetch : Option Word := none
  prefetchSw : Option Word := none
  lastLine : Option Nat := none
  selPark : Bool := false
  pendTrap : Option TrapInfo := none
  dispute : Option Dispute := none
  ipref : List IprefRange := []
  cutFlags : List Nat := []
  cutOf : Option Nat := none
  cutMarked : Bool := false
  ring : List NiItem := []
  reqSeq : Nat := 0
  dirtyGroups : List Nat := []
  dirtyGranules : List Nat := []
  seq : Word := 0
  imageOf : Word := 0
  scope : Nat := 0
  launch : Nat := 0
  launchIdx : Nat := 0
  cancelled : Bool := false
  follow : Option Nat := none
  openChunk : Vector Nat 2 := Vector.replicate 2 0
  rankCache : List (Nat × RankEntry) := []
  ownerLines : List Nat := []
  deriving DecidableEq, Repr, Inhabited

/-- A queued launch record (R153): its 32 doublewords, the virtual function, the dependences found satisfied, the aging count
in steps of AGE_STEP, the step at which that count began (R158), and the slot of its window that it stands in (R154). `late` is the scope under which
SCOPE must stand where the scope table could not be read when the record came: the check of R152 and R155 is still to be made (log entry 18). -/
structure QRec where
  words : List Word := []
  vf : Nat := 0
  deps : List Nat := []
  aging : Nat := 0
  agingStart : Option Nat := none
  slot : Option Nat := none
  late : Option Nat := none
  deriving DecidableEq, Repr, Inhabited

/-- A walk request (R43): the virtual page, the tile that asked, whether its switch did, the privilege, and the kind of the access as
XFAULT_INFO numbers it (R47), or 4 for a fetch ahead. -/
structure WalkReq where
  page : Nat
  tile : Nat
  forSwitch : Bool := false
  mode : Mode := .user
  kind : Nat := 2
  deriving DecidableEq, Repr

/-- A field (`updating` is the image of a firmware update under way, R392): its device registers, launch sequencer, walker, supervisor queue and third-level cache (R33, R34, R43, R49, R68,
R156, R378 to R388). -/
structure Field where
  xlateRoot : Word := 0
  scopeBase : Word := 0
  groupBase : Word := 0
  modBase : Word := 0
  ageShift : Nat := 16
  suppress : Word := 0
  sluiceDrop : Word := 0
  incDrop : Word := 0
  routeErr : Word := 0
  residueCnt : Word := 0
  sealDrop : Word := 0
  supFaults : Word := 0
  inc : Nat := 0
  resetState : Nat := 0
  quarCtl : Word := 0x1201040
  incTable : SMap Nat := []
  suspect : SMap Word := []
  portOvr : SMap Word := []
  lqCtl : SMap Word := []
  queues : SMap (List QRec) := []
  windows : SMap (SMap (List (Nat × Word))) := []
  windowNext : SMap Nat := []
  rr : SMap (Nat × Nat) := []
  holds : SMap (List Nat) := []
  walkQ : List WalkReq := []
  walks : List WalkReq := []
  walkCache : List WalkPtr := []
  supQ : List (Word × Word) := []
  l3 : List ILine := []
  gens : SMap Nat := []
  clockStep : Nat := 0
  bypass : SMap Nat := []
  firmware : Nat := 1
  updating : Option Nat := none
  deriving DecidableEq, Repr, Inhabited

/-- A cluster (R64, R166, R42, R68, R299). Member `i` is the tile at `(col mod 4) + 4·(row mod 2)`. -/
structure Cluster where
  pool : Word := 0
  mqw : Word := 0x0101010101010101
  poolLines : List DLine := []
  tlb : List TlbEntry := []
  l2 : List ILine := []
  arrayOf : Option Nat := none
  turn : Nat := 0
  served : Nat := 0
  deriving DecidableEq, Repr, Inhabited

/-- A cistern (R80 to R84): lines in its cache slice, fills in progress, and the corrected-error count. -/
structure Cistern where
  lines : List DLine := []
  fills : List Nat := []
  corr : Word := 0
  retraining : List Nat := []
  deriving DecidableEq, Repr, Inhabited

/-- A chunk of optical tokens (R406) with the source module and port once it travels. -/
structure Chunk where
  toks : List Token := []
  src : Nat := 0
  port : Nat := 0
  complete : Bool := false
  deriving DecidableEq, Repr, Inhabited

/-- A conduit (R406, R407): send queues by fleet identifier, chunks received, credit left by source and port; `lambda` transmit and
`lambdaRx` receive wavelengths are active (R25), of which `recal` is out of service while it is recalibrated: a transmit wavelength when true
(R392). `clock` is the time in the slot period in progress before which nothing more starts, in ns (R406). -/
structure Conduit where
  sendQ : SMap (List Chunk) := []
  sent : List (Nat × Chunk) := []
  rx : List Chunk := []
  credit : SMap Nat := []
  lambda : Nat := 256
  lambdaRx : Nat := 256
  recal : Option (Bool × Nat) := none
  clock : Nat := 0
  deriving DecidableEq, Repr, Inhabited

/-- A permutation table of the circuit switch (R401, R402). -/
structure Topo where
  words : List Word := []
  deriving DecidableEq, Repr, Inhabited

/-- A conduit set (R400, R402, R405): its register, the installed table, the request in wait and the period in progress. -/
structure CSet where
  part : Nat := 0
  en : Bool := false
  err : Bool := false
  conduits : Nat := 0
  gen : Nat := 0
  pend : Bool := false
  table : Option Topo := none
  request : Option Topo := none
  accepted : Option Topo := none
  others : SMap (Nat × List Word) := []
  period : Nat := 0
  deriving DecidableEq, Repr, Inhabited

/-- A ZOG translation that the firmware keeps (R422): the digest of the graph and the measurement of the firmware that made it, which are its key; the
graph and the number of the translation stand for the module that it gave (DESIGN CHOICE, log entry 12). -/
structure ZogEntry where
  digest : BitVec 512 := 0
  measure : BitVec 512 := 0
  graph : List Byte := []
  run : Nat := 0
  deriving DecidableEq, Repr, Inhabited

/-- A loader request (R417 to R419): its function, the doublewords of LOADREQ, the index taken, the stage reached, the header that it
loads, the container's graph when it is a ZOG load with the number of its translation, the entry as it stood before, and the pages that the firmware took for it. -/
structure LoadJob where
  vf : Nat := 0
  words : List Word := []
  index : Nat := 0
  stage : Nat := 0
  header : List Word := []
  graph : List Byte := []
  run : Nat := 0
  old : List Word := []
  pages : List Nat := []
  deriving DecidableEq, Repr, Inhabited

/-- A collective in progress (R395 to R399): its descriptor, its node tree as (children as leaf ranks or node numbers) with its root, the
outputs of the nodes by node and element, and the count of runs. -/
structure Coll where
  part : Nat := 0
  launch : Nat := 0
  descVa : Word := 0
  words : List Word := []
  root : Bool × Nat := (false, 0)
  nodes : List (List (Bool × Nat)) := []
  leaves : List Nat := []
  outs : SMap (SMap (Word × Word)) := []
  flags : Nat := 0
  code : Nat := 0
  reruns : Nat := 0
  deriving DecidableEq, Repr, Inhabited

/-- A partition (R376): its fields as a bit set, rank-table entries that RANKSET changed, the
scopes allocated and not ended, owner windows, the windows whose owner was killed or reset with the rank that was lost (R30), the fields
and the cisterns that were present when it was formed (R19, R116), registered class
masks with the entries that list each class, loader requests in arrival order, and the ZOG translations kept (R422). -/
structure Partition where
  fields : BitVec 48 := 0
  ranks : SMap RankEntry := []
  scopes : List Nat := []
  ownerWin : SMap Nat := []
  ownerLost : SMap Nat := []
  present : BitVec 48 := BitVec.allOnes 48
  cist : BitVec 24 := BitVec.allOnes 24
  classMask : SMap Word := []
  classRefs : SMap (List Nat) := []
  loads : List LoadJob := []
  zogCache : List ZogEntry := []
  deriving DecidableEq, Repr, Inhabited

/-- A watch of a control page (R412, R413). -/
structure Watch where
  addr : Word := 0
  target : Word := 0
  vector : Nat := 0
  err : Bool := false
  fired : Bool := false
  arm : Bool := false
  port : Nat := 0
  deriving DecidableEq, Repr, Inhabited

/-- A virtual function (R377, R412). -/
structure VFun where
  en : Bool := false
  part : Nat := 0
  watches : SMap Watch := []
  loadReq : SMap Word := []
  loadBusy : Bool := false
  faults : Word := 0
  deriving DecidableEq, Repr, Inhabited

/-- The state of a launch after it left its queue (R162 to R168): its fields in ordinal order with the scope and the tag of each
field's task, its tiles (rounding included) and the ones that run threads, the tiles that have swapped, and the ones that lie in an image (R369),
which stand in all these lists under names of their own. `reruns` is 1 when a collective runs once more at other places (R399). -/
structure Launch where
  words : List Word := []
  field : Nat := 0
  fields : List Nat := []
  part : Nat := 0
  vf : Nat := 0
  tiles : List Nat := []
  threads : List Nat := []
  shape : Nat × Nat := (1, 1)
  scopes : List Nat := []
  tags : List (BitVec 16) := []
  swapped : List Nat := []
  imaged : List Nat := []
  code : Nat := 0
  detail : Nat := 0
  faultVa : Word := 0
  faultInfo : Word := 0
  live : Bool := true
  placed : Bool := false
  reruns : Nat := 0
  deriving DecidableEq, Repr, Inhabited

/-- A cut or a resume in progress (R369, R375). One that a partition resize or a quarantine makes (R170, R388) names its `launch` and the `ranks` of its
tiles, and is there until the launch is placed again; with `stay` its tiles go on in their places. -/
structure Cut where
  part : Nat := 0
  tiles : List Nat := []
  saved : List Nat := []
  image : Word := 0
  done : Word := 0
  incr : Bool := false
  scope : Nat := 0
  code : Nat := 0
  resume : Bool := false
  asTile : Nat := 0
  launch : Nat := 0
  ranks : List Nat := []
  stay : Bool := false
  deriving DecidableEq, Repr, Inhabited

/-- What the machine keeps of a tile record beside the bytes whose places R374 gives: the tile, where it stood, and the first of the
slot numbers under which its copies go on there (R124, R369; DESIGN CHOICE, log entry 25). -/
structure Saved where
  tile : Tile := {}
  place : Nat := 0
  base : Nat := 0
  deriving DecidableEq, Repr, Inhabited

/-- An area of a tile record that has been written and whose inner layout R374 does not give: its bytes are free values, and what they stand for is kept
here (DESIGN CHOICE, log entry 25). `part` names the area, `tile` is the tile as it was saved, `base` that of its save, and `blocks` are the home
address and the event number of each block of bytes. -/
structure RecordArea where
  part : Nat := 0
  tile : Tile := {}
  base : Nat := 0
  blocks : List (Nat × Nat) := []
  deriving DecidableEq, Repr, Inhabited

/-- The answer to a Rill request, an interrupt message or an attestation report on its way to the host (R409, R413, R427). -/
inductive HostMsg where
  | data (port vf : Nat) (bytes : List Byte)
  | ok (port vf : Nat)
  | unsupported (port vf : Nat)
  | fault (port vf sub : Nat)
  | interrupt (port vf vector : Nat) (value : Word)
  | report (words : List Word)
  deriving DecidableEq, Repr

/-- An undefined stretch of memory: first home address, one past the last, and the number of the event that made it so. -/
structure Undef where
  lo : Nat
  hi : Nat
  epoch : Nat
  deriving DecidableEq, Repr

/-- One entry of the schedule: let a tile's thread or switch take a step, or let the hardware take the step `i` at tile `t` with
the arguments `args`. -/
inductive Turn where
  | thread (t : Nat)
  | switch (t : Nat)
  | event (t : Nat) (i : Instr) (args : List Nat)
  deriving DecidableEq, Repr

/-- The lifetime record of conduit 0 (R391): counts by item, which only grow; every change of a suspect score as the tile and its new score, and the
tiles of every quarantine. `tileSeen` and `cistSeen` are the counts of R383 as the firmware read them last. -/
structure Lifetime where
  tileCorr : SMap Nat := []
  cistCorr : SMap Nat := []
  condCorr : SMap Nat := []
  tileSeen : SMap Nat := []
  cistSeen : SMap Nat := []
  scoreChanges : List (Nat × Nat) := []
  quarantines : List Nat := []
  temperature : SMap (List Nat) := []
  droop : SMap (List Nat) := []
  retrains : SMap Nat := []
  failures : List Nat := []
  deriving DecidableEq, Repr, Inhabited

/-- A request of the host that waits at its port (R409, R410): the port, the function, the address and the length, and the bytes of a write. -/
structure RillReq where
  port : Nat := 0
  vf : Nat := 0
  addr : Nat := 0
  len : Nat := 0
  bytes : Option (List Byte) := none
  deriving DecidableEq, Repr, Inhabited

/-- The whole module. `tile` is the tile whose turn it is; `others` holds the tiles that differ from a tile after reset; `arg`
holds the arguments of the hardware step whose turn it is (DESIGN CHOICE, log entry 3). DESIGN CHOICE, log entry 8.
DESIGN CHOICE, log entry 35. `spouts` names the issuing tile that each spout served last (R117), `rillQ` holds the host's requests that wait, in arrival order (R409), `firmStore` the
images of the firmware store by unit, and `firmRun` those that the root of trust, the cisterns and the conduits run (R426). -/
structure State where
  tile : Tile := {}
  others : SMap Tile := []
  mem : List Host.Cell := []
  undef : List Undef := []
  poison : List Nat := []
  agenda : List Turn := []
  arg : List Nat := []
  fields : SMap Field := []
  clusters : SMap Cluster := []
  cisterns : SMap Cistern := []
  conduits : SMap Conduit := []
  csets : SMap CSet := []
  parts : SMap Partition := []
  vfs : SMap VFun := []
  windows : SMap Word := []
  stripes : SMap Word := []
  localUnits : SMap Word := []
  partErr : Nat := 0
  fleetId : Nat := 0
  presentFields : BitVec 48 := BitVec.allOnes 48
  presentCisterns : BitVec 24 := BitVec.allOnes 24
  presentConduits : BitVec 4 := BitVec.allOnes 4
  rillTrained : BitVec 4 := BitVec.allOnes 4
  capacityGB : SMap Nat := []
  hbmChannels : SMap Nat := []
  net : List OutMsg := []
  launches : SMap Launch := []
  nextLaunch : Nat := 1
  colls : SMap Coll := []
  cuts : SMap Cut := []
  nextCut : Nat := 1
  images : SMap Saved := []
  records : List RecordArea := []
  hostOut : List HostMsg := []
  lifetime : Lifetime := {}
  deadLinks : List Nat := []
  spouts : SMap Nat := []
  rillQ : List RillReq := []
  firmStore : SMap Nat := []
  firmRun : SMap Nat := []
  time : Nat := 0
  freeCtr : Nat := 0
  deriving DecidableEq, Repr

/-- Why the machine stops. DESIGN CHOICE, log entry 66. -/
inductive Fault where
  /-- Raised by the steps of the memory side (CISTERN_REQUEST, CISTERN_FILL, LINE_RECALL, PATROL_SCRUB) asked for at a physical
  address in neither region of R76: the manual says that no other physical address holds memory. Safe. -/
  | noMemory
  deriving DecidableEq, Repr

/-- Why a step has no meaning in the model. -/
inductive Refusal where
  /-- Raised only by an arm of exec that has no meaning yet. Safe. -/
  | notModelled (mnemonic : String)
  /-- Raised by the step for a schedule entry that names an instruction which is fetched and not scheduled. Safe. -/
  | notAnEvent
  deriving DecidableEq, Repr

/-- The module right after reset (R1, R34, R54, R60, R78, R156, R388 and the maps cited in INVENTORY.md): every register at the
reset value of its map, no partition formed, nothing in memory. DESIGN CHOICE, log entry 1. DESIGN CHOICE, log entry 2.
DESIGN CHOICE, log entry 6. -/
def State.reset : State := {}

end Sys2Proof.Machine
end

