-- ==== Sys2Proof/Machine/Base.lean ====
section
/-! DEFINITION. Helpers with no knowledge of the machine: sparse tables, vectors by number, bit fields, sign extension, byte
order (R2, R3), residues (R384). -/
namespace Sys2Proof.Machine

/-- The entry of a sparse table, if it is listed. -/
def smFind {α : Type} : SMap α → Nat → Option α
  | [], _ => none
  | (k, a) :: r, n => if k = n then some a else smFind r n

/-- The entry of a sparse table, or `d`. -/
def smGet {α : Type} (d : α) (t : SMap α) (n : Nat) : α := (smFind t n).getD d

/-- Set an entry, keeping the keys rising. -/
def smSet {α : Type} : SMap α → Nat → α → SMap α
  | [], n, a => [(n, a)]
  | (k, b) :: r, n, a => if n < k then (n, a) :: (k, b) :: r else if n = k then (n, a) :: r else (k, b) :: smSet r n a

/-- Drop an entry. -/
def smErase {α : Type} : SMap α → Nat → SMap α
  | [], _ => []
  | (k, b) :: r, n => if k = n then smErase r n else (k, b) :: smErase r n

/-- Entry `i` of a vector by number, or `d` beyond its end. -/
def vget {α : Type} {n : Nat} (v : Vector α n) (i : Nat) (d : α) : α := (v[i]?).getD d

/-- Set entry `i` of a vector by number; nothing beyond its end. -/
def vset {α : Type} {n : Nat} (v : Vector α n) (i : Nat) (a : α) : Vector α n := v.setIfInBounds i a

/-- Bits [hi:lo] of a doubleword as a number (R2). -/
def bitsOf (w : Word) (hi lo : Nat) : Nat := (w.toNat / 2 ^ lo) % 2 ^ (hi + 1 - lo)

/-- Bit [n] of a doubleword. -/
def bitOf (w : Word) (n : Nat) : Bool := w.getLsbD n

/-- A doubleword whose bits from `lo` hold `v`. -/
def at_ (lo v : Nat) : Word := BitVec.ofNat 64 (v * 2 ^ lo)

/-- Replace `len` bits from `lo` by the low bits of `v`. -/
def putBits (w : Word) (lo len v : Nat) : Word :=
  let mask := BitVec.ofNat 64 ((2 ^ len - 1) * 2 ^ lo)
  (w &&& ~~~mask) ||| (BitVec.ofNat 64 ((v % 2 ^ len) * 2 ^ lo))

/-- The low `n` bits of a number read as two's complement. -/
def signedOf (n v : Nat) : Int :=
  let u := v % 2 ^ n
  if n ≠ 0 ∧ 2 ^ (n - 1) ≤ u then (u : Int) - (2 ^ n : Nat) else u

/-- The low `n` bits of a number, sign-extended to a doubleword. -/
def sextW (n v : Nat) : Word := BitVec.ofInt 64 (signedOf n v)

/-- A truth value as a doubleword. -/
def boolW (b : Bool) : Word := if b then 1 else 0

/-- Little-endian bytes of a number (R3). -/
def bytesOf : Nat → Nat → List Byte
  | 0, _ => []
  | n + 1, v => BitVec.ofNat 8 v :: bytesOf n (v / 256)

/-- The number that little-endian bytes hold (R3). -/
def numOf : List Byte → Nat
  | [] => 0
  | b :: r => b.toNat + 256 * numOf r

/-- Round a number up to a power of two (R161). -/
def pow2Ceil (n : Nat) : Nat :=
  ((List.range 11).map (2 ^ ·)).find? (fun p => n ≤ p) |>.getD 1024

/-- The residue of a payload (R384). -/
def residueOf (w : Word) : Nat := w.toNat % 255

/-- The positions of the set bits of a mask below `n`, rising. -/
def setBits (n : Nat) (w : Nat) : List Nat := (List.range n).filter (fun i => w.testBit i)

/-- Does a list hold no repeats? -/
def noRepeats : List Nat → Bool
  | [] => true
  | a :: r => !r.contains a && noRepeats r

/-- Replace the entry at a place of a list. -/
def setAt {α : Type} (l : List α) (i : Nat) (a : α) : List α := l.set i a

/-- Remove the first entry that satisfies a test, and say which it was. -/
def takeFirst {α : Type} (p : α → Bool) : List α → Option (α × List α)
  | [] => none
  | a :: r => if p a then some (a, r) else (takeFirst p r).map (fun q => (q.1, a :: q.2))

/-- Keep `n` entries of a set in a list and take its others out: what stays, and what leaves, in the list's order. -/
def keepInSet {α : Type} (inSet : α → Bool) : Nat → List α → List α × List α
  | _, [] => ([], [])
  | n, a :: r =>
    if inSet a then
      match n with
      | 0 => let q := keepInSet inSet 0 r; (q.1, a :: q.2)
      | k + 1 => let q := keepInSet inSet k r; (a :: q.1, q.2)
    else let q := keepInSet inSet n r; (a :: q.1, q.2)

/-- Put an entry into a set-associative store, newest first: an entry for the same thing is replaced, and the oldest entries of the set leave
when it has more than `ways`. Answers the store and what left it. -/
def assocPut {α : Type} (same inSet : α → Bool) (ways : Nat) (l : List α) (a : α) : List α × List α :=
  let q := keepInSet inSet (ways - 1) (l.filter (fun b => !same b))
  (a :: q.1, q.2)

/-- Insert into a rising list without repeats. -/
def insertNat (n : Nat) : List Nat → List Nat
  | [] => [n]
  | k :: r => if n < k then n :: k :: r else if n = k then k :: r else k :: insertNat n r

end Sys2Proof.Machine
end

