-- ==== Sys2Proof/Machine/T64.lean ====
section
/-! DEFINITION. T64 arithmetic (R171 to R175): reading an encoding, rounding an exact value once, and the lane operations of
R257 to R264. Every operation computes exactly in integers and rounds at its end. -/
namespace Sys2Proof.Machine

/-- Flag bits, at their places in CORE_STATUS (R176). -/
abbrev Flags := Word

/-- NV (R176). -/
def fNV : Flags := 0x10#64
/-- DZ (R176). -/
def fDZ : Flags := 0x20#64
/-- OF (R176). -/
def fOF : Flags := 0x40#64
/-- UF (R176). -/
def fUF : Flags := 0x80#64
/-- NX (R176). -/
def fNX : Flags := 0x100#64
/-- WX (R176). -/
def fWX : Flags := 0x200#64

/-- What an encoding stands for: a finite value `(-1)^neg · n · 2^e`, an infinity, or a NaN (R171). -/
inductive Num where
  | fin (neg : Bool) (n : Nat) (e : Int)
  | inf (neg : Bool)
  | nan (signalling : Bool)
  deriving DecidableEq, Repr

/-- The sign bit. -/
def signOf (w : Word) : Bool := w.getLsbD 63

/-- The value of a T64 encoding (R171, R172). -/
def viewT64 (w : Word) : Num :=
  let ex := bitsOf w 62 47
  let sig := bitsOf w 46 0
  if ex = 0xFFFF then (if sig = 0 then .inf (signOf w) else .nan (!w.getLsbD 45))
  else if ex = 0 then .fin (signOf w) sig (-32812)
  else .fin (signOf w) sig ((ex : Int) - 32813)

/-- Put a sign on a magnitude. -/
def withSign (neg : Bool) (w : Word) : Word := if neg then w ||| 0x8000000000000000#64 else w

/-- Infinity (R171). -/
def infT64 (neg : Bool) : Word := withSign neg 0x7FFF800000000000#64
/-- Zero (R171). -/
def zeroT64 (neg : Bool) : Word := withSign neg 0#64
/-- The canonical NaN (R173). -/
def canonNaN : Word := 0x7FFFE00000000000#64
/-- The largest finite value (R171). -/
def maxT64 (neg : Bool) : Word := withSign neg 0x7FFF7FFFFFFFFFFF#64

/-- Is an encoding a NaN? -/
def isNaN (w : Word) : Bool := match viewT64 w with | .nan _ => true | _ => false
/-- Is an encoding a signalling NaN? -/
def isSNaN (w : Word) : Bool := match viewT64 w with | .nan s => s | _ => false

/-- Does rounding `q` plus the fraction `r/2^d` (0 < d) go up in magnitude (R174)? Modes: 0 RNE, 1 RTZ, 2 RUP, 3 RDN, 4 RNA. -/
def roundsUp (mode : Nat) (neg : Bool) (q r d : Nat) : Bool :=
  let half := 2 ^ (d - 1)
  match mode with
  | 0 => decide (half < r) || (r == half && q % 2 == 1)
  | 1 => false
  | 2 => !neg && r != 0
  | 3 => neg && r != 0
  | _ => decide (half ≤ r)

/-- `n · 2^e` as a multiple of `2^q`, rounded: the multiple, and whether it is inexact. -/
def roundAt (mode : Nat) (neg : Bool) (n : Nat) (e q : Int) : Nat × Bool :=
  if q ≤ e then (n * 2 ^ (e - q).toNat, false)
  else
    let d := (q - e).toNat
    let k := n / 2 ^ d
    let r := n % 2 ^ d
    (if roundsUp mode neg k r d then k + 1 else k, r != 0)

/-- A value rounded to a format: multiple, weight, inexact, tiny (R175). -/
structure Rounded where
  m : Nat
  q : Int
  inexact : Bool
  tiny : Bool
  deriving DecidableEq, Repr

/-- Round `n · 2^e`, n ≠ 0, to `p` significant bits, or at the fixed weight of the subnormals of smallest normal 2^emin (R175). -/
def roundP (p : Nat) (emin : Int) (mode : Nat) (neg : Bool) (n : Nat) (e : Int) : Rounded :=
  let q0 : Int := e + (Nat.log2 n : Int) - ((p : Int) - 1)
  let (m0, _) := roundAt mode neg n e q0
  let tiny := decide ((Nat.log2 m0 : Int) + q0 < emin)
  let q := max q0 (emin - ((p : Int) - 1))
  let (m, ix) := roundAt mode neg n e q
  { m := m, q := q, inexact := ix, tiny := tiny }

/-- Does the mode send an overflow of this sign to infinity (R175)? -/
def overflowsToInf (mode : Nat) (neg : Bool) : Bool :=
  match mode with
  | 1 => false
  | 2 => !neg
  | 3 => neg
  | _ => true

/-- The encoding of `m · 2^q`, for m of at most 47 bits and q at least -32812, with m of 47 bits unless q is -32812. -/
def packT64 (neg : Bool) (m : Nat) (q : Int) : Word :=
  if m = 0 then zeroT64 neg
  else
    let l := Nat.log2 m
    if l < 46 ∧ q ≤ -32812 then withSign neg (BitVec.ofNat 64 m)
    else
      let m' := if l ≥ 46 then m / 2 ^ (l - 46) else m * 2 ^ (46 - l)
      withSign neg (BitVec.ofNat 64 ((q + (l : Int) + 32767).toNat * 2 ^ 47 + m'))

/-- round_t64 of `(-1)^neg · n · 2^e` (R175), with its flags. -/
def roundT64 (mode : Nat) (neg : Bool) (n : Nat) (e : Int) : Word × Flags :=
  if n = 0 then (zeroT64 neg, 0)
  else
    let r := roundP 47 (-32766) mode neg n e
    if (32768 : Int) ≤ (Nat.log2 r.m : Int) + r.q ∧ r.m ≠ 0 then
      (if overflowsToInf mode neg then infT64 neg else maxT64 neg, fOF ||| fNX)
    else
      (packT64 neg r.m r.q, (if r.inexact then fNX else 0) ||| (if r.inexact && r.tiny then fUF else 0))

/-- The first NaN among the operands with its quiet bit set, and NV when any of them is signalling (R173). -/
def nanResult (ops : List Word) : Option (Word × Flags) :=
  match ops.find? isNaN with
  | none => none
  | some w => some (w ||| 0x200000000000#64, if ops.any isSNaN then fNV else 0)

/-- The result of an invalid operation (R173). -/
def invalidT64 : Word × Flags := (canonNaN, fNV)

/-- The sign of an exact zero sum of operands of opposite sign (R173). -/
def zeroSumNeg (mode : Nat) : Bool := mode == 3

/-- Signed integer value of a finite number at weight 2^q, for q ≤ e. -/
def atWeight (neg : Bool) (n : Nat) (e q : Int) : Int :=
  let m : Int := n * 2 ^ (e - q).toNat
  if neg then -m else m

/-- The sum of two numbers that are not NaN, rounded (R173, R175). -/
def addNum (mode : Nat) (a b : Num) : Word × Flags :=
  match a, b with
  | .inf x, .inf y => if x = y then (infT64 x, 0) else invalidT64
  | .inf x, _ => (infT64 x, 0)
  | _, .inf y => (infT64 y, 0)
  | .fin s1 n1 e1, .fin s2 n2 e2 =>
    let q := min e1 e2
    let v := atWeight s1 n1 e1 q + atWeight s2 n2 e2 q
    if v = 0 then (zeroT64 (if n1 = 0 ∧ n2 = 0 ∧ s1 = s2 then s1 else zeroSumNeg mode), 0)
    else roundT64 mode (decide (v < 0)) v.natAbs q
  | _, _ => invalidT64

/-- Change the sign of a number. -/
def negNum : Num → Num
  | .fin s n e => .fin (!s) n e
  | .inf s => .inf (!s)
  | .nan s => .nan s

/-- The exact product of two numbers; none for 0 · ∞ and for a NaN. -/
def mulNum (a b : Num) : Option Num :=
  match a, b with
  | .fin s1 n1 e1, .fin s2 n2 e2 => some (.fin (s1 != s2) (n1 * n2) (e1 + e2))
  | .inf s1, .fin s2 n2 _ => if n2 = 0 then none else some (.inf (s1 != s2))
  | .fin s1 n1 _, .inf s2 => if n1 = 0 then none else some (.inf (s1 != s2))
  | .inf s1, .inf s2 => some (.inf (s1 != s2))
  | _, _ => none

/-- Round a number that is not NaN. -/
def roundNum (mode : Nat) : Num → Word × Flags
  | .fin s n e => roundT64 mode s n e
  | .inf s => (infT64 s, 0)
  | .nan _ => invalidT64

/-- Addition (R257). -/
def addT64 (mode : Nat) (a b : Word) : Word × Flags :=
  match nanResult [a, b] with
  | some r => r
  | none => addNum mode (viewT64 a) (viewT64 b)

/-- Subtraction (R257). -/
def subT64 (mode : Nat) (a b : Word) : Word × Flags :=
  match nanResult [a, b] with
  | some r => r
  | none => addNum mode (viewT64 a) (negNum (viewT64 b))

/-- Multiplication (R257). -/
def mulT64 (mode : Nat) (a b : Word) : Word × Flags :=
  match nanResult [a, b] with
  | some r => r
  | none => match mulNum (viewT64 a) (viewT64 b) with
    | none => invalidT64
    | some p => roundNum mode p

/-- a·b + c with the product's and the addend's signs changed as asked, one rounding (R257): VFMA, VFMS, VFNMA. -/
def fmaT64 (mode : Nat) (negP negC : Bool) (a b c : Word) : Word × Flags :=
  let prod := mulNum (viewT64 a) (viewT64 b)
  let zeroTimesInf := !isNaN a && !isNaN b && prod.isNone
  match nanResult [a, b, c] with
  | some (r, fl) => (r, if zeroTimesInf then fl ||| fNV else fl)
  | none => match prod with
    | none => invalidT64
    | some p => addNum mode (if negP then negNum p else p) (if negC then negNum (viewT64 c) else viewT64 c)

/-- Division (R257): the quotient to 100 more bits than the operands, with a sticky bit below it. -/
def divT64 (mode : Nat) (a b : Word) : Word × Flags :=
  match nanResult [a, b] with
  | some r => r
  | none => match viewT64 a, viewT64 b with
    | .inf _, .inf _ => invalidT64
    | .inf s, .fin t _ _ => (infT64 (s != t), 0)
    | .fin s _ _, .inf t => (zeroT64 (s != t), 0)
    | .fin s n e, .fin t m d =>
      if m = 0 then (if n = 0 then invalidT64 else (infT64 (s != t), fDZ))
      else
        let q := n * 2 ^ 100 / m
        let r := n * 2 ^ 100 % m
        roundT64 mode (s != t) (2 * q + (if r = 0 then 0 else 1)) (e - d - 101)
    | _, _ => invalidT64

/-- The integer square root of `n` below `2^k`, one bit at a time. -/
def isqrtFrom (n : Nat) : Nat → Nat → Nat
  | 0, r => r
  | k + 1, r => isqrtFrom n k (if (r + 2 ^ k) * (r + 2 ^ k) ≤ n then r + 2 ^ k else r)

/-- Square root (R257). -/
def sqrtT64 (mode : Nat) (a : Word) : Word × Flags :=
  match nanResult [a] with
  | some r => r
  | none => match viewT64 a with
    | .inf s => if s then invalidT64 else (infT64 false, 0)
    | .fin s n e =>
      if n = 0 then (zeroT64 s, 0)
      else if s then invalidT64
      else
        let k : Nat := if e % 2 = 0 then 100 else 101
        let v := n * 2 ^ k
        let r := isqrtFrom v 76 0
        roundT64 mode false (2 * r + (if r * r = v then 0 else 1)) ((e - (k : Int)) / 2 - 1)
    | .nan _ => invalidT64

/-- Order of two finite or infinite numbers, with zeros equal. -/
def cmpNum (a b : Num) : Ordering :=
  match a, b with
  | .inf s, .inf t => compare (if s then (-1 : Int) else 1) (if t then -1 else 1)
  | .inf s, _ => if s then .lt else .gt
  | _, .inf t => if t then .gt else .lt
  | .fin s n e, .fin t m d => let q := min e d; compare (atWeight s n e q) (atWeight t m d q)
  | _, _ => .eq

/-- The exact value in its normal encoding (R172, R258). -/
def normT64 (w : Word) : Word :=
  match viewT64 w with
  | .fin s n e => (roundT64 0 s n e).1
  | .inf s => infT64 s
  | .nan _ => w

/-- VMIN and VMAX (R258): -0 is below +0. -/
def minMaxT64 (big : Bool) (a b : Word) : Word × Flags :=
  match nanResult [a, b] with
  | some r => r
  | none =>
    let aLess := match cmpNum (viewT64 a) (viewT64 b) with
      | .lt => true
      | .gt => false
      | .eq => signOf a && !signOf b
    (normT64 (if aLess != big then a else b), 0)

/-- VABS, VNEG, VCPYS: the encoding of a's magnitude with a given sign (R258). -/
def setSign (neg : Bool) (w : Word) : Word :=
  withSign neg (normT64 (w &&& 0x7FFFFFFFFFFFFFFF#64))

/-- The relations of VCMP (R259). -/
inductive FCond where
  | eq | ne | lt | le | un | ord
  deriving DecidableEq, Repr

/-- A VCMP of one lane, with its flags (R259). -/
def cmpT64 (c : FCond) (a b : Word) : Bool × Flags :=
  let snan := isSNaN a || isSNaN b
  let un := isNaN a || isNaN b
  let o := cmpNum (viewT64 a) (viewT64 b)
  let r := match c with
    | .eq => !un && o == .eq
    | .ne => un || o != .eq
    | .lt => !un && o == .lt
    | .le => !un && o != .gt
    | .un => un
    | .ord => !un
  (r, if snan || (un && (c == .lt || c == .le)) then fNV else 0)

/-- The bit that VCLASS sets (R260). -/
def classT64 (w : Word) : Word :=
  match viewT64 w with
  | .nan s => if s then 0x100 else 0x200
  | .inf s => if s then 1 else 0x80
  | .fin s n e =>
    if n = 0 then (if s then 8 else 0x10)
    else if (Nat.log2 n : Int) + e < -32766 then (if s then 4 else 0x20)
    else (if s then 2 else 0x40)

/-- Round a finite magnitude to an integer: the integer and whether it is inexact (R261, R262). -/
def toInteger (mode : Nat) (neg : Bool) (n : Nat) (e : Int) : Nat × Bool := roundAt mode neg n e 0

/-- VCVTI of one lane to a width of `w` bits (R261). -/
def cvtiT64 (mode w : Nat) (isUnsigned : Bool) (x : Word) : Word × Flags :=
  let lo : Int := if isUnsigned then 0 else -(2 ^ (w - 1) : Nat)
  let hi : Int := if isUnsigned then (2 ^ w : Nat) - 1 else (2 ^ (w - 1) : Nat) - 1
  match viewT64 x with
  | .nan _ => (0, fNV)
  | .inf s => (BitVec.ofInt 64 (if s then lo else hi), fNV)
  | .fin s n e =>
    let (m, ix) := toInteger mode s n e
    let y : Int := if s then -(m : Int) else m
    if y < lo then (BitVec.ofInt 64 lo, fNV)
    else if hi < y then (BitVec.ofInt 64 hi, fNV)
    else (BitVec.ofInt 64 y, if ix then fNX else 0)

/-- An integer rounded to T64 (R261). -/
def ofIntT64 (mode : Nat) (v : Int) : Word × Flags := roundT64 mode (decide (v < 0)) v.natAbs 0

/-- VRNDP of one lane (R262). -/
def rndpT64 (mode : Nat) (x : Word) : Word × Flags :=
  match nanResult [x] with
  | some r => r
  | none => match viewT64 x with
    | .fin s n e =>
      let (m, ix) := toInteger mode s n e
      let (r, f) := roundT64 mode s m 0
      (r, f ||| (if ix then fNX else 0))
    | _ => (x, 0)

/-- One node of the trees of R193 and R194: an absent input passes the other's value on, in its normal encoding (R172). -/
def addOpt (mode : Nat) (a b : Option Word × Flags) : Option Word × Flags :=
  match a.1, b.1 with
  | some x, some y => let (r, f) := addT64 mode x y; (some r, f ||| a.2 ||| b.2)
  | some x, none => (some (normT64 x), a.2 ||| b.2)
  | none, y => (y.map normT64, a.2 ||| b.2)

/-- The tree of R193 over the lanes that are present. -/
def treeT64 (mode : Nat) (l : List (Option Word)) : Word × Flags :=
  let n := fun (i : Nat) => ((l.getD i none), (0 : Flags))
  let s := addOpt mode
  let r := s (s (s (n 0) (n 1)) (s (n 2) (n 3))) (s (s (n 4) (n 5)) (s (n 6) (n 7)))
  (r.1.getD 0, r.2)

/-- The running sums of R194: the answer of each lane that is present, normalised (R172), and the flags. -/
def scanT64 (mode : Nat) : Option Word → List (Option Word) → List (Option Word) × Flags
  | _, [] => ([], 0)
  | acc, none :: r => let (t, f) := scanT64 mode acc r; (none :: t, f)
  | none, some x :: r => let (t, f) := scanT64 mode (some (normT64 x)) r; (some (normT64 x) :: t, f)
  | some a, some x :: r =>
    let (y, f) := addT64 mode a x
    let (t, g) := scanT64 mode (some y) r
    (some y :: t, f ||| g)

/- The long accumulator (R192, R270) -/

/-- Combine an exception state with a special operand (R190). -/
def combineExc (old new : Exc) : Exc × Flags :=
  match old, new with
  | .nan, _ => (.nan, 0)
  | _, .nan => (.nan, 0)
  | .posInf, .negInf => (.nan, fNV)
  | .negInf, .posInf => (.nan, fNV)
  | o, .none => (o, 0)
  | _, n => (n, 0)

/-- Add a T64 value to la exactly (R192). -/
def laAdd (a : LongAcc) (x : Word) : LongAcc × Flags :=
  match viewT64 x with
  | .nan s => ({ a with exc := .nan }, if s then fNV else 0)
  | .inf s => let (e, f) := combineExc a.exc (if s then .negInf else .posInf); ({ a with exc := e }, f)
  | .fin s n e =>
    if a.exc ≠ .none ∨ n = 0 then (a, 0)
    else
      let q : Int := min e (-300)
      let v := atWeight s n e q
      let d : Nat := ((-300 : Int) - q).toNat
      let low := n % 2 ^ d != 0
      let part : Int := if d = 0 then v else (if s then -((n / 2 ^ d : Nat) : Int) else ((n / 2 ^ d : Nat) : Int))
      let l := a.l + part
      if l.natAbs ≥ 2 ^ 639 then
        ({ a with exc := if l < 0 then .negInf else .posInf }, fOF)
      else ({ a with l := l, sticky := a.sticky || low }, if low then fWX else 0)

/-- round_t64 of an exact accumulator (R191): the integer, its weight, the sticky bit and the exception state. -/
def drainAcc (mode : Nat) (v : Int) (w : Int) (sticky : Bool) (exc : Exc) : Word × Flags :=
  let wx : Flags := if sticky then fWX else 0
  match exc with
  | .nan => (canonNaN, wx)
  | .posInf => (infT64 false, wx)
  | .negInf => (infT64 true, wx)
  | .none =>
    if v = 0 then (zeroT64 (zeroSumNeg mode), wx)
    else
      let n := 2 * v.natAbs + (if sticky then 1 else 0)
      let (r, f) := roundT64 mode (decide (v < 0)) n (w - 1)
      (r, f ||| wx)

/-- LARD (R270). -/
def laRound (mode : Nat) (a : LongAcc) : Word × Flags := drainAcc mode a.l (-300) a.sticky a.exc

end Sys2Proof.Machine
end

