-- ==== Sys2Proof/Machine/Formats.lean ====
section
/-! DEFINITION. Storage formats and their conversions (R178 to R183): what a memory element reads as, and what a word is
written as. -/
namespace Sys2Proof.Machine

/-- Which codes of a float format are not finite (R178, R180). -/
inductive Special where
  /-- The top exponent code holds infinity and NaNs. -/
  | ieee
  /-- Only the code of all ones is a NaN. -/
  | oneNaN
  /-- Every code is finite. -/
  | finite
  /-- A custom format under TXR = 1: the top code holds infinity, and NaNs where m is not 0. -/
  | custom
  deriving DecidableEq, Repr

/-- The shape of a float format: sign bits, exponent bits, mantissa bits, bias. -/
structure FFmt where
  s : Nat
  e : Nat
  m : Nat
  bias : Int
  special : Special
  deriving DecidableEq, Repr

/-- The format code of an FMT value (R179). -/
def fmtCode (f : Word) : Nat := bitsOf f 4 0

/-- Does an FMT value keep the map of R179? -/
def fmtLegal (f : Word) : Bool :=
  let c := fmtCode f
  let n := bitsOf f 8 8 + bitsOf f 11 9 + bitsOf f 14 12
  bitsOf f 63 23 == 0 && !bitOf f 15 && bitsOf f 7 5 == 0 && decide (c ≤ 18) &&
  (if c = 18 then decide (2 ≤ n) && decide (n ≤ 8) else bitsOf f 22 8 == 0)

/-- The shape of a float format other than T64 (R178, R180). -/
def floatFmt (f : Word) (txr : Bool) : Option FFmt :=
  match fmtCode f with
  | 1 => some ⟨1, 11, 52, 1023, .ieee⟩
  | 2 => some ⟨1, 8, 23, 127, .ieee⟩
  | 3 => some ⟨1, 5, 10, 15, .ieee⟩
  | 4 => some ⟨1, 8, 7, 127, .ieee⟩
  | 5 => some ⟨1, 5, 2, 15, .ieee⟩
  | 6 => some ⟨1, 4, 3, 7, .oneNaN⟩
  | 7 => some ⟨1, 3, 2, 3, .finite⟩
  | 8 => some ⟨1, 2, 3, 1, .finite⟩
  | 9 => some ⟨1, 2, 1, 1, .finite⟩
  | 18 =>
    let e := bitsOf f 11 9
    some ⟨bitsOf f 8 8, e, bitsOf f 14 12, signedOf 7 (bitsOf f 22 16), if txr && e != 0 then .custom else .finite⟩
  | _ => none

/-- The width and signedness of an integer format (R178). -/
def intFmt (f : Word) : Option (Nat × Bool) :=
  match fmtCode f with
  | 10 => some (8, true)
  | 11 => some (8, false)
  | 12 => some (16, true)
  | 13 => some (16, false)
  | 14 => some (32, true)
  | 15 => some (32, false)
  | 16 => some (64, true)
  | 17 => some (64, false)
  | _ => none

/-- The width of an element in bits (R178). -/
def fmtBits (f : Word) : Nat :=
  match intFmt f with
  | some (w, _) => w
  | none => match floatFmt f false with
    | some x => x.s + x.e + x.m
    | none => 64

/-- Storage width: 2 and 4 bits are packed, 3 and 5 to 7 bits take a byte (R181). -/
def storeBits (w : Nat) : Nat := if w = 2 ∨ w = 4 then w else if w < 8 then 8 else w

/-- Is a format packed (R181)? -/
def fmtPacked (f : Word) : Bool := decide (storeBits (fmtBits f) < 8)

/-- The bytes that hold one element (R181). -/
def fmtBytes (f : Word) : Nat := max 1 (storeBits (fmtBits f) / 8)

/-- A T64 NaN from a sign, a quiet state and a payload placed at the top of FRAC (R182). The integer bit is 1, as in the
canonical NaN (DEDUCED, log entry 15). -/
def nanOf (neg quiet : Bool) (frac : Nat) : Word :=
  let p := frac % 2 ^ 45
  let q := if quiet then 2 ^ 45 + p else if p = 0 then 2 ^ 44 else p
  withSign neg (BitVec.ofNat 64 (0xFFFF * 2 ^ 47 + 2 ^ 46 + q))

/-- A float element, before any scale (R180, R182): its exact value, or the T64 NaN that it becomes. -/
def readFloat (x : FFmt) (raw : Nat) : Except Word Num :=
  let f := raw % 2 ^ x.m
  let c := raw / 2 ^ x.m % 2 ^ x.e
  let neg := x.s == 1 && raw / 2 ^ (x.m + x.e) % 2 == 1
  let top := x.e != 0 && c == 2 ^ x.e - 1
  let frac := if x.m ≤ 46 then f * 2 ^ (46 - x.m) else f / 2 ^ (x.m - 46)
  let value : Except Word Num :=
    .ok (if c = 0 then .fin neg f (1 - x.bias - (x.m : Int)) else .fin neg (2 ^ x.m + f) ((c : Int) - x.bias - (x.m : Int)))
  match x.special with
  | .ieee => if top then (if f = 0 then .ok (.inf neg) else .error (nanOf neg (f / 2 ^ (x.m - 1) % 2 == 1) frac)) else value
  | .oneNaN => if top && f == 2 ^ x.m - 1 then .error (nanOf neg true frac) else value
  | .finite => value
  | .custom => if top then (if f = 0 then .ok (.inf neg) else .error (nanOf neg true frac)) else value

/-- A T64 element, before any scale (R182): a signalling NaN whose FRAC is zero gets bit 44. -/
def readT64 (w : Word) : Except Word Num :=
  match viewT64 w with
  | .nan _ => .error (if bitsOf w 45 0 = 0 then w ||| 0x100000000000#64 else w)
  | v => .ok v

/-- An element as T64, multiplied by the scale where one is named: the exact value is rounded once (R182). -/
def scaledT64 (v : Except Word Num) (scale : Option Word) : Word × Flags :=
  match v, scale with
  | .error w, none => (w, 0)
  | .error w, some k => mulT64 0 w k
  | .ok n, none => roundNum 0 n
  | .ok n, some k =>
    match nanResult [k] with
    | some r => r
    | none => ((mulNum n (viewT64 k)).map (roundNum 0)).getD invalidT64

/-- The word that an element reads as (R182). -/
def readElem (fmt : Word) (scale : Option Word) (txr : Bool) (raw : Nat) : Word × Flags :=
  match intFmt fmt with
  | some (w, sg) => (if sg then sextW w raw else BitVec.ofNat 64 (raw % 2 ^ w), 0)
  | none =>
    scaledT64 (match floatFmt fmt txr with
      | some x => readFloat x raw
      | none => readT64 (BitVec.ofNat 64 raw)) scale

/-- The largest finite magnitude of a format as a multiple of a power of two (R178, R180). -/
def maxFinite (x : FFmt) : Nat × Int :=
  let top := 2 ^ x.e - 1
  let full := fun (c : Nat) (f : Nat) =>
    if c = 0 then (f, 1 - x.bias - (x.m : Int)) else (2 ^ x.m + f, (c : Int) - x.bias - (x.m : Int))
  match x.special with
  | .ieee => full (top - 1) (2 ^ x.m - 1)
  | .oneNaN => full top (2 ^ x.m - 2)
  | .finite => full top (2 ^ x.m - 1)
  | .custom => full (top - 1) (2 ^ x.m - 1)

/-- The code of a representable magnitude `k · 2^q`. -/
def encodeMag (x : FFmt) (k : Nat) (q : Int) : Nat :=
  if k = 0 then 0
  else
    let l := Nat.log2 k
    let top : Int := q + (l : Int)
    let emin : Int := 1 - x.bias
    if top < emin ∨ x.e = 0 then
      let d := q - (emin - (x.m : Int))
      if 0 ≤ d then k * 2 ^ d.toNat else k / 2 ^ (-d).toNat
    else
      let m := if x.m ≤ l then k / 2 ^ (l - x.m) else k * 2 ^ (x.m - l)
      (top + x.bias).toNat * 2 ^ x.m + (m - 2 ^ x.m)

/-- The code with its sign bit. -/
def encodeSigned (x : FFmt) (neg : Bool) (code : Nat) : Nat :=
  if x.s = 1 ∧ neg then 2 ^ (x.e + x.m) + code else code

/-- Is `a · 2^p` above `b · 2^q`? -/
def magAbove (a : Nat) (p : Int) (b : Nat) (q : Int) : Bool :=
  let w := min p q
  decide (b * 2 ^ (q - w).toNat < a * 2 ^ (p - w).toNat)

/-- The code of infinity; none where the format has none (R178, R180). -/
def infCode (x : FFmt) : Option Nat :=
  match x.special with
  | .ieee => some ((2 ^ x.e - 1) * 2 ^ x.m)
  | .custom => some ((2 ^ x.e - 1) * 2 ^ x.m)
  | _ => none

/-- The code of the canonical NaN; none where the format has none (R180, R183). -/
def nanCode (x : FFmt) : Option Nat :=
  match x.special with
  | .ieee => some ((2 ^ x.e - 1) * 2 ^ x.m + 2 ^ (x.m - 1))
  | .oneNaN => some (2 ^ (x.e + x.m) - 1)
  | .custom => if x.m = 0 then none else some (2 ^ (x.e + x.m) - 1)
  | .finite => none

/-- The code of the largest finite value. -/
def maxCode (x : FFmt) : Nat := let (k, q) := maxFinite x; encodeMag x k q

/-- An exact number or NaN written in a float format (R180, R183). In a format with no exponent every result is tiny (R180). -/
def writeNum' (x : FFmt) (v : Num) (nanNeg : Bool) (nv : Flags) : Nat × Flags :=
  match v with
  | .nan _ =>
    (match nanCode x with
     | some c => (encodeSigned x nanNeg c, nv)
     | none => (0, fNV))
  | .inf s =>
    if s && x.s == 0 then (0, nv ||| fNV)
    else (match infCode x with
      | some c => (encodeSigned x s c, nv)
      | none => (encodeSigned x s (maxCode x), nv ||| fNV))
  | .fin s n e =>
    if n = 0 then (encodeSigned x s 0, nv)
    else if s && x.s == 0 then (0, nv ||| fNV)
    else
      let r := roundP (x.m + 1) (1 - x.bias) 0 s n e
      let (k, q) := maxFinite x
      let tiny : Flags := if r.tiny || x.e == 0 then fUF else 0
      if magAbove r.m r.q k q then (encodeSigned x s ((infCode x).getD (maxCode x)), nv ||| fOF ||| fNX ||| tiny)
      else (encodeSigned x s (encodeMag x r.m r.q), nv ||| (if r.inexact then fNX ||| tiny else 0))

/-- The exact product of a word and a scale for a write, by R173: the number, the sign of a NaN, and NV. -/
def scaledNum (v : Word) (scale : Option Word) : Num × Bool × Flags :=
  match scale with
  | none => (viewT64 v, signOf v, if isSNaN v then fNV else 0)
  | some k =>
    let nv : Flags := if isSNaN v || isSNaN k then fNV else 0
    if isNaN v then (viewT64 v, signOf v, nv)
    else if isNaN k then (viewT64 k, signOf k, nv)
    else match mulNum (viewT64 v) (viewT64 k) with
      | some p => (p, false, nv)
      | none => (.nan false, false, fNV)

/-- The element that a word is written as (R183). -/
def writeElem (fmt : Word) (scale : Option Word) (txr : Bool) (v : Word) : Nat × Flags :=
  match intFmt fmt with
  | some (w, sg) =>
    let y : Int := if sg then v.toInt else v.toNat
    let lo : Int := if sg then -(2 ^ (w - 1) : Nat) else 0
    let hi : Int := if sg then (2 ^ (w - 1) : Nat) - 1 else (2 ^ w : Nat) - 1
    let z := if y < lo then lo else if hi < y then hi else y
    ((z % (2 ^ w : Nat)).toNat, if z = y then 0 else fNV)
  | none =>
    let (n, neg, nv) := scaledNum v scale
    match floatFmt fmt txr with
    | some x => writeNum' x n neg nv
    | none =>
      (match n with
       | .nan _ => ((withSign neg canonNaN).toNat, nv)
       | m => let (r, f) := roundNum 0 m; (r.toNat, f ||| nv))

end Sys2Proof.Machine
end

