-- ==== Sys2Proof/Config.lean ====
section
/-! DEFINITION. What the manual leaves open and the machine still goes on with: the free values, constants with no body, and the
few values that firmware outside the manual supplies. No proof can see any of them. -/
namespace Sys2Proof.Config

/-- A fresh 64-bit value that the manual leaves open; the argument is the state's counter `freeCtr` (DESIGN CHOICE, log entry 9). -/
opaque freeWord : Nat → BitVec 64

/-- A byte of memory whose contents the manual calls undefined (R79, R89, R113): the first argument counts the events that
made ranges undefined, the second is the home address (DESIGN CHOICE, log entry 9). -/
opaque freeByte : Nat → Nat → BitVec 8

/-- The trap entry that a field supervisor's firmware gives a placed tile (R362); its value is not in the manual (DESIGN CHOICE, log entry 11). -/
opaque firmwareTrapVec : Nat → BitVec 64

/-- The address of the channel-0 handler that placement takes from the task's module (R140); the manual names no field of the
module that holds it (DESIGN CHOICE, log entry 11). -/
opaque moduleHandlerZero : Nat → BitVec 64

/-- The measurement of a firmware image and the signature over a report (R426, R427); the algorithms are outside the manual
(DESIGN CHOICE, log entry 12). -/
opaque firmwareMeasurement : Nat → BitVec 512

/-- The signature over the words of an attestation report (R427; DESIGN CHOICE, log entry 12). -/
opaque signature : List (BitVec 64) → List (BitVec 64)

/-- The newest ZOG version that the firmware accepts and reports (R422, R427; DESIGN CHOICE, log entry 12). -/
opaque zogVersion : Nat

/-- Does the check of the signature of one firmware image pass (R426; DESIGN CHOICE, log entry 12)? -/
opaque firmwareVerifies : Nat → Nat → Bool

/-- The bytes of the native module into which the firmware translates a ZOG graph (R422, R423), a 64-byte header (R421) and the segment, by the number
of the translation, since two translations may differ: the graph's encoding is not in the manual (DESIGN CHOICE, log entry 12). -/
opaque zogTranslate : List (BitVec 8) → Nat → Nat → BitVec 8

/-- The configurations and data sections of the native module into which the firmware translates a ZOG graph, each with its address, by the number of the
translation (R422; DESIGN CHOICE, log entry 12). -/
opaque zogSections : List (BitVec 8) → Nat → List (BitVec 64 × List (BitVec 8))

/-- Where the launch records lie in a data section of a module, by the module's header and the section's address (R228, R230): the native module
carries no list of them in the manual (DESIGN CHOICE, log entry 81). -/
opaque launchRecords : List (BitVec 64) → BitVec 64 → List Nat

/-- The SHA3-512 digest (R422, R426), an algorithm outside the manual (DESIGN CHOICE, log entry 12). -/
opaque sha3 : List (BitVec 8) → BitVec 512

end Sys2Proof.Config
end

