-- ==== Sys2Proof/Machine/Mem.lean ====
section
/-! DEFINITION. Memory: one list of cells for every home in the module. A home address below 2^50 is a physical address of
global memory (R76); `scratchKey` gives the home address of a byte of a tile's scratch (R31, R53). -/
namespace Sys2Proof.Machine

/-- What an address that memory does not list reads as (DESIGN CHOICE, log entry 1). -/
def unlisted : Byte := 0

/-- The home address of byte `off` of tile `t`'s scratch. -/
def scratchKey (t off : Nat) : Nat := 2 ^ 52 + t * 2 ^ 20 + off

/-- The byte that a list of cells holds at an address. DESIGN CHOICE, log entry 1. -/
def cellAt : List Host.Cell → Nat → Byte
  | [], _ => unlisted
  | (k, b) :: r, a => if k = a then b else if a < k then unlisted else cellAt r a

/-- Write one byte, keeping the addresses rising and listing no byte equal to what an unlisted address reads as. -/
def cellSet : List Host.Cell → Nat → Byte → List Host.Cell
  | [], a, b => if b = unlisted then [] else [(a, b)]
  | (k, c) :: r, a, b =>
    if a < k then (if b = unlisted then (k, c) :: r else (a, b) :: (k, c) :: r)
    else if a = k then (if b = unlisted then r else (k, b) :: r)
    else (k, c) :: cellSet r a b

/-- Remove every cell of a stretch of addresses. -/
def cellClear (m : List Host.Cell) (lo hi : Nat) : List Host.Cell :=
  m.filter (fun c => !(decide (lo ≤ c.1) && decide (c.1 < hi)))

/-- The canonical form of memory: addresses strictly rising from `lo` on, no byte listed that need not be. -/
def wfFrom : Nat → List Host.Cell → Bool
  | _, [] => true
  | lo, (k, b) :: r => decide (lo ≤ k) && decide (b ≠ unlisted) && wfFrom (k + 1) r

/-- The canonical form of memory. -/
def Memory.wf (m : List Host.Cell) : Bool := wfFrom 0 m

/-- The event that made a byte undefined, if its contents are undefined now (R79, R89). -/
def undefAt : List Undef → Nat → Option Nat
  | [], _ => none
  | u :: r, a => if u.lo ≤ a ∧ a < u.hi then some u.epoch else undefAt r a

/-- Take one byte out of the undefined stretches. -/
def undefCut : List Undef → Nat → List Undef
  | [], _ => []
  | u :: r, a =>
    if u.lo ≤ a ∧ a < u.hi then
      (if u.lo < a then [{ u with hi := a }] else []) ++ (if a + 1 < u.hi then [{ u with lo := a + 1 }] else []) ++ undefCut r a
    else u :: undefCut r a

/-- Read one byte at its home. -/
def readByte (s : State) (a : Nat) : Byte :=
  match undefAt s.undef a with
  | some e => Config.freeByte e a
  | none => cellAt s.mem a

/-- Write one byte at its home. -/
def writeByte (s : State) (a : Nat) (b : Byte) : State :=
  { s with mem := cellSet s.mem a b, undef := undefCut s.undef a }

/-- Read `n` bytes from a home address up. -/
def readBytes (s : State) (a : Nat) : Nat → List Byte
  | 0 => []
  | n + 1 => readByte s a :: readBytes s (a + 1) n

/-- Write bytes from a home address up. -/
def writeBytes (s : State) (a : Nat) : List Byte → State
  | [] => s
  | b :: r => writeBytes (writeByte s a b) (a + 1) r

/-- Read a little-endian number of `n` bytes (R3). -/
def readNum (s : State) (a n : Nat) : Nat := numOf (readBytes s a n)

/-- Write a little-endian number of `n` bytes (R3). -/
def writeNum (s : State) (a n v : Nat) : State := writeBytes s a (bytesOf n v)

/-- Read a doubleword. -/
def readD (s : State) (a : Nat) : Word := BitVec.ofNat 64 (readNum s a 8)

/-- Write a doubleword. -/
def writeD (s : State) (a : Nat) (v : Word) : State := writeNum s a 8 v.toNat

/-- Set a stretch of memory to zero bytes. -/
def clearRange (s : State) (lo hi : Nat) : State :=
  { s with
    mem := cellClear s.mem lo hi
    undef := s.undef.flatMap (fun u =>
      (if u.lo < lo then [{ u with hi := min u.hi lo }] else []) ++ (if hi < u.hi then [{ u with lo := max u.lo hi }] else [])) }

/-- Make the contents of a stretch of memory undefined. DESIGN CHOICE, log entry 9. -/
def havocRange (s : State) (lo hi : Nat) : State :=
  { s with mem := cellClear s.mem lo hi, undef := { lo := lo, hi := hi, epoch := s.freeCtr } :: s.undef, freeCtr := s.freeCtr + 1 }

/-- Is the line that holds a home address poisoned (R83)? -/
def poisoned (s : State) (a : Nat) : Bool := s.poison.contains (a / 64)

/-- Poison a line (R83, R86). -/
def poisonLine (s : State) (a : Nat) : State := { s with poison := insertNat (a / 64) s.poison }

/-- A store of a full 64-byte line clears its poison (R83). -/
def clearPoison (s : State) (a : Nat) : State := { s with poison := s.poison.filter (· ≠ a / 64) }

end Sys2Proof.Machine
end

