-- ==== Sys2Proof/Machine/Places.lean ====
section
/-! DEFINITION. Places: coordinates, groups of tiles, the rim, partitions and ranks, links and routes (01_places.md, R376 to
R379), and the accessors of the state's units. -/
namespace Sys2Proof.Machine

/-- A tile's x coordinate (R8). -/
def tileX (t : Nat) : Nat := t % 256
/-- A tile's y coordinate (R8). -/
def tileY (t : Nat) : Nat := t / 256
/-- The tile at (x, y). -/
def tileAt (x y : Nat) : Nat := y * 256 + x
/-- A tile's column in its field (R8). -/
def colOf (t : Nat) : Nat := tileX t % 32
/-- A tile's row in its field (R8). -/
def rowOf (t : Nat) : Nat := tileY t % 32
/-- The index of a tile's field (R12). -/
def fieldOf (t : Nat) : Nat := tileY t / 32 * 8 + tileX t / 32
/-- The tile at (col, row) of a field (R8). -/
def tileIn (f col row : Nat) : Nat := tileAt (f % 8 * 32 + col) (f / 8 * 32 + row)
/-- The cluster of a tile, numbered over the module (R15). -/
def clusterOf (t : Nat) : Nat := fieldOf t * 128 + (rowOf t / 2 * 8 + colOf t / 4)
/-- A tile's member number in its cluster (R64). -/
def memberOf (t : Nat) : Nat := colOf t % 4 + 4 * (rowOf t % 2)
/-- Member `i` of a cluster. -/
def memberTile (cl i : Nat) : Nat :=
  let c := cl % 128
  tileIn (cl / 128) (c % 8 * 4 + i % 4) (c / 8 * 2 + i / 4)

/-- The four directions are numbered 0 north, 1 east, 2 south, 3 west; a port is `4 · plane + direction` (R130). -/
def opposite (d : Nat) : Nat := (d + 2) % 4

/-- The neighbour of a tile in a direction, on the wafer. -/
def neighbour (t d : Nat) : Option Nat :=
  let x := tileX t; let y := tileY t
  match d with
  | 0 => if y = 0 then none else some (tileAt x (y - 1))
  | 1 => if x ≥ 255 then none else some (tileAt (x + 1) y)
  | 2 => if y ≥ 191 then none else some (tileAt x (y + 1))
  | _ => if x = 0 then none else some (tileAt (x - 1) y)

/-- The field and edge of a cistern (R20). -/
def cisternPlace (c : Nat) : Nat × Nat :=
  if c < 8 then (c, 0)
  else if c < 12 then ((c - 7) * 8 + 7, 1)
  else if c < 20 then (5 * 8 + (19 - c), 2)
  else ((24 - c) * 8, 3)

/-- The field and edge of a conduit (R20). -/
def conduitPlace (c : Nat) : Nat × Nat :=
  match c with
  | 0 => (0, 3)
  | 1 => (7, 1)
  | 2 => (47, 1)
  | _ => (40, 3)

/-- Is a tile on an edge of its field (R21)? -/
def onEdge (t d : Nat) : Bool :=
  match d with
  | 0 => rowOf t == 0
  | 1 => colOf t == 31
  | 2 => rowOf t == 31
  | _ => colOf t == 0

/-- The edge position of an edge tile (R379): its row on an east or west edge, its column on the others. -/
def edgePos (t d : Nat) : Nat := if d % 2 = 1 then rowOf t else colOf t

/-- The cistern that the port of a tile in direction `d` faces (R20, R21). -/
def cisternFacing (t d : Nat) : Option Nat :=
  if onEdge t d then (List.range 24).find? (fun c => cisternPlace c == (fieldOf t, d)) else none

/-- The conduit that the port of a tile in direction `d` faces (R20, R21). -/
def conduitFacing (t d : Nat) : Option Nat :=
  if onEdge t d then (List.range 4).find? (fun c => conduitPlace c == (fieldOf t, d)) else none

/-- Does a link of the tile in direction `d` leave its field? -/
def leavesField (t d : Nat) : Bool := onEdge t d

/- Accessors of the state's units -/

/-- A tile after reset with its own number. DESIGN CHOICE, log entry 2. DEDUCED, log entry 37. -/
def freshTile (id : Nat) : Tile := { id := id }

/-- The tile `id`: the current tile, or one of the others. -/
def getTile (s : State) (id : Nat) : Tile :=
  if s.tile.id = id then s.tile else { smGet (freshTile id) s.others id with id := id }

/-- Put back a tile. -/
def putTile (s : State) (t : Tile) : State :=
  if s.tile.id = t.id then { s with tile := t } else { s with others := smSet s.others t.id t }

/-- Change a tile. -/
def updTile (s : State) (id : Nat) (g : Tile → Tile) : State := putTile s (g (getTile s id))

/-- Change the current tile. -/
def onTile (s : State) (g : Tile → Tile) : State := { s with tile := g s.tile }

/-- Make tile `id` the current tile. -/
def focus (s : State) (id : Nat) : State :=
  if s.tile.id = id then s
  else { s with tile := { smGet (freshTile id) s.others id with id := id }, others := smSet (smErase s.others id) s.tile.id s.tile }

/-- A field's state. -/
def getField (s : State) (f : Nat) : Field := smGet {} s.fields f
/-- Change a field. -/
def updField (s : State) (f : Nat) (g : Field → Field) : State := { s with fields := smSet s.fields f (g (getField s f)) }
/-- A cluster's state. -/
def getCluster (s : State) (c : Nat) : Cluster := smGet {} s.clusters c
/-- Change a cluster. -/
def updCluster (s : State) (c : Nat) (g : Cluster → Cluster) : State := { s with clusters := smSet s.clusters c (g (getCluster s c)) }
/-- A cistern's state. -/
def getCistern (s : State) (c : Nat) : Cistern := smGet {} s.cisterns c
/-- Change a cistern. -/
def updCistern (s : State) (c : Nat) (g : Cistern → Cistern) : State := { s with cisterns := smSet s.cisterns c (g (getCistern s c)) }
/-- A conduit's state. -/
def getConduit (s : State) (c : Nat) : Conduit := smGet {} s.conduits c
/-- Change a conduit. -/
def updConduit (s : State) (c : Nat) (g : Conduit → Conduit) : State := { s with conduits := smSet s.conduits c (g (getConduit s c)) }
/-- A conduit set. -/
def getCSet (s : State) (k : Nat) : CSet := smGet {} s.csets k
/-- Change a conduit set. -/
def updCSet (s : State) (k : Nat) (g : CSet → CSet) : State := { s with csets := smSet s.csets k (g (getCSet s k)) }
/-- A partition. -/
def getPart (s : State) (p : Nat) : Partition := smGet {} s.parts p
/-- Change a partition. -/
def updPart (s : State) (p : Nat) (g : Partition → Partition) : State := { s with parts := smSet s.parts p (g (getPart s p)) }
/-- A virtual function. -/
def getVf (s : State) (v : Nat) : VFun := smGet {} s.vfs v
/-- Change a virtual function. -/
def updVf (s : State) (v : Nat) (g : VFun → VFun) : State := { s with vfs := smSet s.vfs v (g (getVf s v)) }
/-- A launch. -/
def getLaunch (s : State) (l : Nat) : Launch := smGet { live := false } s.launches l
/-- Change a launch. -/
def updLaunch (s : State) (l : Nat) (g : Launch → Launch) : State := { s with launches := smSet s.launches l (g (getLaunch s l)) }

/-- Put a step of the hardware at the end of the schedule, at tile `t`, unless the schedule already holds it. -/
def scheduleAt (s : State) (t : Nat) (i : Instr) (args : List Nat) : State :=
  if s.agenda.contains (.event t i args) then s else { s with agenda := s.agenda ++ [.event t i args] }

/-- Put steps at the end of the schedule, at tile `t`. DESIGN CHOICE, log entry 3. -/
def schedule (s : State) (t : Nat) (is : List (Instr × List Nat)) : State :=
  is.foldl (fun u e => scheduleAt u t e.1 e.2) s

/-- Argument `k` of the hardware step whose turn it is. -/
def argAt (s : State) (k : Nat) : Nat := s.arg.getD k 0

/-- Add a turn to the schedule unless it is there. -/
def addTurn (s : State) (t : Turn) : State := if s.agenda.contains t then s else { s with agenda := s.agenda ++ [t] }

/-- A fresh free value (DESIGN CHOICE, log entry 9). -/
def freshWord (s : State) : Word × State := (Config.freeWord s.freeCtr, { s with freeCtr := s.freeCtr + 1 })

/- Partitions and ranks -/

/-- The fields of a partition in increasing index (R16, R376). -/
def partFields (s : State) (p : Nat) : List Nat := setBits 48 (getPart s p).fields.toNat

/-- The partition that holds a field (R376). -/
def partOfField (s : State) (f : Nat) : Option Nat := (s.parts.find? (fun e => e.2.fields.getLsbD f)).map (·.1)

/-- The partition of a tile. -/
def partOfTile (s : State) (t : Nat) : Option Nat := partOfField s (fieldOf t)

/-- The partition number that the accesses of a tile carry; 64, which no OWNER field can hold, outside every partition (R79). -/
def partNo (s : State) (t : Nat) : Nat := (partOfTile s t).getD 64

/-- The tile count of a partition, 1,024 · n (R16). -/
def tileCount (s : State) (p : Nat) : Nat := 1024 * (partFields s p).length

/-- The rank table of a partition (R16): formed by ordinal, row and column, and changed only by RANKSET (R359). -/
def rankEntry (s : State) (p r : Nat) : RankEntry :=
  match smFind (getPart s p).ranks r with
  | some e => e
  | none => { tile := tileIn ((partFields s p).getD (r / 1024) 0) (r % 32) (r % 1024 / 32) }

/-- The entry of a rank as the network interface of tile `t` uses it: its copy, or on a miss the table's entry (R16). -/
def rankSeen (s : State) (t p r : Nat) : RankEntry :=
  match smFind (getTile s t).rankCache r with
  | some e => e
  | none => rankEntry s p r

/-- A network interface takes an entry of the rank table into its copy of 512 entries (R16); the oldest leaves. DESIGN CHOICE, log entry 26. -/
def Tile.keepRank (u : Tile) (r : Nat) (e : RankEntry) : Tile := { u with rankCache := ((r, e) :: u.rankCache.filter (fun q => q.1 != r)).take 512 }

/-- The entry of a rank is fetched into the copy of tile `t` unless it is there (R16). -/
def rankFill (s : State) (t r : Nat) : State :=
  if ((getTile s t).rankCache.any (fun q => q.1 == r)) then s else updTile s t (fun u => u.keepRank r (rankEntry s (partNo s t) r))

/-- The logical rank that a tile holds in its partition (R16). -/
def rankOf (s : State) (t : Nat) : Nat :=
  match partOfTile s t with
  | none => 0
  | some p =>
    match (getPart s p).ranks.find? (fun e => e.2.tile == t) with
    | some e => e.1
    | none => ((partFields s p).findIdx (· == fieldOf t)) * 1024 + rowOf t * 32 + colOf t

/-- Is a field present (R24)? -/
def fieldPresent (s : State) (f : Nat) : Bool := s.presentFields.getLsbD f && decide (f < 48)

/-- The fields next to a field on the wafer, with the edge each lies across. -/
def fieldNeighbours (f : Nat) : List (Nat × Nat) :=
  (if f ≥ 8 then [(f - 8, 0)] else []) ++ (if f % 8 < 7 then [(f + 1, 1)] else []) ++
  (if f < 40 then [(f + 8, 2)] else []) ++ (if f % 8 > 0 then [(f - 1, 3)] else [])

/-- The physical column of a logical tile: one further than its logical column from the bypassed column of its row on (R23). -/
def physCol (s : State) (t : Nat) : Nat :=
  match smFind (getField s (fieldOf t)).bypass (rowOf t) with
  | some b => if colOf t < b then colOf t else colOf t + 1
  | none => colOf t

/-- Is the edge between two adjacent fields open by R378's first sentence: one partition, and neither in reset? A fused-off field's sluice is
closed on every edge (R24). -/
def edgeOpen (s : State) (f g : Nat) : Bool :=
  fieldPresent s f && fieldPresent s g && (getField s f).resetState == 0 && (getField s g).resetState == 0 &&
  match partOfField s f, partOfField s g with
  | some p, some q => p == q
  | _, _ => false

/-- Does an enabled static window open edge position `i`, plane `pl`, from field `f` to field `g` (R379)? A field in reset has every edge in
the reset state (R380). -/
def windowOpen (s : State) (f g i pl : Nat) : Bool :=
  (getField s f).resetState == 0 && (getField s g).resetState == 0 && s.windows.any (fun e => let w := e.2
    bitOf w 16 && !bitOf w 17 && bitsOf w 5 0 == f && bitsOf w 13 8 == g && decide (bitsOf w 29 24 ≤ i) && decide (i ≤ bitsOf w 37 32)
      && bitOf w (18 + pl))

/-- Fields that can be reached from `seen` through open edges: one sweep for each unit of fuel. -/
def spread (ok : Nat → Bool) : Nat → List Nat → List Nat
  | 0, seen => seen
  | n + 1, seen =>
    spread ok n (seen ++ ((seen.flatMap (fun f => (fieldNeighbours f).map (·.1))).filter (fun g => ok g && !seen.contains g)).eraseDups)

/-- Do some fields form one 4-connected group (R376)? -/
def connected (fs : List Nat) : Bool :=
  match fs with
  | [] => true
  | f :: _ => fs.all (spread (fun g => fs.contains g) 48 [f]).contains

/- Routes of the dynamic network (R19) -/

/-- A straight run of a route: its first tile, its direction and its hops. -/
structure Leg where
  start : Nat
  dir : Nat
  hops : Nat
  deriving DecidableEq, Repr

/-- The tile `k` hops from a tile in a direction. -/
def hopsAway (t d k : Nat) : Nat :=
  match d with
  | 0 => t - 256 * k
  | 1 => t + k
  | 2 => t + 256 * k
  | _ => t - k

/-- Does a tile lie in a field of a set? -/
def tileOn (mask : BitVec 48) (t : Nat) : Bool := mask.getLsbD (fieldOf t)

/-- The field edges that a run crosses: the tile before each edge, and the direction. -/
def Leg.edges (l : Leg) : List (Nat × Nat) :=
  ((List.range l.hops).map (fun k => (hopsAway l.start l.dir k, l.dir))).filter (fun e => fieldOf e.1 != fieldOf (hopsAway e.1 e.2 1))

/-- The x-first way between two tiles. -/
def straightLegs (a b : Nat) : List Leg :=
  let ax := tileX a; let bx := tileX b; let ay := tileY a; let by_ := tileY b
  let corner := tileAt bx ay
  (if ax < bx then [{ start := a, dir := 1, hops := bx - ax }] else if bx < ax then [{ start := a, dir := 3, hops := ax - bx }] else []) ++
  (if ay < by_ then [{ start := corner, dir := 2, hops := by_ - ay }] else if by_ < ay then [{ start := corner, dir := 0, hops := ay - by_ }] else [])

/-- The coordinates at which a shortest way around fused-off fields can turn: the two sides of every field, and those of its ends. -/
def turnLines (n a b : Nat) : List Nat :=
  insertNat a (insertNat b ((List.range n).flatMap (fun i => [32 * i, 32 * i + 31])))

/-- The next place along a line in a direction, with its hops. -/
def nextOn (xs ys : List Nat) (mask : BitVec 48) (t d : Nat) : Option (Nat × Nat) :=
  let x := tileX t; let y := tileY t
  let r := match d with
    | 0 => ((ys.filter (· < y)).getLast?).map (fun v => (tileAt x v, y - v))
    | 1 => (xs.find? (x < ·)).map (fun v => (tileAt v y, v - x))
    | 2 => (ys.find? (y < ·)).map (fun v => (tileAt x v, v - y))
    | _ => ((xs.filter (· < x)).getLast?).map (fun v => (tileAt v y, x - v))
  r.filter (fun q => tileOn mask q.1)

/-- One sweep over the places: each takes the least way on that its neighbours offer. -/
def relaxWays (xs ys : List Nat) (mask : BitVec 48) (m : SMap Nat) : SMap Nat :=
  (ys.flatMap (fun y => xs.map (fun x => tileAt x y))).foldl (fun m t =>
    if !tileOn mask t then m
    else (List.range 4).foldl (fun m d => match nextOn xs ys mask t d with
      | none => m
      | some (u, h) => match smFind m u, smFind m t with
        | some w, some v => if w + h < v then smSet m t (w + h) else m
        | some w, none => smSet m t (w + h)
        | none, _ => m) m) m

/-- The least hops to the end from every place, swept until nothing changes. -/
def wayHops (xs ys : List Nat) (mask : BitVec 48) : Nat → SMap Nat → SMap Nat
  | 0, m => m
  | n + 1, m => let m' := relaxWays xs ys mask m; if m' = m then m else wayHops xs ys mask n m'

/-- The route from a place: an x hop wherever one keeps it on a shortest way, else a y hop; of two x hops or two y hops that both do, the one
toward the lower coordinate (DESIGN CHOICE, log entry 14). -/
def wayFrom (xs ys : List Nat) (mask : BitVec 48) (m : SMap Nat) (b : Nat) : Nat → Nat → List Leg
  | 0, _ => []
  | n + 1, t =>
    if t = b then []
    else match [3, 1, 0, 2].findSome? (fun d => (nextOn xs ys mask t d).bind (fun q =>
        match smFind m q.1, smFind m t with
        | some w, some v => if w + q.2 = v then some (d, q) else none
        | _, _ => none)) with
      | none => []
      | some (d, u, h) => { start := t, dir := d, hops := h } :: wayFrom xs ys mask m b n u

/-- The fixed route between two tiles over a set of fields (R19): through those fields alone, with the fewest hops, x hops first; none when
the fields do not join them. -/
def routeOver (mask : BitVec 48) (a b : Nat) : Option (List Leg) :=
  if !(tileOn mask a && tileOn mask b) then none
  else if ((straightLegs a b).flatMap Leg.edges).all (fun e => tileOn mask (hopsAway e.1 e.2 1)) then some (straightLegs a b)
  else
    let xs := turnLines 8 (tileX a) (tileX b)
    let ys := turnLines 6 (tileY a) (tileY b)
    let m := wayHops xs ys mask 256 [(b, 0)]
    if (smFind m a).isSome then some (wayFrom xs ys mask m b 256 a) else none

/-- The hops of a route (R19). -/
def legHops (l : List Leg) : Nat := l.foldl (fun n g => n + g.hops) 0

/-- The route between two tiles of a partition: it was fixed over the partition's fields when the partition was formed (R19; within a
partition no route crosses a closed edge unless a field is in reset, R379; DEDUCED, log entry 14). -/
def partRoute (s : State) (p a b : Nat) : Option (List Leg) := routeOver ((getPart s p).fields &&& (getPart s p).present) a b

/-- The first edge of a route that is closed (R14, R378). -/
def closedEdge (s : State) (l : List Leg) : Option (Nat × Nat) :=
  (l.flatMap Leg.edges).find? (fun e => !edgeOpen s (fieldOf e.1) (fieldOf (hopsAway e.1 e.2 1)))

/-- Does the route between two tiles of one partition cross a closed edge (R19, R379)? DEDUCED, log entry 14. -/
def routeClosed (s : State) (a b : Nat) : Bool :=
  let f := fieldOf a
  if f = fieldOf b then (getField s f).resetState != 0
  else match partOfField s f with
    | none => true
    | some p => match partRoute s p a b with
      | none => true
      | some l => (closedEdge s l).isSome

/-- The edge tile through which traffic between a cistern and a place crosses (R438). -/
def edgeTile (c t : Nat) : Nat :=
  let (f, e) := cisternPlace c
  let fx := f % 8 * 32; let fy := f / 8 * 32
  let clamp := fun (v lo : Nat) => if v < lo then 0 else min 31 (v - lo)
  match e with
  | 0 => tileAt (fx + clamp (tileX t) fx) fy
  | 2 => tileAt (fx + clamp (tileX t) fx) (fy + 31)
  | 1 => tileAt (fx + 31) (fy + clamp (tileY t) fy)
  | _ => tileAt fx (fy + clamp (tileY t) fy)

/-- The edge tiles between which traffic of one cistern to another passes: it enters the network where the rule leads tile (15, 15) of the
other's field, and leaves it where the rule leads that edge tile (R438). -/
def edgeTiles (c d : Nat) : Nat × Nat :=
  let out := edgeTile c (tileIn (cisternPlace d).1 15 15)
  (out, edgeTile d out)

/-- The fields over which traffic of a tile's partition to the cisterns is routed: those that were present when it was formed (R19). -/
def presentFor (s : State) (t : Nat) : BitVec 48 :=
  match partOfTile s t with
  | some p => (getPart s p).present
  | none => s.presentFields

/-- Does dynamic traffic between two tiles stand at the edge of a field in reset, where it waits until the reset ends (R380)? -/
def trafficHeld (s : State) (mask : BitVec 48) (a b : Nat) : Bool :=
  (getField s (fieldOf a)).resetState != 0 || match routeOver mask a b with
  | none => true
  | some l => (l.flatMap Leg.edges).any (fun e => (getField s (fieldOf (hopsAway e.1 e.2 1))).resetState != 0)

/-- Tile hops between a tile and the edge tile of a cistern that its requests cross, along the route of R19 (R116, R438). A cistern that no
route reaches counts more hops than any route has. -/
def hopsTo (s : State) (t c : Nat) : Nat :=
  match routeOver (presentFor s t) t (edgeTile c t) with
  | some l => legHops l
  | none => 2 ^ 20

/-- The present cisterns in increasing index (R76). -/
def presentList (s : State) : List Nat := setBits 24 s.presentCisterns.toNat

/-- The cisterns that were present when a tile's partition was formed, in increasing index (R116). -/
def formedCisterns (s : State) (t : Nat) : List Nat :=
  match partOfTile s t with
  | some p => setBits 24 (getPart s p).cist.toNat
  | none => presentList s

/-- The lead cistern of a tile: of those present at formation the one with the fewest hops, the lower index on a tie (R116). -/
def nearestCistern (s : State) (t : Nat) : Nat :=
  ((formedCisterns s t).foldl (fun best c => match best with
    | none => some c
    | some b => if hopsTo s t c < hopsTo s t b then some c else some b) none).getD 0

/-- The capacity of a cistern in GB: 48 with all 32 HBM channels, and less by 1.5 GB, in whole GB, for each that has failed (R25).
DESIGN CHOICE, log entry 8. -/
def capacityOf (s : State) (c : Nat) : Nat := min (smGet 48 s.capacityGB c) (48 * min 32 (smGet 32 s.hbmChannels c) / 32)

/-- The capacity of a cistern in bytes (R25, R76). DESIGN CHOICE, log entry 8. -/
def capacity (s : State) (c : Nat) : Nat := capacityOf s c * 10 ^ 9

/-- The interleaved size S of each cistern (R76). -/
def interSize (s : State) : Nat :=
  let m := (presentList s).foldl (fun a c => min a (capacity s c)) (44 * 2 ^ 30)
  m / 2 ^ 30 * 2 ^ 30

/-- The first physical address of a cistern's local region (R76). -/
def localBase (c : Nat) : Nat := 2 ^ 49 + c * 2 ^ 36

/-- The cistern of a physical address and the address inside it (R76, R77); none where no memory is. -/
def cisternOf (s : State) (pa : Nat) : Option (Nat × Nat) :=
  let pl := presentList s
  let n := pl.length
  let sz := interSize s
  if pa < n * sz then
    let j := pa / (n * 2 ^ 30)
    let o := pa - j * n * 2 ^ 30
    let gr := if bitOf (smGet 0x3E s.stripes j) 7 then 65536 else 4096
    let g := o / gr
    some (pl.getD (g % n) 0, j * 2 ^ 30 + g / n * gr + o % gr)
  else if pa < 2 ^ 49 then none
  else
    let c := (pa - 2 ^ 49) / 2 ^ 36
    let o := (pa - 2 ^ 49) % 2 ^ 36
    if pl.contains c ∧ o < capacity s c - sz then some (c, sz + o) else none

/-- The OWNER of the range that holds a physical address (R78, R79). -/
def ownerOf (s : State) (pa : Nat) : Nat :=
  if pa < 2 ^ 49 then
    bitsOf (smGet 0x3E s.stripes (pa / ((presentList s).length * 2 ^ 30))) 5 0
  else
    let c := (pa - 2 ^ 49) / 2 ^ 36
    let u := (pa - 2 ^ 49) % 2 ^ 36 / 2 ^ 24
    bitsOf (smGet 0x3E s.localUnits (c * 4096 + u)) 5 0

/-- The scratch size of a tile (R53). -/
def scratchSize (t : Tile) : Nat := t.tileSplit * 65536

/-- Is a tile an edge tile of a conduit, and in which direction is its send port (R403)? -/
def sendDir (t : Nat) : Option Nat :=
  if (conduitFacing t 3).isSome then some 3 else if (conduitFacing t 1).isSome then some 1 else none

/-- The conduit of an edge tile (R403). -/
def conduitOfTile (t : Nat) : Option Nat := (sendDir t).bind (conduitFacing t)

/-- The direction in which an edge tile faces its cistern (R21). -/
def rimDir (t : Nat) : Option Nat := (List.range 4).find? (fun d => (cisternFacing t d).isSome)

end Sys2Proof.Machine
end

