-- ==== Sys2Proof/Machine/Slices.lean ====
section
/-! DEFINITION. The home side of memory: the cache slices of the cisterns (R80), and the recall of a line that a cache near a tile holds
(R97, R106). Only where a line stands, and whether it is dirty, is state: its bytes are the home's (DEDUCED, log entry 13). -/
namespace Sys2Proof.Machine

/-- Every tile that the state lists. -/
def allTiles (s : State) : List Nat := s.tile.id :: s.others.map (·.1)

/-- The home's slice holds a line, dirty when `dirty` or when it was (R80): 65,536 sets of 16 ways over 32 banks, which cistern address bits
[10:6] select. A line that leaves goes back to the stack if it is dirty. DESIGN CHOICE, log entry 34. -/
def sliceAt (s : State) (pa : Nat) (dirty : Bool) : State :=
  match cisternOf s pa with
  | none => s
  | some (c, ca) => updCistern s c (fun u => { u with lines :=
      (assocPut (fun d => d.line == ca / 64) (fun d => d.line % 65536 == ca / 64 % 65536) 16 u.lines
        { line := ca / 64, dirty := dirty || u.lines.any (fun d => d.line == ca / 64 && d.dirty) }).1 })

/-- Take a line out of every cache that holds it and satisfies a test, and out of the lines that owner-window units hold dirty; what is dirty
goes back to the home (R97, R106). -/
def recallWhere (s : State) (line : Nat) (p : DLine → Bool) : State :=
  let hit := fun (d : DLine) => d.line == line && p d
  let dirty := (allTiles s).any (fun id => (getTile s id).dcache.any (fun d => hit d && d.dirty) || (getTile s id).ownerLines.contains line) ||
    s.clusters.any (fun e => e.2.poolLines.any (fun d => hit d && d.dirty))
  let s1 := (allTiles s).foldl (fun u id =>
    if (getTile u id).dcache.any hit || (getTile u id).ownerLines.contains line then
      updTile u id (fun t => { t with dcache := t.dcache.filter (fun d => !hit d), ownerLines := t.ownerLines.filter (· != line) }) else u) s
  let s2 := s1.clusters.foldl (fun u e =>
    if e.2.poolLines.any hit then updCluster u e.1 (fun c => { c with poolLines := c.poolLines.filter (fun d => !hit d) }) else u) s1
  if dirty then sliceAt s2 (line * 64) true else s2

/-- The home recalls a line (R97, R106): every cached copy is dropped. -/
def recallLine (s : State) (line : Nat) : State := recallWhere s line (fun _ => true)

/-- A read at the home by an agent with no cache of its own (a walker, a fetch, the hardware of a field): a dirty copy is recalled, and the line
stands in the home's slice (R40, R80, R97). -/
def homeRead (s : State) (pa : Nat) : State := sliceAt (recallWhere s (pa / 64) (·.dirty)) pa false

/-- A write at the home by such an agent: every copy is recalled, and the line stands dirty in the slice (R40, R80, R97). -/
def homeWrite (s : State) (pa : Nat) : State := sliceAt (recallLine s (pa / 64)) pa true

end Sys2Proof.Machine
end

