-- ==== Sys2Proof/Machine/Translate.lean ====
section
/-! DEFINITION. Address spaces and translation (02_address_spaces.md): the regions of the virtual space, the page-table walk, the
permission and ownership checks, the tile's translation buffer, and what an access resolves to. -/
namespace Sys2Proof.Machine

/-- The kind of an access, in the numbering of XFAULT_INFO.ACCESS (R47). -/
inductive AccKind where
  | read | write | exec | atomic
  deriving DecidableEq, Repr

/-- The ACCESS code of R47. -/
def AccKind.code : AccKind → Nat
  | .read => 0 | .write => 1 | .exec => 2 | .atomic => 3

/-- A failed check: PROTF, SUB and LEVEL of XFAULT_INFO (R47, R48). -/
structure XErr where
  prot : Bool
  sub : Nat
  level : Nat := 0
  deriving DecidableEq, Repr

/-- The value of XFAULT_INFO (R47). -/
def mkInfo (origin stream index : Nat) (k : AccKind) (e : XErr) : Word :=
  at_ 32 (index % 2 ^ 32) ||| at_ 16 stream ||| at_ 13 origin ||| at_ 10 e.level ||| at_ 8 k.code ||| at_ 4 (if e.prot then 1 else 0) ||| at_ 0 e.sub

/-- The fault of a failed check. -/
def mkFault (origin stream index : Nat) (k : AccKind) (va : Word) (e : XErr) : MemFault :=
  { cause := if e.prot then .prot else .xlate, va := va, info := mkInfo origin stream index k e }

/-- The regions of R27. -/
inductive Region where
  | global
  | code
  | owner (i : Nat)
  | place (rank off : Nat)
  | device
  | descr (off : Nat)
  | localScr (off : Nat)
  deriving DecidableEq, Repr

/-- Canonical form (R26). -/
def canonical (va : Word) : Bool :=
  let t := bitsOf va 63 56
  t == 0 || t == 255

/-- The region of an address, or NONCANON or RESWIN (R26, R27). -/
def regionOf (va : Word) : Except XErr Region :=
  let a := va.toNat
  if !canonical va then .error { prot := false, sub := 0 }
  else if a < 2 ^ 56 then .ok .global
  else if 0xFF40000000000000 ≤ a ∧ a ≤ 0xFF400FFFFFFFFFFF then .ok .code
  else if 0xFF60000000000000 ≤ a ∧ a ≤ 0xFF6000FFFFFFFFFF then .ok (.owner ((a - 0xFF60000000000000) / 2 ^ 32))
  else if 0xFF80000000000000 ≤ a ∧ a ≤ 0xFF80000FFFFFFFFF then
    .ok (.place ((a - 0xFF80000000000000) / 2 ^ 20) (a % 2 ^ 20))
  else if 0xFFFFFE0000000000 ≤ a ∧ a ≤ 0xFFFFFEFFFFFFFFFF then
    (if 0xFFFFFEFFFFFFF000 ≤ a then .ok (.descr (a % 4096)) else .ok .device)
  else if 0xFFFFFFFFFFF00000 ≤ a then .ok (.localScr (a % 2 ^ 20))
  else .error { prot := false, sub := 1 }

/-- Does an address lie in the local scratch window (R32, R134)? -/
def isLocal (va : Word) : Bool := decide (0xFFFFFFFFFFF00000 ≤ va.toNat)

/-- The local-scratch-window address of an offset (R32). -/
def localVa (off : Nat) : Word := BitVec.ofNat 64 (0xFFFFFFFFFFF00000 + off)

/-- The place-window address of an offset in a rank's scratch (R31). -/
def placeVa (rank off : Nat) : Word := BitVec.ofNat 64 (0xFF80000000000000 + rank * 2 ^ 20 + off)

/-- The first address of a code-window slot (R28). -/
def slotBase (i : Nat) : Word := BitVec.ofNat 64 (0xFF40000000000000 + i * 2 ^ 32)

/-- The code-window slot of an address (R28). -/
def slotOf (va : Word) : Option Nat :=
  let a := va.toNat
  if 0xFF40000000000000 ≤ a ∧ a ≤ 0xFF400FFFFFFFFFFF then some ((a - 0xFF40000000000000) / 2 ^ 32) else none

/-- The index of a walk at a level (R35). -/
def walkIndex (va : Word) : Nat → Nat
  | 4 => bitsOf va 56 39
  | 3 => bitsOf va 38 30
  | 2 => bitsOf va 29 21
  | _ => bitsOf va 20 12

/-- The physical address in a table entry (R36). -/
def pteAddrOf (pte : Word) : Nat := bitsOf pte 49 12 * 4096

/-- log2 of the page that a leaf at a level maps (R35). -/
def leafLog2 (level : Nat) (pte : Word) : Nat :=
  match level with
  | 3 => 30
  | 2 => 21
  | _ => if bitOf pte 8 then 16 else 12

/-- Does a valid entry break its layout at a level (R36, R37)? -/
def badPte (level : Nat) (pte : Word) : Bool :=
  bitsOf pte 63 50 != 0 || bitOf pte 11 ||
  (if bitOf pte 1 then bitsOf pte 11 2 != 0 || level == 1
   else bitOf pte 10 || level == 4 || (bitOf pte 8 && level != 1) ||
     pteAddrOf pte % 2 ^ leafLog2 level pte != 0)

/-- The part of an address that leads to a table entry of a level: its index there and every index above (R35). -/
def walkTag (va : Word) (level : Nat) : Nat := bitsOf va 56 (12 + 9 * (level - 1))

/-- A walk from a table at a level down (R35, R37): the leaf found, as an entry of a translation buffer, with the pointer entries read on the
way. A table is tested for BADPA and PARTITION by its first byte, also where it runs past the end of memory (DESIGN CHOICE, log entry 33).
DEDUCED, log entry 67. -/
def walkFrom (s : State) (part : Nat) (va : Word) : Nat → Nat → Except XErr (TlbEntry × List WalkPtr)
  | 0, _ => .error { prot := false, sub := 3 }
  | l + 1, table =>
    if (cisternOf s table).isNone then .error { prot := false, sub := 8, level := l + 1 }
    else if ownerOf s table ≠ part then .error { prot := true, sub := 5, level := l + 1 }
    else
      let ea := table + 8 * walkIndex va (l + 1)
      let pte := readD s ea
      if !bitOf pte 0 then .error { prot := false, sub := 2, level := l + 1 }
      else if badPte (l + 1) pte then .error { prot := false, sub := 3, level := l + 1 }
      else if bitOf pte 1 then
        (walkFrom s part va l (pteAddrOf pte)).map (fun r =>
          (r.1, { level := l + 1, tag := walkTag va (l + 1), part := part, table := pteAddrOf pte } :: r.2))
      else
        let g := leafLog2 (l + 1) pte
        .ok ({ vaBase := va.toNat / 2 ^ g * 2 ^ g, log2 := g, pte := pte, pteAddr := ea, level := l + 1, part := part }, [])

/-- The table entries that a walk reads, in order (R35, R40). -/
def walkReads (s : State) (part : Nat) (va : Word) : Nat → Nat → List Nat
  | 0, _ => []
  | l + 1, table =>
    if (cisternOf s table).isNone || ownerOf s table != part then []
    else
      let ea := table + 8 * walkIndex va (l + 1)
      let pte := readD s ea
      ea :: (if bitOf pte 0 && !badPte (l + 1) pte && bitOf pte 1 then walkReads s part va l (pteAddrOf pte) else [])

/-- What a walk's reads leave behind: the lines that hold its entries stand in their slices (R40, R80). -/
def walkTouch (s : State) (part : Nat) (va : Word) (l table : Nat) : State := (walkReads s part va l table).foldl homeRead s

/-- A whole walk from XLATE_ROOT (R34, R35). DESIGN CHOICE, log entry 10. -/
def walk (s : State) (part : Nat) (root va : Word) : Except XErr TlbEntry :=
  if !bitOf root 0 then .error { prot := false, sub := 2 }
  else (walkFrom s part va 4 (bitsOf root 49 21 * 2 ^ 21)).map (·.1)

/-- The pointer entry of the lowest level that a field's walk cache holds for an address (R42). -/
def cachedPtr (s : State) (f part : Nat) (va : Word) : Option WalkPtr :=
  [2, 3, 4].findSome? (fun l => (getField s f).walkCache.find? (fun w => w.level == l && w.part == part && w.tag == walkTag va l))

/-- A walk by the walker of a field, from the lowest table that its walk cache names (R34, R42). -/
def walkOf (s : State) (f part : Nat) (va : Word) : Except XErr (TlbEntry × List WalkPtr) :=
  let root := (getField s f).xlateRoot
  if !bitOf root 0 then .error { prot := false, sub := 2 }
  else match cachedPtr s f part va with
    | some w => walkFrom s part va (w.level - 1) w.table
    | none => walkFrom s part va 4 (bitsOf root 49 21 * 2 ^ 21)

/-- The state after the reads of a field's walk, whatever it finds (R40, R80). -/
def walkRead (s : State) (f part : Nat) (va : Word) : State :=
  let root := (getField s f).xlateRoot
  if !bitOf root 0 then s
  else match cachedPtr s f part va with
    | some w => walkTouch s part va (w.level - 1) w.table
    | none => walkTouch s part va 4 (bitsOf root 49 21 * 2 ^ 21)

/-- Keep the pointer entries that a walk read in the field's walk cache of 256 (R42). DESIGN CHOICE, log entry 34. -/
def keepPtrs (s : State) (f : Nat) (l : List WalkPtr) : State :=
  if l.isEmpty then s
  else updField s f (fun u => { u with walkCache :=
    (l ++ u.walkCache.filter (fun w => !l.any (fun p => p.level == w.level && p.tag == w.tag && p.part == w.part))).take 256 })

/-- The permission check of R39, in its order. -/
def permErr (pte : Word) (k : AccKind) (m : Mode) : Option Nat :=
  if (k = .read ∨ k = .atomic) ∧ !bitOf pte 2 then some 0
  else if (k = .write ∨ k = .atomic) ∧ !bitOf pte 3 then some 1
  else if k = .exec ∧ !bitOf pte 4 then some 2
  else if bitOf pte 5 ∧ m = .user then some 3
  else none

/-- Does an access need the dirty bit (R40)? -/
def needsD (k : AccKind) : Bool := k == .write || k == .atomic

/-- The physical address that a leaf gives (R35, R38). -/
def leafPa (e : TlbEntry) (va : Word) : Nat := pteAddrOf e.pte / 2 ^ e.log2 * 2 ^ e.log2 + va.toNat % 2 ^ e.log2

/-- Does a cached leaf cover an address of a partition? DEDUCED, log entry 67. -/
def covers (e : TlbEntry) (part : Nat) (va : Word) : Bool :=
  e.part == part && e.vaBase == va.toNat / 2 ^ e.log2 * 2 ^ e.log2

/-- Put a leaf into a translation buffer whose sets have `ways` entries, dropping the oldest of the set (R42: replacement is not architectural).
DESIGN CHOICE, log entry 34. DEDUCED, log entry 67. -/
def tlbFill (sets ways : Nat) (l : List TlbEntry) (e : TlbEntry) : List TlbEntry :=
  (assocPut (fun f => f.vaBase == e.vaBase && f.log2 == e.log2 && f.part == e.part)
    (fun f => f.vaBase / 2 ^ f.log2 % sets == e.vaBase / 2 ^ e.log2 % sets) ways l e).1

/-- The permission check of a leaf that a walk found, and the setting of A and D in it (R39, R40). DEDUCED, log entry 33. -/
def markLeaf (s : State) (e : TlbEntry) (k : AccKind) (m : Mode) : Except XErr (TlbEntry × State) :=
  match permErr e.pte k m with
  | some sub => .error { prot := true, sub := sub, level := e.level }
  | none =>
    let pte := e.pte ||| 0x40#64 ||| (if needsD k then 0x80#64 else 0#64)
    .ok ({ e with pte := pte }, if pte = e.pte then s else homeWrite (writeD s e.pteAddr pte) e.pteAddr)

/-- A fresh walk with its permission check, setting A and D in the leaf (R39, R40). DEDUCED, log entry 33. -/
def walkAndMark (s : State) (part : Nat) (root va : Word) (k : AccKind) (m : Mode) : Except XErr (TlbEntry × State) :=
  match walk s part root va with
  | .error e => .error e
  | .ok e => markLeaf s e k m

/-- The checks on the physical address of R39 and R79. DEDUCED, log entry 33. -/
def paErr (s : State) (part pa level : Nat) : Option XErr :=
  if (cisternOf s pa).isNone then some { prot := false, sub := 8, level := level }
  else if ownerOf s pa ≠ part then some { prot := true, sub := 5, level := level }
  else none

/-- Translate for an agent with no translation buffer of its own (launch sequencer, firmware, host; R410): what the access reaches or its
fault, and the state with the bits that the walker set, which stand even where the leaf's address is refused (R40, R41).
DEDUCED, log entry 33. -/
def translatePart (s : State) (part : Nat) (root va : Word) (k : AccKind) (m : Mode) : Except XErr Nat × State :=
  let s0 := if bitOf root 0 then walkTouch s part va 4 (bitsOf root 49 21 * 2 ^ 21) else s
  match walkAndMark s0 part root va k m with
  | .error e => (.error e, s0)
  | .ok (e, s') =>
    match paErr s part (leafPa e va) e.level with
    | some x => (.error x, s')
    | none => (.ok (leafPa e va), s')

/-- The buffered leaf that permits an access of tile `t` (R40, R42, R50). With XLATE_ROOT.EN at 0 none is used (R34). -/
def bufferedLeaf (s : State) (t : Nat) (va : Word) (k : AccKind) (m : Mode) : Option TlbEntry :=
  if !bitOf (getField s (fieldOf t)).xlateRoot 0 then none
  else ((getTile s t).tlb ++ (getCluster s (clusterOf t)).tlb).find? (fun e =>
    covers e (partNo s t) va && (permErr e.pte k m).isNone && (!needsD k || bitOf e.pte 7))

/-- The leaf for an access of tile `t` (R39, R40, R42, R50): a buffered leaf that permits it, or that of a walk, which sets A and D and fills
the walk cache. Answers whether it was buffered. -/
def leafFor (s : State) (t : Nat) (va : Word) (k : AccKind) (m : Mode) : Except XErr (Bool × TlbEntry × State) :=
  match bufferedLeaf s t va k m with
  | some e => .ok (true, e, s)
  | none =>
    match walkOf s (fieldOf t) (partNo s t) va with
    | .error e => .error e
    | .ok (e, ps) => (markLeaf (walkRead s (fieldOf t) (partNo s t) va) e k m).map (fun r => (false, r.1, keepPtrs r.2 (fieldOf t) ps))

/-- Translate for tile `t` (R39, R40, R42, R50): a leaf whose address is allowed enters both buffers. -/
def translateTile (s : State) (t : Nat) (va : Word) (k : AccKind) (m : Mode) : Except XErr (Nat × State) :=
  match leafFor s t va k m with
  | .error e => .error e
  | .ok (hit, e, s1) =>
    match paErr s (partNo s t) (leafPa e va) e.level with
    | some x => .error x
    | none =>
      if hit then .ok (leafPa e va, s1)
      else
        let s2 := updTile s1 t (fun u => { u with tlb := tlbFill 1 32 u.tlb e })
        .ok (leafPa e va, updCluster s2 (clusterOf t) (fun c => { c with tlb := tlbFill 128 8 c.tlb e }))

/-- The state that a refused access of tile `t` leaves: the walker has read its entries, and where the leaf permits the access and only its
address is refused, it has set its bits (R40, R41). DEDUCED, log entry 33. -/
def afterFault (s : State) (t : Nat) (m : Mode) (k : AccKind) (va : Word) (e : Bool × XErr) : State :=
  if e.1 then s
  else match regionOf va with
    | .ok .global | .ok .code | .ok (.owner _) => (match leafFor s t va k m with
      | .ok (_, _, s1) => s1
      | .error _ => walkRead s (fieldOf t) (partNo s t) va)
    | _ => s

/-- Is an access of tile `t` to a translated address one that no buffer answers (R42, R43)? -/
def missesTlb (s : State) (t : Nat) (va : Word) (k : AccKind) (m : Mode) : Bool :=
  match regionOf va with
  | .ok .global | .ok .code | .ok (.owner _) => bitOf (getField s (fieldOf t)).xlateRoot 0 && (bufferedLeaf s t va k m).isNone
  | _ => false

/-- The pages of the pending miss entries of a tile's cluster (R43). -/
def missPages (s : State) (t : Nat) : List Nat :=
  let f := getField s (fieldOf t)
  (((f.walkQ ++ f.walks).filter (fun r => clusterOf r.tile == clusterOf t)).map (·.page)).eraseDups

/-- Must a miss of tile `t` on an address wait for the walker (R43)? It joins a pending miss or walk of its page; it takes a place behind the
requests that came first, or while 32 walks run; and with all 16 miss entries of its cluster pending it stalls. Any other is walked at once. -/
def walkStalls (s : State) (t : Nat) (va : Word) (k : AccKind) (m : Mode) : Bool :=
  let f := getField s (fieldOf t)
  missesTlb s t va k m && ((f.walkQ ++ f.walks).any (fun r => r.page == va.toNat / 4096) || !f.walkQ.isEmpty ||
    decide (32 ≤ (f.walks.map (·.page)).eraseDups.length) || decide (16 ≤ (missPages s t).length))

/-- Are all 16 miss entries of a tile's cluster taken, none of them by the page (R43)? -/
def missFull (s : State) (t page : Nat) : Bool := !(missPages s t).contains page && decide (16 ≤ (missPages s t).length)

/-- A miss that must wait enters the walker's requests, or joins the walk of its page; with all 16 entries of its cluster taken by other
pages it is not entered yet (R43, R44). -/
def askMiss (s : State) (r : WalkReq) : State :=
  let f := fieldOf r.tile
  let u := getField s f
  if (u.walkQ ++ u.walks).contains r then s
  else if u.walks.any (fun w => w.page == r.page) then
    schedule (updField s f (fun u => { u with walks := u.walks ++ [r] })) r.tile [(.walkComplete, [f])]
  else if missFull s r.tile r.page then schedule s r.tile [(.walkStart, [f]), (.walkComplete, [f])]
  else schedule (updField s f (fun u => { u with walkQ := u.walkQ ++ [r] })) r.tile [(.walkStart, [f])]

/-- A miss of an access that is no fetch is entered where it must wait (R43). DESIGN CHOICE, log entry 84. -/
def askData (s : State) (t : Nat) (va : Word) (k : AccKind) (m : Mode) : State :=
  if walkStalls s t va k m then askMiss s { page := va.toNat / 4096, tile := t, mode := m, kind := k.code } else s

/-- What a checked access reaches. `rank` is kept so that a reply can name it. -/
inductive Target where
  | mem (pa : Nat)
  | scratch (tile off : Nat)
  | device (addr : Word)
  | descr (off : Nat)
  deriving DecidableEq, Repr

/-- Who may not touch what: streams, ports, copies, atomics and waits never reach the device-register window (R114, R272, R286). -/
structure AccessRule where
  kind : AccKind
  noDevice : Bool := false
  ownerAtomic : Bool := false
  deriving DecidableEq, Repr

/-- The checks of R41 in their order for an access of tile `t` to `size` bytes, and what the access reaches. -/
def resolve (s : State) (t : Nat) (m : Mode) (r : AccessRule) (va : Word) (size : Nat) : Except (Bool × XErr) (Target × State) :=
  let bad := fun (prot : Bool) (sub : Nat) => (.error (false, { prot := prot, sub := sub }) : Except (Bool × XErr) (Target × State))
  let misaligned := va.toNat % size ≠ 0
  let alignErr := (.error (true, { prot := false, sub := 0 }) : Except (Bool × XErr) (Target × State))
  let translated :=
    if misaligned then alignErr
    else match translateTile s t va r.kind m with
      | .error e => .error (false, e)
      | .ok (pa, s') => .ok (.mem pa, s')
  match regionOf va with
  | .error e => .error (false, e)
  | .ok .global => translated
  | .ok .code => translated
  | .ok (.owner i) =>
    if r.ownerAtomic ∧ (smFind (getPart s (partNo s t)).ownerWin i).isNone then bad false 7 else translated
  | .ok (.place rank off) =>
    let u := (rankSeen s t (partNo s t) rank).tile
    if tileCount s (partNo s t) ≤ rank then bad false 4
    else if scratchSize (getTile s u) ≤ off then bad false 5
    else if misaligned then alignErr
    else .ok (.scratch u off, rankFill s t rank)
  | .ok (.localScr off) =>
    if scratchSize (getTile s t) ≤ off then bad false 6
    else if misaligned then alignErr
    else .ok (.scratch t off, s)
  | .ok .device =>
    if misaligned || (size != 8 && !r.noDevice) then alignErr
    else if r.noDevice then bad true 4
    else if m = .user then bad true 4
    else .ok (.device va, s)
  | .ok (.descr off) =>
    if misaligned then alignErr
    else if r.noDevice then bad true 4
    else if r.kind ≠ .read then bad true 1
    else .ok (.descr off, s)

/-- The fault of a failed access of the core (ORIGIN 0, or 4 where the target tile refused it, R31). -/
def accessFault (k : AccKind) (va : Word) (e : Bool × XErr) : MemFault :=
  if e.1 then { cause := .align, loads := false }
  else mkFault (if !e.2.prot && e.2.sub == 5 then 4 else 0) 0 0 k va e.2

/-- Is a fault raised at the instruction even where the access is long (R29, R31, R32)? -/
def atInstruction (e : Bool × XErr) : Bool :=
  !e.1 && !e.2.prot && (e.2.sub == 4 || e.2.sub == 6 || e.2.sub == 7)

/-- The home address of a target in memory. -/
def targetKey : Target → Option Nat
  | .mem pa => some pa
  | .scratch t off => some (scratchKey t off)
  | _ => none

end Sys2Proof.Machine
end

