-- ==== Sys2Proof/Machine/Flags.lean ====
section
/-! DEFINITION. CORE_STATUS (R174 to R177): setting flags, the rounding mode of an instruction, TXR. -/
namespace Sys2Proof.Machine

/-- The flag bits of CORE_STATUS (R176). -/
def flagMask : Word := 0x3F0#64

/-- Set flags in a tile's CORE_STATUS (R177). -/
def Tile.setFlags (t : Tile) (f : Flags) : Tile := { t with coreStatus := t.coreStatus ||| (f &&& flagMask) }

/-- Set flags in the current tile's CORE_STATUS. -/
def setFlags (s : State) (f : Flags) : State := onTile s (·.setFlags f)

/-- The mode that a rounding field names: code 7 takes CORE_STATUS.RM (R174). -/
def roundingMode (t : Tile) (r : BitVec 3) : Nat := if r = 7#3 then bitsOf t.coreStatus 2 0 else r.toNat

/-- CORE_STATUS.TXR (R176). -/
def txrOf (t : Tile) : Bool := bitOf t.coreStatus 3

/-- May CORE_STATUS be written with a value (R176)? -/
def coreStatusLegal (v : Word) : Bool := decide (bitsOf v 2 0 ≤ 4)

end Sys2Proof.Machine
end

