-- ==== Sys2Proof/Machine/Device.lean ====
section
/-! DEFINITION. The device-register window (R33): the field blocks, the module block and the description page, with the effects
of their stores: stripes (R78, R79), partitions (R376), functions (R377), windows (R378, R379), field reset (R380), queues (R156),
quarantine (R388) and conduit sets (R400). -/
namespace Sys2Proof.Machine

/- The description page (R25) -/

/-- The transmit wavelengths of a conduit in service (R25, R392). -/
def Conduit.txActive (c : Conduit) : Nat := if c.recal.any (·.1) then c.lambda - 1 else c.lambda
/-- The receive wavelengths of a conduit in service (R25, R392). -/
def Conduit.rxActive (c : Conduit) : Nat := if c.recal.any (fun r => !r.1) then c.lambdaRx - 1 else c.lambdaRx

/-- The doublewords of the module description table (R25). The entry of an absent cistern or conduit, to which the spec gives no value, reads
as zero (DESIGN CHOICE, log entry 8). -/
def describeWord (s : State) (i : Nat) : Word :=
  if i = 0 then BitVec.ofNat 64 (1 + 0x100 * 2 ^ 16)
  else if i = 1 then s.presentFields.zeroExtend 64
  else if i = 2 then at_ 0 s.presentCisterns.toNat ||| at_ 32 s.presentConduits.toNat ||| at_ 40 s.rillTrained.toNat
  else if 3 ≤ i ∧ i ≤ 14 then
    let info := fun (c : Nat) => min 32 (smGet 32 s.hbmChannels c) + capacityOf s c * 2 ^ 8 + 64 * 2 ^ 24
    let e := fun (c : Nat) => if s.presentCisterns.getLsbD c then info c else 0
    BitVec.ofNat 64 (e (2 * (i - 3)) + e (2 * (i - 3) + 1) * 2 ^ 32)
  else if 15 ≤ i ∧ i ≤ 18 then
    let c := i - 15
    if s.presentConduits.getLsbD c then
      BitVec.ofNat 64 ((getConduit s c).txActive + (getConduit s c).rxActive * 2 ^ 16)
    else 0
  else 0

/-- Byte `off` of the description page: the table, then zeros (R33). -/
def describeByte (s : State) (off : Nat) : Byte :=
  if off < 256 then BitVec.ofNat 8 ((describeWord s (off / 8)).toNat / 2 ^ (8 * (off % 8))) else 0

/- Links and sluices -/

/-- Is the static link of tile `t` toward direction `d` on plane `pl` open for tokens that leave `t` (R14, R378, R379)? -/
def linkOpenOut (s : State) (t d pl : Nat) : Bool :=
  match neighbour t d with
  | none => false
  | some u =>
    let f := fieldOf t; let g := fieldOf u
    fieldPresent s f && fieldPresent s g &&
    (f == g || edgeOpen s f g || windowOpen s f g (edgePos t d) pl)

/-- Is the static link into tile `t` from direction `d` open? -/
def linkOpenIn (s : State) (t d pl : Nat) : Bool :=
  match neighbour t d with
  | none => false
  | some u => linkOpenOut s u (opposite d) pl

/-- Does the link between a tile and its neighbour in a direction cross a field boundary (R18)? -/
def crossesField (t d : Nat) : Bool :=
  match neighbour t d with
  | none => false
  | some u => fieldOf t != fieldOf u

/-- The flits of a message: two of its doublewords fill one (R19, R324; DEDUCED, log entry 71). -/
def flits (m : OutMsg) : Nat := (m.words.length + 1) / 2

/-- Does an enabled dynamic window let supervisor cores of field `f` send to tiles of field `g` on a channel (R379)? -/
def dynWindow (s : State) (f g ch : Nat) : Bool :=
  (getField s f).resetState == 0 && (getField s g).resetState == 0 && s.windows.any (fun e => let w := e.2
    bitOf w 16 && bitOf w 17 && bitsOf w 5 0 == f && bitsOf w 13 8 == g && decide (bitsOf w 29 24 ≤ ch) && decide (ch ≤ bitsOf w 37 32))

/-- May a supervisor core's message go from its field to its tile now: within a field or a partition, or through a dynamic window (R378, R379)? -/
def supOpen (s : State) (m : OutMsg) : Bool :=
  let g := fieldOf m.tile
  (m.field == g && (getField s g).resetState == 0) || dynWindow s m.field g (bitsOf (m.words.headD 0) 5 0) ||
    ((getField s m.field).resetState == 0 && (getField s g).resetState == 0 && (partOfField s m.field).isSome && partOfField s m.field == partOfField s g)

/-- The field that counts a message's flits when an edge on its route is closed: the one beyond that edge. The route is the one that was fixed over the
fields of the sender's partition when the message was sent (R14, R19). DESIGN CHOICE, log entry 71. -/
def messageEdge (s : State) (m : OutMsg) : Option Nat :=
  if m.sup then (if supOpen s m then none else some (fieldOf m.tile))
  else ((routeOver m.mask m.src m.tile).bind (closedEdge s)).map (fun e => fieldOf (hopsAway e.1 e.2 1))

/-- Discard the messages whose flits stand at a closed edge, and count their flits at the field beyond it (R14). DESIGN CHOICE, log entry 71. -/
def dropStranded (s : State) : State :=
  s.net.foldl (fun u m => match messageEdge s m with
    | none => u
    | some g => updField { u with net := u.net.filter (· ≠ m) } g (fun f => { f with sluiceDrop := f.sluiceDrop + BitVec.ofNat 64 (flits m) })) s

/-- Discard what the weirs and the boundary queues of closed links hold, and count it in the SLUICE_DROP of the receiving field
(R14; DESIGN CHOICE, log entry 71). -/
def closeSluices (s : State) : State :=
  (allTiles (dropStranded s)).foldl (fun u id =>
    let t := getTile u id
    t.weirs.foldl (fun v e =>
      let d := e.1 % 4
      if crossesField id d && !linkOpenIn v id d (e.1 / 4) then
        let n := e.2.inflight.length + e.2.fifo.length + e.2.ring.length
        let v1 := updTile v id (fun w => { w with weirs := smSet w.weirs e.1 { e.2 with inflight := [], fifo := [], ring := [] } })
        updField v1 (fieldOf id) (fun f => { f with sluiceDrop := f.sluiceDrop + BitVec.ofNat 64 n })
      else v) u) (dropStranded s)

/-- SLUICE_STAT of a field (R378). -/
def sluiceStat (s : State) (f : Nat) : Word :=
  (List.range 4).foldl (fun w d =>
    let code := match (fieldNeighbours f).find? (fun e => e.2 == d) with
      | none => if fieldPresent s f && (getField s f).resetState != 0 then 3 else 0
      | some (g, _) =>
        if !fieldPresent s f then 0
        else if (getField s f).resetState != 0 then 3
        else if !fieldPresent s g then 0
        else if (getField s g).resetState != 0 then 3
        else if edgeOpen s f g then 1
        else if s.windows.any (fun e => let w := e.2
            bitOf w 16 && ((bitsOf w 5 0 == f && bitsOf w 13 8 == g) || (bitsOf w 5 0 == g && bitsOf w 13 8 == f))) then 2
        else 0
    w ||| at_ (2 * d) code) 0

/- Stores with an effect -/

/-- Does tile `t` hold a task of launch `id`, or wait for one that follows? -/
def heldByLaunch (s : State) (id t : Nat) : Bool := (getTile s t).launch == id || (getTile s t).follow == some id

/-- Does a live launch have a task on a field? -/
def fieldBusy (s : State) (f : Nat) : Bool :=
  s.launches.any (fun e => e.2.live && e.2.placed && e.2.tiles.any (fun t => fieldOf t == f && heldByLaunch s e.1 t && !e.2.imaged.contains t))

/-- A store to PART_FIELDSp (R376): the partition forms afresh, and the queues of fields that leave are moved (R170). -/
def writePartFields (s : State) (p : Nat) (v : Word) : State :=
  let new := (List.range 48).filter (fun f => bitOf v f)
  let old := partFields s p
  let held := fun (f : Nat) => s.parts.any (fun e => e.1 != p && e.2.fields.getLsbD f)
  let changed := new.filter (fun f => !old.contains f) ++ old.filter (fun f => !new.contains f)
  if new.any (fun f => !fieldPresent s f || held f) then { s with partErr := 1 }
  else if !connected new then { s with partErr := 2 }
  else if changed.any (fieldBusy s) then { s with partErr := 3 }
  else
    let s0 := updPart s p (fun q => { q with fields := v.setWidth 48, ranks := [], present := s.presentFields, cist := s.presentCisterns })
    let s1 := (allTiles s0).foldl (fun u t =>
      if (new ++ old).contains (fieldOf t) && !(getTile u t).rankCache.isEmpty then updTile u t (fun a => { a with rankCache := [] }) else u) s0
    let gone := old.filter (fun f => !new.contains f)
    let s2 := closeSluices s1
    if gone.isEmpty then s2 else scheduleAt s2 s2.tile.id .partFieldsWrite ([p, 0, 1] ++ gone)

/-- A store to WINDOWw (R379). What keeps it from being performed is tested for an enabled window (DEDUCED, log entry 83). -/
def writeWindow (s : State) (w : Nat) (v0 : Word) : State :=
  let v := v0 &&& 0x3F3F0F3F3F#64
  let fa := bitsOf v 5 0; let fb := bitsOf v 13 8
  let samePart := match partOfField s fa, partOfField s fb with
    | some p, some q => p == q
    | _, _ => false
  let adjacent := (fieldNeighbours fa).any (fun e => e.1 == fb)
  if bitOf v 16 && (samePart || (!bitOf v 17 && !adjacent) || decide (bitsOf v 37 32 < bitsOf v 29 24)) then { s with partErr := 2 }
  else closeSluices { s with windows := smSet s.windows w v }

/-- LQ_CTLq as it reads (R156). -/
def readLqCtl (s : State) (f q : Nat) : Word :=
  let w := smGet 0x10000 (getField s f).lqCtl q
  if 56 ≤ q then at_ 33 1 ||| at_ 32 1 ||| at_ 16 (bitsOf w 23 16) else w

/-- A store to LQ_CTLq (R156, R377): a queue bound to a function of another partition stays disabled. -/
def writeLqCtl (s : State) (f q : Nat) (v : Word) : State :=
  let wt := if bitsOf v 23 16 = 0 then 1 else bitsOf v 23 16
  let vf := bitsOf v 8 0
  let ok := partOfField s f == some (getVf s vf).part
  let w := if 56 ≤ q then at_ 16 wt
    else at_ 32 (if bitOf v 32 && ok then 1 else 0) ||| at_ 16 wt ||| at_ 0 vf
  updField s f (fun u => { u with lqCtl := smSet u.lqCtl q w })

/-- Queues bound to function `v` in fields of another partition than its own are disabled (R156, R377). DEDUCED, log entry 83. -/
def disableQueues (s : State) (v : Nat) : State :=
  (setBits 48 s.presentFields.toNat).foldl (fun u f =>
    if (getField u f).lqCtl.any (fun e => bitOf e.2 32 && bitsOf e.2 8 0 == v) && !(partOfField u f == some (getVf u v).part) then
      updField u f (fun a => { a with lqCtl := a.lqCtl.map (fun e => if bitOf e.2 32 && bitsOf e.2 8 0 == v then (e.1, putBits e.2 32 1 0) else e) })
    else u) s

/-- A store to VF_CTLv (R377): a queue bound to the function in a field of another partition does not stay enabled. -/
def writeVfCtl (s : State) (v : Nat) (w : Word) : State :=
  let p := bitsOf w 5 0
  disableQueues (updVf s v (fun f => if p < 48 then { f with en := bitOf w 8, part := p } else { f with en := false, part := 0 })) v

/-- STRIPE_CTLj as it reads (R78). -/
def readStripe (s : State) (j : Nat) : Word := if j < interSize s / 2 ^ 30 then smGet 0x3E s.stripes j else 0

/-- The OWNER that a store gives (R78). -/
def ownerField (v : Word) : Nat := let o := bitsOf v 5 0; if 48 ≤ o ∧ o ≤ 61 then 62 else o

/-- A store to STRIPE_CTLj (R78, R79): a change of MODE, allowed only while unassigned, makes the stripe's contents undefined. -/
def writeStripe (s : State) (j : Nat) (v : Word) : State :=
  if interSize s / 2 ^ 30 ≤ j then s
  else
    let old := smGet 0x3E s.stripes j
    let free := bitsOf old 5 0 == 62
    let mode := if free then bitOf v 7 else bitOf old 7
    let w := at_ 7 (if mode then 1 else 0) ||| at_ 0 (ownerField v)
    let n := (presentList s).length
    let s1 := { s with stripes := smSet s.stripes j w }
    if mode != bitOf old 7 then havocRange s1 (j * n * 2 ^ 30) ((j + 1) * n * 2 ^ 30) else s1

/-- Does unit u of cistern c's local region exist (R78)? -/
def localUnitExists (s : State) (c u : Nat) : Bool :=
  (presentList s).contains c && decide (u * 2 ^ 24 < capacity s c - interSize s)

/-- A store to a register of the local-unit table (R78). A unit that leaves a spill ring has undefined contents (R89). -/
def writeLocal (s : State) (c u : Nat) (v : Word) : State :=
  if localUnitExists s c u then
    let ring := bitsOf (smGet 0x3E s.localUnits (c * 4096 + u)) 5 0 == 63 && ownerField v != 63
    let s1 := { s with localUnits := smSet s.localUnits (c * 4096 + u) (at_ 0 (ownerField v)) }
    if ring then havocRange s1 (localBase c + u * 2 ^ 24) (localBase c + (u + 1) * 2 ^ 24) else s1
  else s

/-- CSET_CTLk as it reads (R400). -/
def readCset (s : State) (k : Nat) : Word :=
  let c := getCSet s k
  at_ 32 c.gen ||| at_ 16 c.part ||| at_ 8 (if c.pend then 1 else 0) ||| at_ 5 (if c.en then 1 else 0)
    ||| at_ 4 (if c.err then 1 else 0) ||| at_ 0 c.conduits

/-- A store to CSET_CTLk (R400): one conduit in two enabled sets is not performed. -/
def writeCset (s : State) (k : Nat) (v : Word) : State :=
  let clash := bitOf v 5 && (List.range 8).any (fun j => j != k && (getCSet s j).en && (bitsOf v 3 0 &&& (getCSet s j).conduits) != 0)
  if clash then s
  else updCSet s k (fun c => { c with part := bitsOf v 21 16, en := bitOf v 5, err := c.err && !bitOf v 4, conduits := bitsOf v 3 0 })

/-- The value of QUARANTINE_CTL that a store leaves (R388). -/
def quarStored (v : Word) : Word :=
  let d := bitsOf v 21 16
  let th := bitsOf v 7 0
  at_ 24 (bitsOf v 24 24) ||| at_ 16 (if 20 ≤ d ∧ d ≤ 40 then d else 32) ||| at_ 8 (bitsOf v 15 8) ||| at_ 0 (if th = 0 then 64 else th)

/-- A store of GO to RESET_CTL (R380): ignored while a reset is in progress. -/
def writeResetCtl (s : State) (f : Nat) (v : Word) : State :=
  if bitOf v 0 && (getField s f).resetState == 0 then
    scheduleAt (updField s f (fun u => { u with resetState := 1 })) s.tile.id .fieldReset [f]
  else s

/- Suspect scores (R388) -/

/-- Is an entry of the schedule the quarantine of tile `t`? -/
def Turn.quarantines (t : Nat) : Turn → Bool
  | .event u .quarantine _ => u == t
  | _ => false

/-- SCORE and QUAR of tile `i` of a field take a value: a change of the score goes to the lifetime record (R391), and a score at THRESH starts the
quarantine when it is enabled (R388). -/
def setSuspect (s : State) (f i : Nat) (w : Word) : State :=
  let old := smGet 0 (getField s f).suspect i
  let t := tileIn f (i % 32) (i / 32)
  let q := (getField s f).quarCtl
  let s1 := updField s f (fun u => { u with suspect := smSet u.suspect i w })
  let s2 := if bitsOf old 7 0 = bitsOf w 7 0 then s1
    else { s1 with lifetime := { s1.lifetime with scoreChanges := s1.lifetime.scoreChanges ++ [(t, bitsOf w 7 0)] } }
  if bitOf q 24 && decide (bitsOf q 7 0 ≤ bitsOf w 7 0) && !bitOf w 8 && !s2.agenda.any (Turn.quarantines t) then scheduleAt s2 t .quarantine [f, i] else s2

/- The whole window -/

/-- The field block's registers: the offset's value (R33). The present clock step (R428) stands at 0x3050, for which the manual gives no offset
(DESIGN CHOICE, log entry 86). -/
def readFieldReg (s : State) (f off : Nat) : Option Word :=
  let u := getField s f
  match off with
  | 0x1000 => some (BitVec.ofNat 64 u.ageShift)
  | 0x1008 => some u.suppress
  | 0x1010 => some u.scopeBase
  | 0x1018 => some u.groupBase
  | 0x1020 => some u.modBase
  | 0x1028 => some u.xlateRoot
  | 0x3000 => some (sluiceStat s f)
  | 0x3008 => some u.sluiceDrop
  | 0x3010 => some u.incDrop
  | 0x3018 => some u.routeErr
  | 0x3020 => some u.residueCnt
  | 0x3028 => some u.sealDrop
  | 0x3030 => some u.supFaults
  | 0x3040 => some (at_ 16 u.inc ||| at_ 1 u.resetState)
  | 0x3048 => some u.quarCtl
  | 0x3050 => some (BitVec.ofNat 64 u.clockStep)
  | _ =>
    if 0x2000 ≤ off ∧ off < 0x2200 then some (readLqCtl s f ((off - 0x2000) / 8))
    else if 0x3100 ≤ off ∧ off < 0x3280 then some (BitVec.ofNat 64 (smGet 0 u.incTable ((off - 0x3100) / 8)))
    else if 0x4000 ≤ off ∧ off < 0x6000 then some (smGet 0 u.suspect ((off - 0x4000) / 8))
    else if 0x6000 ≤ off ∧ off < 0x6200 then some (smGet 0 u.portOvr ((off - 0x6000) / 8))
    else none

/-- The module block's registers. -/
def readModuleReg (s : State) (off : Nat) : Option Word :=
  if 0x10000 ≤ off ∧ off < 0x10200 then some (readStripe s ((off - 0x10000) / 8))
  else if 0x30000 ≤ off ∧ off < 0x30180 then some ((getPart s ((off - 0x30000) / 8)).fields.zeroExtend 64)
  else if off = 0x30180 then some (BitVec.ofNat 64 s.partErr)
  else if 0x40000 ≤ off ∧ off < 0x41000 then
    let v := getVf s ((off - 0x40000) / 8)
    some (at_ 8 (if v.en then 1 else 0) ||| at_ 0 v.part)
  else if 0x50000 ≤ off ∧ off < 0x50200 then some (smGet 0 s.windows ((off - 0x50000) / 8))
  else if 0x60000 ≤ off ∧ off < 0x60040 then some (readCset s ((off - 0x60000) / 8))
  else if off = 0x60040 then some (BitVec.ofNat 64 (s.fleetId % 16))
  else if 0x70000 ≤ off ∧ off < 0x700C0 then some (getCistern s ((off - 0x70000) / 8)).corr
  else if 0x100000 ≤ off ∧ off < 0x1C0000 then
    let c := (off - 0x100000) / 0x8000; let u := (off - 0x100000) % 0x8000 / 8
    some (if localUnitExists s c u then smGet 0x3E s.localUnits (c * 4096 + u) else 0)
  else none

/-- The block and the offset of a device address: a field index, or 255 for the module block (R33). -/
def devBlock (a : Word) : Nat × Nat :=
  let o := a.toNat - 0xFFFFFE0000000000
  (o / 2 ^ 32, o % 2 ^ 32)

/-- A doubleword read of a device register. An address that no map assigns gives a free value (DESIGN CHOICE, log entry 9), and so does the rail power of
a field, which R428 has its block hold (at 0x3058: DESIGN CHOICE, log entry 86). -/
def devRead (s : State) (a : Word) : Word × State :=
  let (b, off) := devBlock a
  let r := if b = 255 then readModuleReg s off else if b < 48 then readFieldReg s b off else none
  match r with
  | some w => (w, s)
  | none => freshWord s

/-- A store to a register of a field block. -/
def writeFieldReg (s : State) (f off : Nat) (v : Word) : State :=
  let up := updField s f
  let base := v &&& 0xFFFFFFFFFFF00001#64
  match off with
  | 0x1000 => up (fun u => { u with ageShift := let n := bitsOf v 4 0; if 10 ≤ n ∧ n ≤ 24 then n else 16 })
  | 0x1008 => up (fun u => { u with suppress := u.suppress &&& ~~~v })
  | 0x1010 => up (fun u => { u with scopeBase := base })
  | 0x1018 => up (fun u => { u with groupBase := base })
  | 0x1020 => up (fun u => { u with modBase := base })
  | 0x1028 => up (fun u => { u with xlateRoot := v &&& 0x0003FFFFFFE00001#64 })
  | 0x3008 => up (fun u => { u with sluiceDrop := 0 })
  | 0x3010 => up (fun u => { u with incDrop := 0 })
  | 0x3018 => up (fun u => { u with routeErr := 0 })
  | 0x3020 => up (fun u => { u with residueCnt := 0 })
  | 0x3028 => up (fun u => { u with sealDrop := 0 })
  | 0x3030 => up (fun u => { u with supFaults := 0 })
  | 0x3040 => writeResetCtl s f v
  | 0x3048 => up (fun u => { u with quarCtl := quarStored v })
  | _ =>
    if 0x2000 ≤ off ∧ off < 0x2200 then writeLqCtl s f ((off - 0x2000) / 8) v
    else if 0x4000 ≤ off ∧ off < 0x6000 then setSuspect s f ((off - 0x4000) / 8) (v &&& 0x1FF#64)
    else if 0x6000 ≤ off ∧ off < 0x6200 then up (fun u => { u with portOvr := smSet u.portOvr ((off - 0x6000) / 8) 0 })
    else s

/-- A store to a register of the module block. -/
def writeModuleReg (s : State) (off : Nat) (v : Word) : State :=
  if 0x10000 ≤ off ∧ off < 0x10200 then writeStripe s ((off - 0x10000) / 8) v
  else if 0x30000 ≤ off ∧ off < 0x30180 then writePartFields s ((off - 0x30000) / 8) v
  else if off = 0x30180 then { s with partErr := s.partErr &&& (255 - bitsOf v 7 0) }
  else if 0x40000 ≤ off ∧ off < 0x41000 then writeVfCtl s ((off - 0x40000) / 8) v
  else if 0x50000 ≤ off ∧ off < 0x50200 then writeWindow s ((off - 0x50000) / 8) v
  else if 0x60000 ≤ off ∧ off < 0x60040 then writeCset s ((off - 0x60000) / 8) v
  else if 0x70000 ≤ off ∧ off < 0x700C0 then updCistern s ((off - 0x70000) / 8) (fun c => { c with corr := 0 })
  else if 0x100000 ≤ off ∧ off < 0x1C0000 then writeLocal s ((off - 0x100000) / 0x8000) ((off - 0x100000) % 0x8000 / 8) v
  else s

/-- A doubleword store to a device register; one that no map assigns, or that is RO, changes nothing. -/
def devWrite (s : State) (a v : Word) : State :=
  let (b, off) := devBlock a
  if b = 255 then writeModuleReg s off v else if b < 48 then writeFieldReg s b off v else s

end Sys2Proof.Machine
end

