-- ==== Sys2Proof/Machine/Owner.lean ====
section
/-! DEFINITION. Performing accesses at their homes: reads and writes of what an address resolves to, cached lines and recalls
(R55, R65, R97), atomics at their owners (R106, R279), barrier words (R108 to R110, R284, R344), and the long operations of
R134 as their homes perform them. -/
namespace Sys2Proof.Machine

/- Reads and writes of a resolved target -/

/-- Mark the granules of a tile's scratch that a write touches (R372). -/
def markScratch (s : State) (t off n : Nat) : State :=
  updTile s t (fun u => { u with dirtyGranules := insertNat ((off + n - 1) / 4096) (insertNat (off / 4096) u.dirtyGranules) })

/-- Read `n` bytes of a target as a little-endian number (R3, R33). DESIGN CHOICE, log entry 10. -/
def readAt (s : State) (tg : Target) (n : Nat) : Nat × State :=
  match tg with
  | .mem pa => (readNum s pa n, s)
  | .scratch t off => (readNum s (scratchKey t off) n, s)
  | .device a => let r := devRead s a; (r.1.toNat, r.2)
  | .descr off => (numOf ((List.range n).map (fun i => describeByte s (off + i))), s)

/-- Write the low `n` bytes of a number to a target. DESIGN CHOICE, log entry 10. -/
def writeAt (s : State) (tg : Target) (n v : Nat) : State :=
  match tg with
  | .mem pa => writeNum s pa n v
  | .scratch t off => markScratch (writeNum s (scratchKey t off) n v) t off n
  | .device a => devWrite s a (BitVec.ofNat 64 v)
  | .descr _ => s

/-- Does a target lie in a poisoned line (R59, R83)? -/
def targetPoisoned (s : State) (tg : Target) : Bool :=
  match targetKey tg with
  | some a => poisoned s a
  | none => false

/- Cached lines. Only where a line stands, and whether it is dirty, is state: its bytes are the home's (DEDUCED, log entry 13). -/

/-- The data-cache banks of a tile (R53, R55). -/
def cacheBanks (t : Tile) : Nat := 16 - t.tileSplit

/-- The set of a line in a data cache of some banks: 128 sets for each bank, indexed from PA[6] up (R55). -/
def cacheSet (banks line : Nat) : Nat := line % (128 * banks)

/-- Does a member contribute ways of its data cache to the pool (R64, R65)? -/
def contributes (s : State) (cl i : Nat) : Bool :=
  bitOf (getCluster s cl).pool (8 + i) && cacheBanks (getTile s (memberTile cl i)) != 0

/-- The ways that each contributing member gives (R64). -/
def poolWays (s : State) (cl : Nat) : Nat := bitsOf (getCluster s cl).pool 2 0

/-- The ways that a tile's own data cache keeps (R55, R65). -/
def ownWays (s : State) (t : Nat) : Nat :=
  if contributes s (clusterOf t) (memberOf t) then 8 - poolWays s (clusterOf t) else 8

/-- A line leaves the caches of a cluster: it is written back if it is dirty, and dropped if it is clean (R56, R65). -/
def writeBack (s : State) (d : DLine) : State := if d.dirty then sliceAt s (d.line * 64) true else s

/-- The data caches of a cluster's tiles drop their copies of a line. -/
def dropCopies (s : State) (cl line : Nat) : State :=
  (List.range 8).foldl (fun u i =>
    if (getTile u (memberTile cl i)).dcache.any (fun e => e.line == line) then
      updTile u (memberTile cl i) (fun t => { t with dcache := t.dcache.filter (fun e => e.line != line) }) else u) s

/-- A line evicted from a data cache enters the cluster's pool, in the ways of the first contributing member with room in the line's set, or
else of the first (R65); with no such member it leaves the cluster. A line is never in the pool and in a tile cache at once: a clean line that another
tile of the cluster still caches leaves the cluster, and a dirty one drops the clean copies of the others. DESIGN CHOICE, log entry 34. -/
def poolPut (s : State) (cl : Nat) (d : DLine) : State :=
  let ways := poolWays s cl
  let banks := fun (i : Nat) => cacheBanks (getTile s (memberTile cl i))
  let inSet := fun (i : Nat) (e : DLine) => e.member == i && cacheSet (banks i) e.line == cacheSet (banks i) d.line
  match (List.range 8).filter (contributes s cl) with
  | [] => writeBack s d
  | m :: r =>
    if ways = 0 || (!d.dirty && (List.range 8).any (fun i => (getTile s (memberTile cl i)).dcache.any (fun e => e.line == d.line))) then writeBack s d
    else
      let s0 := dropCopies s cl d.line
      let l := (getCluster s cl).poolLines
      let i := ((m :: r).find? (fun i => decide ((l.filter (inSet i)).length < ways))).getD m
      let q := assocPut (fun e => e.line == d.line) (inSet i) ways l { d with member := i }
      q.2.foldl writeBack (updCluster s0 cl (fun c => { c with poolLines := q.1 }))

/-- A line enters a tile's data cache; what it displaces goes to the pool (R55, R56, R65). -/
def cachePut (s : State) (t : Nat) (d : DLine) : State :=
  let u := getTile s t
  let banks := cacheBanks u
  let q := assocPut (fun e => e.line == d.line) (fun e => cacheSet banks e.line == cacheSet banks d.line) (ownWays s t) u.dcache d
  q.2.foldl (fun v e => poolPut v (clusterOf t) { e with placer := t }) (updTile s t (fun a => { a with dcache := q.1 }))

/-- An access at the home: the line is recalled first, and stands in the home's slice, dirty when the access writes it (R80, R84, R97). -/
def atHome (s : State) (tg : Target) (dirty : Bool) : State :=
  match tg with
  | .mem pa => sliceAt (recallLine s (pa / 64)) pa dirty
  | _ => s

/-- Is the page of an address uncached, by the leaf that the tile's buffers hold for it (R36)? -/
def pageUncached (s : State) (t : Nat) (va : Word) : Bool :=
  match ((getTile s t).tlb ++ (getCluster s (clusterOf t)).tlb).find? (fun e => covers e (partNo s t) va) with
  | some e => bitOf e.pte 9
  | none => true

/-- A cached access whose line the tile's data cache does not hold (R56, R65): the pool is looked up first and gives its line up to the tile's
cache; else the home gives it, with the recall of a dirty copy. A tile with no cache banks leaves a pool line where it is and keeps none of
its own (DESIGN CHOICE, log entry 34). -/
def cacheMiss (s : State) (t pa : Nat) (dirty : Bool) : State :=
  let line := pa / 64
  let banks := cacheBanks (getTile s t)
  let cl := clusterOf t
  match (getCluster s cl).poolLines.find? (fun d => d.line == line) with
  | some d =>
    let s1 := if dirty && !d.dirty then recallWhere s line (·.dirty) else s
    if banks = 0 then updCluster s1 cl (fun c => { c with poolLines := c.poolLines.map (fun e => if e.line = line then { e with dirty := e.dirty || dirty } else e) })
    else cachePut (updCluster s1 cl (fun c => { c with poolLines := c.poolLines.filter (fun e => e.line != line) })) t { line := line, dirty := d.dirty || dirty }
  | none =>
    let s1 := sliceAt (recallWhere s line (·.dirty)) pa (dirty && banks == 0)
    if banks = 0 then s1 else cachePut s1 t { line := line, dirty := dirty }

/-- What a path-C access does to the caches (R55, R56, R65, R80): an uncached page goes to the home; a line that the tile holds stays there, dirty
after a store, for which a dirty copy elsewhere is recalled; and a line that it does not hold is fetched. DEDUCED, log entry 13. -/
def cacheTouch (s : State) (t : Nat) (va : Word) (tg : Target) (dirty : Bool) : State :=
  match tg with
  | .mem pa =>
    if pageUncached s t va then sliceAt (recallWhere s (pa / 64) (·.dirty)) pa dirty
    else match (getTile s t).dcache.find? (fun d => d.line == pa / 64) with
      | none => cacheMiss s t pa dirty
      | some d =>
        if d.dirty || !dirty then s
        else updTile (recallWhere s (pa / 64) (·.dirty)) t (fun u =>
          { u with dcache := u.dcache.map (fun e => if e.line = pa / 64 then { e with dirty := true } else e) })
  | _ => s

/-- The 32-byte sector of an address as paths S, Y and M of tile `t` reach it (R96, R98): scratch addresses through either window name the sector of
their tile; other addresses name their virtual sector. DESIGN CHOICE, log entry 72. -/
def sectorOf (s : State) (t : Nat) (va : Word) : Nat :=
  match regionOf va with
  | .ok (.localScr off) => scratchKey t off / 32
  | .ok (.place rank off) => scratchKey (rankSeen s t (partNo s t) rank).tile off / 32
  | _ => 2 ^ 100 + va.toNat / 32

/- Atomic updates -/

/-- Signed order of doublewords. -/
def sLt (a b : Word) : Bool := decide (a.toInt < b.toInt)

/-- The update of an atomic operation (R279). -/
def atomF (op : AtomOp) (old b : Word) : Word :=
  match op with
  | .swap => b
  | .add => old + b
  | .and => old &&& b
  | .or => old ||| b
  | .xor => old ^^^ b
  | .min => if sLt b old then b else old
  | .max => if sLt old b then b else old
  | .minu => if b.toNat < old.toNat then b else old
  | .maxu => if old.toNat < b.toNat then b else old
  | .fadd => (addT64 0 old b).1

/-- The word after one barrier arrival (R109). -/
def arrive (w : Word) (cancelled : Bool) : Word :=
  let e := Nat.min (bitsOf w 15 0) 0x7FFF
  let n := bitsOf w 30 16 + 1
  let w1 := if n ≥ e then putBits (putBits w 32 32 (bitsOf w 63 32 + 1)) 16 15 0 else putBits w 16 15 n
  if cancelled then w1 ||| 0x80000000#64 else w1

/-- Has a phase reached a target phase (R110)? -/
def reached (ph p : Nat) : Bool := decide ((ph + 2 ^ 32 - p % 2 ^ 32) % 2 ^ 32 < 2 ^ 31)

/-- The word that BARINIT leaves (R284). -/
def barinitWord (w n : Word) : Word := putBits (putBits w 0 32 0) 0 16 (Nat.min n.toNat 0xFFFF)

/-- The update made at a kill on behalf of a member whose last arrival read `phase` (R344). -/
def cancelMarkWord (w : Word) (phase : Nat) : Word := if bitsOf w 63 32 = phase then w ||| 0x80000000#64 else arrive w true

/-- The update of a long operation at a doubleword, and whether it writes. -/
def updateOf (op : LongOp) (old : Word) : Option Word :=
  match op with
  | .amo o _ b => some (atomF o old b)
  | .cas _ e n => if old = e then some n else none
  | .red o _ b => some (atomF o old b)
  | .redf o _ b _ _ => some (atomF o old b)
  | .barinit _ n => some (barinitWord old n)
  | .bararv _ => some (arrive old false)
  | .cancelMark _ ph => some (cancelMarkWord old ph)
  | _ => none

/-- The address that an atomic long operation updates. -/
def LongOp.target : LongOp → Word
  | .load _ _ va | .store _ va _ | .amo _ va _ | .cas va _ _ | .red _ va _ | .redf _ va _ _ _ | .barinit va _ | .bararv va
  | .cancelMark va _ => va
  | .vload _ _ | .vstore _ _ _ | .mr _ _ _ _ => 0

/- Sealed tiles and tiles in a cut -/

/-- Has an uncorrectable error killed a tile (R389)? -/
def sealed (s : State) (t : Nat) : Bool := (getTile s t).run == .killed

/-- Count a message, an atomic or an access discarded at a sealed tile (R389). -/
def sealDrop (s : State) (t : Nat) : State := updField s (fieldOf t) (fun f => { f with sealDrop := f.sealDrop + 1 })

/-- Count an access that tile `t` discards, where the tile is sealed (R382, R389); what a field in reset or a lost owner turns away counts nowhere. -/
def dropAt (s : State) (t : Nat) : State := if sealed s t then sealDrop s t else s

/-- Has a cut stopped tile `u` (R369)? -/
def stoppedByCut (s : State) (u : Nat) : Bool := (getTile s u).cutMarked && (getTile s u).cutOf.isSome

/-- Does the network interface of tile `u` take no request now? A cut has stopped the tile, or what it holds from earlier, a message without
room among it, stands in front (R143, R369). -/
def heldAtNi (s : State) (u : Nat) : Bool := stoppedByCut s u || !(getTile s u).ring.isEmpty

/-- The place of a request in its tile's order, if an item is a request that the present task of a tile issued. -/
def NiItem.seqOf (t launch : Nat) : NiItem → Option Nat
  | .req q => if q.tile = t ∧ q.launch = launch then some q.seq else none
  | _ => none

/-- Where a request is held: the ring of a tile's network interface, or that ring as it lies in an image (R369). -/
inductive HeldPlace where
  | ring (u : Nat)
  | image (key : Nat)
  deriving DecidableEq, Repr

/-- The requests of a task that network interfaces hold, with their places in its order. -/
def heldReqs (s : State) (t launch : Nat) : List (Nat × HeldPlace) :=
  ((allTiles s).flatMap (fun u => ((getTile s u).ring.filterMap (NiItem.seqOf t launch)).map (fun n => (n, HeldPlace.ring u)))) ++
    (s.images.flatMap (fun e => (e.2.tile.ring.filterMap (NiItem.seqOf t launch)).map (fun n => (n, HeldPlace.image e.1))))

/-- The latest of some held requests: its place. -/
def latestOf (l : List (Nat × HeldPlace)) : Option HeldPlace :=
  (l.foldl (fun best e => match best with
    | none => some e
    | some b => if b.1 < e.1 then some e else some b) none).map (·.2)

/-- Where the latest request of tile `t` that is held stands, if one is (R91, R92, R369): what `t` issues afterwards takes its place behind that. -/
def heldBehind (s : State) (t : Nat) : Option HeldPlace := latestOf (heldReqs s t (getTile s t).launch)

/-- Put an item at the end of a ring. -/
def putHeld (s : State) (i : NiItem) : HeldPlace → State
  | .ring u => updTile s u (fun a => { a with ring := a.ring ++ [i] })
  | .image k => { s with images := s.images.map (fun e => if e.1 = k then (k, { e.2 with tile := { e.2.tile with ring := e.2.tile.ring ++ [i] } }) else e) }

/-- The tile whose NI or atomic unit performs an access to a target: the scratch's tile, or the owner of an owner window. -/
def servedBy (s : State) (t : Nat) (va : Word) (tg : Target) (atomic : Bool) : Option Nat :=
  match tg with
  | .scratch u _ => some u
  | .mem _ =>
    (match regionOf va with
     | .ok (.owner i) =>
       if atomic then (smFind (getPart s (partNo s t)).ownerWin i).map (fun r => (rankEntry s (partNo s t) r).tile) else none
     | _ => none)
  | _ => none

/-- Was the tile that holds the owner rank of a window killed, or its field reset, with no OWNSET since that names another owner (R30)? -/
def ownerGone (s : State) (t : Nat) (va : Word) : Bool :=
  match regionOf va with
  | .ok (.owner i) =>
    let p := getPart s (partNo s t)
    (smFind p.ownerLost i).isSome && smFind p.ownerLost i == smFind p.ownerWin i
  | _ => false

/-- The windows of a partition whose owner tile is among `ts` lose their owner (R30). -/
def loseOwners (s : State) (ts : List Nat) : State :=
  s.parts.foldl (fun u e => e.2.ownerWin.foldl (fun v w =>
    if ts.contains (rankEntry s e.1 w.2).tile then updPart v e.1 (fun p => { p with ownerLost := smSet p.ownerLost w.1 w.2 }) else v) u) s

/-- The lines that a tile's owner-window unit holds dirty go back to their homes; those in `lost`, whose contents are not intact, are poisoned
(R30). -/
def giveOwnerLines (s : State) (t : Nat) (lost : List Nat) : State :=
  (getTile s t).ownerLines.foldl (fun u l => sliceAt (if lost.contains l then poisonLine u (l * 64) else u) (l * 64) true)
    (updTile s t (fun a => { a with ownerLines := [] }))

/-- What stands in the way of an access at its home. -/
inductive Block where
  | free
  | err
  | held (u : Nat)
  deriving DecidableEq, Repr

/-- Is an access of tile `t` refused by a sealed tile, or held by a cut or behind what a network interface holds (R30, R143, R369, R389)? -/
def blockOf (s : State) (t : Nat) (va : Word) (tg : Target) (atomic : Bool) : Block :=
  match servedBy s t va tg atomic with
  | none => .free
  | some u =>
    if isLocal va then .free
    else if sealed s u || (getField s (fieldOf u)).resetState != 0 || (atomic && ownerGone s t va) then .err
    else if heldAtNi s u then .held u else .free

/- Performing long operations -/

/-- What performing an operation answers: the result, the operation as a replay would issue it again, and the state. -/
structure Performed where
  res : LongRes
  op : LongOp
  st : State

/-- The rule of an access kind for the checks of R41. -/
def coreRule (k : AccKind) : AccessRule := { kind := k, noDevice := k == .atomic, ownerAtomic := k == .atomic }

/-- The request that tile `t` issues next, as a network interface holds it. -/
def nextReq (s : State) (t : Nat) (m : Mode) (op : LongOp) : OwnerReq :=
  { tile := t, op := op, mode := m, entry := (getTile s t).longBuf.length, launch := (getTile s t).launch, seq := (getTile s t).reqSeq + 1 }

/-- Hold a request where a network interface keeps it (R92, R143, R369). -/
def holdIn (s : State) (h : HeldPlace) (t : Nat) (m : Mode) (op : LongOp) : Performed :=
  { res := .pending, op := op, st := putHeld (updTile s t (fun a => { a with reqSeq := a.reqSeq + 1 })) (.req (nextReq s t m op)) h }

/-- Hold a request at a tile's network interface (R143, R369). -/
def holdAt (s : State) (u t : Nat) (m : Mode) (op : LongOp) : Performed := holdIn s (.ring u) t m op

/-- Read a value of an element size, extended as the load says (R275). -/
def extend (size : Nat) (sgn : Bool) (v : Nat) : Word := if sgn then sextW (8 * size) v else BitVec.ofNat 64 v

/-- Resolve the active lanes of a vector access in rising order (R278); the state keeps the bits that the walker set for the lanes before a
fault (R40). -/
def resolveLanes (s : State) (t : Nat) (m : Mode) (k : AccKind) : List (Word × Bool) →
    Except MemFault (List (Option (Word × Target))) × State
  | [] => (.ok [], s)
  | (va, act) :: r =>
    if act then
      match resolve s t m (coreRule k) va 8 with
      | .error e => (.error { accessFault k va e with loads := true, va := va }, afterFault s t m k va e)
      | .ok (tg, s1) => let q := resolveLanes s1 t m k r; (q.1.map (fun l => some (va, tg) :: l), q.2)
    else let q := resolveLanes s t m k r; (q.1.map (fun l => none :: l), q.2)

/-- Read the lanes of a vector load in rising order; an inactive lane reads as 0 and is not written (R278). -/
def readLanes (s : State) (t : Nat) : List (Option (Word × Target)) → List Word × State
  | [] => ([], s)
  | none :: r => let q := readLanes s t r; (0 :: q.1, q.2)
  | some (va, tg) :: r =>
    let a := readAt s tg 8
    let q := readLanes (cacheTouch a.2 t va tg false) t r
    (BitVec.ofNat 64 a.1 :: q.1, q.2)

/-- Write the lanes of a vector store in rising order (R278). -/
def writeLanes (s : State) (t : Nat) : List (Option (Word × Target)) → List Word → State
  | [], _ => s
  | _, [] => s
  | none :: r, _ :: ds => writeLanes s t r ds
  | some (va, tg) :: r, d :: ds => writeLanes (cacheTouch (writeAt s tg 8 d.toNat) t va tg true) t r ds

/-- The strongest obstacle among the lanes: a tile that discards one comes before a tile that holds one. -/
def blockLanes (s : State) (t : Nat) (l : List (Option (Word × Target))) : Block :=
  l.foldl (fun b e => match b, e with
    | .err, _ => .err
    | .free, some (va, tg) => blockOf s t va tg false
    | .held u, some (va, tg) => if blockOf s t va tg false = .err then .err else .held u
    | _, none => b) .free

/-- The tiles that discard lanes of a vector access, one for each such lane (R389). -/
def sealedLanes (s : State) (t : Nat) (l : List (Option (Word × Target))) : List Nat :=
  l.filterMap (fun e => e.bind (fun p => if blockOf s t p.1 p.2 false = .err then servedBy s t p.1 p.2 false else none))

/-- Does a vector store cover one whole aligned line (R83)? -/
def wholeLine (l : List (Option (Word × Target))) : Bool :=
  match l with
  | some (va, _) :: _ => va.toNat % 64 == 0 && l.length == 8 &&
      (l.zipIdx).all (fun p => (p.1.map (·.1)) == some (va + BitVec.ofNat 64 (8 * p.2)))
  | _ => false

/-- A store of a full line clears the poison of its line (R83). -/
def healLine (s : State) (l : List (Option (Word × Target))) : State :=
  match l.head?.bind id with
  | some (_, tg) => if wholeLine l then (match targetKey tg with
      | some a => clearPoison s a
      | none => s) else s
  | none => s

/-- Perform a vector access (R278). -/
def performLanes (s : State) (t : Nat) (m : Mode) (op : LongOp) (vas : List Word) (mask : Word) (data : Option (List Word)) : Performed :=
  let k : AccKind := if data.isSome then .write else .read
  match resolveLanes s t m k ((vas.zipIdx).map (fun p => (p.1, bitOf mask p.2))) with
  | (.error f, s1) => { res := .fault f, op := op, st := s1 }
  | (.ok l, s1) =>
    match blockLanes s1 t l with
    | .err => { res := .err, op := op, st := (sealedLanes s1 t l).foldl dropAt s1 }
    | .held u => holdAt s1 u t m op
    | .free =>
      if l.any (fun e => e.any (fun p => targetPoisoned s1 p.2)) && data.isNone then { res := .poison, op := op, st := s1 }
      else match data with
        | none => let q := readLanes s1 t l; { res := .lanes q.1, op := op, st := q.2 }
        | some ds => { res := .ack, op := op, st := writeLanes (healLine s1 l) t l ds }

/-- The second half of a REDF (R107, R281): the old value goes to the pair at the target rank, then one arrival to its second
doubleword. A pair beyond the target's scratch is refused, and the operation keeps the old value for its replay. -/
def performForward (s : State) (t : Nat) (m : Mode) (o : AtomOp) (va b fwd old : Word) : Performed :=
  let op := LongOp.redf o va b fwd (some old)
  let (u, off) := match regionOf fwd with
    | .ok (.place rank off) => ((rankEntry s (partNo s t) rank).tile, off)
    | _ => (t, fwd.toNat % 2 ^ 20)
  if u ≠ t ∧ (sealed s u || (getField s (fieldOf u)).resetState != 0) then { res := .err, op := op, st := dropAt s u }
  else if u ≠ t ∧ heldAtNi s u then holdAt s u t m op
  else if scratchSize (getTile s u) ≤ off + 15 then
    { res := .fault (mkFault 4 0 0 .atomic fwd { prot := false, sub := 5 }), op := op, st := s }
  else
    let s1 := markScratch (writeD s (scratchKey u off) old) u off 16
    let w := readD s1 (scratchKey u (off + 8))
    { res := .ack, op := op, st := writeD s1 (scratchKey u (off + 8)) (arrive w false) }

/-- The line of an atomic at its owner (R84, R106): the home's bank fills it into the slice; the unit of an owner window holds it dirty. -/
def atOwner (s : State) (t : Nat) (va : Word) (tg : Target) : State :=
  match tg, servedBy s t va tg true with
  | .mem pa, some u =>
    let line := pa / 64
    let s1 := if (getTile s u).ownerLines.contains line then s else sliceAt (recallLine s line) pa false
    updTile s1 u (fun a => { a with ownerLines := insertNat line a.ownerLines })
  | _, _ => atHome s tg true

/-- Perform an atomic update at its owner (R106, R273, R279, R284). -/
def performAtomic (s : State) (t : Nat) (m : Mode) (op : LongOp) : Performed :=
  let va := op.target
  match resolve s t m (coreRule .atomic) va 8 with
  | .error e => { res := .fault (accessFault .atomic va e), op := op, st := afterFault s t m .atomic va e }
  | .ok (tg, s1) =>
    match blockOf s1 t va tg true with
    | .err => { res := .err, op := op, st := dropAt s1 ((servedBy s1 t va tg true).getD t) }
    | .held u => holdAt s1 u t m op
    | .free =>
      if targetPoisoned s1 tg then { res := .poison, op := op, st := s1 }
      else
        let (v, s3) := readAt (atOwner s1 t va tg) tg 8
        let old : Word := BitVec.ofNat 64 v
        let s4 := match updateOf op old with
          | some w => writeAt s3 tg 8 w.toNat
          | none => s3
        match op with
        | .amo _ _ _ | .cas _ _ _ => { res := .word old, op := op, st := s4 }
        | .bararv _ => { res := .word old, op := op, st := s4 }
        | .redf o a b fwd _ => performForward s4 t m o a b fwd old
        | _ => { res := .ack, op := op, st := s4 }

/-- Perform an operation of tile `t` at its home (R134, R275, R278, R279). A read of mr stays pending. DESIGN CHOICE, log entry 4. -/
def performNow (s : State) (t : Nat) (m : Mode) (op : LongOp) : Performed :=
  match op with
  | .load size sgn va =>
    (match resolve s t m (coreRule .read) va size with
     | .error e => { res := .fault (accessFault .read va e), op := op, st := afterFault s t m .read va e }
     | .ok (tg, s1) =>
       match blockOf s1 t va tg false with
       | .err => { res := .err, op := op, st := dropAt s1 ((servedBy s1 t va tg false).getD t) }
       | .held u => holdAt s1 u t m op
       | .free =>
         if targetPoisoned s1 tg then { res := .poison, op := op, st := s1 }
         else
           let (v, s2) := readAt s1 tg size
           { res := .word (extend size sgn v), op := op, st := cacheTouch s2 t va tg false })
  | .store size va d =>
    (match resolve s t m (coreRule .write) va size with
     | .error e => { res := .fault (accessFault .write va e), op := op, st := afterFault s t m .write va e }
     | .ok (tg, s1) =>
       match blockOf s1 t va tg false with
       | .err => { res := .err, op := op, st := dropAt s1 ((servedBy s1 t va tg false).getD t) }
       | .held u => holdAt s1 u t m op
       | .free => { res := .ack, op := op, st := cacheTouch (writeAt s1 tg size (d.toNat % 2 ^ (8 * size))) t va tg true })
  | .vload vas mask => performLanes s t m op vas mask none
  | .vstore vas mask data => performLanes s t m op vas mask (some data)
  | .redf o va b fwd (some old) => performForward s t m o va b fwd old
  | .mr _ _ _ _ => { res := .pending, op := op, st := s }
  | .amo _ _ _ | .cas _ _ _ | .red _ _ _ | .redf _ _ _ _ none | .barinit _ _ | .bararv _ | .cancelMark _ _ => performAtomic s t m op

/-- Is an operation a read of the sub-tile, which is no access to memory? -/
def LongOp.isMr : LongOp → Bool
  | .mr _ _ _ _ => true
  | _ => false

/-- Perform an operation of tile `t`, or, while a network interface holds an earlier one of it, hold this one behind that (R91, R92): a fault
stands at once. DESIGN CHOICE, log entry 24. -/
def perform (s : State) (t : Nat) (m : Mode) (op : LongOp) : Performed :=
  let p := performNow s t m op
  match heldBehind s t, p.res with
  | none, _ => p
  | some _, .fault _ => p
  | some h, _ => if op.isMr then p else holdIn s h t m op

/-- Is a fault of a long operation raised at the instruction (R29, R31, R32)? DEDUCED, log entry 52. -/
def raisedAtIssue (f : MemFault) : Bool :=
  f.cause == .xlate && bitsOf f.info 15 13 == 0 && (bitsOf f.info 3 0 == 4 || bitsOf f.info 3 0 == 6 || bitsOf f.info 3 0 == 7)

/-- The addresses of memory that an operation names. -/
def LongOp.addresses : LongOp → List Word
  | .vload vas mask => (vas.zipIdx).filterMap (fun p => if bitOf mask p.2 then some p.1 else none)
  | .vstore vas mask _ => (vas.zipIdx).filterMap (fun p => if bitOf mask p.2 then some p.1 else none)
  | .redf _ va _ fwd _ => [va, fwd]
  | .mr _ _ _ _ => []
  | op => [op.target]

/-- Does the route of a place-window access or of a REDF cross an edge that is closed (R19, R379)? -/
def windowClosed (s : State) (t : Nat) (op : LongOp) : Bool :=
  op.addresses.any (fun va => match regionOf va with
    | .ok (.place rank _) => decide (rank < tileCount s (partNo s t)) && routeClosed s t (rankSeen s t (partNo s t) rank).tile
    | _ => false)

/-- Is an operation short: does every address that it accesses lie in the local scratch window (R32, R134)? DEDUCED, log entry 49. -/
def LongOp.short : LongOp → Bool
  | .mr _ _ _ _ => false
  | .redf _ _ _ _ _ => false
  | op => op.addresses.all isLocal

end Sys2Proof.Machine
end

