-- ==== Sys2Proof/Machine/Ops.lean ====
section
/-! DEFINITION. The shared operations of the tile's sequencer: registers, the counters (R138), how an instruction completes, waits or
traps, the park and its commit (R134 to R137), taking a trap (R361), ending a tile's work (R342 to R344, R389), and selecting
handlers (R139 to R142). -/
namespace Sys2Proof.Machine

/- Registers -/

/-- A scalar register; x0 reads zero (R197). -/
def Tile.xGet (t : Tile) (n : Nat) : Word := if n = 0 then 0 else vget t.x n 0

/-- Write a scalar register; a write of x0 is discarded (R197). -/
def Tile.xSet (t : Tile) (n : Nat) (w : Word) : Tile := if n = 0 then t else { t with x := vset t.x n w }

/-- A vector register. -/
def Tile.vGet (t : Tile) (n : Nat) : BitVec 512 := vget t.v n 0

/-- Write a vector register. -/
def Tile.vSet (t : Tile) (n : Nat) (w : BitVec 512) : Tile := { t with v := vset t.v n w }

/-- A mask register; m0 reads all ones (R198). -/
def Tile.mGet (t : Tile) (n : Nat) : Word := if n = 0 then BitVec.allOnes 64 else vget t.m n 0

/-- Write a mask register; a write of m0 is discarded (R198). -/
def Tile.mSet (t : Tile) (n : Nat) (w : Word) : Tile := if n = 0 then t else { t with m := vset t.m n w }

/-- Lane `i` of a vector register (R198). -/
def lane (v : BitVec 512) (i : Nat) : Word := v.extractLsb' (64 * i) 64

/-- A vector register of eight lanes; missing lanes are zero. -/
def ofLanes (l : List Word) : BitVec 512 := BitVec.ofNat 512 ((l.zipIdx).foldl (fun a p => a + p.1.toNat * 2 ^ (64 * p.2)) 0)

/-- The eight lanes of a vector register. -/
def lanes (v : BitVec 512) : List Word := (List.range 8).map (lane v)

/-- No later commit writes scalar register `n` (R135). -/
def Tile.cancelX (t : Tile) (n : Nat) : Tile :=
  let drop := fun (e : LongEntry) => if e.dst = .x n then { e with dst := .none } else e
  { t with longBuf := t.longBuf.map drop }

/-- No later commit writes the lanes `ls` of vector register `n` (R135). -/
def Tile.cancelV (t : Tile) (n : Nat) (ls : List Bool) : Tile :=
  let drop := fun (e : LongEntry) => match e.dst with
    | .v k l => if k = n then { e with dst := .v k ((l.zip ls).map (fun p => p.1 && !p.2)) } else e
    | _ => e
  { t with longBuf := t.longBuf.map drop }

/-- An instruction writes a scalar register. -/
def Tile.writeX (t : Tile) (n : Nat) (w : Word) : Tile := (t.cancelX n).xSet n w

/-- An instruction writes a whole vector register. -/
def Tile.writeV (t : Tile) (n : Nat) (w : BitVec 512) : Tile := (t.cancelV n (List.replicate 8 true)).vSet n w

/- Counters -/

/-- Add to the counter numbered 0x078 + `i` (R75, R138). DESIGN CHOICE, log entry 5. -/
def Tile.count (t : Tile) (i n : Nat) : Tile := { t with counters := vset t.counters i (vget t.counters i 0 + BitVec.ofNat 64 n) }

/-- The counter of a wait (R138); a wait for a fetch is counted when its line arrives (R74). -/
def WaitCause.counter : WaitCause → Option Nat
  | .dep => some 9 | .empty => some 10 | .full => some 11 | .park => some 12 | .wait => some 13
  | .xlate => some 14 | .inbox => some 15 | .idle => some 17 | .fetch => none | .fence => some 12 | .scope => some 13

/-- Count one cycle of the core: a running handler's cycles count under CYC_HANDLER (R138). DESIGN CHOICE, log entry 5. -/
def Tile.countCycle (t : Tile) (handler : Bool) (i : Option Nat) : Tile :=
  if handler then t.count 16 1 else match i with
    | some k => t.count k 1
    | none => t

/-- Which of the four contexts of a core runs: the thread, a handler, the trap code of either. -/
def Tile.ctx (t : Tile) : Nat := (if t.intr.isSome then 1 else 0) + (if bitsOf t.trapCause 3 0 = 0 then 0 else 2)

/- How an instruction ends -/

/-- Why an instruction does not complete: it traps; it waits, with the steps that can end the wait and the operands that it keeps;
it must park first (R136); or it consumed an uncorrectable error (R389). -/
inductive Stop where
  | trap (i : TrapInfo)
  | wait (c : WaitCause) (point : Bool) (evs : List (Instr × List Nat)) (keep : Option State)
  | park
  | poison
  deriving DecidableEq, Repr

/-- A computation of an instruction over the state; a Stop leaves none of its effects. -/
abbrev Exec (α : Type) := StateT State (Except Stop) α

/-- Stop. -/
def stop {α : Type} (x : Stop) : Exec α := fun _ => .error x

/-- Raise a trap. -/
def trap {α : Type} (i : TrapInfo) : Exec α := stop (.trap i)

/-- Raise ILLEGAL with a class (R216). -/
def illegal {α : Type} (cls : Nat) : Exec α := trap { cause := .illegal, cls := cls }

/-- The trap of a memory fault: XFAULT_VA and XFAULT_INFO, or XFAULT_VA alone for an ALIGN that names an address (R47, R278). -/
def faultTrap (f : MemFault) (repl : Bool) : TrapInfo :=
  { cause := f.cause, repl := repl
    fault := if f.loads && f.cause != .align then some f else none
    va := if f.loads && f.cause == .align then some f.va else none }

/-- Raise a memory fault at the instruction. -/
def memTrap {α : Type} (f : MemFault) : Exec α := trap (faultTrap f false)

/-- Wait at a point where a handler may be selected and a kill taken (R139, R342). -/
def waitPoint {α : Type} (c : WaitCause) (evs : List (Instr × List Nat) := []) : Exec α := stop (.wait c true evs none)

/-- Wait at no interruption point. -/
def waitHere {α : Type} (c : WaitCause) (evs : List (Instr × List Nat) := []) : Exec α := stop (.wait c false evs none)

/-- Read something of the state. -/
def look {α : Type} (g : State → α) : Exec α := fun s => .ok (g s, s)

/-- Change the state. -/
def update (g : State → State) : Exec Unit := fun s => .ok ((), g s)

/-- Change the current tile. -/
def updateTile (g : Tile → Tile) : Exec Unit := fun s => .ok ((), onTile s g)

/-- Require a condition. -/
def demand (b : Bool) (e : Exec Unit) : Exec Unit := if b then pure () else e

/-- The code of a cause (R360). -/
def Cause.code : Cause → Nat
  | .illegal => 1 | .priv => 2 | .align => 3 | .xlate => 4 | .prot => 5 | .portErr => 6 | .stray => 7
  | .fmt => 8 | .topo => 9 | .cls => 10 | .residue => 11 | .window => 12 | .trap => 13

/-- Supervisor instructions raise PRIV in user mode (R214, R356). DEDUCED, log entry 48. -/
def supervisorOnly : Exec Unit := do
  let m ← look (fun s => s.tile.mode)
  demand (m == .supervisor) (trap { cause := .priv })

/- Loops and the advance of the pc -/

/-- The top entry of the loop stack. -/
def Loops.top (l : Loops) : LoopEntry := vget l.entries (l.depth - 1) { start := 0, count := 0, len := 0, level := 0 }

/-- The loop-end check of R251 after an instruction whose last parcel lies at `last`: the loop state, and the start to go to. -/
def loopEnd (l : Loops) (last : Word) : Loops × Option Word :=
  let e := l.top
  if 0 < l.depth ∧ e.level = l.level ∧ last = e.start - 4 + BitVec.ofNat 64 (e.len * 4) then
    if 1 < e.count.toNat then ({ l with entries := vset l.entries (l.depth - 1) { e with count := e.count - 1 } }, some e.start)
    else ({ l with depth := l.depth - 1 }, none)
  else (l, none)

/-- loop_exit_check of R251: a taken transfer to `target` pops the entries of this level that do not hold it. -/
def loopExit (target : Word) : Nat → Loops → Loops
  | 0, l => l
  | n + 1, l =>
    let e := l.top
    if 0 < l.depth ∧ e.level = l.level ∧
        ¬ (e.start.toNat ≤ target.toNat ∧ target.toNat ≤ (e.start - 4 + BitVec.ofNat 64 (e.len * 4)).toNat) then
      loopExit target n { l with depth := l.depth - 1 }
    else l

/-- An instruction of `len` parcels completes without a taken transfer (R251). -/
def Tile.advance (t : Tile) (len : Nat) : Tile :=
  let next := t.pc + BitVec.ofNat 64 (4 * len)
  let r := loopEnd t.loops (next - 4)
  { t with pc := r.2.getD next, loops := r.1 }

/-- The thread or a handler transfers into a code-window slot, which enters the tile's set of 16 (R416). -/
def Tile.touchSlot (t : Tile) (a : Word) : Tile :=
  match slotOf a with
  | none => t
  | some i =>
    if t.touch.contains i then t
    else if t.touch.length < 16 then { t with touch := t.touch ++ [i] }
    else { t with touchFull := true }

/- The park -/

/-- Commit one result (R135). -/
def Tile.commitEntry (t : Tile) (e : LongEntry) : Tile :=
  match e.dst, e.res with
  | .x n, .word w => t.xSet n w
  | .v n ls, .lanes ws =>
    t.vSet n (ofLanes (((lanes (t.vGet n)).zip (ws.zip ls)).map (fun p => if p.2.2 then p.2.1 else p.1)))
  | _, _ => t

/-- Does an entry hold a fault or an ERR result (R137, R381)? -/
def LongEntry.failed (e : LongEntry) : Bool := match e.res with | .fault _ => true | .err => true | _ => false

/-- A destination without what another one names: the registers and lanes that are left of it. -/
def LongDst.minus : LongDst → LongDst → LongDst
  | .x a, .x b => if a = b then .none else .x a
  | .v a l, .v b m => if a = b then .v a ((l.zip m).map (fun p => p.1 && !p.2)) else .v a l
  | d, _ => d

/-- The failed operations of a park, for the replay: one writes nothing that a later operation of the group has committed, since the last writer in
program order stands (R135, R137). -/
def failedOf : List LongEntry → List LongEntry
  | [] => []
  | e :: r => if e.failed then { e with dst := (r.filter (fun f => !f.failed)).foldl (fun d f => d.minus f.dst) e.dst } :: failedOf r else failedOf r

/-- What a park finds. -/
inductive Parked where
  | waiting
  | poisoned
  | done (t : Tile) (failed : List LongEntry)

/-- The park of R135 and R137: wait for every result, commit in issue order, free every entry. DEDUCED, log entry 61. -/
def Tile.park (t : Tile) : Parked :=
  if !(t.longBuf.all (·.returned)) then .waiting
  else if t.longBuf.any (fun e => e.res == .poison) then .poisoned
  else .done { t.longBuf.foldl Tile.commitEntry t with longBuf := [] } (failedOf t.longBuf)

/-- The steps that return the outstanding results of a tile. -/
def returnSteps (t : Tile) : List (Instr × List Nat) :=
  ((t.longBuf.zipIdx).filter (fun p => !p.1.returned)).map (fun p => (.longResultReturn, [p.2]))

/-- A wait leaves the pc where it is, counts its cycle, and lets the steps run that can end it. DESIGN CHOICE, log entry 5. -/
def waitStep (s : State) (c : WaitCause) (point : Bool) (evs : List (Instr × List Nat)) : State :=
  let s1 := onTile s (fun t => { t.countCycle t.intr.isSome c.counter with wait := some c, waitPoint := point })
  schedule { s1 with time := s.time + 1 } s.tile.id evs

/- Ending a tile's work -/

/-- Write the barrier record (R344): the entry of the address, or a new one in place of the oldest of eight. -/
def barRecord (l : List (Word × Nat)) (va : Word) (phase : Nat) : List (Word × Nat) :=
  let r := l.filter (fun e => e.1 != va) ++ [(va, phase)]
  r.drop (r.length - 8)

/-- Discard the messages of a tile's inbox and count them (R149, R383). -/
def Tile.dropInbox (t : Tile) : Tile := { t with discardCnt := t.discardCnt + BitVec.ofNat 64 t.inbox.length, inbox := [] }

/-- Seal the bank tokens that a tile's task holds (R62). -/
def Tile.sealTokens (t : Tile) : Tile :=
  { t with bankToken := t.bankToken.map (fun o => if o == t.cfgTag && o != 0 then 0xFFFF#16 else o) }

/-- The copies of the tile's present task: the slots from 32 up hold those of tasks that lie in images (R369, log entry 25). -/
def Tile.ownCopies (t : Tile) : SMap CopySlot := t.copies.filter (fun e => decide (e.1 < 32))

/-- The copies of a cancelled issuer (R127): a copy that has reached no spout is discarded; the others end at their last sector. -/
def Tile.stopCopies (t : Tile) : Tile :=
  { t with copies := (t.copies.filter (fun e => e.2.arrived || decide (32 ≤ e.1))).map (fun e => if 32 ≤ e.1 then e else (e.1,
      { e.2 with lead := none, pieces := [], owed := e.2.owed ++ (e.2.pieces.filter (fun c => c.uncounted != 0)).map (fun c => (c.uncounted, c.num)) })) }

/-- The staging register and the number of elements that a command takes (R303, R304). -/
def MCmd.takes : MCmd → Option (Nat × Nat)
  | .ldb vk k n _ _ => some (8 + vk, k * n)
  | .mma vk m k _ _ => some (8 + vk, m * k)
  | _ => none

/-- The number of elements that a command takes. -/
def MCmd.need (c : MCmd) : Nat := (c.takes.map (·.2)).getD 0

/-- The commands of a queue that have not finished (R298): the one that executes, or will next, and those after it. -/
def SubTile.waiting (u : SubTile) : List MCmd := u.queue.drop u.draining

/-- The matrix commands of a cancelled task (R311): a started command finishes on the engine, and what it drains is discarded. -/
def SubTile.stop (u : SubTile) : SubTile :=
  let q := if u.started then u.waiting.take 1 else []
  { u with queue := q, staged := u.staged.take ((q.map MCmd.need).sum), kept := 0, draining := 0, drains := [], discard := u.started, held := none }

/-- A cistern port that stands at a fault is released when the scope of its task is cancelled (R87). -/
def RimPort.release (r : RimPort) : RimPort := if r.fault.isSome then { r with fault := none, passed := false, idle := true, ahead := [] } else r

/-- The fates of R343 for the work of a tile, the switch stopped, and one update for each entry of its barrier record (R344).
DEDUCED, log entry 63. -/
def dropWork (s : State) (id : Nat) : State :=
  let rec_ := (getTile s id).barRec
  let s1 := rec_.foldl (fun u e => (perform u id .supervisor (.cancelMark e.1 e.2)).st) s
  let s2 := updTile s1 id (fun t =>
    { (((t.dropInbox).sealTokens).stopCopies) with
      longBuf := [], replay := [], passed := [], sendQ := [], streams := [], sub := t.sub.stop, report := none, barRec := []
      sw := { t.sw with st := .halted, word := none, rem := 0, moved := [] }, wait := none, waitOps := [], intr := none, parkNext := false
      fetchMiss := none, swMiss := none, prefetch := none, prefetchSw := none, selPark := false, pendTrap := none, dispute := none, trapCause := 0, ports := t.ports.map (fun e => (e.1, e.2.release)) })
  schedule s2 id ((getTile s2 id).copies.map (fun e => (.copyCounterAddition, [e.1])))

/-- An uncorrectable error kills the tile (R389): it stops at once and is sealed, its outputs deliver ERR tokens, and the lines that its owner-window
unit holds dirty go back, those in `lost` poisoned (R30). DEDUCED, log entry 63. -/
def sealLost (s : State) (id : Nat) (lost : List Nat) : State :=
  let s1 := updTile (giveOwnerLines (loseOwners (dropWork s id) [id]) id lost) id (fun t => { t with run := .killed })
  schedule s1 id ((List.range 8).map (fun p => (.killedTileErrOutput, [p])))

/-- An uncorrectable error kills the tile, with every line that its owner-window unit holds intact (R30, R389). -/
def sealTile (s : State) (id : Nat) : State := sealLost s id []

/-- The task of a tile is cancelled or ended (R342, R343): the tile's work ends, and the tile retires. DEDUCED, log entry 63. -/
def endTile (s : State) (id : Nat) : State :=
  let s1 := updTile (dropWork s id) id (fun t => { t with run := .exited, cancelled := true })
  schedule s1 id [(.tileRetire, [])]

/- Taking a trap -/

/-- Load a control register that belongs to a trap. -/
def Tile.loadInfo (t : Tile) : Option (InfoReg × Word) → Tile
  | none => t
  | some (.cls, w) => { t with classInfo := w }
  | some (.stray, w) => { t with strayInfo := w }
  | some (.topo, w) => { t with topoInfo := w }
  | some (.residue, w) => { t with residueInfo := w }

/-- Load XFAULT_VA and XFAULT_INFO (R47, R249). -/
def Tile.loadFault (t : Tile) (f : Option MemFault) (va : Option Word) : Tile :=
  let u := match f with
    | some m => { t with xfaultVa := m.va, xfaultInfo := m.info }
    | none => t
  match va with
  | some a => { u with xfaultVa := a }
  | none => u

/-- Consume the ERR token at the head of a port (R132). -/
def Tile.eatPort (t : Tile) : Option Nat → Tile
  | none => t
  | some p => { t with coreIn := vset t.coreIn p ((vget t.coreIn p []).drop 1) }

/-- x24 to x31. -/
def Tile.upper (t : Tile) : Vector Word 8 := Vector.ofFn (fun i : Fin 8 => vget t.x (24 + i.val) 0)

/-- Put eight values into x24 to x31. -/
def Tile.setUpper (t : Tile) (b : Vector Word 8) : Tile :=
  { t with x := Vector.ofFn (fun i : Fin 32 => if 24 ≤ i.val then vget b (i.val - 24) 0 else vget t.x i.val 0) }

/-- Swap x24 to x31 with the trap bank (R361). -/
def Tile.swapBank (t : Tile) : Tile := { t.setUpper t.trapBank with trapBank := t.upper }

/-- TRAP_CAUSE at an entry (R361, R362); a passed trap that awaits its report's HRET stays marked. -/
def trapCauseWord (t : Tile) (i : TrapInfo) : Word :=
  at_ 0 i.cause.code ||| at_ 8 i.cls ||| at_ 15 i.tcode ||| at_ 21 i.port ||| at_ 24 (if i.mark then 1 else 0) |||
    (t.trapCause &&& 0x8000000#64) ||| at_ 28 (if i.repl then 1 else 0) ||| at_ 29 (if t.mode = .supervisor then 1 else 0) |||
    at_ 30 (if t.intr.isSome then 1 else 0)

/-- The entry of R361, after its park. -/
def Tile.enterTrap (t : Tile) (i : TrapInfo) : Tile :=
  let u := ((t.loadFault i.fault i.va).loadInfo i.info).eatPort i.eat
  { u.swapBank with
    trapPc := (if i.next then t.pc + 4 else t.pc) &&& ~~~3#64
    trapCause := trapCauseWord t i
    mode := .supervisor
    pc := t.trapVec
    wait := none
    waitPoint := false }

/-- Enter a trap; one raised while another is served kills the tile (R361). `c` is the counter of the cycle: CYC_ISSUE (8), or STALL_PARK (12)
where the entry's park commits in it (R136). A fault that a fetch holds is raised by then, or is found again. -/
def enterTrap (s : State) (i : TrapInfo) (c : Nat) : State :=
  if bitsOf s.tile.trapCause 3 0 ≠ 0 then sealTile s s.tile.id
  else { onTile s (fun t => { (t.enterTrap i).countCycle t.intr.isSome (some c) with
      selPark := false, pendTrap := none, dispute := none, fetchMiss := t.fetchMiss.filter (fun m => m.fault.isNone) }) with time := s.time + 1 }

/-- The trap of the earliest failed operation of a park (R137, R381). -/
def replayTrap (e : LongEntry) : TrapInfo :=
  match e.res with
  | .fault f => faultTrap f true
  | _ => { cause := .portErr, repl := true }

/-- Keep the failed operations of a park in the replay record (R137, R362). -/
def Tile.keepReplay (t : Tile) (failed : List LongEntry) : Tile :=
  { t with replay := failed, replayPc := match failed with
      | e :: _ => e.pc
      | [] => t.replayPc }

/-- Taking a trap (R361): park, keep faulting results for the replay, then enter. A trap whose park waits is taken when the results are there, and
the thread executes nothing meanwhile. -/
def takeTrap (s : State) (i : TrapInfo) : State :=
  match s.tile.park with
  | .waiting => onTile (waitStep s .park false (returnSteps s.tile)) (fun t => { t with pendTrap := some i })
  | .poisoned => sealTile s s.tile.id
  | .done t fs => enterTrap { s with tile := if fs = [] then t else t.keepReplay fs } i (if s.tile.longBuf.isEmpty then 8 else 12)

/-- A park before an instruction (R136, R137): commit, and raise the fault of the earliest failed operation. DEDUCED, log entry 61. -/
def parkStep (s : State) : State :=
  match s.tile.park with
  | .waiting => waitStep s .park false (returnSteps s.tile)
  | .poisoned => sealTile s s.tile.id
  | .done t [] =>
    { s with tile := { t.countCycle t.intr.isSome (some 12) with wait := none, waitPoint := false }, time := s.time + 1 }
  | .done t (e :: r) => enterTrap { s with tile := t.keepReplay (e :: r) } (replayTrap e) 12

/-- The park that ends before an instruction of its own makes one (HRET, EXIT, IDLE, CFGSWP): the buffer must be empty. -/
def parkFirst : Exec Unit := do
  let l ← look (fun s => s.tile.longBuf)
  demand l.isEmpty (stop .park)

/-- What a Stop leaves. -/
def stopStep (s : State) : Stop → State
  | .trap i => takeTrap s i
  | .wait c point evs keep => waitStep (keep.getD s) c point evs
  | .park => parkStep s
  | .poison => sealTile s s.tile.id

/-- The value that a decided dispute gives to an element of a unit's result, if it does (R386). -/
def Tile.disputed (t : Tile) (unit lane : Nat) : Option Nat :=
  match t.dispute with
  | some d => if d.unit = unit ∧ d.lane = lane then some d.value else none
  | none => none

/-- A doubleword that a unit gives as its result (R386). -/
def settle (unit lane : Nat) (w : Word) : Exec Word := fun s => .ok (((s.tile.disputed unit lane).map (BitVec.ofNat 64)).getD w, s)

/-- An instruction completes: the pc moves unless the instruction set it, which cancels the sequential prefetches not yet sent (R71), the cycle is
counted, and what a wait of this context kept, and a dispute over its result, are dropped. -/
def Tile.complete (t : Tile) (old : Tile) (len : Nat) (jumped : Bool) : Tile :=
  let u : Tile := if jumped then { t.touchSlot t.pc with prefetch := none } else t.advance len
  { u.countCycle (old.intr.isSome || t.intr.isSome) (some 8) with
    wait := none, waitPoint := false, dispute := none, waitOps := u.waitOps.filter (fun w => w.ctx != old.ctx) }

/-- Run an instruction of `len` parcels; its body answers whether it set the pc. -/
def run (len : Nat) (body : Exec Bool) (s : State) : Host.Outcome State Fault Refusal :=
  match body s with
  | .ok (jumped, s') => .next { s' with tile := s'.tile.complete s.tile len jumped, time := s.time + 1 }
  | .error x => .next (stopStep s x)

/-- Run an instruction that does not set the pc. -/
def run1 (body : Exec Unit) (s : State) : Host.Outcome State Fault Refusal := run 1 (do body; pure false) s

/-- A step of the hardware that is no instruction. DESIGN CHOICE, log entry 3. -/
def event (g : State → State) (s : State) : Host.Outcome State Fault Refusal := .next { g s with time := s.time + 1 }

/-- Put the present step back at the end of the schedule: its occasion is there, but it cannot proceed yet. DESIGN CHOICE, log entry 3. -/
def again (s : State) (i : Instr) : State := scheduleAt s s.tile.id i s.arg

/-- A step of a field's supervisor about a translation fault: it waits while the field's firmware is being updated (R392). -/
def supervised (i : Instr) (g : State → State) (s : State) : State :=
  if (getField s (fieldOf s.tile.id)).updating.isSome then again s i else g s

/- Long operations -/

/-- The kind of access of an operation (R47). -/
def LongOp.acc : LongOp → AccKind
  | .load _ _ _ | .vload _ _ | .mr _ _ _ _ => .read
  | .store _ _ _ | .vstore _ _ _ => .write
  | _ => .atomic

/-- The addresses of an operation whose translation must wait for the walker (R43). -/
def opMisses (s : State) (op : LongOp) : List Word := op.addresses.filter (fun va => walkStalls s s.tile.id va op.acc s.tile.mode)

/-- Must a translation miss of an operation wait for the walker (R43)? -/
def opStalls (s : State) (op : LongOp) : Bool := !(opMisses s op).isEmpty

/-- The wait of an operation for the walker: its misses are entered, and it counts as a stall of translation while the miss entries are full, and
otherwise under the park cause, as the latency of a long result does (R43, R138). DESIGN CHOICE, log entry 84. -/
def missWait (s : State) (op : LongOp) : Stop :=
  let t := s.tile.id
  let full := (opMisses s op).any (fun va => missFull s t (va.toNat / 4096))
  .wait (if full then .xlate else .fence) false [] (some ((opMisses s op).foldl (fun u va => askData u t va op.acc s.tile.mode) s))

/-- Issue a long operation (R134): the implicit park comes before anything else when all 16 entries are held (R136). Then it takes an entry, is
performed at its home, and lets its result return later. DESIGN CHOICE, log entry 4. -/
def issueLong (op : LongOp) (dst : LongDst) : Exec Unit := do
  let s ← look id
  demand (decide (s.tile.longBuf.length < 16)) (stop .park)
  demand (!(windowClosed s s.tile.id op)) (trap { cause := .window })
  demand (!(opStalls s op)) (stop (missWait s op))
  let p := perform s s.tile.id s.tile.mode op
  match p.res with
  | .fault f => demand (!raisedAtIssue f) (memTrap f)
  | _ => pure ()
  update (fun _ =>
    let k := s.tile.longBuf.length
    let s1 := onTile p.st (fun t =>
      { t with longBuf := t.longBuf ++ [{ op := p.op, dst := dst, pc := s.tile.pc, mode := s.tile.mode, res := p.res }] })
    schedule s1 s1.tile.id [(.longResultReturn, [k])])

/-- Perform a short operation at issue (R134): a failed check traps at the instruction. While a network interface holds an earlier access of the
thread, the short one waits for its place behind that (R92; DESIGN CHOICE, log entry 24). -/
def doShort (op : LongOp) : Exec LongRes := do
  let s ← look id
  let p := performNow s s.tile.id s.tile.mode op
  match p.res with
  | .fault f => memTrap f
  | .poison => stop .poison
  | r =>
    demand (heldBehind s s.tile.id).isNone (waitHere .fence [])
    update (fun _ => p.st); pure r

/- Handlers -/

/-- HT_CTLc.VALID (R140). -/
def Tile.htValid (t : Tile) (c : Nat) : Bool := bitOf (vget t.htCtl c 0) 7
/-- HT_CTLc.PENDING. -/
def Tile.htPending (t : Tile) (c : Nat) : Bool := bitOf (vget t.htCtl c 0) 6
/-- HT_CTLc.MASK. -/
def Tile.htMask (t : Tile) (c : Nat) : Bool := bitOf (vget t.htCtl c 0) 5
/-- HT_CTLc.PRIO. -/
def Tile.htPrio (t : Tile) (c : Nat) : Nat := bitsOf (vget t.htCtl c 0) 1 0

/-- HT_CTLc.RUN (R140): a message waits for the channel, and the entry is VALID and not PENDING. -/
def Tile.htRun (t : Tile) (c : Nat) : Bool := t.htValid c && !t.htPending c && t.inbox.any (fun m => m.chan == c)

/-- The channel that selection takes (R141): RUN and not MASK, the highest priority, the lowest number. -/
def Tile.selectable (t : Tile) : Option Nat :=
  ((List.range 64).filter (fun c => t.htRun c && !t.htMask c)).foldl (fun best c => match best with
    | none => some c
    | some b => if t.htPrio b < t.htPrio c then some c else some b) none

/-- The fields of a message header (R324). -/
def headerLen (h : Word) : Nat := bitsOf h 31 16

/-- INBOX_INFO for a message (R142). -/
def infoOf (m : InMsg) : Word :=
  let h := m.words.headD 0
  at_ 32 (bitsOf h 47 32) ||| at_ 16 (headerLen h) ||| at_ 15 (if m.redir then 1 else 0) ||| at_ 13 (bitsOf h 13 13) ||| at_ 0 (bitsOf h 5 0)

/-- Mark the oldest message of a channel as the current one of a handler (R141). -/
def selectMsg : List InMsg → Nat → List InMsg
  | [], _ => []
  | m :: r, c => if m.chan = c then { m with sel := true } :: r else m :: selectMsg r c

/-- A handler starts (R128, R141, R252): the thread's pc, upper registers and loops are put aside. An IDLE ends here (R338). -/
def Tile.startHandler (t : Tile) (c : Nat) (report : Bool) (msg : InMsg) : Tile :=
  let u := if t.run = .idling then t.advance 1 else t
  { (u.setUpper (Vector.replicate 8 0)).touchSlot (vget t.htPc c 0) with
    intr := some { pc := u.pc, bank := u.upper, loops := u.loops, report := report, chan := c }
    inbox := if report then t.inbox else selectMsg t.inbox c
    loops := {}
    pc := vget t.htPc c 0
    inboxInfo := infoOf msg
    run := .running
    dispute := none
    wait := none
    waitPoint := false
    selPark := false }

/-- Select a handler if one can be selected; the report of a passed trap comes first (R141, R364). -/
def Tile.select (t : Tile) : Option Tile :=
  match t.report with
  | some m => some (t.startHandler 0 true m)
  | none =>
    match t.selectable with
    | some c => (t.inbox.find? (fun m => m.chan == c)).map (t.startHandler c false)
    | none => none

/-- Is the thread at an instruction boundary: between two instructions, or waiting for the fetch of the next one (R74, R139)? -/
def Tile.atBoundary (t : Tile) : Bool := t.wait.isNone || (t.fetchMiss.isSome && (t.wait == some .fetch || t.wait == some .xlate))

/-- Is the current tile at a point where a handler may be selected (R139): no handler runs, no trap is served (DEDUCED, log entry 20), and
the thread is at an instruction boundary or at a blocking wait? -/
def Tile.selectPoint (t : Tile) : Bool :=
  t.intr.isNone && bitsOf t.trapCause 3 0 == 0 && (t.run == .running || t.run == .idling) && (t.atBoundary || t.waitPoint || t.run == .idling)
    && !(List.range 64).any t.htPending

/-- Handler selection at an interruption point (R139). None when nothing can be selected. At a blocking wait with results outstanding the
thread parks first, and that park is not left before its commit (R136). -/
def selectStep (s : State) : Option State :=
  if !s.tile.selectPoint then none
  else
    match s.tile.select with
    | none => none
    | some t =>
      if s.tile.longBuf.isEmpty then some { s with tile := t.countCycle true none, time := s.time + 1 }
      else if s.tile.waitPoint then some (let r := parkStep s; if r.tile.longBuf.isEmpty then r else onTile r (fun u => { u with selPark := true }))
      else none

/-- A turn of a thread that parks for a handler selection (R136): once the park has committed, the handler is selected at its boundary, or the
waiting instruction is tried again if nothing can be selected any longer. -/
def selParkStep (s : State) : State :=
  let r := parkStep s
  if r.tile.longBuf.isEmpty then onTile r (fun u => { u with selPark := false }) else r

/-- Is the current tile at a kill point (R342)? -/
def Tile.killPoint (t : Tile) : Bool := t.waitPoint || t.run != .running || (t.longBuf.isEmpty && t.atBoundary)

end Sys2Proof.Machine
end

