-- ==== Sys2Proof/Machine/Operands.lean ====
section
/-! DEFINITION. Operands (R130 to R133, R197, R198): which sources are available, what a read of each raises, taking values, room at
destinations, and giving results; the positions and conversions of streams (R182 to R188, R285 to R288); the inbox through di
(R141); sends (R403, R404). -/
namespace Sys2Proof.Machine

/-- An operand field: a scalar code of R197 or a vector code of R198. -/
inductive Opnd where
  | x (c : BitVec 6)
  | v (c : BitVec 5)
  deriving DecidableEq, Repr

/-- What an operand code names. Streams are numbered 0 to 7 for k0 to k7 and 8 to 15 for vk0 to vk7. -/
inductive Place where
  | reg (n : Nat)
  | vreg (n : Nat)
  | port (p : Nat)
  | stream (r : Nat)
  | di
  | bq
  deriving DecidableEq, Repr

/-- The place of an operand code. -/
def Opnd.place : Opnd → Place
  | .x c =>
    let n := c.toNat
    if n < 32 then .reg n else if n < 40 then .port (n - 32) else if n < 48 then .stream (n - 40) else if n = 50 then .bq else .di
  | .v c => let n := c.toNat; if n < 16 then .vreg n else .stream (8 + (n - 16))

/- Positions of a pattern -/

/-- The position after an element, dimension 0 fastest (R287). -/
def stepPos (p : Pattern) (q : Pos) : Pos :=
  if q.done then q
  else if q.i0 + 1 < p.c0 then { q with i0 := q.i0 + 1 }
  else if p.dims = 1 then { q with done := true }
  else if q.i1 + 1 < p.c1 then { q with i0 := 0, i1 := q.i1 + 1 }
  else if p.dims = 2 then { q with done := true }
  else if q.i2 + 1 < p.c2 then { q with i0 := 0, i1 := 0, i2 := q.i2 + 1 }
  else { q with done := true }

/-- The position after `n` elements. -/
def stepPosN (p : Pattern) : Nat → Pos → Pos
  | 0, q => q
  | n + 1, q => stepPosN p n (stepPos p q)

/-- The number of elements, up to `n`, from a position to the pattern's end. -/
def remaining (p : Pattern) : Nat → Pos → Nat
  | 0, _ => 0
  | n + 1, q => if q.done then 0 else 1 + remaining p n (stepPos p q)

/-- The index of an element within its pattern (R47). -/
def elemIndex (p : Pattern) (q : Pos) : Nat := q.i0 + p.c0 * (q.i1 + (if p.dims ≥ 2 then p.c1 else 1) * q.i2)

/-- The byte address of an element and the bit within the byte where it starts (R181, R287). -/
def elemAddr (p : Pattern) (w : Nat) (q : Pos) : Word × Nat :=
  let row := p.base + BitVec.ofNat 64 q.i1 * p.s1 + BitVec.ofNat 64 q.i2 * p.s2
  if w < 8 then (row + BitVec.ofNat 64 (q.i0 * w / 8), q.i0 * w % 8) else (row + BitVec.ofNat 64 q.i0 * p.s0, 0)

/- Bindings -/

/-- The binding of a stream register. -/
def Tile.stream (t : Tile) (r : Nat) : Option Binding := smFind t.streams r

/-- Change a binding. -/
def Tile.updStream (t : Tile) (r : Nat) (g : Binding → Binding) : Tile :=
  match smFind t.streams r with
  | some b => { t with streams := smSet t.streams r (g b) }
  | none => t

/-- The format, the scale and the TXR that convert an element of a binding now (R184). -/
def Tile.bindFmt (t : Tile) (b : Binding) : Word × Option Word × Bool :=
  (vget t.fmt b.fmtN 0, b.scaleN.map (fun n => vget t.scale n 0), txrOf t)

/-- May a register be read as a source, or written as a destination (R133, R289)? -/
def Tile.streamBad (t : Tile) (out : Bool) (o : Opnd) : Bool :=
  match o.place with
  | .stream r => match t.stream r with
    | some b => b.out != out || b.pat.stage
    | none => true
  | _ => false

/-- Has the format of a binding changed its storage width (R287)? -/
def Tile.widthBad (t : Tile) (o : Opnd) : Bool :=
  match o.place with
  | .stream r => match t.stream r with
    | some b => storeBits (fmtBits (vget t.fmt b.fmtN 0)) != b.width
    | none => false
  | _ => false

/-- How many elements one access of a stream register takes or gives (R254, R288). -/
def streamTakes (r : Nat) (b : Binding) : Nat := if r < 8 then 1 else remaining b.pat 8 b.pos

/- The inbox through di -/

/-- The thread's current message (R141): one that it has begun, or else the oldest on a masked channel whose entry is VALID and not
PENDING. DEDUCED, log entry 53. -/
def Tile.threadMsg (t : Tile) : Option InMsg :=
  let ok := fun (m : InMsg) => t.htMask m.chan && t.htValid m.chan && !t.htPending m.chan
  match t.inbox.find? (fun m => ok m && decide (0 < m.pos)) with
  | some m => some m
  | none => t.inbox.find? ok

/-- The message of the running handler (R141, R364). -/
def Tile.handlerMsg (t : Tile) (h : Interrupted) : Option InMsg :=
  if h.report then t.report else t.inbox.find? (·.sel)

/-- The next di word: the message, the word's place in it, and its value; a handler reads 0 past the end (R142). -/
def Tile.diWord (t : Tile) : Option (InMsg × Nat × Word) :=
  match t.intr with
  | some h =>
    (match t.handlerMsg h with
     | some m => some (m, h.pos, m.words.getD h.pos 0)
     | none => some ({}, h.pos, 0))
  | none => t.threadMsg.map (fun m => (m, m.pos, m.words.getD m.pos 0))

/-- Replace the first message equal to `m`. -/
def replaceMsg (l : List InMsg) (m : InMsg) (r : List InMsg) : List InMsg :=
  match l with
  | [] => []
  | a :: q => if a == m then r ++ q else a :: replaceMsg q m r

/-- Take a di word (R141, R142). -/
def Tile.popDi (t : Tile) : Tile :=
  match t.diWord with
  | none => t
  | some (m, k, _) =>
    match t.intr with
    | some h =>
      let u := { t with intr := some { h with pos := h.pos + 1 } }
      if m.words.length ≤ k then { u with inboxInfo := u.inboxInfo ||| 0x4000#64 } else u
    | none =>
      let u := if k = 0 then { t with inboxInfo := infoOf m } else t
      if m.words.length ≤ k + 1 then { u with inbox := replaceMsg u.inbox m [] }
      else { u with inbox := replaceMsg u.inbox m [{ m with pos := k + 1 }] }

/- Sources -/

/-- What a source must wait for, if anything (R131, R133). -/
def availSrc (t : Tile) (o : Opnd) : Option (WaitCause × List (Instr × List Nat)) :=
  match o.place with
  | .reg _ | .vreg _ => none
  | .port p => if (vget t.coreIn p []).isEmpty then some (.empty, []) else none
  | .stream r =>
    (match t.stream r with
     | none => none
     | some b =>
       let n := streamTakes r b
       if b.pos.done then some (.empty, [])
       else if (b.ahead.take n).any (fun e => e.fault.isSome) then none
       else if b.ahead.length < n then some (.empty, [(.streamElementFetch, [r])])
       else none)
  | .di => if t.diWord.isNone then some (.inbox, []) else none
  | .bq => if t.emq.isEmpty then some (.empty, []) else none

/-- RESIDUE_INFO for a token that fails its check (R384, R387). DEDUCED, log entry 54. -/
def tokenResidueInfo (k : Token) : Word := at_ 24 k.res ||| at_ 16 (residueOf k.payload) ||| at_ 4 2

/-- The trap of a token whose payload does not fit its residue (R384). -/
def residueTrap (k : Token) : Option TrapInfo :=
  if residueOf k.payload = k.res then none else some { cause := .residue, info := some (.residue, tokenResidueInfo k) }

/-- What examining a source raises (R132, R185, R384, R45): the check of R384 comes before any use of a token, an end marker or a configuration token among
them; `full` is the tile before any source was taken. -/
def examineSrc (full : Tile) (t : Tile) (o : Opnd) : Option TrapInfo :=
  match o.place with
  | .reg _ | .vreg _ | .bq => none
  | .port p =>
    (match (vget t.coreIn p []).head? with
     | none => none
     | some k =>
       match k.kind with
       | .data => residueTrap k
       | .err =>
         some { cause := .portErr, port := p,
                eat := if (vget t.coreIn p []).length = (vget full.coreIn p []).length then some p else none }
       | .marker | .config => (residueTrap k).or (some { cause := .portErr, port := p, mark := true }))
  | .stream r =>
    (match t.stream r with
     | none => none
     | some b =>
       ((b.ahead.take (streamTakes r b)).findSome? (·.fault)).map (fun f => { cause := f.cause, fault := some f }))
  | .di =>
    (match t.diWord with
     | some (m, 1, _) =>
       let h := m.words.headD 0
       if bitOf h 14 && decide (1 < m.words.length) && bitOf h 13 != txrOf t then some { cause := .fmt } else none
     | _ => none)

/-- Take what a source holds, whatever it is. -/
def popSrc (t : Tile) (o : Opnd) : Tile :=
  match o.place with
  | .reg _ | .vreg _ => t
  | .port p => { t with coreIn := vset t.coreIn p ((vget t.coreIn p []).drop 1) }
  | .stream r => t.updStream r (fun b =>
      let n := streamTakes r b
      { b with ahead := b.ahead.drop n, pos := stepPosN b.pat n b.pos, count := b.count + n })
  | .di => t.popDi
  | .bq => { t with emq := t.emq.drop 1 }

/-- Ask each source in field order, as the earlier ones leave the tile (R131). -/
def scanSrcs {α : Type} (g : Tile → Opnd → Option α) : Tile → List Opnd → Option α
  | _, [] => none
  | t, o :: r => match g t o with
    | some a => some a
    | none => scanSrcs g (popSrc t o) r

/- Destinations -/

/-- The field's copy of a set's generation, and the set's condition for a send (R400, R404): the reason that raises TOPO. -/
def topoReason (s : State) (plane : Nat) : Option Nat :=
  let t := s.tile
  let set := bitsOf t.optSend 38 36
  let dest := bitsOf t.optSend 35 32
  let k := getCSet s set
  let c := (conduitOfTile t.id).getD 0
  let table := (k.table.map (·.words)).getD []
  if !(k.en && some k.part == partOfTile s t.id && k.conduits.testBit c && k.table.isSome) then some 2
  else if smGet 0 (getField s (fieldOf t.id)).gens set ≠ bitsOf t.optSend 31 0 then some 0
  else if dest = s.fleetId % 16 ∨ !(bitOf (table.getD 1 0) dest) then some 1
  else if vget t.openChunk plane 0 ≥ 4096 then some 3
  else none

/-- Is a port register a send port of the tile (R403)? -/
def isSendPort (t p : Nat) : Bool := sendDir t == some (p % 4)

/-- TOPO_INFO (R404). -/
def topoInfoWord (s : State) (reason : Nat) : Word :=
  at_ 40 reason ||| at_ 36 (bitsOf s.tile.optSend 38 36) ||| at_ 32 (bitsOf s.tile.optSend 35 32) |||
    at_ 0 (smGet 0 (getField s (fieldOf s.tile.id)).gens (bitsOf s.tile.optSend 38 36) % 2 ^ 32)

/-- The trap of a send that fails its checks (R404). -/
def sendTrap (s : State) (p : Nat) : Option TrapInfo :=
  if isSendPort s.tile.id p then
    (topoReason s (p / 4)).map (fun r => { cause := .topo, info := some (.topo, topoInfoWord s r) })
  else none

/-- The record-lock entry of an output port (R319). -/
def Tile.lock (t : Tile) (p : Nat) : Nat := bitsOf (vget t.qlock (p / 4) 0) (16 * (p % 4) + 15) (16 * (p % 4))

/-- Is an output locked by a record (R319)? -/
def Tile.locked (t : Tile) (p : Nat) : Bool := (t.lock p).testBit 15

/-- Has a core-output buffer room (R315)? -/
def Tile.outRoom (t : Tile) (p : Nat) : Bool := decide ((vget t.coreOut p []).length < 4)

/-- Does the armed TOKEN_CFG turn the write to a code into a SCALE token (R313)? -/
def Tile.armed (t : Tile) (code : Nat) : Bool := bitOf t.tokenCfg 16 && bitsOf t.tokenCfg 13 8 == code

/-- What a destination must wait for (R131, R133, R319). -/
def roomDst (t : Tile) (o : Opnd) : Option (WaitCause × List (Instr × List Nat)) :=
  match o.place with
  | .reg _ | .vreg _ | .di => none
  | .port p => if t.outRoom p && !t.locked p then none else some (.full, [])
  | .stream r =>
    (match t.stream r with
     | none => none
     | some b =>
       if b.pos.done then some (.full, [])
       else if 64 < b.held.length + streamTakes r b then some (.full, [(.streamElementPerform, [r])])
       else none)
  | .bq => if t.bq.length < 8 then none else some (.full, [])

/-- What a destination raises: the checks of a send, or the fault held by an output stream (R45, R404). -/
def raiseDst (s : State) (o : Opnd) : Option TrapInfo :=
  match o.place with
  | .port p => sendTrap s p
  | .stream r => ((s.tile.stream r).bind (·.fault)).map (fun f => { cause := f.cause, fault := some f })
  | _ => none

/-- The stream registers that an instruction names allow that use (R133, R289, class 4 of R216). -/
def checkBindings (srcs dsts : List Opnd) : Exec Unit := do
  let t ← look (·.tile)
  demand (!(srcs.any (t.streamBad false) || dsts.any (t.streamBad true))) (illegal 4)

/-- The checks of an instruction's operands before it takes any (R131 to R133, R287, R404). DEDUCED, log entry 48. -/
def checkOperands (srcs dsts : List Opnd) : Exec Unit := do
  checkBindings srcs dsts
  let s ← look id
  let t := s.tile
  demand (!((srcs ++ dsts).any t.widthBad)) (illegal 8)
  match scanSrcs availSrc t srcs with
  | some (c, e) => waitPoint c e
  | none => pure ()
  match scanSrcs (examineSrc t) t srcs with
  | some i => trap i
  | none => pure ()
  match dsts.findSome? (raiseDst s) with
  | some i => trap i
  | none => pure ()
  match dsts.findSome? (roomDst t) with
  | some (c, e) => waitPoint c e
  | none => pure ()

/- Taking and giving values -/

/-- Convert one fetched element (R182). -/
def Tile.convertIn (t : Tile) (b : Binding) (raw : Nat) : Word × Flags :=
  let f := t.bindFmt b
  readElem f.1 f.2.1 f.2.2 raw

/-- The value of a scalar source and the flags of its conversion (R130, R182). -/
def Tile.valueX (t : Tile) (c : BitVec 6) : Word × Flags :=
  match (Opnd.x c).place with
  | .reg n => (t.xGet n, 0)
  | .vreg _ => (0, 0)
  | .port p => (((vget t.coreIn p []).head?.map (·.payload)).getD 0, 0)
  | .stream r =>
    (match t.stream r with
     | some b => (match b.ahead.head? with
       | some e => t.convertIn b e.raw
       | none => (0, 0))
     | none => (0, 0))
  | .di => ((t.diWord.map (·.2.2)).getD 0, 0)
  | .bq => (BitVec.ofNat 64 (t.emq.headD 0), 0)

/-- Take a scalar source. -/
def takeX (c : BitVec 6) : Exec Word := fun s =>
  let r := s.tile.valueX c
  .ok (r.1, onTile s (fun t => (popSrc t (.x c)).setFlags r.2))

/-- Take scalar sources in field order (R131). -/
def takeXs : List (BitVec 6) → Exec (List Word)
  | [] => pure []
  | c :: r => do
    let v ← takeX c
    let l ← takeXs r
    pure (v :: l)

/-- Look at a scalar source without taking it. -/
def peekX (c : BitVec 6) : Exec Word := look (fun s => (s.tile.valueX c).1)

/-- The value of a vector source (R254, R288). -/
def Tile.valueV (t : Tile) (c : BitVec 5) : BitVec 512 × Flags :=
  match (Opnd.v c).place with
  | .vreg n => (t.vGet n, 0)
  | .stream r =>
    (match t.stream r with
     | some b =>
       let l := (b.ahead.take (streamTakes r b)).map (fun e => t.convertIn b e.raw)
       (ofLanes (l.map (·.1)), l.foldl (fun a p => a ||| p.2) 0)
     | none => (0, 0))
  | _ => (0, 0)

/-- Take a vector source. -/
def takeV (c : BitVec 5) : Exec (BitVec 512) := fun s =>
  let r := s.tile.valueV c
  .ok (r.1, onTile s (fun t => (popSrc t (.v c)).setFlags r.2))

/-- A data token of this tile (R312, R384, R385). -/
def Tile.token (t : Tile) (w : Word) : Token :=
  { payload := w, res := residueOf w, route := bitsOf (t.cfgTag.zeroExtend 64) 11 0, dest := bitsOf t.optSend 35 32 }

/-- An end marker of this tile. -/
def Tile.marker (t : Tile) (level : Nat) : Token := { t.token 0 with kind := .marker, level := level }

/-- A SCALE token of this tile (R312, R313). -/
def Tile.scaleToken (t : Tile) (w : Word) : Token := { t.token w with kind := .config, carg := bitsOf t.tokenCfg 3 0 }

/-- Discard what bound input streams have fetched ahead, for the bindings that a test selects (R99, R184). -/
def Tile.refetch (t : Tile) (p : Binding → Bool) : Tile :=
  { t with streams := t.streams.map (fun e =>
      if !e.2.out && !e.2.pat.stage && p e.2 then (e.1, { e.2 with ahead := [], fetchPos := e.2.pos }) else e) }

/-- Write a scale register, with the refetch of R184. -/
def Tile.setScale (t : Tile) (n : Nat) (w : Word) : Tile :=
  { t with scale := vset t.scale n w }.refetch (fun b => b.scaleN == some n)

/-- Put a token into a core-output buffer; a send counts in its port's open chunk, which a marker ends (R404, R406). -/
def Tile.pushOut (t : Tile) (p : Nat) (k : Token) : Tile :=
  let u := { t with coreOut := vset t.coreOut p (vget t.coreOut p [] ++ [k]) }
  if isSendPort t.id p then
    { u with openChunk := vset u.openChunk (p / 4) (if k.kind = .marker then 0 else vget u.openChunk (p / 4) 0 + 1) }
  else u

/-- Accept one element of an output stream: converted with the state in force (R183, R184, R287). -/
def Tile.acceptElem (t : Tile) (r : Nat) (w : Word) : Tile :=
  match t.stream r with
  | none => t
  | some b =>
    if b.pos.done then t
    else
      let f := t.bindFmt b
      let e := writeElem f.1 f.2.1 f.2.2 w
      let a := elemAddr b.pat b.width b.pos
      (({ t with outSeq := t.outSeq + 1 } : Tile).updStream r (fun c => { c with
        held := c.held ++ [{ va := a.1, bitOff := a.2, width := b.width, raw := e.1, idx := elemIndex b.pat b.pos, seq := t.outSeq }]
        pos := stepPos b.pat b.pos, count := b.count + 1 })).setFlags e.2

/-- Give a result to a scalar destination (R130, R313). -/
def Tile.giveX (t : Tile) (c : BitVec 6) (w : Word) : Tile :=
  let disarm := fun (u : Tile) => { u with tokenCfg := u.tokenCfg &&& ~~~0x10000#64 }
  match (Opnd.x c).place with
  | .reg n => t.writeX n w
  | .vreg _ | .di => t
  | .port p => if t.armed c.toNat then disarm (t.pushOut p (t.scaleToken w)) else t.pushOut p (t.token w)
  | .stream r => if t.armed c.toNat then disarm (t.setScale (bitsOf t.tokenCfg 3 0) w) else t.acceptElem r w
  | .bq => { t with bq := t.bq ++ [w != 0] }

/-- The steps that a result sets going: an output stream's unit performs what it accepts (R287), a core output leaves (R314). -/
def giveSteps (o : Opnd) : List (Instr × List Nat) :=
  match o.place with
  | .stream r => [(.streamElementPerform, [r])]
  | .port p => [(.coreOutputDepart, [p])]
  | _ => []

/-- Give a result to a scalar destination. -/
def giveX (c : BitVec 6) (w : Word) : Exec Unit :=
  update (fun s => schedule (onTile s (fun t => t.giveX c w)) s.tile.id (giveSteps (.x c)))

/-- Give a result to a vector destination: a register, or the next elements of a stream (R254, R288). -/
def Tile.giveV (t : Tile) (c : BitVec 5) (w : BitVec 512) : Tile :=
  match (Opnd.v c).place with
  | .vreg n => t.writeV n w
  | .stream r =>
    let n := match t.stream r with
      | some b => streamTakes r b
      | none => 0
    ((lanes w).take n).foldl (fun u e => u.acceptElem r e) t
  | _ => t

/-- Give a result to a vector destination. -/
def giveV (c : BitVec 5) (w : BitVec 512) : Exec Unit :=
  update (fun s => schedule (onTile s (fun t => t.giveV c w)) s.tile.id (giveSteps (.v c)))

/-- Give a result to a mask destination (R198). -/
def giveM (c : BitVec 5) (w : Word) : Exec Unit := updateTile (fun t => t.mSet c.toNat w)

/-- Set exception flags (R177). -/
def raiseFlags (f : Flags) : Exec Unit := update (fun s => setFlags s f)

end Sys2Proof.Machine
end

