-- ==== Sys2Proof/Machine/Modules.lean ====
section
/-! DEFINITION. The module table (R247, R414), and reads and writes that the hardware makes in
a partition's virtual space at supervisor privilege (R339, R414). -/
namespace Sys2Proof.Machine

/-- The checks of an access that the hardware of field `f` makes to a doubleword of its partition's space, and what it reaches; the state keeps what
the walk did (R40, R339). DEDUCED, log entry 36. -/
def resolvePart (s : State) (f : Nat) (k : AccKind) (va : Word) (m : Mode) : Except XErr Target × State :=
  if va.toNat % 8 ≠ 0 then (.error { prot := false, sub := 3 }, s)
  else match regionOf va with
    | .error e => (.error e, s)
    | .ok .global | .ok .code | .ok (.owner _) =>
      let r := translatePart s ((partOfField s f).getD 64) (getField s f).xlateRoot va k m
      (r.1.map .mem, r.2)
    | .ok (.place rank off) =>
      let p := (partOfField s f).getD 64
      let u := (rankEntry s p rank).tile
      if tileCount s p ≤ rank then (.error { prot := false, sub := 4 }, s)
      else if scratchSize (getTile s u) ≤ off then (.error { prot := false, sub := 5 }, s)
      else (.ok (.scratch u off), s)
    | .ok _ => (.error { prot := true, sub := 4 }, s)

/-- Must an access of the hardware of field `f` wait: does the network interface of the tile that it names take no request now (R143, R369)? -/
def partHeld (s : State) (f : Nat) (va : Word) : Bool :=
  match regionOf va with
  | .ok (.place rank _) =>
    let p := (partOfField s f).getD 64
    decide (rank < tileCount s p) && heldAtNi s (rankEntry s p rank).tile
  | _ => false

/-- Does an access of the hardware meet a tile that is sealed, or whose field is in reset, which discards it (R380, R389)? -/
def gone (s : State) (tg : Target) : Option Nat :=
  match tg with
  | .scratch u _ => if sealed s u || (getField s (fieldOf u)).resetState != 0 then some u else none
  | _ => none

/-- Read a doubleword of a partition's virtual space through a field's translation root, at supervisor privilege where no other is named (R339):
a path-C read at the home (R80, R91). One that a sealed tile discards is answered as one beyond the target's scratch (log entry 36).
DEDUCED, log entry 36. -/
def partReadD (s : State) (f : Nat) (va : Word) (m : Mode := .supervisor) : Except XErr (Word × State) :=
  match resolvePart s f .read va m with
  | (.error e, _) => .error e
  | (.ok tg, s1) => match gone s1 tg, tg with
    | some _, _ => .error { prot := false, sub := 5 }
    | none, .mem pa => .ok (readD s1 pa, homeRead s1 pa)
    | none, tg => .ok (readD s1 ((targetKey tg).getD 0), s1)

/-- The state that an access of the hardware leaves where it faults (R40). -/
def partFault (s : State) (f : Nat) (k : AccKind) (va : Word) (m : Mode := .supervisor) : State := (resolvePart s f k va m).2

/-- Write a doubleword of a partition's virtual space, at supervisor privilege where no other is named (R80, R91). DEDUCED, log entry 36. -/
def partWriteD (s : State) (f : Nat) (va w : Word) (m : Mode := .supervisor) : Except XErr State :=
  match resolvePart s f .write va m with
  | (.error e, _) => .error e
  | (.ok tg, s1) => match gone s1 tg, tg with
    | some u, _ => .ok (dropAt s1 u)
    | none, .mem pa => .ok (writeD (homeWrite s1 pa) pa w)
    | none, tg => .ok (writeAt s1 tg 8 w.toNat)

/-- A RED add of 1 by the hardware of field `f`, at the owner of its target (R84, R106, R167): the line is filled and recalled, a poisoned line
stays as it is, and a sealed tile discards it. DEDUCED, log entry 36. -/
def partIncrement (s : State) (f : Nat) (va : Word) (m : Mode) : Except XErr State :=
  match resolvePart s f .atomic va m with
  | (.error e, _) => .error e
  | (.ok tg, s1) => match gone s1 tg with
    | some u => .ok (dropAt s1 u)
    | none =>
      if targetPoisoned s1 tg then .ok s1
      else
        let s2 := atOwner s1 (tileIn f 0 0) va tg
        .ok (writeAt s2 tg 8 ((readAt s2 tg 8).1 + 1))

/-- Read `n` doublewords from an address up. -/
def partReadWords (s : State) (f : Nat) (va : Word) (m : Mode := .supervisor) : Nat → Except XErr (List Word × State)
  | 0 => .ok ([], s)
  | n + 1 =>
    match partReadD s f va m with
    | .error e => .error e
    | .ok (w, s1) =>
      match partReadWords s1 f (va + 8) m n with
      | .error e => .error e
      | .ok (l, s2) => .ok (w :: l, s2)

/-- Write doublewords from an address up; the first fault stops the write. -/
def partWriteWords (s : State) (f : Nat) (va : Word) (m : Mode := .supervisor) : List Word → Except XErr State
  | [] => .ok s
  | w :: r =>
    match partWriteD s f va w m with
    | .error e => .error e
    | .ok s1 => partWriteWords s1 f (va + 8) m r

/-- The address of a module-table entry, when MOD_BASE is enabled in the field (R414). -/
def moduleVa (s : State) (f i : Nat) : Option Word :=
  let b := (getField s f).modBase
  if bitOf b 0 then some (BitVec.ofNat 64 (bitsOf b 63 20 * 2 ^ 20 + 64 * i)) else none

/-- The doublewords of a module-table entry with the state after their read; an entry that cannot be read counts as EMPTY (R40, R414).
DEDUCED, log entry 51. -/
def moduleRead (s : State) (f i : Nat) : List Word × State :=
  match moduleVa s f i with
  | none => (List.replicate 8 0, s)
  | some va => match partReadWords s f va .supervisor 8 with
    | .ok r => r
    | .error _ => (List.replicate 8 0, partFault s f .read va)

/-- The doublewords of a module-table entry (R414). -/
def moduleEntry (s : State) (f i : Nat) : List Word := (moduleRead s f i).1

/-- STATE of a module-table entry (R414). -/
def moduleState (e : List Word) : Nat := bitsOf (e.headD 0) 1 0

/-- The read of the module-table entry of a target's slot: what its walk and its line leave behind (R40, R80, R247). -/
def slotRead (t : Tile) (target : Word) (s : State) : State :=
  match slotOf target with
  | some i => (moduleRead s (fieldOf t.id) i).2
  | none => s

/-- The slot check of R247: the REASON of its CLASS trap, if it raises one. -/
def slotCheck (s : State) (t : Tile) (target : Word) : Option Nat :=
  match slotOf target with
  | none => none
  | some i =>
    if slotOf t.pc = some i then none
    else match moduleState (moduleEntry s (fieldOf t.id) i) with
      | 2 => none
      | 3 => some 2
      | _ => some 3

end Sys2Proof.Machine
end

