-- ==== Sys2Proof/Machine/Scalar.lean ====
section
/-! DEFINITION. The scalar integer instructions (12_scalar_isa.md, R232 to R243). -/
namespace Sys2Proof.Machine

/- The functions -/

/-- Quotient and remainder of DIV and REM (R235). -/
def divS (a b : Word) : Word × Word :=
  if b = 0 then (BitVec.allOnes 64, a)
  else if a = 0x8000000000000000#64 ∧ b = BitVec.allOnes 64 then (a, 0)
  else (BitVec.ofInt 64 (Int.tdiv a.toInt b.toInt), BitVec.ofInt 64 (Int.tmod a.toInt b.toInt))

/-- Quotient and remainder of DIVU and REMU (R235). -/
def divU (a b : Word) : Word × Word :=
  if b = 0 then (BitVec.allOnes 64, a) else (BitVec.ofNat 64 (a.toNat / b.toNat), BitVec.ofNat 64 (a.toNat % b.toNat))

/-- Leading zero bits; 64 for zero (R236). -/
def leadingZeros (a : Word) : Nat := ((List.range 64).find? (fun i => a.getLsbD (63 - i))).getD 64

/-- Trailing zero bits; 64 for zero (R236). -/
def trailingZeros (a : Word) : Nat := ((List.range 64).find? (fun i => a.getLsbD i)).getD 64

/-- The number of one bits (R236). -/
def popCount (n : Nat) : Nat := ((List.range 64).filter (fun i => n.testBit i)).length

/-- A width field in which 0 stands for 64 (R242). -/
def lenOf (l : BitVec 6) : Nat := if l = 0 then 64 else l.toNat

/-- Insert the low `l` bits of `a` into `d` at `o` (R242). -/
def insertField (d a : Word) (o l : Nat) : Word := putBits d o l a.toNat

/-- ADD (R234). -/
def fAdd (a b : Word) : Word := a + b
/-- SUB (R234). -/
def fSub (a b : Word) : Word := a - b
/-- MUL (R235). -/
def fMul (a b : Word) : Word := a * b
/-- MULH (R235). -/
def fMulh (a b : Word) : Word := BitVec.ofInt 64 (a.toInt * b.toInt / 2 ^ 64)
/-- MULHU (R235). -/
def fMulhu (a b : Word) : Word := BitVec.ofNat 64 (a.toNat * b.toNat / 2 ^ 64)
/-- DIV (R235). -/
def fDiv (a b : Word) : Word := (divS a b).1
/-- DIVU (R235). -/
def fDivu (a b : Word) : Word := (divU a b).1
/-- REM (R235). -/
def fRem (a b : Word) : Word := (divS a b).2
/-- REMU (R235). -/
def fRemu (a b : Word) : Word := (divU a b).2
/-- AND (R234). -/
def fAnd (a b : Word) : Word := a &&& b
/-- OR (R234). -/
def fOr (a b : Word) : Word := a ||| b
/-- XOR (R234). -/
def fXor (a b : Word) : Word := a ^^^ b
/-- ANDN (R234). -/
def fAndn (a b : Word) : Word := a &&& ~~~b
/-- ORN (R234). -/
def fOrn (a b : Word) : Word := a ||| ~~~b
/-- XNOR (R234). -/
def fXnor (a b : Word) : Word := ~~~(a ^^^ b)
/-- SHL (R234). -/
def fShl (a b : Word) : Word := a <<< (b.toNat % 64)
/-- SHR (R234). -/
def fShr (a b : Word) : Word := a >>> (b.toNat % 64)
/-- SAR (R234). -/
def fSar (a b : Word) : Word := BitVec.sshiftRight a (b.toNat % 64)
/-- ROL (R234). -/
def fRol (a b : Word) : Word := BitVec.rotateLeft a (b.toNat % 64)
/-- MIN (R234). -/
def fMin (a b : Word) : Word := if sLt b a then b else a
/-- MAX (R234). -/
def fMax (a b : Word) : Word := if sLt a b then b else a
/-- MINU (R234). -/
def fMinu (a b : Word) : Word := if b.toNat < a.toNat then b else a
/-- MAXU (R234). -/
def fMaxu (a b : Word) : Word := if a.toNat < b.toNat then b else a
/-- SEQ (R234). -/
def fSeq (a b : Word) : Word := boolW (a == b)
/-- SNE (R234). -/
def fSne (a b : Word) : Word := boolW (a != b)
/-- SLT (R234). -/
def fSlt (a b : Word) : Word := boolW (sLt a b)
/-- SLTU (R234). -/
def fSltu (a b : Word) : Word := boolW (decide (a.toNat < b.toNat))
/-- CLZ (R236). -/
def fClz (a : Word) : Word := BitVec.ofNat 64 (leadingZeros a)
/-- CTZ (R236). -/
def fCtz (a : Word) : Word := BitVec.ofNat 64 (trailingZeros a)
/-- POPC (R236). -/
def fPopc (a : Word) : Word := BitVec.ofNat 64 (popCount a.toNat)
/-- BREV (R236). -/
def fBrev (a : Word) : Word := BitVec.reverse a
/-- BSWAP (R236). -/
def fBswap (a : Word) : Word := BitVec.ofNat 64 (numOf (bytesOf 8 a.toNat).reverse)

/-- The result of a scalar instruction of majors 0x01 to 0x0D from its first source, its second source or immediate, and the old
value of its destination (R234 to R242). An instruction read with mr as its first source computes it when the value returns
(R232). -/
def aluOf (i : Instr) (a b old : Word) : Word :=
  match i with
  | .add _ _ _ => fAdd a b
  | .sub _ _ _ => fSub a b
  | .mul _ _ _ => fMul a b
  | .mulh _ _ _ => fMulh a b
  | .mulhu _ _ _ => fMulhu a b
  | .div _ _ _ => fDiv a b
  | .divu _ _ _ => fDivu a b
  | .rem _ _ _ => fRem a b
  | .remu _ _ _ => fRemu a b
  | .and _ _ _ => fAnd a b
  | .or _ _ _ => fOr a b
  | .xor _ _ _ => fXor a b
  | .andn _ _ _ => fAndn a b
  | .orn _ _ _ => fOrn a b
  | .xnor _ _ _ => fXnor a b
  | .shl _ _ _ => fShl a b
  | .shr _ _ _ => fShr a b
  | .sar _ _ _ => fSar a b
  | .rol _ _ _ => fRol a b
  | .min _ _ _ => fMin a b
  | .max _ _ _ => fMax a b
  | .minu _ _ _ => fMinu a b
  | .maxu _ _ _ => fMaxu a b
  | .seq _ _ _ => fSeq a b
  | .sne _ _ _ => fSne a b
  | .slt _ _ _ => fSlt a b
  | .sltu _ _ _ => fSltu a b
  | .sel _ _ _ => if old = 0 then b else a
  | .clz _ _ => fClz a
  | .ctz _ _ => fCtz a
  | .popc _ _ => fPopc a
  | .brev _ _ => fBrev a
  | .bswap _ _ => fBswap a
  | .addImm _ _ _ => fAdd a b
  | .mulImm _ _ _ => fMul a b
  | .andImm _ _ _ => fAnd a b
  | .orImm _ _ _ => fOr a b
  | .xorImm _ _ _ => fXor a b
  | .seqImm _ _ _ => fSeq a b
  | .sneImm _ _ _ => fSne a b
  | .sltImm _ _ _ => fSlt a b
  | .sltuImm _ _ _ => fSltu a b
  | .shlImm _ _ _ => fShl a b
  | .shrImm _ _ _ => fShr a b
  | .sarImm _ _ _ => fSar a b
  | .rolImm _ _ _ => fRol a b
  | .sext _ _ w => sextW w.toNat a.toNat
  | .zext _ _ w => BitVec.ofNat 64 (a.toNat % 2 ^ w.toNat)
  | .extr _ _ o l => BitVec.ofNat 64 (a.toNat / 2 ^ o.toNat % 2 ^ lenOf l)
  | .insr _ _ o l => insertField old a o.toNat (lenOf l)
  | _ => a

/- Running them -/

/-- The common shape of R234: sources in field order, then the destination. An mr first source makes a long operation, whose other
sources are read at issue (R134, R232). -/
def alu (i : Instr) (d a : BitVec 6) (b : Option (BitVec 6)) (imm : Word) (s : State) : Host.Outcome State Fault Refusal :=
  let second := fun (_ : Unit) => match b with
    | some c => takeX c
    | none => pure imm
  let bs := match b with
    | some c => [Opnd.x c]
    | none => []
  run1 (do
    let old ← look (fun s => if d.toNat < 32 then s.tile.xGet d.toNat else 0)
    if a = 48#6 then
      checkOperands bs []
      let v ← second ()
      let n ← look (fun s => s.tile.sub.issued)
      issueLong (.mr i v old n) (.x d.toNat)
    else
      checkOperands (.x a :: bs) [.x d]
      let u ← takeX a
      let v ← second ()
      giveX d (← settle 1 0 (aluOf i u v old))) s

/- The instructions -/

/-- ADD (R234, R235). -/
def execAdd (d a b : BitVec 6) (s : State) : Host.Outcome State Fault Refusal := alu (.add d a b) d a (some b) 0 s
/-- SUB (R234, R235). -/
def execSub (d a b : BitVec 6) (s : State) : Host.Outcome State Fault Refusal := alu (.sub d a b) d a (some b) 0 s
/-- MUL (R234, R235). -/
def execMul (d a b : BitVec 6) (s : State) : Host.Outcome State Fault Refusal := alu (.mul d a b) d a (some b) 0 s
/-- MULH (R234, R235). -/
def execMulh (d a b : BitVec 6) (s : State) : Host.Outcome State Fault Refusal := alu (.mulh d a b) d a (some b) 0 s
/-- MULHU (R234, R235). -/
def execMulhu (d a b : BitVec 6) (s : State) : Host.Outcome State Fault Refusal := alu (.mulhu d a b) d a (some b) 0 s
/-- DIV (R234, R235). -/
def execDiv (d a b : BitVec 6) (s : State) : Host.Outcome State Fault Refusal := alu (.div d a b) d a (some b) 0 s
/-- DIVU (R234, R235). -/
def execDivu (d a b : BitVec 6) (s : State) : Host.Outcome State Fault Refusal := alu (.divu d a b) d a (some b) 0 s
/-- REM (R234, R235). -/
def execRem (d a b : BitVec 6) (s : State) : Host.Outcome State Fault Refusal := alu (.rem d a b) d a (some b) 0 s
/-- REMU (R234, R235). -/
def execRemu (d a b : BitVec 6) (s : State) : Host.Outcome State Fault Refusal := alu (.remu d a b) d a (some b) 0 s
/-- AND (R234, R235). -/
def execAnd (d a b : BitVec 6) (s : State) : Host.Outcome State Fault Refusal := alu (.and d a b) d a (some b) 0 s
/-- OR (R234, R235). -/
def execOr (d a b : BitVec 6) (s : State) : Host.Outcome State Fault Refusal := alu (.or d a b) d a (some b) 0 s
/-- XOR (R234, R235). -/
def execXor (d a b : BitVec 6) (s : State) : Host.Outcome State Fault Refusal := alu (.xor d a b) d a (some b) 0 s
/-- ANDN (R234, R235). -/
def execAndn (d a b : BitVec 6) (s : State) : Host.Outcome State Fault Refusal := alu (.andn d a b) d a (some b) 0 s
/-- ORN (R234, R235). -/
def execOrn (d a b : BitVec 6) (s : State) : Host.Outcome State Fault Refusal := alu (.orn d a b) d a (some b) 0 s
/-- XNOR (R234, R235). -/
def execXnor (d a b : BitVec 6) (s : State) : Host.Outcome State Fault Refusal := alu (.xnor d a b) d a (some b) 0 s
/-- SHL (R234, R235). -/
def execShl (d a b : BitVec 6) (s : State) : Host.Outcome State Fault Refusal := alu (.shl d a b) d a (some b) 0 s
/-- SHR (R234, R235). -/
def execShr (d a b : BitVec 6) (s : State) : Host.Outcome State Fault Refusal := alu (.shr d a b) d a (some b) 0 s
/-- SAR (R234, R235). -/
def execSar (d a b : BitVec 6) (s : State) : Host.Outcome State Fault Refusal := alu (.sar d a b) d a (some b) 0 s
/-- ROL (R234, R235). -/
def execRol (d a b : BitVec 6) (s : State) : Host.Outcome State Fault Refusal := alu (.rol d a b) d a (some b) 0 s
/-- MIN (R234, R235). -/
def execMin (d a b : BitVec 6) (s : State) : Host.Outcome State Fault Refusal := alu (.min d a b) d a (some b) 0 s
/-- MAX (R234, R235). -/
def execMax (d a b : BitVec 6) (s : State) : Host.Outcome State Fault Refusal := alu (.max d a b) d a (some b) 0 s
/-- MINU (R234, R235). -/
def execMinu (d a b : BitVec 6) (s : State) : Host.Outcome State Fault Refusal := alu (.minu d a b) d a (some b) 0 s
/-- MAXU (R234, R235). -/
def execMaxu (d a b : BitVec 6) (s : State) : Host.Outcome State Fault Refusal := alu (.maxu d a b) d a (some b) 0 s
/-- SEQ (R234, R235). -/
def execSeq (d a b : BitVec 6) (s : State) : Host.Outcome State Fault Refusal := alu (.seq d a b) d a (some b) 0 s
/-- SNE (R234, R235). -/
def execSne (d a b : BitVec 6) (s : State) : Host.Outcome State Fault Refusal := alu (.sne d a b) d a (some b) 0 s
/-- SLT (R234, R235). -/
def execSlt (d a b : BitVec 6) (s : State) : Host.Outcome State Fault Refusal := alu (.slt d a b) d a (some b) 0 s
/-- SLTU (R234, R235). -/
def execSltu (d a b : BitVec 6) (s : State) : Host.Outcome State Fault Refusal := alu (.sltu d a b) d a (some b) 0 s
/-- SEL: the condition is the old value of rd (R237). -/
def execSel (d a b : BitVec 6) (s : State) : Host.Outcome State Fault Refusal := alu (.sel d a b) d a (some b) 0 s
/-- CLZ (R236). -/
def execClz (d a : BitVec 6) (s : State) : Host.Outcome State Fault Refusal := alu (.clz d a) d a none 0 s
/-- CTZ (R236). -/
def execCtz (d a : BitVec 6) (s : State) : Host.Outcome State Fault Refusal := alu (.ctz d a) d a none 0 s
/-- POPC (R236). -/
def execPopc (d a : BitVec 6) (s : State) : Host.Outcome State Fault Refusal := alu (.popc d a) d a none 0 s
/-- BREV (R236). -/
def execBrev (d a : BitVec 6) (s : State) : Host.Outcome State Fault Refusal := alu (.brev d a) d a none 0 s
/-- BSWAP (R236). -/
def execBswap (d a : BitVec 6) (s : State) : Host.Outcome State Fault Refusal := alu (.bswap d a) d a none 0 s
/-- ADD with a sign-extended 13-bit immediate (R238). -/
def execAddImm (d a : BitVec 6) (i : BitVec 13) (s : State) : Host.Outcome State Fault Refusal :=
  alu (.addImm d a i) d a none (i.signExtend 64) s
/-- MUL with a sign-extended 13-bit immediate (R238). -/
def execMulImm (d a : BitVec 6) (i : BitVec 13) (s : State) : Host.Outcome State Fault Refusal :=
  alu (.mulImm d a i) d a none (i.signExtend 64) s
/-- AND with a sign-extended 13-bit immediate (R238). -/
def execAndImm (d a : BitVec 6) (i : BitVec 13) (s : State) : Host.Outcome State Fault Refusal :=
  alu (.andImm d a i) d a none (i.signExtend 64) s
/-- OR with a sign-extended 13-bit immediate (R238). -/
def execOrImm (d a : BitVec 6) (i : BitVec 13) (s : State) : Host.Outcome State Fault Refusal :=
  alu (.orImm d a i) d a none (i.signExtend 64) s
/-- XOR with a sign-extended 13-bit immediate (R238). -/
def execXorImm (d a : BitVec 6) (i : BitVec 13) (s : State) : Host.Outcome State Fault Refusal :=
  alu (.xorImm d a i) d a none (i.signExtend 64) s
/-- SEQ with a sign-extended 13-bit immediate (R238). -/
def execSeqImm (d a : BitVec 6) (i : BitVec 13) (s : State) : Host.Outcome State Fault Refusal :=
  alu (.seqImm d a i) d a none (i.signExtend 64) s
/-- SNE with a sign-extended 13-bit immediate (R238). -/
def execSneImm (d a : BitVec 6) (i : BitVec 13) (s : State) : Host.Outcome State Fault Refusal :=
  alu (.sneImm d a i) d a none (i.signExtend 64) s
/-- SLT with a sign-extended 13-bit immediate (R238). -/
def execSltImm (d a : BitVec 6) (i : BitVec 13) (s : State) : Host.Outcome State Fault Refusal :=
  alu (.sltImm d a i) d a none (i.signExtend 64) s
/-- SLTU with a sign-extended 13-bit immediate (R238). -/
def execSltuImm (d a : BitVec 6) (i : BitVec 13) (s : State) : Host.Outcome State Fault Refusal :=
  alu (.sltuImm d a i) d a none (i.signExtend 64) s
/-- SHL by an immediate amount (R239). -/
def execShlImm (d a n : BitVec 6) (s : State) : Host.Outcome State Fault Refusal :=
  alu (.shlImm d a n) d a none (n.zeroExtend 64) s
/-- SHR by an immediate amount (R239). -/
def execShrImm (d a n : BitVec 6) (s : State) : Host.Outcome State Fault Refusal :=
  alu (.shrImm d a n) d a none (n.zeroExtend 64) s
/-- SAR by an immediate amount (R239). -/
def execSarImm (d a n : BitVec 6) (s : State) : Host.Outcome State Fault Refusal :=
  alu (.sarImm d a n) d a none (n.zeroExtend 64) s
/-- ROL by an immediate amount (R239). -/
def execRolImm (d a n : BitVec 6) (s : State) : Host.Outcome State Fault Refusal :=
  alu (.rolImm d a n) d a none (n.zeroExtend 64) s
/-- SEXT (R241). -/
def execSext (d a w : BitVec 6) (s : State) : Host.Outcome State Fault Refusal := alu (.sext d a w) d a none 0 s
/-- ZEXT (R241). -/
def execZext (d a w : BitVec 6) (s : State) : Host.Outcome State Fault Refusal := alu (.zext d a w) d a none 0 s
/-- EXTR (R242). -/
def execExtr (d a o l : BitVec 6) (s : State) : Host.Outcome State Fault Refusal := alu (.extr d a o l) d a none 0 s
/-- INSR (R242). -/
def execInsr (d a o l : BitVec 6) (s : State) : Host.Outcome State Fault Refusal := alu (.insr d a o l) d a none 0 s
/-- ADD with a sign-extended 32-bit immediate, two parcels (R240). -/
def execAddImm32 (d a : BitVec 6) (i : BitVec 32) (s : State) : Host.Outcome State Fault Refusal :=
  run 2 (do
    checkOperands [.x a] [.x d]
    let u ← takeX a
    giveX d (← settle 1 0 (fAdd u (i.signExtend 64)))
    pure false) s
/-- AND with a sign-extended 32-bit immediate, two parcels (R240). -/
def execAndImm32 (d a : BitVec 6) (i : BitVec 32) (s : State) : Host.Outcome State Fault Refusal :=
  run 2 (do
    checkOperands [.x a] [.x d]
    let u ← takeX a
    giveX d (← settle 1 0 (fAnd u (i.signExtend 64)))
    pure false) s
/-- OR with a sign-extended 32-bit immediate, two parcels (R240). -/
def execOrImm32 (d a : BitVec 6) (i : BitVec 32) (s : State) : Host.Outcome State Fault Refusal :=
  run 2 (do
    checkOperands [.x a] [.x d]
    let u ← takeX a
    giveX d (← settle 1 0 (fOr u (i.signExtend 64)))
    pure false) s
/-- XOR with a sign-extended 32-bit immediate, two parcels (R240). -/
def execXorImm32 (d a : BitVec 6) (i : BitVec 32) (s : State) : Host.Outcome State Fault Refusal :=
  run 2 (do
    checkOperands [.x a] [.x d]
    let u ← takeX a
    giveX d (← settle 1 0 (fXor u (i.signExtend 64)))
    pure false) s
/-- A constant to a destination (R243). -/
def constant (len : Nat) (d : BitVec 6) (w : State → Word) (s : State) : Host.Outcome State Fault Refusal :=
  run len (do
    checkOperands [] [.x d]
    let v ← look w
    giveX d v
    pure false) s

/-- LI with a sign-extended 19-bit immediate (R243). -/
def execLi (d : BitVec 6) (i : BitVec 19) (s : State) : Host.Outcome State Fault Refusal := constant 1 d (fun _ => i.signExtend 64) s
/-- LI with a sign-extended 32-bit immediate (R243). -/
def execLiImm32 (d : BitVec 6) (i : BitVec 32) (s : State) : Host.Outcome State Fault Refusal := constant 2 d (fun _ => i.signExtend 64) s
/-- LIW (R243). -/
def execLiw (d : BitVec 6) (i : BitVec 64) (s : State) : Host.Outcome State Fault Refusal := constant 3 d (fun _ => i) s
/-- ADDPC with a displacement in parcels (R243). -/
def execAddpc (d : BitVec 6) (i : BitVec 19) (s : State) : Host.Outcome State Fault Refusal :=
  constant 1 d (fun s => s.tile.pc + i.signExtend 64 * 4) s
/-- ADDPC with a byte displacement (R243). -/
def execAddpcLong (d : BitVec 6) (i : BitVec 64) (s : State) : Host.Outcome State Fault Refusal := constant 3 d (fun s => s.tile.pc + i) s

end Sys2Proof.Machine
end

