-- ==== Sys2Proof/Machine/Control.lean ====
section
/-! DEFINITION. Branches, jumps, calls, returns and hardware loops (12_scalar_isa.md, R244 to R252). -/
namespace Sys2Proof.Machine

/-- A taken transfer that applies loop_exit_check to its target (R251). -/
def Tile.jumpTo (t : Tile) (target : Word) : Tile := { t with pc := target, loops := loopExit target 4 t.loops }

/-- A transfer of a call: the link register and the call level (R246). -/
def Tile.callTo (t : Tile) (target link : Word) : Tile :=
  let u := t.writeX 31 link
  { u with pc := target, loops := { u.loops with level := (u.loops.level + 1) % 2 ^ 16 } }

/-- Pop the entries of the present level from the top (R246). -/
def popLevel : Nat → Loops → Loops
  | 0, l => l
  | n + 1, l => if 0 < l.depth ∧ l.top.level = l.level then popLevel n { l with depth := l.depth - 1 } else l

/-- The effect of a RET to `target` on the loops: this level's entries are popped, loop_exit_check is applied to the target while the level still
stands, and then the level is lowered (R246). DEDUCED, log entry 60. -/
def Loops.return (l : Loops) (target : Word) : Loops :=
  let p := loopExit target 4 (popLevel 4 l)
  { p with level := (p.level + 2 ^ 16 - 1) % 2 ^ 16 }

/-- Compare and branch (R244). -/
def branch (cond : Word → Word → Bool) (a b : BitVec 6) (d : BitVec 13) (s : State) : Host.Outcome State Fault Refusal :=
  run 1 (do
    checkOperands [.x a, .x b] []
    let u ← takeX a
    let v ← takeX b
    if cond u v then
      updateTile (fun t => t.jumpTo (t.pc + d.signExtend 64 * 4))
      pure true
    else pure false) s

/-- BEQ (R244). -/
def execBeq (a b : BitVec 6) (d : BitVec 13) (s : State) : Host.Outcome State Fault Refusal := branch (fun u v => u == v) a b d s
/-- BNE (R244). -/
def execBne (a b : BitVec 6) (d : BitVec 13) (s : State) : Host.Outcome State Fault Refusal := branch (fun u v => u != v) a b d s
/-- BLT (R244). -/
def execBlt (a b : BitVec 6) (d : BitVec 13) (s : State) : Host.Outcome State Fault Refusal := branch (fun u v => sLt u v) a b d s
/-- BGE (R244). -/
def execBge (a b : BitVec 6) (d : BitVec 13) (s : State) : Host.Outcome State Fault Refusal := branch (fun u v => !sLt u v) a b d s
/-- BLTU (R244). -/
def execBltu (a b : BitVec 6) (d : BitVec 13) (s : State) : Host.Outcome State Fault Refusal :=
  branch (fun u v => decide (u.toNat < v.toNat)) a b d s
/-- BGEU (R244). -/
def execBgeu (a b : BitVec 6) (d : BitVec 13) (s : State) : Host.Outcome State Fault Refusal :=
  branch (fun u v => decide (v.toNat ≤ u.toNat)) a b d s

/-- Test and branch (R245). -/
def branchZ (cond : Word → Bool) (t : BitVec 6) (i : BitVec 19) (s : State) : Host.Outcome State Fault Refusal :=
  run 1 (do
    checkOperands [.x t] []
    let u ← takeX t
    if cond u then
      updateTile (fun t => t.jumpTo (t.pc + i.signExtend 64 * 4))
      pure true
    else pure false) s

/-- BZ (R245). -/
def execBz (t : BitVec 6) (i : BitVec 19) (s : State) : Host.Outcome State Fault Refusal := branchZ (fun u => u == 0) t i s
/-- BNZ (R245). -/
def execBnz (t : BitVec 6) (i : BitVec 19) (s : State) : Host.Outcome State Fault Refusal := branchZ (fun u => u != 0) t i s

/-- JMP (R246). -/
def execJmp (d : BitVec 25) (s : State) : Host.Outcome State Fault Refusal :=
  run 1 (do
    updateTile (fun t => t.jumpTo (t.pc + d.signExtend 64 * 4))
    pure true) s

/-- BRL (R246). -/
def execBrl (i : BitVec 64) (s : State) : Host.Outcome State Fault Refusal :=
  run 3 (do
    updateTile (fun t => t.jumpTo (t.pc + i))
    pure true) s

/-- JMPR (R246): a misaligned target raises ALIGN and changes nothing. -/
def execJmpr (a : BitVec 6) (s : State) : Host.Outcome State Fault Refusal :=
  run 1 (do
    checkOperands [.x a] []
    let u ← takeX a
    demand (u.toNat % 4 == 0) (trap { cause := .align })
    updateTile (fun t => t.jumpTo u)
    pure true) s

/-- RET (R246). DEDUCED, log entry 60. -/
def execRet (s : State) : Host.Outcome State Fault Refusal :=
  run 1 (do
    let u ← look (fun s => s.tile.xGet 31)
    demand (u.toNat % 4 == 0) (trap { cause := .align })
    updateTile (fun t => { t with pc := u, loops := t.loops.return u })
    pure true) s

/-- The CLASS trap (R249): CLASS_INFO, and XFAULT_VA holding the target. -/
def classTrap {α : Type} (reason found expected : Nat) (target : Word) : Exec α :=
  trap { cause := .cls, va := some target, info := some (.cls, at_ 32 reason ||| at_ 16 found ||| at_ 0 expected) }

/-- The slot check of a call (R247); the read of the module table stays with it (R40). -/
def checkSlot (target : Word) : Exec Unit := do
  let r ← look (fun s => slotCheck s s.tile target)
  update (fun s => if slotOf s.tile.pc = slotOf target then s else slotRead s.tile target s)
  match r with
  | some reason => classTrap reason 0 0 target
  | none => pure ()

/-- A direct call of `len` parcels (R246, R247). -/
def callDirect (len : Nat) (disp : Word) (s : State) : Host.Outcome State Fault Refusal :=
  run len (do
    let pc ← look (fun s => s.tile.pc)
    checkSlot (pc + disp)
    updateTile (fun t => t.callTo (pc + disp) (pc + BitVec.ofNat 64 (4 * len)))
    pure true) s

/-- CALL (R246). -/
def execCall (d : BitVec 25) (s : State) : Host.Outcome State Fault Refusal := callDirect 1 (d.signExtend 64 * 4) s
/-- CALLL (R246). -/
def execCalll (i : BitVec 64) (s : State) : Host.Outcome State Fault Refusal := callDirect 3 i s

/-- LOOP (R250). -/
def execLoop (a : BitVec 6) (d : BitVec 13) (s : State) : Host.Outcome State Fault Refusal :=
  run 1 (do
    checkOperands [.x a] []
    let depth ← look (fun s => s.tile.loops.depth)
    let n ← takeX a
    demand (depth != 4) (illegal 5)
    if n = 0 then
      updateTile (fun t => { t with pc := t.pc + d.zeroExtend 64 * 4 + 4 })
      pure true
    else
      updateTile (fun t =>
        let e : LoopEntry := { start := t.pc + 4, len := d.toNat, count := n, level := t.loops.level }
        { t with loops := { t.loops with entries := vset t.loops.entries t.loops.depth e, depth := t.loops.depth + 1 } })
      pure false) s

/-- LOOP_END_CHECK (R251): the check that follows the completion of an instruction whose last parcel lies at argument 0. -/
def execLoopEndCheck (s : State) : Host.Outcome State Fault Refusal :=
  event (fun s => onTile s (fun t =>
    let r := loopEnd t.loops (BitVec.ofNat 64 (argAt s 0))
    { t with loops := r.1, pc := r.2.getD t.pc })) s

end Sys2Proof.Machine
end

