-- ==== Sys2Proof/Machine/Vector.lean ====
section
/-! DEFINITION. The vector instructions (13_vector_isa.md, R253 to R271). -/
namespace Sys2Proof.Machine

/- Elements -/

/-- Element `i` of width `w` of a vector register (R253). -/
def elem (w : Nat) (v : BitVec 512) (i : Nat) : Nat := v.toNat / 2 ^ (w * i) % 2 ^ w

/-- A vector register from its elements of width `w`. -/
def ofElems (w : Nat) (l : List Nat) : BitVec 512 :=
  BitVec.ofNat 512 ((l.zipIdx).foldl (fun a p => a + p.1 % 2 ^ w * 2 ^ (w * p.2)) 0)

/-- Keep an old element where no new one is given (R253). -/
def mergeElems (w : Nat) (old : BitVec 512) (l : List (Option Nat)) : BitVec 512 :=
  ofElems w ((l.zipIdx).map (fun p => p.1.getD (elem w old p.2)))

/-- Lanes of 64 bits that hold at least one given element. -/
def lanesOf (w : Nat) (l : List (Option Nat)) : List Bool :=
  (List.range 8).map (fun j => ((l.zipIdx).any (fun p => p.1.isSome && p.2 * w / 64 == j)))

/-- Give elements to a vector destination: a register keeps its inactive elements, a stream receives zeros there (R253). -/
def Tile.giveElems (t : Tile) (d : BitVec 5) (w : Nat) (l : List (Option Nat)) : Tile :=
  match (Opnd.v d).place with
  | .vreg n => (t.cancelV n (lanesOf w l)).vSet n (mergeElems w (t.vGet n) l)
  | _ => t.giveV d (mergeElems w 0 l)

/-- Give elements to a vector destination. -/
def giveElems (d : BitVec 5) (w : Nat) (l : List (Option Nat)) : Exec Unit :=
  update (fun s => schedule (onTile s (fun t => t.giveElems d w l)) s.tile.id (giveSteps (.v d)))

/-- Take vector sources in field order (R254). -/
def takeVs : List (BitVec 5) → Exec (List (BitVec 512))
  | [] => pure []
  | c :: r => do
    let v ← takeV c
    let l ← takeVs r
    pure (v :: l)

/-- Elements that a mask leaves active (R198, R253). -/
def activeElems {α : Type} (w : Nat) (mask : Word) (g : Nat → α) : List (Option α) :=
  (List.range (512 / w)).map (fun i => if bitOf mask i then some (g i) else none)

/-- Every flag that some elements set. -/
def allFlags {α : Type} (l : List (Option (α × Flags))) : Flags := l.foldl (fun a e => a ||| (e.map (·.2)).getD 0) 0

/-- Element `i` of a vector result: that of the integer lanes or of the T64 lanes, or what a decided dispute over it gives (R386). -/
def Tile.element (t : Tile) (i : Nat) (q : Nat × Flags) : Nat × Flags := (((t.disputed 2 i).or (t.disputed 3 i)).getD q.1, q.2)

/-- The common shape of an element-wise instruction of `len` parcels (R253, R254). -/
def vecRun (len : Nat) (srcs : List (BitVec 5)) (d : BitVec 5) (m : BitVec 3) (w : Nat)
    (g : Tile → List (BitVec 512) → Nat → Nat × Flags) (s : State) : Host.Outcome State Fault Refusal :=
  run len (do
    checkOperands (srcs.map .v) [.v d]
    let vs ← takeVs srcs
    let t ← look (·.tile)
    let l := activeElems w (t.mGet m.toNat) (fun i => t.element i (g t vs i))
    raiseFlags (allFlags l)
    giveElems d w (l.map (fun e => e.map (·.1)))
    pure false) s

/-- Lane `i` of source `k`. -/
def srcLane (vs : List (BitVec 512)) (k i : Nat) : Word := lane (vs.getD k 0) i

/-- A T64 lane operation of one or more sources (R257). -/
def t64Run (srcs : List (BitVec 5)) (d : BitVec 5) (m r : BitVec 3) (g : Nat → Word → Word → Word → Word × Flags) (s : State) :
    Host.Outcome State Fault Refusal :=
  vecRun 2 srcs d m 64 (fun t vs i =>
    let q := g (roundingMode t r) (srcLane vs 0 i) (srcLane vs 1 i) (srcLane vs 2 i)
    (q.1.toNat, q.2)) s

/-- A compare into a mask: bits of inactive elements stay, bits past the last element are cleared (R259, R266). -/
def maskRun (len : Nat) (d a b : BitVec 5) (m : BitVec 3) (w : Nat) (g : BitVec 512 → BitVec 512 → Nat → Bool × Flags) (s : State) :
    Host.Outcome State Fault Refusal :=
  run len (do
    checkOperands [.v a, .v b] []
    let u ← takeV a
    let v ← takeV b
    let t ← look (·.tile)
    let l := activeElems w (t.mGet m.toNat) (g u v)
    raiseFlags (allFlags l)
    let old := t.mGet d.toNat
    giveM d (BitVec.ofNat 64 (((l.zipIdx).foldl (fun n p =>
      n + (if (match p.1 with | some r => r.1 | none => bitOf old p.2) then 2 ^ p.2 else 0)) 0)))
    pure false) s

/- T64 lane arithmetic -/

/-- VADD (R257). -/
def execVadd (d a b : BitVec 5) (m r : BitVec 3) (s : State) : Host.Outcome State Fault Refusal := t64Run [a, b] d m r (fun q x y _ => addT64 q x y) s
/-- VSUB (R257). -/
def execVsub (d a b : BitVec 5) (m r : BitVec 3) (s : State) : Host.Outcome State Fault Refusal := t64Run [a, b] d m r (fun q x y _ => subT64 q x y) s
/-- VMUL (R257). -/
def execVmul (d a b : BitVec 5) (m r : BitVec 3) (s : State) : Host.Outcome State Fault Refusal := t64Run [a, b] d m r (fun q x y _ => mulT64 q x y) s
/-- VDIV (R257). -/
def execVdiv (d a b : BitVec 5) (m r : BitVec 3) (s : State) : Host.Outcome State Fault Refusal := t64Run [a, b] d m r (fun q x y _ => divT64 q x y) s
/-- VFMA (R257). -/
def execVfma (d a b c : BitVec 5) (m r : BitVec 3) (s : State) : Host.Outcome State Fault Refusal :=
  t64Run [a, b, c] d m r (fun q x y z => fmaT64 q false false x y z) s
/-- VFMS (R257). -/
def execVfms (d a b c : BitVec 5) (m r : BitVec 3) (s : State) : Host.Outcome State Fault Refusal :=
  t64Run [a, b, c] d m r (fun q x y z => fmaT64 q false true x y z) s
/-- VFNMA (R257). -/
def execVfnma (d a b c : BitVec 5) (m r : BitVec 3) (s : State) : Host.Outcome State Fault Refusal :=
  t64Run [a, b, c] d m r (fun q x y z => fmaT64 q true false x y z) s
/-- VSQRT (R257). -/
def execVsqrt (d a : BitVec 5) (m r : BitVec 3) (s : State) : Host.Outcome State Fault Refusal := t64Run [a] d m r (fun q x _ _ => sqrtT64 q x) s
/-- VMIN (R258). -/
def execVmin (d a b : BitVec 5) (m : BitVec 3) (s : State) : Host.Outcome State Fault Refusal := t64Run [a, b] d m 0 (fun _ x y _ => minMaxT64 false x y) s
/-- VMAX (R258). -/
def execVmax (d a b : BitVec 5) (m : BitVec 3) (s : State) : Host.Outcome State Fault Refusal := t64Run [a, b] d m 0 (fun _ x y _ => minMaxT64 true x y) s
/-- VABS (R258). -/
def execVabs (d a : BitVec 5) (m : BitVec 3) (s : State) : Host.Outcome State Fault Refusal := t64Run [a] d m 0 (fun _ x _ _ => (setSign false x, 0)) s
/-- VNEG (R258). -/
def execVneg (d a : BitVec 5) (m : BitVec 3) (s : State) : Host.Outcome State Fault Refusal := t64Run [a] d m 0 (fun _ x _ _ => (setSign (!signOf x) x, 0)) s
/-- VCPYS (R258). -/
def execVcpys (d a b : BitVec 5) (m : BitVec 3) (s : State) : Host.Outcome State Fault Refusal := t64Run [a, b] d m 0 (fun _ x y _ => (setSign (signOf y) x, 0)) s
/-- VCMP_EQ (R259). -/
def execVcmpEq (d a b : BitVec 5) (m : BitVec 3) (s : State) : Host.Outcome State Fault Refusal :=
  maskRun 2 d a b m 64 (fun x y i => cmpT64 .eq (lane x i) (lane y i)) s
/-- VCMP_NE (R259). -/
def execVcmpNe (d a b : BitVec 5) (m : BitVec 3) (s : State) : Host.Outcome State Fault Refusal :=
  maskRun 2 d a b m 64 (fun x y i => cmpT64 .ne (lane x i) (lane y i)) s
/-- VCMP_LT (R259). -/
def execVcmpLt (d a b : BitVec 5) (m : BitVec 3) (s : State) : Host.Outcome State Fault Refusal :=
  maskRun 2 d a b m 64 (fun x y i => cmpT64 .lt (lane x i) (lane y i)) s
/-- VCMP_LE (R259). -/
def execVcmpLe (d a b : BitVec 5) (m : BitVec 3) (s : State) : Host.Outcome State Fault Refusal :=
  maskRun 2 d a b m 64 (fun x y i => cmpT64 .le (lane x i) (lane y i)) s
/-- VCMP_UN (R259). -/
def execVcmpUn (d a b : BitVec 5) (m : BitVec 3) (s : State) : Host.Outcome State Fault Refusal :=
  maskRun 2 d a b m 64 (fun x y i => cmpT64 .un (lane x i) (lane y i)) s
/-- VCMP_ORD (R259). -/
def execVcmpOrd (d a b : BitVec 5) (m : BitVec 3) (s : State) : Host.Outcome State Fault Refusal :=
  maskRun 2 d a b m 64 (fun x y i => cmpT64 .ord (lane x i) (lane y i)) s
/-- VCLASS (R260). -/
def execVclass (d a : BitVec 5) (m : BitVec 3) (s : State) : Host.Outcome State Fault Refusal := t64Run [a] d m 0 (fun _ x _ _ => (classT64 x, 0)) s
/-- The integer width of a type field (R261). -/
def typeWidth (t : BitVec 3) : Nat := 8 * 2 ^ (t.toNat - 1)

/-- VCVTI (R261). -/
def execVcvti (d a : BitVec 5) (m r t : BitVec 3) (u : BitVec 1) (s : State) : Host.Outcome State Fault Refusal :=
  t64Run [a] d m r (fun q x _ _ => cvtiT64 q (typeWidth t) (u == 1#1) x) s

/-- VCVTF (R261). -/
def execVcvtf (d a : BitVec 5) (m r t : BitVec 3) (u : BitVec 1) (s : State) : Host.Outcome State Fault Refusal :=
  t64Run [a] d m r (fun q x _ _ =>
    let v := x.toNat % 2 ^ typeWidth t
    ofIntT64 q (if u = 1#1 then v else signedOf (typeWidth t) v)) s

/-- VRNDP (R262). -/
def execVrndp (d a : BitVec 5) (m r : BitVec 3) (s : State) : Host.Outcome State Fault Refusal := t64Run [a] d m r (fun q x _ _ => rndpT64 q x) s

/- Reductions and scans -/

/-- VREDF (R263): the rounded tree over the active lanes; every lane of the destination is written. -/
def execVredf (d a : BitVec 5) (m r : BitVec 3) (s : State) : Host.Outcome State Fault Refusal :=
  run 2 (do
    checkOperands [.v a] [.v d]
    let u ← takeV a
    let t ← look (·.tile)
    let q := treeT64 (roundingMode t r) (activeElems 64 (t.mGet m.toNat) (lane u))
    raiseFlags q.2
    giveV d (ofLanes [← settle 3 0 q.1])
    pure false) s

/-- The running sum of integer elements (R264). -/
def scanInt (w : Nat) : Option Nat → List (Option Nat) → List (Option Nat)
  | _, [] => []
  | acc, none :: r => none :: scanInt w acc r
  | acc, some e :: r =>
    let y := (acc.getD 0 + e) % 2 ^ w
    some y :: scanInt w (some y) r

/-- VSCAN (R264). -/
def execVscan (d a : BitVec 5) (m r t : BitVec 3) (s : State) : Host.Outcome State Fault Refusal :=
  run 2 (do
    checkOperands [.v a] [.v d]
    let u ← takeV a
    let c ← look (·.tile)
    if t = 0#3 then
      let q := scanT64 (roundingMode c r) none (activeElems 64 (c.mGet m.toNat) (lane u))
      raiseFlags q.2
      giveElems d 64 (q.1.map (fun e => e.map (·.toNat)))
    else
      let w := typeWidth t
      giveElems d w (scanInt w none (activeElems w (c.mGet m.toNat) (elem w u)))
    pure false) s

/- Integer lanes -/

/-- The width of a two-bit width field (R265). -/
def laneWidth (w : BitVec 2) : Nat := 8 * 2 ^ w.toNat

/-- An integer operation on the elements of two sources (R265). -/
def intRun (g : Nat → Nat → Nat → Nat) (d a b : BitVec 5) (m : BitVec 3) (w : BitVec 2) (s : State) : Host.Outcome State Fault Refusal :=
  vecRun 1 [a, b] d m (laneWidth w) (fun _ vs i =>
    let n := laneWidth w
    (g n (elem n (vs.getD 0 0) i) (elem n (vs.getD 1 0) i) % 2 ^ n, 0)) s

/-- An integer as its residue modulo 2^n. -/
def wrapInt (n : Nat) (v : Int) : Nat := (v % (2 ^ n : Nat)).toNat

/-- VIADD (R265). -/
def execViadd (d a b : BitVec 5) (m : BitVec 3) (w : BitVec 2) (s : State) : Host.Outcome State Fault Refusal :=
  intRun (fun _ x y => x + y) d a b m w s
/-- VISUB (R265). -/
def execVisub (d a b : BitVec 5) (m : BitVec 3) (w : BitVec 2) (s : State) : Host.Outcome State Fault Refusal :=
  intRun (fun n x y => x + 2 ^ n - y) d a b m w s
/-- VIMUL (R265). -/
def execVimul (d a b : BitVec 5) (m : BitVec 3) (w : BitVec 2) (s : State) : Host.Outcome State Fault Refusal :=
  intRun (fun _ x y => x * y) d a b m w s
/-- VIMULH (R265). -/
def execVimulh (d a b : BitVec 5) (m : BitVec 3) (w : BitVec 2) (s : State) : Host.Outcome State Fault Refusal :=
  intRun (fun n x y => wrapInt n (signedOf n x * signedOf n y / (2 ^ n : Nat))) d a b m w s
/-- VAND (R265). -/
def execVand (d a b : BitVec 5) (m : BitVec 3) (w : BitVec 2) (s : State) : Host.Outcome State Fault Refusal :=
  intRun (fun _ x y => x &&& y) d a b m w s
/-- VOR (R265). -/
def execVor (d a b : BitVec 5) (m : BitVec 3) (w : BitVec 2) (s : State) : Host.Outcome State Fault Refusal :=
  intRun (fun _ x y => x ||| y) d a b m w s
/-- VXOR (R265). -/
def execVxor (d a b : BitVec 5) (m : BitVec 3) (w : BitVec 2) (s : State) : Host.Outcome State Fault Refusal :=
  intRun (fun _ x y => x ^^^ y) d a b m w s
/-- VSHL (R265). -/
def execVshl (d a b : BitVec 5) (m : BitVec 3) (w : BitVec 2) (s : State) : Host.Outcome State Fault Refusal :=
  intRun (fun n x y => x * 2 ^ (y % n)) d a b m w s
/-- VSHR (R265). -/
def execVshr (d a b : BitVec 5) (m : BitVec 3) (w : BitVec 2) (s : State) : Host.Outcome State Fault Refusal :=
  intRun (fun n x y => x / 2 ^ (y % n)) d a b m w s
/-- VSAR (R265). -/
def execVsar (d a b : BitVec 5) (m : BitVec 3) (w : BitVec 2) (s : State) : Host.Outcome State Fault Refusal :=
  intRun (fun n x y => wrapInt n (signedOf n x / (2 ^ (y % n) : Nat))) d a b m w s
/-- VIMIN (R265). -/
def execVimin (d a b : BitVec 5) (m : BitVec 3) (w : BitVec 2) (s : State) : Host.Outcome State Fault Refusal :=
  intRun (fun n x y => if signedOf n y < signedOf n x then y else x) d a b m w s
/-- VIMAX (R265). -/
def execVimax (d a b : BitVec 5) (m : BitVec 3) (w : BitVec 2) (s : State) : Host.Outcome State Fault Refusal :=
  intRun (fun n x y => if signedOf n x < signedOf n y then y else x) d a b m w s
/-- VICMP_EQ (R266). -/
def execVicmpEq (d a b : BitVec 5) (m : BitVec 3) (w : BitVec 2) (s : State) : Host.Outcome State Fault Refusal :=
  maskRun 1 d a b m (laneWidth w) (fun u v i =>
    let n := laneWidth w
    let x := elem n u i
    let y := elem n v i
    (x == y, 0)) s
/-- VICMP_NE (R266). -/
def execVicmpNe (d a b : BitVec 5) (m : BitVec 3) (w : BitVec 2) (s : State) : Host.Outcome State Fault Refusal :=
  maskRun 1 d a b m (laneWidth w) (fun u v i =>
    let n := laneWidth w
    let x := elem n u i
    let y := elem n v i
    (x != y, 0)) s
/-- VICMP_LT (R266). -/
def execVicmpLt (d a b : BitVec 5) (m : BitVec 3) (w : BitVec 2) (s : State) : Host.Outcome State Fault Refusal :=
  maskRun 1 d a b m (laneWidth w) (fun u v i =>
    let n := laneWidth w
    let x := elem n u i
    let y := elem n v i
    (decide (signedOf n x < signedOf n y), 0)) s
/-- VICMP_GE (R266). -/
def execVicmpGe (d a b : BitVec 5) (m : BitVec 3) (w : BitVec 2) (s : State) : Host.Outcome State Fault Refusal :=
  maskRun 1 d a b m (laneWidth w) (fun u v i =>
    let n := laneWidth w
    let x := elem n u i
    let y := elem n v i
    (decide (signedOf n y ≤ signedOf n x), 0)) s
/-- VICMP_LTU (R266). -/
def execVicmpLtu (d a b : BitVec 5) (m : BitVec 3) (w : BitVec 2) (s : State) : Host.Outcome State Fault Refusal :=
  maskRun 1 d a b m (laneWidth w) (fun u v i =>
    let n := laneWidth w
    let x := elem n u i
    let y := elem n v i
    (decide (x < y), 0)) s
/-- VICMP_GEU (R266). -/
def execVicmpGeu (d a b : BitVec 5) (m : BitVec 3) (w : BitVec 2) (s : State) : Host.Outcome State Fault Refusal :=
  maskRun 1 d a b m (laneWidth w) (fun u v i =>
    let n := laneWidth w
    let x := elem n u i
    let y := elem n v i
    (decide (y ≤ x), 0)) s

/- Moving elements -/

/-- VSEL (R267): every element is written. -/
def execVsel (d a b : BitVec 5) (m : BitVec 3) (w : BitVec 2) (s : State) : Host.Outcome State Fault Refusal :=
  run 1 (do
    checkOperands [.v a, .v b] [.v d]
    let u ← takeV a
    let v ← takeV b
    let mask ← look (fun s => s.tile.mGet m.toNat)
    let n := laneWidth w
    giveV d (ofElems n ((List.range (512 / n)).map (fun i => if bitOf mask i then elem n u i else elem n v i)))
    pure false) s

/-- VPERM (R267). -/
def execVperm (d a b : BitVec 5) (m : BitVec 3) (w : BitVec 2) (s : State) : Host.Outcome State Fault Refusal :=
  vecRun 1 [a, b] d m (laneWidth w) (fun _ vs i =>
    let n := laneWidth w
    (elem n (vs.getD 0 0) (elem n (vs.getD 1 0) i % (512 / n)), 0)) s

/-- VSLIDE (R267). -/
def execVslide (d a : BitVec 5) (u : BitVec 1) (n : BitVec 4) (m : BitVec 3) (w : BitVec 2) (s : State) : Host.Outcome State Fault Refusal :=
  vecRun 1 [a] d m (laneWidth w) (fun _ vs i =>
    let z := laneWidth w
    let v := vs.getD 0 0
    (if u = 0#1 then (if n.toNat ≤ i then elem z v (i - n.toNat) else 0)
     else if i + n.toNat < 512 / z then elem z v (i + n.toNat) else 0, 0)) s

/-- VCOMP (R268): every element is written. -/
def execVcomp (d a : BitVec 5) (m : BitVec 3) (w : BitVec 2) (s : State) : Host.Outcome State Fault Refusal :=
  run 1 (do
    checkOperands [.v a] [.v d]
    let u ← takeV a
    let mask ← look (fun s => s.tile.mGet m.toNat)
    let n := laneWidth w
    giveV d (ofElems n ((activeElems n mask (elem n u)).filterMap id))
    pure false) s

/-- VEXPD (R268). -/
def execVexpd (d a : BitVec 5) (m : BitVec 3) (w : BitVec 2) (s : State) : Host.Outcome State Fault Refusal :=
  vecRun 1 [a] d m (laneWidth w) (fun t vs i =>
    let n := laneWidth w
    let mask := t.mGet m.toNat
    (elem n (vs.getD 0 0) ((List.range i).filter (fun k => bitOf mask k)).length, 0)) s

/-- VMOVX (R269). -/
def execVmovx (d : BitVec 6) (v : BitVec 5) (l : BitVec 3) (s : State) : Host.Outcome State Fault Refusal :=
  run1 (do
    checkOperands [.v v] [.x d]
    let u ← takeV v
    giveX d (lane u l.toNat)) s

/-- VMOVV (R269). -/
def execVmovv (a : BitVec 6) (v : BitVec 5) (l : BitVec 3) (s : State) : Host.Outcome State Fault Refusal :=
  run1 (do
    checkOperands [.x a] []
    let w ← takeX a
    giveElems v 64 ((List.range 8).map (fun j => if j = l.toNat then some w.toNat else none))) s

/-- VBCAST (R269). -/
def execVbcast (a : BitVec 6) (v : BitVec 5) (s : State) : Host.Outcome State Fault Refusal :=
  run1 (do
    checkOperands [.x a] [.v v]
    let w ← takeX a
    giveV v (ofLanes (List.replicate 8 w))) s

/- The long accumulator -/

/-- Add a value to la and raise the flags of the addition (R192, R270); a decided dispute gives L (R386). -/
def addLa (w : Word) : Exec Unit := do
  let a ← look (fun s => s.tile.la)
  let r := laAdd a w
  updateTile (fun t => { t with la := { r.1 with l := ((t.disputed 4 0).map (signedOf 640)).getD r.1.l } })
  raiseFlags r.2

/-- LAZ (R270). -/
def execLaz (s : State) : Host.Outcome State Fault Refusal := run1 (updateTile (fun t => { t with la := {} })) s

/-- LAADD (R270). -/
def execLaadd (a : BitVec 6) (s : State) : Host.Outcome State Fault Refusal :=
  run1 (do
    checkOperands [.x a] []
    let w ← takeX a
    addLa w) s

/-- Add several values to la. -/
def addLas : List Word → Exec Unit
  | [] => pure ()
  | w :: r => do
    addLa w
    addLas r

/-- VREDX (R270). -/
def execVredx (a : BitVec 5) (m : BitVec 3) (s : State) : Host.Outcome State Fault Refusal :=
  run1 (do
    checkOperands [.v a] []
    let u ← takeV a
    let mask ← look (fun s => s.tile.mGet m.toNat)
    addLas ((activeElems 64 mask (lane u)).filterMap id)) s

/-- LARD (R270). -/
def execLard (d : BitVec 6) (r : BitVec 3) (s : State) : Host.Outcome State Fault Refusal :=
  run1 (do
    checkOperands [] [.x d]
    let t ← look (·.tile)
    let q := laRound (roundingMode t r) t.la
    raiseFlags q.2
    giveX d q.1) s

/- Masks -/

/-- A mask operation (R271). -/
def maskOp (d : BitVec 5) (g : Tile → Word) (s : State) : Host.Outcome State Fault Refusal :=
  run1 (do
    let w ← look (fun s => g s.tile)
    giveM d w) s

/-- MAND (R271). -/
def execMand (d a b : BitVec 5) (s : State) : Host.Outcome State Fault Refusal := maskOp d (fun t => t.mGet a.toNat &&& t.mGet b.toNat) s
/-- MOR (R271). -/
def execMor (d a b : BitVec 5) (s : State) : Host.Outcome State Fault Refusal := maskOp d (fun t => t.mGet a.toNat ||| t.mGet b.toNat) s
/-- MXOR (R271). -/
def execMxor (d a b : BitVec 5) (s : State) : Host.Outcome State Fault Refusal := maskOp d (fun t => t.mGet a.toNat ^^^ t.mGet b.toNat) s
/-- MNOT (R271). -/
def execMnot (d a : BitVec 5) (s : State) : Host.Outcome State Fault Refusal := maskOp d (fun t => ~~~(t.mGet a.toNat)) s

/-- A count of a mask's bits to a scalar destination (R271). -/
def maskCount (d : BitVec 6) (v : BitVec 5) (g : Word → Word) (s : State) : Host.Outcome State Fault Refusal :=
  run1 (do
    checkOperands [] [.x d]
    let w ← look (fun s => s.tile.mGet v.toNat)
    giveX d (g w)) s

/-- MPOPC (R271). -/
def execMpopc (d : BitVec 6) (v : BitVec 5) (s : State) : Host.Outcome State Fault Refusal := maskCount d v fPopc s
/-- MFIRST (R271). -/
def execMfirst (d : BitVec 6) (v : BitVec 5) (s : State) : Host.Outcome State Fault Refusal := maskCount d v fCtz s

end Sys2Proof.Machine
end

