-- ==== Sys2Proof/Machine/LoadStore.lean ====
section
/-! DEFINITION. Scalar and vector loads and stores (R275 to R278) and the return and commit of long results (R134, R135). -/
namespace Sys2Proof.Machine

/-- A scalar load (R275): short in the local scratch window, long elsewhere. A destination that allows neither is found before the address (R216). -/
def loadRun (len size : Nat) (sgn : Bool) (d a : BitVec 6) (off : Word) (s : State) : Host.Outcome State Fault Refusal :=
  run len (do
    checkBindings [.x a] [.x d]
    checkOperands [.x a] []
    let base ← peekX a
    let op := LongOp.load size sgn (base + off)
    if op.short then
      checkOperands [.x a] [.x d]
      let _ ← takeX a
      let r ← doShort op
      giveX d (match r with | .word w => w | _ => 0)
    else
      demand (decide (d.toNat < 32)) (illegal 4)
      let _ ← takeX a
      issueLong op (.x d.toNat)
    pure false) s

/-- A scalar store (R275). -/
def storeRun (len size : Nat) (d a : BitVec 6) (off : Word) (s : State) : Host.Outcome State Fault Refusal :=
  run len (do
    checkOperands [.x a, .x d] []
    let base ← takeX a
    let w ← takeX d
    let op := LongOp.store size (base + off) w
    if op.short then
      let _ ← doShort op
      pure false
    else
      issueLong op .none
      pure false) s

/-- LDB (R275). -/
def execLdb (d a : BitVec 6) (i : BitVec 13) (s : State) : Host.Outcome State Fault Refusal := loadRun 1 1 true d a (i.signExtend 64) s
/-- LDBU (R275). -/
def execLdbu (d a : BitVec 6) (i : BitVec 13) (s : State) : Host.Outcome State Fault Refusal := loadRun 1 1 false d a (i.signExtend 64) s
/-- LDH (R275). -/
def execLdh (d a : BitVec 6) (i : BitVec 13) (s : State) : Host.Outcome State Fault Refusal := loadRun 1 2 true d a (i.signExtend 64) s
/-- LDHU (R275). -/
def execLdhu (d a : BitVec 6) (i : BitVec 13) (s : State) : Host.Outcome State Fault Refusal := loadRun 1 2 false d a (i.signExtend 64) s
/-- LDW (R275). -/
def execLdw (d a : BitVec 6) (i : BitVec 13) (s : State) : Host.Outcome State Fault Refusal := loadRun 1 4 true d a (i.signExtend 64) s
/-- LDWU (R275). -/
def execLdwu (d a : BitVec 6) (i : BitVec 13) (s : State) : Host.Outcome State Fault Refusal := loadRun 1 4 false d a (i.signExtend 64) s
/-- LDD (R275). -/
def execLdd (d a : BitVec 6) (i : BitVec 13) (s : State) : Host.Outcome State Fault Refusal := loadRun 1 8 false d a (i.signExtend 64) s
/-- STB (R275). -/
def execStb (d a : BitVec 6) (i : BitVec 13) (s : State) : Host.Outcome State Fault Refusal := storeRun 1 1 d a (i.signExtend 64) s
/-- STH (R275). -/
def execSth (d a : BitVec 6) (i : BitVec 13) (s : State) : Host.Outcome State Fault Refusal := storeRun 1 2 d a (i.signExtend 64) s
/-- STW (R275). -/
def execStw (d a : BitVec 6) (i : BitVec 13) (s : State) : Host.Outcome State Fault Refusal := storeRun 1 4 d a (i.signExtend 64) s
/-- STD (R275). -/
def execStd (d a : BitVec 6) (i : BitVec 13) (s : State) : Host.Outcome State Fault Refusal := storeRun 1 8 d a (i.signExtend 64) s
/-- LDD with a 32-bit offset (R276). -/
def execLddImm32 (d a : BitVec 6) (i : BitVec 32) (s : State) : Host.Outcome State Fault Refusal := loadRun 2 8 false d a (i.signExtend 64) s
/-- STD with a 32-bit offset (R276). -/
def execStdImm32 (d a : BitVec 6) (i : BitVec 32) (s : State) : Host.Outcome State Fault Refusal := storeRun 2 8 d a (i.signExtend 64) s

/- Vector loads and stores -/

/-- The lane addresses `g j` for eight lanes. -/
def laneAddrs (g : Nat → Word) : List Word := (List.range 8).map g

/-- The eight truth values of a lane mask. -/
def laneMask (mask : Word) : List Bool := (List.range 8).map (bitOf mask)

/-- The offset of VLD and VST (R277). -/
def vecOffset (o : BitVec 8) : Word := o.signExtend 64 * 64

/-- A vector load of given lane addresses (R277, R278). -/
def vloadAt (d : BitVec 5) (m : BitVec 3) (vas : List Word) : Exec Unit := do
  let mask ← look (fun s => s.tile.mGet m.toNat)
  let op := LongOp.vload vas mask
  if op.short then
    let r ← doShort op
    giveElems d 64 ((((match r with | .lanes ws => ws | _ => []).zip (laneMask mask))).map (fun (p : Word × Bool) => if p.2 then some p.1.toNat else none))
  else issueLong op (.v d.toNat (laneMask mask))

/-- A vector store to given lane addresses (R277, R278). -/
def vstoreAt (m : BitVec 3) (vas : List Word) (v : BitVec 512) : Exec Unit := do
  let mask ← look (fun s => s.tile.mGet m.toNat)
  let op := LongOp.vstore vas mask (lanes v)
  if op.short then
    let _ ← doShort op
    pure ()
  else issueLong op .none

/-- VLD (R277). -/
def execVld (d : BitVec 5) (a : BitVec 6) (m : BitVec 3) (o : BitVec 8) (s : State) : Host.Outcome State Fault Refusal :=
  run1 (do
    checkOperands [.x a] []
    let b ← takeX a
    vloadAt d m (laneAddrs (fun j => b + vecOffset o + BitVec.ofNat 64 (8 * j)))) s

/-- VST (R277). -/
def execVst (d : BitVec 5) (a : BitVec 6) (m : BitVec 3) (o : BitVec 8) (s : State) : Host.Outcome State Fault Refusal :=
  run1 (do
    checkOperands [.x a, .v d] []
    let b ← takeX a
    let v ← takeV d
    vstoreAt m (laneAddrs (fun j => b + vecOffset o + BitVec.ofNat 64 (8 * j))) v) s

/-- VLDS (R277). -/
def execVlds (d : BitVec 5) (a : BitVec 6) (m : BitVec 3) (b : BitVec 6) (s : State) : Host.Outcome State Fault Refusal :=
  run1 (do
    checkOperands [.x a, .x b] []
    let u ← takeX a
    let st ← takeX b
    vloadAt d m (laneAddrs (fun j => u + BitVec.ofNat 64 j * st))) s

/-- VSTS (R277). -/
def execVsts (d : BitVec 5) (a : BitVec 6) (m : BitVec 3) (b : BitVec 6) (s : State) : Host.Outcome State Fault Refusal :=
  run1 (do
    checkOperands [.x a, .x b, .v d] []
    let u ← takeX a
    let st ← takeX b
    let v ← takeV d
    vstoreAt m (laneAddrs (fun j => u + BitVec.ofNat 64 j * st)) v) s

/-- VLDX (R277). -/
def execVldx (d : BitVec 5) (a : BitVec 6) (m : BitVec 3) (b : BitVec 5) (s : State) : Host.Outcome State Fault Refusal :=
  run1 (do
    checkOperands [.x a, .v b] []
    let u ← takeX a
    let x ← takeV b
    vloadAt d m (laneAddrs (fun j => u + lane x j))) s

/-- VSTX (R277). -/
def execVstx (d : BitVec 5) (a : BitVec 6) (m : BitVec 3) (b : BitVec 5) (s : State) : Host.Outcome State Fault Refusal :=
  run1 (do
    checkOperands [.x a, .v b, .v d] []
    let u ← takeX a
    let x ← takeV b
    let v ← takeV d
    vstoreAt m (laneAddrs (fun j => u + lane x j)) v) s

/- Returns and commits -/

/-- The acknowledgement of a BARARV gives its entry of the barrier record (R344). -/
def Tile.recordArrival (t : Tile) (e : LongEntry) : Tile :=
  match e.op, e.res with
  | .bararv va, .word old => { t with barRec := barRecord t.barRec va (bitsOf old 63 32) }
  | _, _ => t

/-- LONG_RESULT_RETURN (R134): the result of entry `k` (argument 0) returns; one that its home has not yet given is awaited.
DESIGN CHOICE, log entry 4. -/
def execLongResultReturn (s : State) : Host.Outcome State Fault Refusal :=
  event (fun s =>
    let k := argAt s 0
    match s.tile.longBuf[k]? with
    | none => s
    | some e =>
      if e.returned then s
      else if e.res = .pending then
        again (match e.op with | .mr _ _ _ _ => schedule s s.tile.id [(.mrValueReady, [k])] | _ => s) .longResultReturn
      else onTile s (fun t => { t with longBuf := setAt t.longBuf k { e with returned := true } }.recordArrival e)) s

/-- PARK_COMMIT (R135): at a park, every returned result is committed in issue order. -/
def execParkCommit (s : State) : Host.Outcome State Fault Refusal :=
  if s.tile.wait = some .park ∧ s.tile.longBuf ≠ [] then .next (parkStep s) else event id s

end Sys2Proof.Machine
end

