-- ==== Sys2Proof/Machine/Atomics.lean ====
section
/-! DEFINITION. Atomics, reductions and forwarding reductions (R279 to R281), barriers (R284), and the requests that owners apply
later (R31, R106 to R109). -/
namespace Sys2Proof.Machine

/-- Run an atomic operation that gives its old value to a destination (R279). -/
def atomicResult (op : LongOp) (d : BitVec 6) (srcs : List Opnd) (take : Exec Unit) : Exec Unit := do
  if op.short then
    checkOperands srcs [.x d]
    take
    let r ← doShort op
    giveX d (match r with | .word w => w | _ => 0)
  else
    demand (decide (d.toNat < 32)) (illegal 4)
    take
    issueLong op (.x d.toNat)

/-- AMO (R279). -/
def amoRun (o : AtomOp) (d a b : BitVec 6) (s : State) : Host.Outcome State Fault Refusal :=
  run1 (do
    checkBindings [.x a, .x b] [.x d]
    checkOperands [.x a, .x b] []
    let t ← look (·.tile)
    let va := (t.valueX a).1
    let v := ((popSrc t (.x a)).valueX b).1
    atomicResult (.amo o va v) d [.x a, .x b] (do
      let _ ← takeX a
      let _ ← takeX b
      pure ())) s

/-- CAS (R279): the expected value is the old value of rd. -/
def execCas (d a b : BitVec 6) (s : State) : Host.Outcome State Fault Refusal :=
  run1 (do
    checkBindings [.x a, .x b] [.x d]
    checkOperands [.x a, .x b] []
    let t ← look (·.tile)
    let va := (t.valueX a).1
    let v := ((popSrc t (.x a)).valueX b).1
    atomicResult (.cas va (t.xGet d.toNat) v) d [.x a, .x b] (do
      let _ ← takeX a
      let _ ← takeX b
      pure ())) s

/-- An operation with an acknowledgement only: RED, BARINIT and BARARV (R279, R284). -/
def ackRun (srcs : List (BitVec 6)) (mk : List Word → LongOp) (s : State) : Host.Outcome State Fault Refusal :=
  run1 (do
    checkOperands (srcs.map .x) []
    let ws ← takeXs srcs
    let op := mk ws
    if op.short then
      let r ← doShort op
      updateTile (fun t => t.recordArrival { op := op, res := r })
    else issueLong op .none) s

/-- RED (R279). -/
def redRun (o : AtomOp) (a b : BitVec 6) (s : State) : Host.Outcome State Fault Refusal :=
  ackRun [a, b] (fun ws => .red o (ws.getD 0 0) (ws.getD 1 0)) s

/-- The checks that a REDF makes of its forward address at issue (R280). DEDUCED, log entry 52. -/
def checkForward (fwd : Word) : Exec Unit := do
  demand (fwd.toNat % 16 == 0) (trap { cause := .align })
  let s ← look id
  match regionOf fwd with
  | .ok (.place rank _) =>
    demand (decide (rank < tileCount s (partNo s s.tile.id))) (memTrap (mkFault 0 0 0 .atomic fwd { prot := false, sub := 4 }))
  | .ok (.localScr _) => pure ()
  | _ => memTrap (mkFault 0 0 0 .atomic fwd { prot := false, sub := 1 })

/-- REDF (R280): a target in the local scratch window is checked at the instruction, as a short operation is. DEDUCED, log entry 52. -/
def redfRun (o : AtomOp) (f a b : BitVec 6) (s : State) : Host.Outcome State Fault Refusal :=
  run1 (do
    checkOperands [.x a, .x b, .x f] []
    let ws ← takeXs [a, b, f]
    let va := ws.getD 0 0
    let fwd := ws.getD 2 0
    checkForward fwd
    let s ← look id
    if isLocal va then
      match resolve s s.tile.id s.tile.mode (coreRule .atomic) va 8 with
      | .error e => memTrap (accessFault .atomic va e)
      | .ok _ => pure ()
    else pure ()
    issueLong (.redf o va (ws.getD 1 0) fwd none) .none) s

/-- AMO_SWAP (R279). -/
def execAmoSwap (d a b : BitVec 6) (s : State) : Host.Outcome State Fault Refusal := amoRun .swap d a b s
/-- AMO_ADD (R279). -/
def execAmoAdd (d a b : BitVec 6) (s : State) : Host.Outcome State Fault Refusal := amoRun .add d a b s
/-- AMO_AND (R279). -/
def execAmoAnd (d a b : BitVec 6) (s : State) : Host.Outcome State Fault Refusal := amoRun .and d a b s
/-- AMO_OR (R279). -/
def execAmoOr (d a b : BitVec 6) (s : State) : Host.Outcome State Fault Refusal := amoRun .or d a b s
/-- AMO_XOR (R279). -/
def execAmoXor (d a b : BitVec 6) (s : State) : Host.Outcome State Fault Refusal := amoRun .xor d a b s
/-- AMO_MIN (R279). -/
def execAmoMin (d a b : BitVec 6) (s : State) : Host.Outcome State Fault Refusal := amoRun .min d a b s
/-- AMO_MAX (R279). -/
def execAmoMax (d a b : BitVec 6) (s : State) : Host.Outcome State Fault Refusal := amoRun .max d a b s
/-- AMO_MINU (R279). -/
def execAmoMinu (d a b : BitVec 6) (s : State) : Host.Outcome State Fault Refusal := amoRun .minu d a b s
/-- AMO_MAXU (R279). -/
def execAmoMaxu (d a b : BitVec 6) (s : State) : Host.Outcome State Fault Refusal := amoRun .maxu d a b s
/-- AMO_FADD (R279). -/
def execAmoFadd (d a b : BitVec 6) (s : State) : Host.Outcome State Fault Refusal := amoRun .fadd d a b s
/-- RED_ADD (R279). -/
def execRedAdd (a b : BitVec 6) (s : State) : Host.Outcome State Fault Refusal := redRun .add a b s
/-- RED_AND (R279). -/
def execRedAnd (a b : BitVec 6) (s : State) : Host.Outcome State Fault Refusal := redRun .and a b s
/-- RED_OR (R279). -/
def execRedOr (a b : BitVec 6) (s : State) : Host.Outcome State Fault Refusal := redRun .or a b s
/-- RED_XOR (R279). -/
def execRedXor (a b : BitVec 6) (s : State) : Host.Outcome State Fault Refusal := redRun .xor a b s
/-- RED_MIN (R279). -/
def execRedMin (a b : BitVec 6) (s : State) : Host.Outcome State Fault Refusal := redRun .min a b s
/-- RED_MAX (R279). -/
def execRedMax (a b : BitVec 6) (s : State) : Host.Outcome State Fault Refusal := redRun .max a b s
/-- RED_MINU (R279). -/
def execRedMinu (a b : BitVec 6) (s : State) : Host.Outcome State Fault Refusal := redRun .minu a b s
/-- RED_MAXU (R279). -/
def execRedMaxu (a b : BitVec 6) (s : State) : Host.Outcome State Fault Refusal := redRun .maxu a b s
/-- RED_FADD (R279). -/
def execRedFadd (a b : BitVec 6) (s : State) : Host.Outcome State Fault Refusal := redRun .fadd a b s
/-- REDF_ADD (R280). -/
def execRedfAdd (f a b : BitVec 6) (s : State) : Host.Outcome State Fault Refusal := redfRun .add f a b s
/-- REDF_AND (R280). -/
def execRedfAnd (f a b : BitVec 6) (s : State) : Host.Outcome State Fault Refusal := redfRun .and f a b s
/-- REDF_OR (R280). -/
def execRedfOr (f a b : BitVec 6) (s : State) : Host.Outcome State Fault Refusal := redfRun .or f a b s
/-- REDF_XOR (R280). -/
def execRedfXor (f a b : BitVec 6) (s : State) : Host.Outcome State Fault Refusal := redfRun .xor f a b s
/-- REDF_MIN (R280). -/
def execRedfMin (f a b : BitVec 6) (s : State) : Host.Outcome State Fault Refusal := redfRun .min f a b s
/-- REDF_MAX (R280). -/
def execRedfMax (f a b : BitVec 6) (s : State) : Host.Outcome State Fault Refusal := redfRun .max f a b s
/-- REDF_MINU (R280). -/
def execRedfMinu (f a b : BitVec 6) (s : State) : Host.Outcome State Fault Refusal := redfRun .minu f a b s
/-- REDF_MAXU (R280). -/
def execRedfMaxu (f a b : BitVec 6) (s : State) : Host.Outcome State Fault Refusal := redfRun .maxu f a b s
/-- REDF_FADD (R280). -/
def execRedfFadd (f a b : BitVec 6) (s : State) : Host.Outcome State Fault Refusal := redfRun .fadd f a b s

/-- BARINIT (R284). -/
def execBarinit (a b : BitVec 6) (s : State) : Host.Outcome State Fault Refusal := ackRun [a, b] (fun ws => .barinit (ws.getD 0 0) (ws.getD 1 0)) s
/-- BARARV (R284). -/
def execBararv (a : BitVec 6) (s : State) : Host.Outcome State Fault Refusal := ackRun [a] (fun ws => .bararv (ws.getD 0 0)) s

/- Requests that a network interface holds and applies later (R106, R143, R369) -/

/-- Is an operation a plain access? -/
def LongOp.isAccess : LongOp → Bool
  | .load _ _ _ | .store _ _ _ | .vload _ _ | .vstore _ _ _ => true
  | _ => false

/-- Is an operation an arrival at a barrier word? -/
def LongOp.isArrival : LongOp → Bool
  | .bararv _ | .cancelMark _ _ => true
  | _ => false

/-- Is an operation the second half of a REDF? -/
def LongOp.isForward : LongOp → Bool
  | .redf _ _ _ _ (some _) => true
  | _ => false

/-- The step that replays a held request. -/
def LongOp.replayStep (o : LongOp) : Instr :=
  if o.isAccess then .placeWindowAccess else if o.isArrival then .barrierArrival else if o.isForward then .redfForward else .atomicApply

/-- The step that takes a held item. -/
def NiItem.step : NiItem → Instr
  | .req q => q.op.replayStep
  | .msg _ => .messageArrival
  | .sector _ _ _ _ => .placeWindowAccess
  | .access _ _ _ _ => .placeWindowAccess

/-- The step of the item at the head of a tile's ring, put into the schedule. -/
def nextHeld (s : State) (u : Nat) : State :=
  match (getTile s u).ring with
  | [] => s
  | q :: _ => scheduleAt s u q.step []

/-- An entry of a long-result buffer receives what its request returned. -/
def Tile.giveEntry (t : Tile) (n : Nat) (res : LongRes) (op : LongOp) : Tile :=
  match t.longBuf[n]? with
  | some e => if e.res = .pending then { t with longBuf := setAt t.longBuf n { e with res := res, op := op } } else t
  | none => t

/-- The entry of an issuer's long-result buffer receives what its request returned; an issuer that lies in an image receives it there (R369). -/
def giveResult (s : State) (q : OwnerReq) (res : LongRes) (op : LongOp) : State :=
  if (getTile s q.tile).launch = q.launch then updTile s q.tile (fun t => t.giveEntry q.entry res op)
  else { s with images := s.images.map (fun e =>
      if e.2.place = q.tile ∧ e.2.tile.launch = q.launch then (e.1, { e.2 with tile := e.2.tile.giveEntry q.entry res op }) else e) }

/-- What a request held anew is: the request of old, with its place in its tile's order and its entry (R92). -/
def NiItem.sameAs (q : OwnerReq) (n launch : Nat) : NiItem → NiItem
  | .req r => if r.tile = q.tile ∧ r.launch = launch ∧ r.seq = n then .req { r with entry := q.entry, launch := q.launch, seq := q.seq } else .req r
  | i => i

/-- Rename what network interfaces hold, in tiles, in images and in the records written. -/
def mapRings (s : State) (g : NiItem → NiItem) : State :=
  let s1 := (allTiles s).foldl (fun u t =>
    if (getTile u t).ring.any (fun i => g i != i) then updTile u t (fun a => { a with ring := a.ring.map g }) else u) s
  { s1 with
    images := s1.images.map (fun e => (e.1, { e.2 with tile := { e.2.tile with ring := e.2.tile.ring.map g } }))
    records := s1.records.map (fun e => { e with tile := { e.tile with ring := e.tile.ring.map g } }) }

/-- Perform a request that stood in a ring. One whose issuer has an earlier request in a ring follows the latest of those there (R91, R92). -/
def applyReq (s : State) (q : OwnerReq) : State :=
  match latestOf ((heldReqs s q.tile q.launch).filter (fun e => decide (e.1 < q.seq))) with
  | some (.ring u) => nextHeld (putHeld s (.req q) (.ring u)) u
  | some h => putHeld s (.req q) h
  | none =>
    let p := performNow s q.tile q.mode q.op
    if p.res = .pending then
      let n := (getTile s q.tile).reqSeq + 1
      let s1 := mapRings p.st (NiItem.sameAs q n (getTile s q.tile).launch)
      (allTiles s1).foldl nextHeld s1
    else giveResult p.st q p.res p.op

/-- One sector of a copy waits no longer in a ring: it counts once it has been performed (R103). One for a sealed tile or for a tile of a field in reset is
discarded (R389, R380), as is that of a copy that is there no longer, or whose piece has been ended (R112, R127). -/
def applySector (s : State) (tile slot piece : Nat) (bytes : List (Nat × Byte)) : State :=
  let here := s.tile
  let live := match smFind (getTile s tile).copies slot with
    | some c => c.pieces.any (fun p => p.num == piece)
    | none => false
  if !live then s
  else
    let gone := sealed s here.id || (getField s (fieldOf here.id)).resetState != 0
    let s1 := if gone then dropAt s here.id
      else bytes.foldl (fun u b => if b.1 < scratchSize here then markScratch (writeByte u (scratchKey here.id b.1) b.2) here.id b.1 1 else u) s
    let s2 := updTile s1 tile (fun t => match smFind t.copies slot with
      | some c => { t with copies := smSet t.copies slot { c with pieces := c.pieces.map (fun p =>
          if p.num = piece then { p with inRing := p.inRing - 1, uncounted := if gone then p.uncounted else p.uncounted + 1 } else p) } }
      | none => t)
    schedule s2 tile [(.spoutSector, [slot, piece])]

/-- Is an item the access of a stream, the engine or a port whose task is still at its tile? It is performed by its own step, and goes then. -/
def NiItem.turnOf (s : State) : NiItem → Bool
  | .access t l _ _ => (getTile s t).launch == l
  | _ => false

/-- An access of a stream, of the engine or of a port whose target's network interface does not take it now waits there for its place (R143, R369). -/
def deferStep (s : State) (u : Nat) (i : Instr) : State :=
  putHeld s (.access s.tile.id s.tile.launch i s.arg) (.ring u)

/-- The item that stands for the step `i` of the current tile. -/
def ownItem (s : State) (i : Instr) : NiItem := .access s.tile.id s.tile.launch i s.arg

/-- The tile whose network interface has an access of the current tile's step at its head, and is stopped by no cut. -/
def ownTurn (s : State) (i : Instr) : Option Nat :=
  (allTiles s).find? (fun u => !(getTile s u).cutMarked && (getTile s u).ring.head? == some (ownItem s i))

/-- Does a step of the current tile wait in a network interface, or in a ring of an image? -/
def deferred (s : State) (i : Instr) : Bool :=
  (allTiles s).any (fun u => (getTile s u).ring.contains (ownItem s i)) || s.images.any (fun e => e.2.tile.ring.contains (ownItem s i))

/-- A step that performs an access of the current tile: while the access stands in a network interface only `w` is done, and the access is performed when it
comes to the head there (R143, R369). -/
def takeTurnOr (i : Instr) (g w : State → State) (s : State) : State :=
  match ownTurn s i with
  | some u =>
    let r := (getTile s u).ring.drop 1
    let s1 := g (updTile s u (fun t => { t with ring := [] }))
    nextHeld (updTile s1 u (fun t => { t with ring := r ++ t.ring })) u
  | none => if deferred s i then w s else g s

/-- A step that does nothing but perform an access of the current tile (R143, R369). -/
def takeTurn (i : Instr) (g : State → State) (s : State) : State := takeTurnOr i g id s

/-- Take the item at the head of the current tile's ring, if the step is the one that takes it and no cut holds it: an issuer's entry
receives the result of its request, which what waits behind it does not hold up. -/
def applyHeld (s : State) (i : Instr) : State :=
  match s.tile.ring with
  | [] => s
  | q :: r =>
    if s.tile.cutMarked then s
    else if q.step ≠ i then nextHeld s s.tile.id
    else if q.turnOf s then (match q with
      | .access t _ j a => scheduleAt s t j a
      | _ => s)
    else
      let s1 := onTile s (fun t => { t with ring := [] })
      let s2 := match q with
        | .req q => applyReq s1 q
        | .sector t k p b => applySector s1 t k p b
        | .msg _ | .access _ _ _ _ => s1
      nextHeld (onTile s2 (fun t => { t with ring := r ++ t.ring })) s.tile.id

/-- PLACE_WINDOW_ACCESS (R31): the target tile performs or refuses the access at the head of its ring. -/
def execPlaceWindowAccess (s : State) : Host.Outcome State Fault Refusal := event (fun s => applyHeld s .placeWindowAccess) s
/-- ATOMIC_APPLY (R106): the owner applies the update at the head of its ring. -/
def execAtomicApply (s : State) : Host.Outcome State Fault Refusal := event (fun s => applyHeld s .atomicApply) s
/-- BARRIER_ARRIVAL (R109). -/
def execBarrierArrival (s : State) : Host.Outcome State Fault Refusal := event (fun s => applyHeld s .barrierArrival) s
/-- REDF_FORWARD (R107). -/
def execRedfForward (s : State) : Host.Outcome State Fault Refusal := event (fun s => applyHeld s .redfForward) s

/-- LINE_RECALL (R106): the home recalls line argument 0; no memory is anywhere but in the regions of R76. DESIGN CHOICE, log entry 66. -/
def execLineRecall (s : State) : Host.Outcome State Fault Refusal :=
  if (cisternOf s (argAt s 0 * 64)).isNone then .fault .noMemory else event (fun s => recallLine s (argAt s 0)) s

end Sys2Proof.Machine
end

