-- ==== Sys2Proof/Machine/Sync.lean ====
section
/-! DEFINITION. Fences (R99, R100, R282), waits on memory words (R110, R111, R283, R284). -/
namespace Sys2Proof.Machine

/- Fences -/

/-- What the source half of a fence still waits for (R99): the faults it raises, or the steps that complete it. -/
inductive FenceState where
  | complete
  | raises (f : MemFault)
  | waits (evs : List (Instr × List Nat))

/-- Class C: every path-C access is performed; a request held by a cut is not (R99). A long access whose answer was a fault, and which its replay will
perform (R137), is not awaited (DESIGN CHOICE, log entry 88). -/
def fenceC (t : Tile) : FenceState :=
  if t.longBuf.any (fun e => e.res == .pending && (match e.op with | .mr _ _ _ _ => false | _ => true)) then .waits [] else .complete

/-- The active sink port that a fence awaits: it has not yet consumed every token that was written to it before the fence (R430). -/
def Tile.sinkBusy (t : Tile) : Option Nat :=
  (t.ports.find? (fun e => !e.2.idle && bitOf (e.2.active.getD 0 0) 1 && decide (0 < e.2.fence + e.2.coreFence))).map (·.1)

/-- An XFENCE of class S or a FENCE begins: it awaits the tokens that are now on their way to a port (R430). -/
def Tile.beginFence (t : Tile) : Tile :=
  if t.wait = some .fence then t
  else { t with ports := t.ports.map (fun e => (e.1, { e.2 with fence := e.2.toRim.length, coreFence := (vget t.coreOut e.1 []).length })) }

/-- Class S: every accepted element is performed, and every token written to an active sink port (R430); a held fault is raised (R99,
R45). -/
def fenceS (t : Tile) : FenceState :=
  match t.streams.find? (fun e => e.2.out && (e.2.fault.isSome || !e.2.held.isEmpty)) with
  | none => match t.sinkBusy with
    | none => .complete
    | some p => .waits [(.coreOutputDepart, [p]), (.streamPortSinkToken, [p])]
  | some (r, b) => match b.fault with
    | some f => .raises f
    | none => .waits [(.streamElementPerform, [r])]

/-- The steps that move a copy on (R115 to R125). -/
def copySteps (e : Nat × CopySlot) : List (Instr × List Nat) :=
  if !e.2.arrived then [(.copyRequestArrival, [e.1])]
  else (if e.2.lead.isSome then [(.spoutSector, [e.1])] else []) ++ e.2.pieces.map (fun p => (.spoutSector, [e.1, p.num])) ++
    (if e.2.lead.isNone && e.2.pieces.isEmpty || !e.2.owed.isEmpty then [(.copyCounterAddition, [e.1])] else [])

/-- Class Y: every copy has written all its sectors (R99). -/
def fenceY (t : Tile) : FenceState :=
  if t.ownCopies.all (fun e => e.2.arrived && e.2.lead.isNone && e.2.pieces.isEmpty) then .complete else .waits (t.ownCopies.flatMap copySteps)

/-- Class M: every queued matrix command has read its operands and performed its drains (R99, R310). -/
def fenceM (t : Tile) : FenceState :=
  match t.sub.held with
  | some f => .raises f
  | none =>
    if t.sub.queue.isEmpty && t.sub.drains.isEmpty then .complete
    else .waits [(.engineCommandStart, [clusterOf t.id]), (.stagingElement, []), (.engineCommandFinish, []), (.drainWritePerform, [])]

/-- One source class of a fence; class K's accesses are performed as they are begun (R99). -/
def fenceClass (t : Tile) (c : Nat) : FenceState :=
  match c with
  | 0 => fenceC t
  | 1 => fenceS t
  | 2 => fenceY t
  | 3 => fenceM t
  | _ => .complete

/-- Wait for one source half under the park cause, raising what it holds (R99, R138). The tokens that the fence awaits are kept while it waits (R430). -/
def awaitClass (c : Nat) : Exec Unit := do
  let r ← look (fun s => fenceClass s.tile c)
  match r with
  | .complete => pure ()
  | .raises f => memTrap f
  | .waits evs => do
    let s ← look id
    stop (.wait .fence false evs (some s))

/-- Invalidate the clean lines of the tile's data cache, and those that its accesses have placed in the pool (R100). -/
def dropClean (s : State) : State :=
  let s1 := onTile s (fun t => { t with dcache := t.dcache.filter (·.dirty) })
  updCluster s1 (clusterOf s.tile.id) (fun c => { c with poolLines := c.poolLines.filter (fun d => d.dirty || d.placer != s.tile.id) })

/-- XFENCE (R99): the destination half of S discards what input streams fetched ahead. -/
def execXfence (a b : BitVec 6) (s : State) : Host.Outcome State Fault Refusal :=
  run1 (do
    demand (a != 1#6) (updateTile Tile.beginFence)
    awaitClass a.toNat
    if b = 1#6 then updateTile (fun t => t.refetch (fun _ => true)) else pure ()) s

/-- FENCE (R100): XFENCE for every pair of classes, and no clean line stays cached. -/
def execFence (s : State) : Host.Outcome State Fault Refusal :=
  run1 (do
    updateTile Tile.beginFence
    awaitClass 0
    awaitClass 1
    awaitClass 2
    awaitClass 3
    awaitClass 4
    updateTile (fun t => t.refetch (fun _ => true))
    update dropClean) s

/- Waits -/

/-- The operands of a wait: those kept since its issue, or else the sources, which it then keeps (R283). -/
def waitOperands (a b : BitVec 6) : Exec (Word × Word) := do
  let t ← look (·.tile)
  match t.waitOps.find? (fun w => w.ctx == t.ctx && w.pc == t.pc) with
  | some w => pure (w.a, w.v)
  | none =>
    checkOperands [.x a, .x b] []
    let va ← takeX a
    let v ← takeX b
    updateTile (fun t =>
      { t with waitOps := { ctx := t.ctx, pc := t.pc, a := va, v := v } :: t.waitOps.filter (fun w => w.ctx != t.ctx) })
    pure (va, v)

/-- What the read of a wait finds: a stop, a word, or that it must try again. -/
inductive WaitFind where
  | trap (i : TrapInfo)
  | poison
  | later (s : State)
  | word (w : Word) (s : State)

/-- The path-C read of a wait, through the caches as any load's (R56, R91, R106, R111, R272, R273, R283): WAITGE and WAITNE need R, BARWT needs R and W as every barrier instruction does. A target that
a cut has stopped, or an earlier access of the thread that waits at one, leaves it for another try. DEDUCED, log entry 50. -/
def waitRead (k : AccKind) (s : State) (va : Word) : WaitFind :=
  let t := s.tile.id
  if windowClosed s t (.load 8 false va) then .trap { cause := .window }
  else if walkStalls s t va k s.tile.mode then .later (askData s t va k s.tile.mode)
  else match resolve s t s.tile.mode { kind := k, noDevice := true } va 8 with
    | .error e => .trap (faultTrap (accessFault k va e) false)
    | .ok (tg, s1) =>
      match blockOf s1 t va tg false, heldBehind s t with
      | .err, _ => .trap { cause := .portErr }
      | .held _, _ => .later s
      | .free, some _ => .later s
      | .free, none =>
        if targetPoisoned s1 tg then .poison
        else let r := readAt s1 tg 8; .word (BitVec.ofNat 64 r.1) (cacheTouch r.2 t va tg false)

/-- Wait until a condition on a memory word holds (R283, R284). The operands, once read, are kept while it waits. -/
def waitUntil (k : AccKind) (cond : Word → Word → Bool) (a b : BitVec 6) (s : State) : Host.Outcome State Fault Refusal :=
  run1 (do
    let q ← waitOperands a b
    let kept ← look id
    match waitRead k kept q.1 with
    | .trap i => trap i
    | .poison => stop .poison
    | .later s1 => stop (.wait .wait true [(.waitWake, [])] (some s1))
    | .word w s1 => if cond w q.2 then update (fun _ => s1) else stop (.wait .wait true [(.waitWake, [])] (some s1))) s

/-- WAITGE (R283). -/
def execWaitge (a b : BitVec 6) (s : State) : Host.Outcome State Fault Refusal := waitUntil .read (fun w v => decide (v.toNat ≤ w.toNat)) a b s
/-- WAITNE (R283). -/
def execWaitne (a b : BitVec 6) (s : State) : Host.Outcome State Fault Refusal := waitUntil .read (fun w v => w != v) a b s
/-- BARWT (R110, R284). -/
def execBarwt (a b : BitVec 6) (s : State) : Host.Outcome State Fault Refusal := waitUntil .atomic (fun w v => reached (bitsOf w 63 32) (bitsOf v 31 0)) a b s

/-- WAIT_WAKE (R94): a blocked wait of the tile reads its word again. -/
def execWaitWake (s : State) : Host.Outcome State Fault Refusal :=
  event (fun s => if s.tile.wait = some .wait then addTurn s (.thread s.tile.id) else s) s

end Sys2Proof.Machine
end

