-- ==== Sys2Proof/Machine/Streams.lean ====
section
/-! DEFINITION. Stream bindings and the stream units (R61, R181 to R184, R285 to R292). -/
namespace Sys2Proof.Machine

/- Descriptors in local scratch -/

/-- Read the doublewords of a descriptor that must lie in the local scratch (R439), after its alignment check: a short operation, which waits for its place
behind the earlier accesses of the thread that a network interface holds (R92, R118; log entry 24). -/
def localWords (va : Word) (align n : Nat) : Exec (List Word) := do
  demand (va.toNat % align == 0) (trap { cause := .align })
  let s ← look id
  let off := va.toNat % 2 ^ 20
  demand (isLocal va && decide (off + 8 * n ≤ scratchSize s.tile))
    (memTrap (mkFault 0 0 0 .read va { prot := false, sub := 6 }))
  demand (heldBehind s s.tile.id).isNone (waitHere .fence [])
  demand ((List.range n).all (fun i => !poisoned s (scratchKey s.tile.id (off + 8 * i)))) (stop .poison)
  pure ((List.range n).map (fun i => readD s (scratchKey s.tile.id (off + 8 * i))))

/-- The pattern that a stream descriptor holds (R285); none when it breaks the layout. `packed` is the format's. -/
def patternOf (d : List Word) (packed : Bool) : Option Pattern :=
  let w := fun (i : Nat) => d.getD i 0
  let dims := bitsOf (w 0) 1 0
  let c0 := bitsOf (w 2) 31 0; let c1 := bitsOf (w 2) 63 32; let c2 := bitsOf (w 3) 31 0
  let use := fun (i c : Nat) => if i < dims then c ≠ 0 else c = 0
  if dims = 0 ∨ bitsOf (w 0) 63 3 ≠ 0 ∨ bitsOf (w 3) 63 32 ≠ 0 ∨ w 7 ≠ 0 ∨ ¬ use 0 c0 ∨ ¬ use 1 c1 ∨ ¬ use 2 c2 ∨
      (dims < 2 ∧ w 5 ≠ 0) ∨ (dims < 3 ∧ w 6 ≠ 0) ∨ (packed = true ∧ w 4 ≠ 0) then none
  else some { dims := dims, base := w 1, c0 := c0, c1 := max 1 c1, c2 := max 1 c2, s0 := w 4, s1 := w 5, s2 := w 6, stage := bitOf (w 0) 2 }

/-- Is a format a 64-bit integer format? -/
def isInt64 (f : Word) : Bool := match intFmt f with | some (n, _) => n == 64 | none => false

/-- Is every base and stride in use a multiple of the element size (R286)? -/
def patternAligned (p : Pattern) (e : Nat) : Bool :=
  p.base.toNat % e == 0 && p.s0.toNat % e == 0 && (p.dims < 2 || p.s1.toNat % e == 0) && (p.dims < 3 || p.s2.toNat % e == 0)

/-- Wait until an output stream has performed its elements, raising a held fault (R45, R286, R290). -/
def awaitOutput (r : Nat) : Exec Unit := do
  let q ← look (fun s => s.tile.stream r)
  match q with
  | none => pure ()
  | some b =>
    match b.fault with
    | some f => memTrap f
    | none => demand (!b.out || b.held.isEmpty) (waitPoint .full [(.streamElementPerform, [r])])

/-- The exact form of a binding's format (R188, R302). -/
def exactForm (fmt : Word) (txr : Bool) : PlaneForm :=
  match intFmt fmt with
  | some (n, _) => { p := n, q := 0, b := (n : Int) - 1, rm := 0 }
  | none =>
    match floatFmt fmt txr with
    | some f => { p := f.m + 1, q := f.e, b := 1 - f.bias, rm := 0 }
    | none => { p := 47, q := 16, b := -32766, rm := 0 }

/-- Is there a command in a queue that takes elements of register `r` and lacks some of them, `n` elements being staged, or an MFORM for it? -/
def lacksElems (r : Nat) : List MCmd → Nat → Bool
  | [], _ => false
  | c :: q, n => match c, c.takes with
    | .form vk _, _ => 8 + vk == r || lacksElems r q n
    | _, some (k, m) => (k == r && decide (n < m)) || lacksElems r q (n - m)
    | _, none => lacksElems r q n

/-- Does a queued engine command that names a staging register still lack elements of it (R290, R297, R302)? -/
def stagingBusy (t : Tile) (r : Nat) : Bool := lacksElems r t.sub.waiting t.sub.staged.length

/-- The number of staged elements up to the last one that the commands of a queue take from register `r`. -/
def takenUpTo (r : Nat) (l : List MCmd) : Nat :=
  (l.foldl (fun (q : Nat × Nat) c => (q.1 + c.need, if c.takes.any (fun p => p.1 == r) then q.1 + c.need else q.2)) (0, 0)).2

/-- Staging register `r` is bound anew or unbound: what has been staged from it stays for the commands that take it, also through a cut
(DESIGN CHOICE, log entry 92). -/
def SubTile.unbind (u : SubTile) (r : Nat) : SubTile := { u with kept := max u.kept (takenUpTo r u.waiting) }

/-- SBIND and SBINDV (R286). -/
def bindRun (v : Bool) (n : BitVec 3) (a : BitVec 6) (f s : BitVec 4) (c dir : BitVec 1) (st : State) : Host.Outcome State Fault Refusal :=
  let r := n.toNat + (if v then 8 else 0)
  run1 (do
    checkOperands [.x a] []
    let va ← takeX a
    awaitOutput r
    let busy ← look (fun s => stagingBusy s.tile r)
    demand (!busy) (waitPoint .full [(.stagingElement, []), (.engineCommandFinish, [])])
    let d ← localWords va 16 8
    let t ← look (·.tile)
    let fmt := vget t.fmt f.toNat 0
    match patternOf d (fmtPacked fmt) with
    | none => illegal 8
    | some p =>
      demand (!(p.stage && (!v || dir == 1#1 || c == 1#1 || isInt64 fmt))) (illegal 8)
      demand (patternAligned p (if fmtPacked fmt then 1 else fmtBytes fmt)) (trap { cause := .align, va := some p.base })
      update (fun s0 =>
        let b : Binding :=
          { pat := p, out := dir == 1#1, fmtN := f.toNat, scaleN := if c = 1#1 then some s.toNat else none, tag := t.cfgTag
            width := storeBits (fmtBits fmt), mode := t.mode }
        let s1 := onTile s0 (fun t => { t with
          streams := smSet t.streams r b
          sub := { t.sub.unbind r with forms := if p.stage then smSet t.sub.forms r (exactForm fmt (txrOf t)) else smErase t.sub.forms r } })
        if dir = 1#1 ∨ p.stage then s1 else schedule s1 s1.tile.id [(.streamElementFetch, [r])])) st

/-- SBIND (R286). -/
def execSbind (n : BitVec 3) (a : BitVec 6) (f s : BitVec 4) (c r : BitVec 1) (st : State) : Host.Outcome State Fault Refusal :=
  bindRun false n a f s c r st
/-- SBINDV (R286). -/
def execSbindv (n : BitVec 3) (a : BitVec 6) (f s : BitVec 4) (c r : BitVec 1) (st : State) : Host.Outcome State Fault Refusal :=
  bindRun true n a f s c r st

/-- The stream number of an S-format register. -/
def streamNo (v : BitVec 1) (n : BitVec 3) : Nat := n.toNat + (if v = 1#1 then 8 else 0)

/-- SDRAIN (R290). -/
def execSdrain (v : BitVec 1) (n : BitVec 3) (s : State) : Host.Outcome State Fault Refusal :=
  run1 (do
    let r := streamNo v n
    awaitOutput r
    let busy ← look (fun s => stagingBusy s.tile r)
    demand (!busy) (waitPoint .full [(.stagingElement, []), (.engineCommandFinish, [])])
    updateTile (fun t => { t with streams := smErase t.streams r, sub := t.sub.unbind r })) s

/-- Does the engine hold a fault that it met at an element of staging register `r` (R310)? -/
def SubTile.heldAt (u : SubTile) (r : Nat) : Bool := u.held.any (fun f => bitsOf f.info 15 13 == 2 && bitsOf f.info 23 16 == r)

/-- The status word of SSTAT (R291); `fault` says that the next element to be read faults where the engine reads the stream. -/
def sstatWord (b : Option Binding) (fault : Bool) : Word :=
  match b with
  | none => 0
  | some b =>
    at_ 32 (b.count % 2 ^ 32) ||| at_ 12 b.fmtN ||| at_ 8 (b.scaleN.getD 0) ||| at_ 7 (if b.scaleN.isSome then 1 else 0) |||
      at_ 6 (if !b.out && (((b.ahead.head?).bind (·.fault)).isSome || (b.pat.stage && fault)) then 1 else 0) ||| at_ 5 (if b.pos.done then 1 else 0) |||
      at_ 4 (if b.pat.stage then 1 else 0) ||| at_ 3 (if b.out then 1 else 0) ||| at_ 2 1

/-- SSTAT (R291): a held output-stream fault is raised. -/
def execSstat (v : BitVec 1) (n : BitVec 3) (d : BitVec 6) (s : State) : Host.Outcome State Fault Refusal :=
  run1 (do
    checkOperands [] [.x d]
    let t ← look (·.tile)
    let b := t.stream (streamNo v n)
    match b.bind (·.fault) with
    | some f => memTrap f
    | none => pure ()
    giveX d (sstatWord b (t.sub.heldAt (streamNo v n)))) s

/-- Close the current instance of dimension `lvl` (R292). -/
def eosPos (p : Pattern) (lvl : Nat) (q : Pos) : Pos :=
  if q.done then q
  else if lvl = 7 ∨ p.dims ≤ lvl then { q with done := true }
  else if lvl = 1 then
    (if q.i0 = 0 then q
     else stepPos p { q with i0 := p.c0 - 1 })
  else
    (if q.i0 = 0 ∧ q.i1 = 0 then q
     else stepPos p { q with i0 := p.c0 - 1, i1 := p.c1 - 1 })

/-- EOS (R292). -/
def execEos (v : BitVec 1) (n l : BitVec 3) (s : State) : Host.Outcome State Fault Refusal :=
  run1 (do
    let r := streamNo v n
    let q ← look (fun s => s.tile.stream r)
    match q with
    | none => illegal 4
    | some b =>
      demand (b.out && !b.pat.stage) (illegal 4)
      match b.fault with
      | some f => memTrap f
      | none => updateTile (fun t => t.updStream r (fun c => { c with pos := eosPos c.pat l.toNat c.pos }))) s

/- The stream units -/

/-- What a stream unit meets at an element's address; `held` names the tile whose network interface does not take it now (R143, R369), and `gone` is an
element of a port that a sealed tile discards (R389). -/
inductive Reach where
  | ok (tg : Target) (s : State)
  | fault (f : MemFault)
  | wait
  | held (u : Nat)
  | refused
  | poison
  | gone (s : State)

/-- Does a bank token let a binding reach a scratch target (R61)? -/
def bankOpen (s : State) (tag : BitVec 16) (tg : Target) : Bool :=
  match tg with
  | .scratch u off => let o := vget (getTile s u).bankToken (off / 65536) 0; o == 0 || o == tag
  | _ => true

/-- Reach an element of a binding of the current tile (R45, R61, R286): ORIGIN 2 for an input, 3 for an output. A WINDOW or a PORTERR keeps
the same information for R291, and loads none. -/
def reachElem (s : State) (r : Nat) (b : Binding) (k : AccKind) (va : Word) (size idx : Nat) : Reach :=
  let t := s.tile.id
  let at_ := mkFault (if k = .read then 2 else 3) r idx k va
  if windowClosed s t (.load size false va) then .fault { at_ { prot := false, sub := 0 } with cause := .window, loads := false }
  else match resolve s t b.mode { kind := k, noDevice := true } va size with
    | .error e => .fault (if e.1 then { cause := .align, va := va } else at_ e.2)
    | .ok (tg, s1) =>
      match blockOf s1 t va tg false with
      | .err => .fault { at_ { prot := false, sub := 0 } with cause := .portErr, loads := false }
      | .held u => .held u
      | .free =>
        if !bankOpen s1 b.tag tg then
          (match tg with
           | .scratch u _ => if u = t then .wait else .refused
           | _ => .wait)
        else if k = .read && targetPoisoned s1 tg then .poison
        else .ok tg (atHome s1 tg (k != .read))

/-- The state that a refused element access leaves (R40); a sealed tile counts what it discards (R389). -/
def elemFaultState (s : State) (b : Binding) (k : AccKind) (va : Word) (size : Nat) : State :=
  if windowClosed s s.tile.id (.load size false va) then s
  else match resolve s s.tile.id b.mode { kind := k, noDevice := true } va size with
    | .error e => afterFault s s.tile.id b.mode k va e
    | .ok (tg, s1) => dropAt s1 ((servedBy s1 s.tile.id va tg false).getD s.tile.id)

/-- Must an element access wait for an output element of the tile in the same sector that was accepted before it (R98)? -/
def behindElem (s : State) (va : Word) (seq : Nat) : Bool :=
  s.tile.streams.any (fun e => e.2.held.any (fun o => decide (o.seq < seq) && sectorOf s s.tile.id o.va == sectorOf s s.tile.id va))

/-- STREAM_ELEMENT_FETCH (R287) of stream argument 0: fetch the next element ahead, or keep the fault met at it. A tile that a cut has stopped fetches none
(R369). -/
def fetchElem (s : State) : State :=
  let r := argAt s 0
  match s.tile.stream r with
  | none => s
  | some b =>
    if s.tile.cutMarked || b.out || b.pat.stage || b.refused || b.fetchPos.done || decide (64 ≤ b.ahead.length) || b.ahead.any (fun e => e.fault.isSome) then s
    else
      let a := elemAddr b.pat b.width b.fetchPos
      let size := max 1 (b.width / 8)
      if behindElem s a.1 s.tile.outSeq then again s .streamElementFetch
      else if walkStalls s s.tile.id a.1 .read b.mode then again (askData s s.tile.id a.1 .read b.mode) .streamElementFetch
      else match reachElem s r b .read a.1 size (elemIndex b.pat b.fetchPos) with
      | .fault f => onTile (elemFaultState s b .read a.1 size) (fun t => t.updStream r (fun c =>
          { c with ahead := c.ahead ++ [{ at_ := b.fetchPos, fault := some f }] }))
      | .wait | .gone _ => again s .streamElementFetch
      | .held u => deferStep s u .streamElementFetch
      | .refused =>
        schedule (onTile s (fun t => t.updStream r (fun c => { c with refused := true }))) s.tile.id [(.streamBankRetry, [r])]
      | .poison => sealTile s s.tile.id
      | .ok tg s1 =>
        let q := readAt s1 tg size
        let raw := q.1 / 2 ^ a.2 % 2 ^ b.width
        let s2 := onTile q.2 (fun t => t.updStream r (fun c =>
          { c with ahead := c.ahead ++ [{ raw := raw, at_ := b.fetchPos }], fetchPos := stepPos b.pat b.fetchPos }))
        again s2 .streamElementFetch

/-- STREAM_ELEMENT_FETCH (R287). -/
def execStreamElementFetch (s : State) : Host.Outcome State Fault Refusal := event (takeTurn .streamElementFetch fetchElem) s

/-- Write one element to what it reaches: a packed element changes its own bits only (R181, R287). -/
def writeElemAt (s : State) (tg : Target) (e : OutElem) : State :=
  if e.width < 8 then
    let old := (readAt s tg 1).1
    let cleared := old - (old / 2 ^ e.bitOff % 2 ^ e.width) * 2 ^ e.bitOff
    writeAt s tg 1 (cleared + e.raw % 2 ^ e.width * 2 ^ e.bitOff)
  else writeAt s tg (e.width / 8) (e.raw % 2 ^ e.width)

/-- STREAM_ELEMENT_PERFORM (R287) of stream argument 0: write the oldest accepted element, or stop at its fault. -/
def performElem (s : State) : State :=
  let r := argAt s 0
  match s.tile.stream r with
  | none => s
  | some b =>
    match b.held with
    | [] => s
    | e :: rest =>
      if !b.out || b.fault.isSome || b.refused then s
      else if behindElem s e.va e.seq then again s .streamElementPerform
      else if walkStalls s s.tile.id e.va .write b.mode then again (askData s s.tile.id e.va .write b.mode) .streamElementPerform
      else
        match reachElem s r b .write e.va (max 1 (e.width / 8)) e.idx with
        | .fault f => onTile (elemFaultState s b .write e.va (max 1 (e.width / 8))) (fun t => t.updStream r (fun c => { c with fault := some f }))
        | .wait | .gone _ => again s .streamElementPerform
        | .held u => deferStep s u .streamElementPerform
        | .refused =>
          schedule (onTile s (fun t => t.updStream r (fun c => { c with refused := true }))) s.tile.id [(.streamBankRetry, [r])]
        | .poison => sealTile s s.tile.id
        | .ok tg s1 =>
          let s2 := onTile (writeElemAt s1 tg e) (fun t => t.updStream r (fun c => { c with held := rest }))
          if rest.isEmpty then s2 else again s2 .streamElementPerform

/-- STREAM_ELEMENT_PERFORM (R287). -/
def execStreamElementPerform (s : State) : Host.Outcome State Fault Refusal := event (takeTurn .streamElementPerform performElem) s

/-- STREAM_BANK_RETRY (R61): a refused remote access of stream argument 0 is sent again. -/
def execStreamBankRetry (s : State) : Host.Outcome State Fault Refusal :=
  event (fun s =>
    let r := argAt s 0
    match s.tile.stream r with
    | some b =>
      if b.refused then
        schedule (onTile s (fun t => t.updStream r (fun c => { c with refused := false }))) s.tile.id
          [(if b.out then .streamElementPerform else .streamElementFetch, [r])]
      else s
    | none => s) s

/-- STREAM_RESUME (R46): stream argument 0 continues at its faulting element. -/
def execStreamResume (s : State) : Host.Outcome State Fault Refusal :=
  event (supervised .streamResume (fun s =>
    let r := argAt s 0
    match s.tile.stream r with
    | none => s
    | some b =>
      let good := b.ahead.filter (fun e => e.fault.isNone)
      let place := ((b.ahead.find? (fun e => e.fault.isSome)).map (·.at_)).getD b.fetchPos
      schedule (onTile s (fun t => t.updStream r (fun c => { c with ahead := good, fetchPos := place, fault := none }))) s.tile.id
        [(if b.out then .streamElementPerform else .streamElementFetch, [r])])) s

/-- The steps that resume what stopped at a fault, when a trap returns (R45, R46, R310). -/
def resumeSteps (t : Tile) : List (Instr × List Nat) :=
  (t.streams.filter (fun e => e.2.fault.isSome || e.2.ahead.any (fun a => a.fault.isSome))).map (fun e => (.streamResume, [e.1])) ++
    (if t.sub.held.isSome then [(.matrixFaultResume, [])] else []) ++
    (match t.sw.st with
     | .fetchFault _ => [(.switchWordFetch, [])]
     | _ => [])

end Sys2Proof.Machine
end

