-- ==== Sys2Proof/Machine/Messages.lean ====
section
/-! DEFINITION. Messages and handlers (R141 to R144, R324 to R328, R364, R365, R381): MSG, the NI send queue, arrivals, HRET, HSET,
HMASK and handler selection. -/
namespace Sys2Proof.Machine

/- The inbox -/

/-- Bytes of the inbox messages queued under channel 0, or under the others (R143). -/
def inboxBytes (l : List InMsg) (zero : Bool) : Nat :=
  (l.filter (fun m => (m.chan == 0) == zero)).foldl (fun a m => a + 8 * m.words.length) 0

/-- Has the inbox room for a message of `n` bytes (R143)? Channel 0 has 512 bytes of its own beside the 3,584 that all share. -/
def inboxRoom (l : List InMsg) (zero : Bool) (n : Nat) : Bool :=
  let a := inboxBytes l false
  let b := inboxBytes l true
  if zero then decide (a + (b + n - 512) ≤ 3584) else decide (a + (b - 512) + n ≤ 3584)

/-- The channel under which an arriving message is queued, and whether it is redirected (R144). -/
def Tile.arrivalChannel (t : Tile) (c : Nat) : Nat × Bool :=
  if t.htValid c || t.htPending c then (c, false) else (0, true)

/-- Is an incarnation `i` earlier than the held value `h` (R381)? -/
def stale (h i : Nat) : Bool :=
  let d := (h + 2 ^ 16 - i % 2 ^ 16) % 2 ^ 16
  decide (1 ≤ d ∧ d ≤ 32767)

/-- The fields over which the routes of a tile's partition were fixed (R19). -/
def routeMask (s : State) (t : Nat) : BitVec 48 :=
  match partOfTile s t with
  | some p => (getPart s p).fields &&& (getPart s p).present
  | none => 0

/-- Send a message toward a tile: it enters the network on its fixed route (R19), and its arrival is scheduled. -/
def inject (s : State) (m : OutMsg) : State :=
  scheduleAt { s with net := s.net ++ [{ m with mask := routeMask s m.src }] } m.tile .messageArrival []

/-- A report on channel 0 (R365). -/
def reportWords (inc kind cause w3 w4 w5 : Word) : List Word :=
  [(at_ 48 (bitsOf inc 15 0) ||| at_ 32 0xFFFF ||| at_ 16 6), kind, cause, w3, w4, w5]

/-- Send a report to a tile (R365). -/
def sendReport (s : State) (tile : Nat) (kind cause w3 w4 w5 : Word) : State :=
  let f := fieldOf tile
  inject s { tile := tile, field := f, src := tile, words := reportWords (BitVec.ofNat 64 (getField s f).inc) kind cause w3 w4 w5 }

/-- What the network interface of the current tile does with a message (R144, R381, R389): dropped by its incarnation, discarded at a sealed tile,
queued, or none for want of room (R143). -/
def deliver (s : State) (m : OutMsg) : Option State :=
  let t := s.tile
  let h := m.words.headD 0
  if stale (smGet 0 (getField s (fieldOf t.id)).incTable m.field) (bitsOf h 63 48) then
    some (updField s (fieldOf t.id) (fun f => { f with incDrop := f.incDrop + 1 }))
  else if t.run = .killed then some (sealDrop s t.id)
  else
    let (c, redir) := t.arrivalChannel (bitsOf h 5 0)
    if inboxRoom t.inbox (c == 0) (8 * m.words.length) then
      some (onTile s (fun u => { u with inbox := u.inbox ++ [{ chan := c, redir := redir, words := m.words }] }))
    else none

/-- Is a message at the tile it goes to? One whose route has an edge that is closed now waits there (R14, R380). -/
def hasArrived (s : State) (m : OutMsg) : Bool := m.tile == s.tile.id && (messageEdge s m).isNone

/-- The messages of the network that have reached the current tile join its ring, in arrival order, behind what the ring holds (R143, R369). -/
def takeIn (s : State) : State :=
  let s1 := { onTile s (fun t => { t with ring := t.ring ++ (s.net.filter (hasArrived s)).map .msg }) with net := s.net.filter (fun m => !hasArrived s m) }
  if s1.net.any (fun m => m.tile == s.tile.id) then again s1 .messageArrival else s1

/-- MESSAGE_ARRIVAL (R143, R144, R369): the message that reached the tile first is taken. A cut keeps it for the replay; one without room is held, and
with it every request that arrives after it. -/
def arrival (s : State) : State :=
  let s0 := takeIn s
  match s0.tile.ring with
  | .msg m :: r =>
    if s.tile.cutMarked then s0
    else match deliver (onTile s0 (fun t => { t with ring := r })) m with
      | some s1 => nextHeld s1 s.tile.id
      | none => again s0 .messageArrival
  | _ :: _ => if s.tile.cutMarked then s0 else nextHeld s0 s.tile.id
  | [] => s0

/-- MESSAGE_ARRIVAL (R144). -/
def execMessageArrival (s : State) : Host.Outcome State Fault Refusal := event arrival s

/- Sending -/

/-- Doublewords in the NI send queue (R325). -/
def sendUsed (q : List OutMsg) : Nat := q.foldl (fun a m => a + m.words.length) 0

/-- MSG (R325). DEDUCED, log entry 56. -/
def execMsg (a b c : BitVec 6) (u : BitVec 1) (h : BitVec 6) (s : State) : Host.Outcome State Fault Refusal :=
  run1 (do
    checkOperands [.x a, .x b, .x c] []
    let ws ← takeXs [a, b, c]
    let dest := (ws.getD 0 0).toNat
    let p := ws.getD 1 0
    let n := (ws.getD 2 0).toNat
    demand (decide (n ≤ 63)) (illegal 5)
    demand (p.toNat % 8 == 0) (trap { cause := .align })
    let st ← look id
    let t := st.tile
    let off := p.toNat % 2 ^ 20
    demand (isLocal p && decide (off < scratchSize t ∧ off + 8 * n ≤ scratchSize t))
      (memTrap (mkFault 0 0 0 .read p { prot := false, sub := 6 }))
    let part := partNo st t.id
    demand (decide (dest < tileCount st part)) (memTrap (mkFault 0 0 0 .write (ws.getD 0 0) { prot := false, sub := 4 }))
    demand (!(routeClosed st t.id (rankSeen st t.id part dest).tile)) (trap { cause := .window })
    demand (decide (sendUsed t.sendQ + n + 1 ≤ 128)) (waitPoint .full [(.msgInject, [])])
    let payload ← localWords p 8 n
    let hdr := at_ 32 (rankOf st t.id) ||| at_ 16 (n + 1) ||| at_ 14 u.toNat ||| at_ 13 (if txrOf t then 1 else 0) ||| at_ 0 h.toNat
    update (fun s0 =>
      let m : OutMsg := { dest := dest, field := fieldOf t.id, part := part, words := hdr :: payload, src := t.id }
      let s1 := onTile s0 (fun t => ({ t with sendQ := t.sendQ ++ [m] }).count (if t.intr.isSome then 16 else 9) ((n + 3) / 4))
      schedule s1 t.id [(.msgInject, [])])) s

/-- MSG_INJECT (R325): the oldest message whose rank is not in transit enters the network, once the path-C accesses before it are
performed. A long access whose answer was a fault, and which its replay will perform (R137), holds back no message (DESIGN CHOICE, log entry 88). The
network interface uses its copy of the rank's entry, fetched on a miss (R16, R359). -/
def injectHead (s : State) : State :=
  let t := s.tile
  let entry := fun (m : OutMsg) => rankSeen s t.id m.part m.dest
  if t.sendQ.isEmpty then s
  else if t.longBuf.any (fun e => e.res == .pending && (match e.op with | .mr _ _ _ _ => false | _ => true)) then again s .msgInject
  else match takeFirst (fun m => !(entry m).transit) t.sendQ with
    | none => again s .msgInject
    | some (m, rest) =>
      let inc := (getField s (fieldOf t.id)).inc
      let words := match m.words with
        | h :: p => putBits h 48 16 inc :: p
        | [] => []
      let s1 := inject (rankFill (onTile s (fun u => { u with sendQ := rest })) t.id m.dest) { m with tile := (entry m).tile, words := words }
      if rest.isEmpty then s1 else again s1 .msgInject

/-- A supervisor core of field argument 0 sends a message to the tile at physical coordinate argument 1, on channel argument 2, with the doublewords that
follow, where it may (R379). Its header names rank 0xFFFF, as that of a report does (R365; DESIGN CHOICE, log entry 87). -/
def supSend (s : State) : State :=
  let f := argAt s 0
  let ws := (s.arg.drop 3).map (BitVec.ofNat 64)
  let hdr := at_ 48 (getField s f).inc ||| at_ 32 0xFFFF ||| at_ 16 (ws.length + 1) ||| at_ 0 (argAt s 2)
  let m : OutMsg := { tile := argAt s 1, field := f, src := argAt s 1, words := hdr :: ws, sup := true }
  if decide (argAt s 2 < 64) && decide (ws.length < 64) && fieldPresent s f && fieldPresent s (fieldOf (argAt s 1)) && supOpen s m then inject s m else s

/-- MSG_INJECT (R325, R379): the oldest message of the tile's send queue; with arguments, a message of a supervisor core. -/
def execMsgInject (s : State) : Host.Outcome State Fault Refusal := event (fun s => if s.arg.isEmpty then injectHead s else supSend s) s

/- Handlers -/

/-- Issue recorded operations again (R137, R363, R364): each is performed, and the park that follows commits it. DEDUCED, log entry 61. -/
def reissue (s : State) : List LongEntry → State
  | [] => s
  | e :: r =>
    let p := perform s s.tile.id e.mode e.op
    let k := s.tile.longBuf.length
    let s1 := onTile p.st (fun t => { t with longBuf := t.longBuf ++ [{ e with op := p.op, res := p.res, returned := false }], parkNext := true })
    reissue (schedule s1 s1.tile.id [(.longResultReturn, [k])]) r

/-- A handler ends (R128, R141, R326): its message leaves the inbox, and the thread's context returns. -/
def Tile.endHandler (t : Tile) (h : Interrupted) : Tile :=
  let u := if h.report then { t with report := none }
    else { t with inbox := match t.handlerMsg h with
      | some _ => t.inbox.filter (fun m => !m.sel)
      | none => t.inbox }
  { u.setUpper h.bank with intr := none, loops := h.loops, pc := h.pc }

/-- The resume of a thread whose trap was passed (R364). -/
def resumePassed (s : State) : State :=
  let t := s.tile
  reissue { s with tile := { t with trapCause := t.trapCause &&& ~~~0x8000000#64, pc := t.passPc, passPc := 0, passed := [] } } t.passed

/-- HRET (R326, R364): another handler that can be selected starts at once. -/
def execHret (s : State) : Host.Outcome State Fault Refusal :=
  run 1 (do
    let t ← look (·.tile)
    match t.intr with
    | none => illegal 2
    | some h =>
      demand (bitsOf t.trapCause 3 0 == 0) (illegal 2)
      parkFirst
      update (fun s0 =>
        let s1 := { s0 with tile := t.endHandler h }
        let s2 := if h.report && bitOf t.trapCause 27 then schedule (resumePassed s1) t.id (resumeSteps t) else s1
        if s2.tile.longBuf.isEmpty && bitsOf s2.tile.trapCause 3 0 == 0 then { s2 with tile := s2.tile.select.getD s2.tile } else s2)
      pure true) s

/-- HANDLER_SELECT (R141): at an interruption point, the handler of the highest-priority runnable channel starts. -/
def execHandlerSelect (s : State) : Host.Outcome State Fault Refusal :=
  match selectStep s with
  | some s' => .next s'
  | none => event id s

/-- Write the fields of a handler-table entry (R140). -/
def Tile.setHt (t : Tile) (c : Nat) (w : Word) : Tile := { t with htCtl := vset t.htCtl c w }

/-- HSET (R327): the entry is PENDING until HSET_PENDING_CLEAR, three cycles on; the two cycles after the first count under STALL_DEP (R138). -/
def execHset (a b c : BitVec 6) (s : State) : Host.Outcome State Fault Refusal :=
  run1 (do
    checkOperands [.x a, .x b, .x c] []
    let ws ← takeXs [a, b, c]
    let ch := (ws.getD 0 0).toNat
    let e := ws.getD 1 0
    let w := ws.getD 2 0
    demand (decide (ch ≤ 63)) (illegal 5)
    demand (w &&& ~~~0xA3#64 == 0) (illegal 7)
    demand (ch != 0 || bitOf w 7) (illegal 7)
    demand (e.toNat % 4 == 0) (trap { cause := .align })
    update (fun s0 =>
      let s1 := onTile s0 (fun t => { t.setHt ch (w ||| 0x40#64) with htPc := vset t.htPc ch e }.count (if t.intr.isSome then 16 else 9) 2)
      schedule s1 s1.tile.id [(.hsetPendingClear, [ch])])) s

/-- When an entry is no longer PENDING and is not VALID, the messages queued under it go to channel 0 (R144); the message of a
running handler stays. -/
def Tile.redirect (t : Tile) (c : Nat) : Tile :=
  { t with inbox := t.inbox.map (fun m => if m.chan = c ∧ !m.sel then { m with chan := 0, redir := true } else m) }

/-- HSET_PENDING_CLEAR (R327) of channel argument 0: RUN of the channel and of channel 0 follow the entry now in force.
DEDUCED, log entry 62. -/
def execHsetPendingClear (s : State) : Host.Outcome State Fault Refusal :=
  event (fun s =>
    let c := argAt s 0
    if s.tile.htPending c then
      onTile s (fun t =>
        let u := t.setHt c (vget t.htCtl c 0 &&& ~~~0x40#64)
        if u.htValid c then u else u.redirect c)
    else s) s

/-- HMASK (R328). -/
def execHmask (a b : BitVec 6) (s : State) : Host.Outcome State Fault Refusal :=
  run1 (do
    checkOperands [.x a, .x b] []
    let ws ← takeXs [a, b]
    let ch := (ws.getD 0 0).toNat
    let v := (ws.getD 1 0).toNat
    demand (decide (ch ≤ 63) && decide (v ≤ 1)) (illegal 5)
    updateTile (fun t => t.setHt ch (putBits (vget t.htCtl ch 0) 5 1 v))) s

end Sys2Proof.Machine
end

