-- ==== Sys2Proof/Machine/Copies.lean ====
section
/-! DEFINITION. Copies (06_copies.md, R114 to R127, R293): the descriptor, the checks at issue, the cut into pieces by the lead spout, the pieces at
their spouts, sectors and their order (R98), counting, faults. -/
namespace Sys2Proof.Machine

/- The descriptor -/

/-- A doubleword of a descriptor. -/
def dw (d : List Word) (i : Nat) : Word := d.getD i 0

/-- Does a descriptor break R119, or name another FORM than its instruction (R293)? -/
def copyBad (form : Nat) (d : List Word) : Bool :=
  let c := dw d 0
  let f := bitsOf c 1 0
  let size := dw d 4
  f != form || f == 3 || bitsOf c 63 4 != 0 || dw d 9 != 0 || (dw d 3).toNat % 8 != 0 ||
  (match f with
   | 0 => dw d 5 != 0 || dw d 6 != 0 || dw d 7 != 0 || dw d 8 != 0 || decide (2 ^ 40 < size.toNat)
   | 1 => bitsOf size 31 0 == 0 || bitsOf size 63 32 == 0
   | _ => dw d 7 != 0 || dw d 8 != 0 || bitsOf size 31 0 == 0 || decide (2 ^ 20 < bitsOf size 31 0) || bitsOf size 63 32 == 0 ||
            (dw d 5).toNat % (if bitOf c 3 then 8 else 4) != 0)

/-- The rows that a copy writes: first and one past the last (R120). The clip box's numbers are unsigned (DESIGN CHOICE, log entry 73). -/
def copyRows (d : List Word) : Nat × Nat :=
  match bitsOf (dw d 0) 1 0 with
  | 0 => (0, if (dw d 4).toNat = 0 then 0 else 1)
  | 1 => (bitsOf (dw d 8) 31 0, min (bitsOf (dw d 8) 63 32) (bitsOf (dw d 4) 63 32))
  | _ => (0, bitsOf (dw d 4) 63 32)

/-- The byte columns of every row: first and one past the last (R120). The clip box's numbers are unsigned (DESIGN CHOICE, log entry 73). -/
def copyCols (d : List Word) : Nat × Nat :=
  match bitsOf (dw d 0) 1 0 with
  | 0 => (0, (dw d 4).toNat)
  | 1 => (bitsOf (dw d 7) 31 0, min (bitsOf (dw d 7) 63 32) (bitsOf (dw d 4) 31 0))
  | _ => (0, bitsOf (dw d 4) 31 0)

/-- The lowest and highest byte of an extent, without reduction modulo 2^64 (R114); none when no byte is touched. -/
def extent (d : List Word) (base stride : Word) : Option (Int × Int) :=
  let r := copyRows d
  let c := copyCols d
  if r.2 ≤ r.1 ∨ c.2 ≤ c.1 then none
  else
    let st : Int := if bitsOf (dw d 0) 1 0 = 0 then 0 else stride.toInt
    let p : Int := r.1 * st
    let q : Int := (r.2 - 1 : Nat) * st
    some ((base.toNat : Int) + min p q + c.1, (base.toNat : Int) + max p q + (c.2 - 1 : Nat))

/-- The kind of a region, to compare the two ends of an extent. -/
def regionKind : Region → Nat
  | .global => 0 | .code => 1 | .owner _ => 2 | .place _ _ => 3 | .device => 4 | .descr _ => 4 | .localScr _ => 5

/-- The check of an extent (R114): a fault of the issuing access, if any. An extent with a byte in no canonical half is NONCANON before anything
else is RESWIN (R41). DEDUCED, log entry 55. -/
def extentErr (s : State) (t : Nat) (e : Option (Int × Int)) : Option XErr :=
  match e with
  | none => none
  | some (lo, hi) =>
    let x := fun (sub : Nat) => some ({ prot := false, sub := sub } : XErr)
    if lo < 0 ∨ (2 ^ 64 : Int) ≤ hi then x 1
    else if lo < (0xFF00000000000000 : Int) ∧ (2 ^ 56 : Int) ≤ hi then x 0
    else
      match regionOf (BitVec.ofInt 64 lo), regionOf (BitVec.ofInt 64 hi) with
      | .ok p, .ok q =>
        if regionKind p ≠ regionKind q then x 1
        else match p, q with
          | .place r _, .place r2 _ => if r ≠ r2 ∨ tileCount s (partNo s t) ≤ r then x 5 else none
          | .localScr _, .localScr off => if scratchSize (getTile s t) ≤ off then x 6 else none
          | .device, _ => some { prot := true, sub := 4 }
          | .descr _, _ => some { prot := true, sub := 4 }
          | _, _ => none
      | .error e, _ => some e
      | _, .error e => some e

/-- Check an extent at issue. DEDUCED, log entry 55. -/
def checkExtent (k : AccKind) (e : Option (Int × Int)) : Exec Unit := do
  let s ← look id
  match extentErr s s.tile.id e with
  | some x => memTrap (mkFault 0 0 0 k (BitVec.ofInt 64 ((e.map (·.1)).getD 0)) x)
  | none => pure ()

/-- The check of COUNTER at issue (R114): as for an atomic add, but for the offset of a place-window counter. -/
def checkCounter (va : Word) : Exec Unit := do
  let s ← look id
  if va = 0 then pure ()
  else match regionOf va with
    | .ok (.place rank _) =>
      demand (decide (rank < tileCount s (partNo s s.tile.id))) (memTrap (mkFault 0 0 0 .atomic va { prot := false, sub := 4 }))
    | _ =>
      match resolve s s.tile.id s.tile.mode (coreRule .atomic) va 8 with
      | .error e => memTrap (accessFault .atomic va e)
      | .ok (_, s1) => update (fun _ => s1)

/-- The lowest free copy slot (R124). -/
def freeSlot (t : Tile) : Option Nat := (List.range 32).find? (fun i => (smFind t.copies i).isNone)

/-- The number of the next copy among those of a tile (R98). -/
def nextCopy (t : Tile) : Nat := t.ownCopies.foldl (fun n e => max n (e.2.seq + 1)) 0

/-- COPY, COPYS and COPYG (R293). The wait for a free slot comes before any operand is taken (R139). -/
def copyRun (form : Nat) (a : BitVec 6) (s : State) : Host.Outcome State Fault Refusal :=
  run1 (do
    checkOperands [.x a] []
    let t ← look (·.tile)
    match freeSlot t with
    | none => waitPoint .full (t.ownCopies.flatMap copySteps)
    | some id =>
      let va ← takeX a
      let d ← localWords va 16 10
      demand (!(copyBad form d)) (illegal 8)
      if form = 2 then pure () else checkExtent .read (extent d (dw d 1) (dw d 5))
      checkExtent .write (extent d (dw d 2) (dw d 6))
      checkCounter (dw d 3)
      if form = 0 ∧ dw d 4 = 0 then pure ()
      else
        let rows := copyRows d
        let cols := copyCols d
        let c : CopySlot :=
          { desc := d, descVa := va, mode := t.mode, txr := txrOf t, seq := nextCopy t, launch := t.launch
            lead := if rows.2 ≤ rows.1 ∨ cols.2 ≤ cols.1 then none else some { row := rows.1, col := cols.1 } }
        update (fun s0 => schedule (onTile s0 (fun t => { t with copies := smSet t.copies id c })) t.id [(.copyRequestArrival, [id])])) s

/-- COPY (R293). -/
def execCopy (a : BitVec 6) (s : State) : Host.Outcome State Fault Refusal := copyRun 0 a s
/-- COPYS (R293). -/
def execCopys (a : BitVec 6) (s : State) : Host.Outcome State Fault Refusal := copyRun 1 a s
/-- COPYG (R293). -/
def execCopyg (a : BitVec 6) (s : State) : Host.Outcome State Fault Refusal := copyRun 2 a s

/- Spouts -/

/-- Change a copy slot of the current tile. -/
def updCopy (s : State) (id : Nat) (g : CopySlot → CopySlot) : State :=
  onTile s (fun t => match smFind t.copies id with
    | some c => { t with copies := smSet t.copies id (g c) }
    | none => t)

/-- The address of a source byte or of its row's first byte, which says where the source of a copy lies (R115): a gather's base, or the lowest
byte of the extent. -/
def copyBase (d : List Word) : Word :=
  if bitsOf (dw d 0) 1 0 = 2 then dw d 1 else BitVec.ofInt 64 (((extent d (dw d 1) (dw d 5)).map (·.1)).getD (dw d 1).toNat)

/-- The tile whose spout performs a copy as one piece: the one that holds the source rank of a scratch source (R115). -/
def scratchSource (s : State) (t : Nat) (d : List Word) : Option Nat :=
  match regionOf (copyBase d) with
  | .ok (.localScr _) => some t
  | .ok (.place rank _) => some (rankEntry s (partNo s t) rank).tile
  | _ => none

/-- The spout of a cistern, or of a tile. -/
def tileSpout (t : Nat) : Nat := 64 + t

/-- Does traffic between a spout, that of a cistern or of a tile, and the home of a byte stand at the edge of a field in reset (R380, R438)? What a cistern
sends enters the network at the edge tile for its destination. -/
def spoutHeld (s : State) (t spout key : Nat) : Bool :=
  let mask := presentFor s t
  if key < 2 ^ 52 then
    match cisternOf s key with
    | none => false
    | some (d, _) =>
      if 64 ≤ spout then trafficHeld s mask (spout - 64) (edgeTile d (spout - 64))
      else d != spout && trafficHeld s mask (edgeTiles spout d).1 (edgeTiles spout d).2
  else
    let u := (key - 2 ^ 52) / 2 ^ 20
    if 64 ≤ spout then u != spout - 64 && trafficHeld s mask (spout - 64) u else trafficHeld s mask (edgeTile spout u) u

/-- Must the read of a byte of another tile's scratch wait behind what that tile's network interface holds (R143)? A tile's own spout reads there. -/
def spoutWaits (s : State) (spout key : Nat) : Bool :=
  decide (2 ^ 52 ≤ key) && spout != tileSpout ((key - 2 ^ 52) / 2 ^ 20) && heldAtNi s ((key - 2 ^ 52) / 2 ^ 20)

/-- Can the request of a copy not reach its spout yet: does it stand at the edge of a field in reset, or at a network interface that takes no request
(R143, R380, R438)? -/
def requestHeld (s : State) (t : Nat) : Option Nat → Bool
  | some u => trafficHeld s (presentFor s t) t u || (u != t && heldAtNi s u)
  | none => trafficHeld s (presentFor s t) t (edgeTile (nearestCistern s t) t)

/-- COPY_REQUEST_ARRIVAL (R115): the request of copy argument 0 reaches a spout, which takes it: that of the source's tile, which performs the copy as one
piece, or that of COPY_LEAD's cistern, the lead spout. -/
def execCopyRequestArrival (s : State) : Host.Outcome State Fault Refusal :=
  event (fun s =>
    let id := argAt s 0
    let t := s.tile.id
    match smFind s.tile.copies id with
    | none => s
    | some c =>
      let src := scratchSource s t c.desc
      if c.arrived then s
      else if requestHeld s t src then again s .copyRequestArrival
      else
        let spout := (src.map tileSpout).getD (nearestCistern s t)
        let lead := c.lead.map (fun l => { l with spout := spout })
        let c1 : CopySlot := { c with
          arrived := true, lead := lead, pieces := if src.isSome && c.lead.isSome then [{ num := 0, spout := spout }] else [], made := if src.isSome then 1 else 0 }
        schedule (updCopy s id (fun _ => c1)) t (copySteps (id, c1))) s

/- Sectors of the copies of one tile (R98) -/

/-- Does some row of a range touch the 32 bytes from `x` on with its columns `c0` to `c1 - 1`, row r's column 0 being at `b + r * st`? -/
def rowsTouch (b st : Int) (c0 c1 r0 r1 : Nat) (x : Int) : Bool :=
  if c1 ≤ c0 ∨ r1 ≤ r0 then false
  else
    let lo := x - b - (c1 : Int) + 1
    let hi := x + 31 - b - (c0 : Int)
    if st = 0 then decide (lo ≤ 0 ∧ 0 ≤ hi)
    else
      let p := if 0 < st then -((-lo).fdiv st) else -(hi.fdiv (-st))
      let q := if 0 < st then hi.fdiv st else (-lo).fdiv (-st)
      decide (max p r0 ≤ min q (r1 - 1 : Nat))

/-- How far the scratch address of an extent lies from the tile's scratch as `sectorOf` counts it; other extents are counted from 2^105. -/
def sectorShift (s : State) (t : Nat) (lo : Int) : Int := (sectorOf s t (BitVec.ofInt 64 lo) : Int) * 32 - lo.fdiv 32 * 32

/-- Do the rows and columns that a copy has not yet cut into sectors touch sector `x` with its destination, or with its source (R98, R120)? The source
of a gather is known only when its index has been read. -/
def uncutTouches (s : State) (t : Nat) (c : CopySlot) (source : Bool) (x : Nat) : Bool :=
  match c.lead with
  | none => false
  | some l =>
    let d := c.desc
    let rows := copyRows d
    let cols := copyCols d
    let form := bitsOf (dw d 0) 1 0
    let base := if source then dw d 1 else dw d 2
    let st : Int := if form = 0 then 0 else if source then (dw d 5).toInt else (dw d 6).toInt
    if source && form == 2 then true
    else match extent d base (if source then dw d 5 else dw d 6) with
      | none => false
      | some (lo, _) =>
        let b : Int := (base.toNat : Int) + sectorShift s t lo
        let y : Int := (x : Int) * 32
        rowsTouch b st l.col cols.2 l.row (l.row + 1) y || rowsTouch b st cols.1 cols.2 (l.row + 1) rows.2 y

/-- Does a sector that waits at a spout touch sector `x` with its destination, or with its source? -/
def queuedTouches (s : State) (t : Nat) (c : CopySlot) (source : Bool) (x : Nat) : Bool :=
  c.pieces.any (fun p => p.queue.any (fun q =>
    if source then sectorOf s t q.src == x || sectorOf s t (q.src + BitVec.ofNat 64 (q.n - 1)) == x else sectorOf s t q.dst == x))

/-- Does a sector of a copy that waits in a network interface (R369) lie at sector `x`? -/
def NiItem.touches (u t slot x : Nat) : NiItem → Bool
  | .sector t' k _ bytes => t' == t && k == slot && bytes.any (fun b => scratchKey u b.1 / 32 == x)
  | _ => false

/-- The same of every network interface, those that lie in images among them. -/
def ringTouches (s : State) (t slot x : Nat) : Bool :=
  (allTiles s).any (fun u => (getTile s u).ring.any (NiItem.touches u t slot x)) ||
    s.images.any (fun e => e.2.tile.ring.any (NiItem.touches e.2.place t slot x))

/-- Must an access of copy `seq` of a tile wait for one that an earlier copy of it has still to make to the same sector (R98)? Two reads need no order.
DESIGN CHOICE, log entry 72. -/
def behindCopy (s : State) (t : Nat) (own : Nat → Bool) (seq x : Nat) (write : Bool) : Bool :=
  (getTile s t).copies.any (fun e => own e.1 && decide (e.2.seq < seq) &&
    (uncutTouches s t e.2 false x || queuedTouches s t e.2 false x || ringTouches s t e.1 x ||
      (write && (uncutTouches s t e.2 true x || queuedTouches s t e.2 true x))))

/-- The slots of the same task as slot `id`: those of the tile's present task, or of one task in an image (log entry 25). -/
def sameTask (id i : Nat) : Bool := i / 32 == id / 32

/- The lead spout -/

/-- The fault of a copy goes to the supervisor of the issuing tile's field (R49, R125). -/
def supFault (s : State) (t : Nat) (f : MemFault) : State :=
  updField s (fieldOf t) (fun u => { u with supQ := u.supQ ++ [(f.va, f.info)] })

/-- The record of the image in which the task of a copy lies, with its key: a slot from 32 up belongs to such a task (R124, R369; log entry 25). -/
def copyImage (s : State) (id : Nat) : Option (Nat × Saved) :=
  if id < 32 then none else s.images.find? (fun e => e.2.place == s.tile.id && e.2.base == id / 32 * 32)

/-- Does a copy reach its task's own scratch, which a record holds by now (R124, R369)? It waits until the task goes on. -/
def imagedScratch (s : State) (id : Nat) (va : Word) : Bool :=
  isLocal va && (decide (32 ≤ id) || s.tile.cutOf.any (fun c => (smGet {} s.cuts c).saved.contains s.tile.id))

/-- A copy report goes to the issuing task (R123, R125, R126): where the task lies in an image, it waits there with what its network interface holds. -/
def taskReport (s : State) (id : Nat) (kind cause w3 w4 w5 : Word) : State :=
  if id < 32 then sendReport s s.tile.id kind cause w3 w4 w5
  else match copyImage s id with
  | none => s
  | some (key, _) =>
    let f := fieldOf s.tile.id
    putHeld s (.msg { tile := s.tile.id, field := f, src := s.tile.id, words := reportWords (BitVec.ofNat 64 (getField s f).inc) kind cause w3 w4 w5 }) (.image key)

/-- The home addresses of the source bytes of one sector, or the fault of the first that has one (R46, R115). -/
def copyHomes (s : State) (t : Nat) (m : Mode) (idx : Nat) (va : Word) : Nat → Except MemFault (List Nat) × State
  | 0 => (.ok [], s)
  | n + 1 =>
    match resolve s t m { kind := .read, noDevice := true } va 1 with
    | .error e => (.error (mkFault 5 0 idx .read (va &&& ~~~31#64) e.2), afterFault s t m .read va e)
    | .ok (tg, s1) => let q := copyHomes s1 t m idx (va + 1) n; (q.1.map (fun l => (targetKey tg).getD 0 :: l), q.2)

/-- The address of a destination sector and its bytes (R120, R122). -/
def sectorDst (d : List Word) (row col : Nat) : Word × Nat :=
  let dst := dw d 2 + (if bitsOf (dw d 0) 1 0 = 0 then 0 else BitVec.ofNat 64 row * dw d 6) + BitVec.ofNat 64 col
  (dst, min (32 - dst.toNat % 32) ((copyCols d).2 - col))

/-- The next place after one destination sector of `n` bytes; none past the last row. -/
def nextPlace (d : List Word) (row col n : Nat) : Option (Nat × Nat) :=
  let cols := copyCols d
  if col + n < cols.2 then some (row, col + n)
  else if row + 1 < (copyRows d).2 then some (row + 1, cols.1)
  else none

/-- The lead goes on, or the copy has been cut whole and its last piece takes no further sector. -/
def moveLead (c : CopySlot) (l : CopyLead) (next : Option (Nat × Nat)) : CopySlot :=
  match next with
  | some (r, k) => { c with lead := some { l with row := r, col := k, ix := if r = l.row then l.ix else none } }
  | none => { c with lead := none, pieces := c.pieces.map (fun p => { p with closed := true }) }

/-- The lead stops at a fault of a source sector (R125): that sector and what follows it have reached no piece. -/
def stopLead (s : State) (id : Nat) (l : CopyLead) (f : MemFault) : State :=
  let s1 := updCopy s id (fun c => { c with lead := some { l with fault := some f } })
  schedule (supFault s1 s.tile.id f) s.tile.id (((smFind s1.tile.copies id).map (fun c => c.pieces.map (fun p => (Instr.spoutSector, [id, p.num])))).getD [])

/-- The index of a gather's row (R120), read once, on path Y: a stop, a wait, or the index; `none` inside is the skip value. -/
inductive IndexFind where
  | fault (f : MemFault) (s : State)
  | poison
  | later (s : State)
  | index (ix : Option Nat) (s : State)

/-- Read the index of row `row` (R83, R120) at a spout. It waits for an earlier copy's access (R98), the walker (R43), a field in reset (R380) or another
tile's network interface (R143). -/
def readIndex (s : State) (id : Nat) (c : CopySlot) (spout row idx : Nat) : IndexFind :=
  let t := s.tile.id
  let w := if bitOf (dw c.desc 0) 3 then 8 else 4
  let ia := dw c.desc 5 + BitVec.ofNat 64 (w * row)
  if imagedScratch s id ia || behindCopy s t (sameTask id) c.seq (sectorOf s t ia) false then .later s
  else if walkStalls s t ia .read c.mode then .later (askData s t ia .read c.mode)
  else match resolve s t c.mode { kind := .read, noDevice := true } ia w with
    | .error e => .fault (mkFault 5 0 idx .read (ia &&& ~~~31#64) e.2) (afterFault s t c.mode .read ia e)
    | .ok (tg, s1) =>
      if spoutHeld s1 t spout ((targetKey tg).getD 0) || spoutWaits s1 spout ((targetKey tg).getD 0) then .later s
      else if targetPoisoned s1 tg then .poison
      else
        let r := readAt (atHome s1 tg false) tg w
        .index (if r.1 = 2 ^ (8 * w) - 1 then none else some r.1) r.2

/-- A sector joins the piece of its cistern (R115): the open piece, or a new one where the cistern changes. -/
def addSector (c : CopySlot) (cis spout : Nat) (q : CopySector) : CopySlot × Nat :=
  match c.pieces.find? (fun p => !p.closed) with
  | some p =>
    if p.cistern = cis then ({ c with pieces := c.pieces.map (fun u => if u.num = p.num then { u with queue := u.queue ++ [q] } else u) }, p.num)
    else ({ c with made := c.made + 1, pieces := c.pieces.map (fun u => { u with closed := true }) ++
        [{ num := c.made, spout := spout, cistern := cis, queue := [q] }] }, c.made)
  | none => ({ c with made := c.made + 1, pieces := c.pieces ++ [{ num := c.made, spout := spout, cistern := cis, queue := [q] }] }, c.made)

/-- One sector is cut off and sent to the spout of its piece (R115). A gather's element in a tile's scratch has no cistern: it counts as cistern 24, a piece
of its own, at the spout of the piece before it or else at the lead spout (DESIGN CHOICE, log entry 57). -/
def cutSector (s : State) (id : Nat) (c : CopySlot) (l : CopyLead) (src : Word) (homes : List Nat) : State :=
  let (dst, n) := sectorDst c.desc l.row l.col
  let q : CopySector := { row := l.row, col := l.col, n := n, dst := dst, src := src, homes := homes }
  let cis := match homes with
    | a :: _ => ((cisternOf s a).map (·.1)).getD 24
    | [] => 24
  let spout := if cis < 24 then cis else ((c.pieces.find? (fun p => !p.closed)).map (·.spout)).getD l.spout
  let (c1, num) := addSector c cis spout q
  let c2 := moveLead { c1 with first := if c1.first.isNone then some dst else c1.first } l (nextPlace c.desc l.row l.col n)
  schedule (updCopy s id (fun _ => c2)) s.tile.id (copySteps (id, c2) ++ [(.spoutSector, [id, num])])

/-- The lead spout takes its next step (R115): it reads a gather's index, or translates the source of one destination sector and sends it to the
spout of its piece. A scratch source needs no translation, and its spout holds the copy whole. -/
def leadStep (s : State) (id : Nat) (c : CopySlot) (l : CopyLead) : State :=
  let t := s.tile.id
  let d := c.desc
  let form := bitsOf (dw d 0) 1 0
  let idx := ((c.pieces.find? (fun p => !p.closed)).map (fun p => p.idx + p.queue.length)).getD 0
  let whole := c.pieces.any (fun p => decide (64 ≤ p.spout) && !p.closed)
  let cut := fun (src : Word) =>
    if whole then cutSector s id c l src []
    else if imagedScratch s id src then again s .spoutSector
    else if walkStalls s t src .read c.mode then again (askData s t src .read c.mode) .spoutSector
    else match copyHomes s t c.mode idx src (sectorDst d l.row l.col).2 with
      | (.error f, s1) => stopLead s1 id l f
      | (.ok hs, s1) => cutSector s1 id c l src hs
  if form = 2 then
    match l.ix with
    | some ix => cut (dw d 1 + BitVec.ofNat 64 ix + BitVec.ofNat 64 l.col)
    | none => match readIndex s id c l.spout l.row idx with
      | .fault f s1 => stopLead s1 id l f
      | .poison => sealTile s t
      | .later s1 => again s1 .spoutSector
      | .index (some ix) s1 => again (updCopy s1 id (fun c => { c with lead := some { l with ix := some ix } })) .spoutSector
      | .index none s1 =>
        let c1 := moveLead c l (nextPlace d l.row ((copyCols d).2 - 1) 1)
        schedule (updCopy s1 id (fun _ => c1)) t (copySteps (id, c1))
  else cut (dw d 1 + (if form = 0 then 0 else BitVec.ofNat 64 l.row * dw d 5) + BitVec.ofNat 64 l.col)

/- Pieces -/

/-- Change a piece of a copy. -/
def CopySlot.updPiece (c : CopySlot) (n : Nat) (g : CopyPiece → CopyPiece) : CopySlot :=
  { c with pieces := c.pieces.map (fun p => if p.num = n then g p else p) }

/-- Settle a piece's uncounted sectors as one addition owed (R123). -/
def CopySlot.settle (c : CopySlot) (n : Nat) : CopySlot :=
  match c.pieces.find? (fun p => p.num == n) with
  | some p => if p.uncounted = 0 then c else { c.updPiece n (fun u => { u with uncounted := 0 }) with owed := c.owed ++ [(p.uncounted, n)] }
  | none => c

/-- Read the source bytes of a sector at their homes (R97, R115); none when one of them lies in a poisoned line (R83). -/
def readHomes (s : State) : List Nat → Option (List Nat × State)
  | [] => some ([], s)
  | a :: r =>
    if poisoned s a then none
    else
      let s1 := if a < 2 ^ 50 then atHome s (.mem a) false else s
      (readHomes s1 r).map (fun q => ((readByte s a).toNat :: q.1, q.2))

/-- Write bytes to the destination of one sector, already resolved byte by byte: one sector write at its home (R96, R121). -/
def storeBytes (s : State) : List (Target × Nat) → State
  | [] => s
  | (tg, b) :: r => storeBytes (writeAt (atHome s tg true) tg 1 b) r

/-- Resolve the destination bytes of one sector (R115, R125). -/
def copyDest (s : State) (t : Nat) (m : Mode) (idx : Nat) (va : Word) : Nat → Except MemFault (List Target) × State
  | 0 => (.ok [], s)
  | n + 1 =>
    match resolve s t m { kind := .write, noDevice := true } va 1 with
    | .error e => (.error (mkFault 5 0 idx .write (va &&& ~~~31#64) e.2), afterFault s t m .write va e)
    | .ok (tg, s1) => let q := copyDest s1 t m idx (va + 1) n; (q.1.map (fun l => tg :: l), q.2)

/-- A piece stops at a fault (R125): its sectors are counted by a final addition, and it keeps the sector at the fault and those after it. -/
def stopPiece (s : State) (id n : Nat) (f : MemFault) : State :=
  schedule (supFault (updCopy s id (fun c => (c.updPiece n (fun p => { p with fault := some f })).settle n)) s.tile.id f) s.tile.id
    [(.copyCounterAddition, [id])]

/-- The FMT check of a custom copy whose destination is scratch (R126). -/
def customBad (s : State) (c : CopySlot) (tgs : List Target) : Bool :=
  bitOf (dw c.desc 0) 2 && !c.checked && (match tgs.head? with
    | some (.scratch u _) => txrOf (getTile s u) != c.txr
    | _ => false)

/-- The tile whose scratch a sector goes to. -/
def sectorTile (tgs : List Target) : Option Nat :=
  match tgs.head? with
  | some (.scratch u _) => some u
  | _ => none

/-- What each target of scratch names in its tile. -/
def sectorOffs (tgs : List Target) (bytes : List Nat) : List (Nat × Byte) :=
  (tgs.zip bytes).filterMap (fun p => match p.1 with
    | .scratch _ off => some (off, BitVec.ofNat 8 p.2)
    | _ => none)

/-- Write one sector, or leave it with the network interface that cannot take it yet (R369), and go on to the piece's next (R117, R121, R123).
Sectors that a sealed tile discards are not counted (R389). -/
def writeSector (s : State) (id : Nat) (p : CopyPiece) (tgs : List Target) (bytes : List Nat) : State :=
  let gone := (sectorTile tgs).filter (fun v => sealed s v)
  let held := (sectorTile tgs).filter (fun v => !sealed s v && heldAtNi s v)
  let s1 := match gone, held with
    | some v, _ => sealDrop s v
    | none, some v => updTile s v (fun a => { a with ring := a.ring ++ [.sector s.tile.id id p.num (sectorOffs tgs bytes)] })
    | none, none => storeBytes s (tgs.zip bytes)
  let g := fun (u : CopyPiece) => { u with
    queue := u.queue.drop 1, idx := u.idx + 1, blocked := false
    uncounted := if gone.isSome || held.isSome then u.uncounted else u.uncounted + 1
    inRing := if held.isSome then u.inRing + 1 else u.inRing }
  let s2 := updCopy s1 id (fun c => { c.updPiece p.num g with checked := true })
  schedule { s2 with spouts := smSet s2.spouts p.spout s.tile.id } s.tile.id [(.spoutSector, [id, p.num]), (.copyCounterAddition, [id])]

/-- Can a piece be worked on now? -/
def CopyPiece.works (p : CopyPiece) : Bool := p.fault.isNone && !p.blocked && !p.queue.isEmpty

/-- The issuing tiles with a piece that a spout can work on. -/
def spoutTiles (s : State) (spout : Nat) : List Nat :=
  (allTiles s).filter (fun t => (getTile s t).copies.any (fun e => e.2.pieces.any (fun p => p.spout == spout && p.works)))

/-- Is it a tile's turn at a spout (R117): round robin over the issuing tiles, from the one served last? -/
def spoutTurn (s : State) (spout t : Nat) : Bool :=
  let last := smGet 0 s.spouts spout
  let after := fun (a : Nat) => if last < a then a else a + 2 ^ 20
  (spoutTiles s spout).all (fun u => decide (after t ≤ after u))

/-- The piece cannot move now; another may (R117). -/
def blockPiece (s : State) (id n : Nat) : State := again (updCopy s id (fun c => c.updPiece n (fun p => { p with blocked := true }))) .spoutSector

/-- Must the sector wait: for the image that its scratch lies in, or for an earlier copy's access to one of its sectors (R98)? -/
def sectorWaits (s : State) (id : Nat) (c : CopySlot) (q : CopySector) : Bool :=
  let t := s.tile.id
  let last := q.src + BitVec.ofNat 64 (q.n - 1)
  imagedScratch s id q.dst || (q.homes.isEmpty && imagedScratch s id q.src) || behindCopy s t (sameTask id) c.seq (sectorOf s t q.dst) true ||
    behindCopy s t (sameTask id) c.seq (sectorOf s t q.src) false || behindCopy s t (sameTask id) c.seq (sectorOf s t last) false

/-- Can the spout of a piece not reach a byte now: is its traffic held (R380, R438), or, for a read, the network interface of its tile (R143)? -/
def homesHeld (s : State) (t spout : Nat) (hs : List Nat) : Bool := hs.any (fun a => spoutHeld s t spout a || spoutWaits s spout a)

/-- The next sector of a piece: read whole, translated at its destination, and written (R115, R121, R125, R126). -/
def pieceSector (s : State) (id : Nat) (c : CopySlot) (p : CopyPiece) (q : CopySector) : State :=
  let t := s.tile.id
  if sectorWaits s id c q then blockPiece s id p.num
  else if walkStalls s t q.dst .write c.mode then blockPiece (askData s t q.dst .write c.mode) id p.num
  else if q.homes.isEmpty && walkStalls s t q.src .read c.mode then blockPiece (askData s t q.src .read c.mode) id p.num
  else
    let homes := if q.homes.isEmpty then copyHomes s t c.mode p.idx q.src q.n else (.ok q.homes, s)
    match homes with
    | (.error f, s1) => stopPiece s1 id p.num f
    | (.ok hs, s1) =>
      if homesHeld s t p.spout hs then blockPiece s id p.num
      else match readHomes s1 hs with
      | none => sealTile s t
      | some (bytes, s2) =>
        match copyDest s2 t c.mode p.idx q.dst q.n with
        | (.error f, s3) => stopPiece s3 id p.num f
        | (.ok tgs, s3) =>
          if tgs.any (fun tg => spoutHeld s t p.spout ((targetKey tg).getD 0)) then blockPiece s id p.num
          else if customBad s3 c tgs then
            taskReport (onTile s3 (fun t => { t with copies := smErase t.copies id })) id 2 8 (c.first.getD q.dst) 0 c.descVa
          else writeSector s3 id p tgs bytes

/-- A piece takes its turn: its next sector, a final addition where it has come to its end, stands at a fault or waits for a lead that does, those of its
sectors that a network interface held among it, and an addition after 256 sectors (R117, R123, R125). -/
def pieceStep (s : State) (id : Nat) (c : CopySlot) (p : CopyPiece) : State :=
  let settled := fun (u : State) => schedule u s.tile.id [(.copyCounterAddition, [id])]
  if 256 ≤ p.uncounted then again (settled (updCopy s id (fun c => c.settle p.num))) .spoutSector
  else match p.queue with
  | [] =>
    if p.inRing ≠ 0 then s
    else if p.closed then
      settled (updCopy s id (fun c => let d := c.settle p.num; { d with pieces := d.pieces.filter (fun u => u.num != p.num) }))
    else if (c.lead.bind (·.fault)).isSome then settled (updCopy s id (fun c => c.settle p.num))
    else s
  | q :: _ =>
    if p.fault.isSome then (if p.uncounted ≠ 0 then settled (updCopy s id (fun c => c.settle p.num)) else s)
    else if !p.blocked && !spoutTurn s p.spout s.tile.id then again s .spoutSector
    else pieceSector s id c p q

/-- SPOUT_SECTOR (R115, R117): with one argument the lead spout of copy argument 0 cuts its next sector off; with two, the spout that holds piece
argument 1 moves one destination sector. -/
def spoutSector (s : State) : State :=
  let id := argAt s 0
  match smFind s.tile.copies id with
  | none => s
  | some c =>
    if !c.arrived then s
    else match s.arg with
      | [_] => (match c.lead with
        | some l => if l.fault.isSome then s else leadStep s id c l
        | none => s)
      | _ => match c.pieces.find? (fun p => p.num == argAt s 1) with
        | some p => pieceStep s id c p
        | none => s

/-- SPOUT_SECTOR (R117). -/
def execSpoutSector (s : State) : Host.Outcome State Fault Refusal := event spoutSector s

/- Counting -/

/-- A copy whose pieces have all ended frees its slot (R124). -/
def freeCopy (s : State) (id : Nat) : State :=
  match smFind s.tile.copies id with
  | some c => if c.arrived && c.lead.isNone && c.pieces.isEmpty && c.owed.isEmpty then onTile s (fun t => { t with copies := smErase t.copies id }) else s
  | none => s

/-- COPY_COUNTER_ADDITION (R123) of copy argument 0: one addition at the counter's owner, refused where the target has no such byte. An addition to a
poisoned line is not performed, and the error reaches the issuing tile (R84). One to the scratch of a task that has ended in its image has nothing left to
change (DESIGN CHOICE, log entry 25). -/
def counterAddition (s : State) : State :=
  let id := argAt s 0
  match smFind s.tile.copies id with
  | none => s
  | some c =>
    match c.owed with
    | [] => freeCopy s id
    | (n, piece) :: rest =>
      let done := fun (st : State) => again (freeCopy (updCopy st id (fun c => { c with owed := rest })) id) .copyCounterAddition
      let va := dw c.desc 3
      if c.counterFault then s
      else if va = 0 then done s
      else if imagedScratch s id va then (if 32 ≤ id && (copyImage s id).isNone then done s else again s .copyCounterAddition)
      else
        let p := performNow s s.tile.id c.mode (.red .add va (BitVec.ofNat 64 n))
        match p.res with
        | .pending => again s .copyCounterAddition
        | .poison => sealTile (done s) s.tile.id
        | .fault f =>
          if f.cause = .xlate ∧ bitsOf f.info 3 0 = 5 then
            let s1 := if c.reported.contains piece then s
              else taskReport s id 2 4 va (mkInfo 5 0 0 .atomic { prot := false, sub := 5 }) c.descVa
            done (updCopy s1 id (fun c => { c with reported := piece :: c.reported }))
          else supFault (updCopy p.st id (fun c => { c with counterFault := true })) s.tile.id { f with info := putBits f.info 13 3 5 }
        | _ => done p.st

/-- COPY_COUNTER_ADDITION (R123). DEDUCED, log entry 57. -/
def execCopyCounterAddition (s : State) : Host.Outcome State Fault Refusal := event counterAddition s

/- Resumption -/

/-- What stands at a fault in a copy: the lead, or a piece, with its fault and whether it was passed. `k` 0 is the lead, `k + 1` piece k. -/
def CopySlot.stopped (c : CopySlot) : List (Nat × MemFault × Bool) :=
  (match c.lead with
   | some l => (l.fault.map (fun f => (0, f, l.passed))).toList
   | none => []) ++ c.pieces.filterMap (fun p => p.fault.map (fun f => (p.num + 1, f, p.passed)))

/-- Change what stands at a fault. -/
def CopySlot.updStopped (c : CopySlot) (k : Nat) (fault : Option MemFault) (passed : Bool) : CopySlot :=
  if k = 0 then { c with lead := c.lead.map (fun l => { l with fault := fault, passed := passed }) }
  else c.updPiece (k - 1) (fun p => { p with fault := fault, passed := passed })

/-- COPY_PIECE_RESUME (R125) of copy argument 0: with argument 1 at 0 the supervisor resumes what stopped and argument 2 names, 0 the lead and
k + 1 piece k, or all of it where there is no argument 2; with 1 it passes the oldest fault to the task as a report instead. DEDUCED, log entry 57. -/
def execCopyPieceResume (s : State) : Host.Outcome State Fault Refusal :=
  event (supervised .copyPieceResume (fun s =>
    let id := argAt s 0
    match smFind s.tile.copies id with
    | none => s
    | some c =>
      if argAt s 1 = 1 then
        match c.stopped.find? (fun e => !e.2.2) with
        | some (k, f, _) =>
          taskReport (updCopy s id (fun c => c.updStopped k (some f) true)) id 2 (BitVec.ofNat 64 f.cause.code) f.va f.info c.descVa
        | none => s
      else
        let c1 := (c.stopped.filter (fun e => decide (s.arg.length < 3) || e.1 == argAt s 2)).foldl (fun d e => d.updStopped e.1 none false)
          { c with counterFault := false }
        schedule (updCopy s id (fun _ => c1)) s.tile.id (copySteps (id, c1) ++ [(.copyCounterAddition, [id])]))) s

end Sys2Proof.Machine
end

