-- ==== Sys2Proof/Machine/Engine.lean ====
section
/-! DEFINITION. The plane engine (15_matrix_isa.md, R188 to R191, R296 to R311): commands, staging, exact windowed accumulation, drains,
the arbiter of a cluster, and the reads of mr. -/
namespace Sys2Proof.Machine

/- Plane form -/

/-- Stage a finite magnitude `n · 2^e` (R302). -/
def stageFinite (f : PlaneForm) (neg : Bool) (n : Nat) (e : Int) : PlaneElem × Flags :=
  let w : Int := (f.p : Int) - 1
  if n = 0 then ({ s := neg, g := 0, t := f.b, e := f.b - w }, 0)
  else
    let top : Int := (Nat.log2 n : Int) + e
    let o := (top - f.b).toNat
    let big : PlaneElem × Flags :=
      if overflowsToInf f.rm neg then ({ exc := if neg then .negInf else .posInf }, fOF ||| fNX)
      else
        let t := f.b + ((2 ^ f.q - 1 : Nat) : Int)
        ({ s := neg, g := 2 ^ f.p - 1, t := t, e := t - w }, fOF ||| fNX)
    if 2 ^ f.q - 1 < o then big
    else
      let r := roundAt f.rm neg n e (f.b + (o : Int) - w)
      let fl : Flags := if r.2 then fNX ||| (if top < f.b then fUF else 0) else 0
      if r.1 = 2 ^ f.p then
        if o < 2 ^ f.q - 1 then
          let t := f.b + (o : Int) + 1
          ({ s := neg, g := 2 ^ (f.p - 1), t := t, e := t - w }, fl)
        else big
      else
        let t := f.b + (o : Int)
        ({ s := neg, g := r.1, t := t, e := t - w }, fl)

/-- Stage a delivered word (R302): a T64 value, or an integer word of an integer format. -/
def stageElem (f : PlaneForm) (isInt : Option Bool) (w : Word) : PlaneElem × Flags :=
  match isInt with
  | some sgn =>
    let v : Int := if sgn then w.toInt else w.toNat
    stageFinite f (decide (v < 0)) v.natAbs 0
  | none =>
    match viewT64 w with
    | .nan s => ({ exc := .nan }, if s then fNV else 0)
    | .inf neg => ({ exc := if neg then .negInf else .posInf }, 0)
    | .fin neg n e => stageFinite f neg n e

/- Accumulators -/

/-- Shift an accumulator's integer so that its base is `w`; bits below go to the sticky bit and set WX (R189, R306). -/
def Acc.rebase (c : Acc) (w : Int) : Acc × Flags :=
  match c.wb with
  | none => ({ c with wb := some w, a := 0 }, 0)
  | some b =>
    if w ≤ b then ({ c with wb := some w, a := c.a * (2 ^ (b - w).toNat : Nat) }, 0)
    else
      let d : Nat := 2 ^ (w - b).toNat
      let lost := c.a % (d : Int) != 0
      ({ c with wb := some w, a := c.a / (d : Int), sticky := c.sticky || lost }, if lost then fWX else 0)

/-- Add `±m · 2^e` to an accumulator whose window is set (R189, R306); `n` bounds the moves of the window. -/
def Acc.addAt (neg : Bool) (m : Nat) (e : Int) : Nat → Acc → Acc × Flags
  | 0, c => (c, 0)
  | n + 1, c =>
    let b := c.wb.getD 0
    let d : Nat := (b - e).toNat
    let mag := if b ≤ e then m * 2 ^ (e - b).toNat else m / 2 ^ d
    let low := decide (e < b) && m % 2 ^ d != 0
    let s : Int := c.a + (if neg then -(mag : Int) else (mag : Int))
    if 2 ^ 191 ≤ s.natAbs then
      if c.pinned then ({ c with exc := if s < 0 then .negInf else .posInf, sticky := c.sticky || low }, fOF ||| (if low then fWX else 0))
      else
        let r := c.rebase (b + ((Nat.log2 s.natAbs - 190 : Nat) : Int))
        let q := Acc.addAt neg m e n r.1
        (q.1, r.2 ||| q.2)
    else ({ c with a := s, sticky := c.sticky || low }, if low then fWX else 0)

/-- The special product of a pair, if it is one (R190). -/
def specialProduct (a b : PlaneElem) : Option (Exc × Flags) :=
  let inf := fun (x : PlaneElem) => x.exc == .posInf || x.exc == .negInf
  let neg := fun (x : PlaneElem) => if inf x then x.exc == .negInf else x.s
  if a.exc = .nan ∨ b.exc = .nan then some (.nan, 0)
  else if inf a || inf b then
    if (!inf a && a.g == 0) || (!inf b && b.g == 0) then some (.nan, fNV)
    else some (if neg a != neg b then .negInf else .posInf, 0)
  else none

/-- One pass of R304 over the pairs of an accumulator. -/
def Acc.pass (c : Acc) (pairs : List (PlaneElem × PlaneElem)) : Acc × Flags :=
  let spec := pairs.filterMap (fun p => specialProduct p.1 p.2)
  let r := spec.foldl (fun (q : Exc × Flags) x => let m := combineExc q.1 x.1; (m.1, q.2 ||| x.2 ||| m.2)) (c.exc, 0)
  let c1 := { c with exc := r.1 }
  if r.1 ≠ .none then (c1, r.2)
  else
    let fin := pairs.filter (fun p => p.1.g != 0 && p.2.g != 0)
    match fin.map (fun p => p.1.t + p.2.t + 1) with
    | [] => (c1, r.2)
    | x :: xs =>
      let wb := xs.foldl max x - 160
      let move := !c1.pinned && (match c1.wb with | none => true | some b => decide (b < wb))
      let c2 := if move then c1.rebase wb else (c1, 0)
      fin.foldl (fun q p =>
        if q.1.exc ≠ .none then q
        else
          let u := Acc.addAt (p.1.s != p.2.s) (p.1.g * p.2.g) (p.1.e + p.2.e) 4 q.1
          (u.1, q.2 ||| u.2)) (c2.1, r.2 ||| c2.2)

/-- MWIN on one accumulator (R306). -/
def Acc.window (c : Acc) (w : Int) (pin : Bool) : Acc × Flags :=
  if !pin then ({ c with pinned := false }, 0)
  else
    let r := c.rebase w
    if 2 ^ 191 ≤ r.1.a.natAbs then ({ r.1 with exc := if c.a < 0 then .negInf else .posInf, pinned := true }, r.2 ||| fOF)
    else ({ r.1 with pinned := true }, r.2)

/- Commands of a sub-tile -/

/-- An accumulator of a sub-tile. -/
def SubTile.accAt (u : SubTile) (row col : Nat) : Acc := smGet {} u.acc (row * 128 + col)

/-- Set an accumulator; one in its cleared state is not listed. -/
def SubTile.setAcc (u : SubTile) (row col : Nat) (c : Acc) : SubTile :=
  let k := row * 128 + col
  { u with acc := if c = {} then smErase u.acc k else smSet u.acc k c }

/-- Apply a function to every accumulator of a row group (R305, R306). -/
def SubTile.group (u : SubTile) (g : Nat) (h : Acc → Acc × Flags) : SubTile × Flags :=
  (List.range 512).foldl (fun q i =>
    let row := 4 * g + i / 128
    let r := h (q.1.accAt row (i % 128))
    (q.1.setAcc row (i % 128) r.1, q.2 ||| r.2)) (u, 0)

/-- The B store that MLDB leaves (R303): every element outside K by N is the value 0, which is not listed. -/
def bStore (k n : Nat) (trans : Bool) (staged : List PlaneElem) : SMap PlaneElem :=
  ((staged.zipIdx).take (k * n)).foldl (fun b p =>
    let (r, j) := if trans then (p.2 % k, p.2 / k) else (p.2 / n, p.2 % n)
    smSet b (r * 128 + j) p.1) []

/-- The rows of an MMA (R304). -/
def SubTile.mma (u : SubTile) (m k base : Nat) (staged : List PlaneElem) : SubTile × Flags :=
  (List.range (m * 128)).foldl (fun q idx =>
    let i := idx / 128
    let j := idx % 128
    let pairs := (List.range k).map (fun e => (staged.getD (i * k + e) {}, smGet {} u.b (e * 128 + j)))
    let r := (q.1.accAt (base + i) j).pass pairs
    (q.1.setAcc (base + i) j r.1, q.2 ||| r.2)) (u, 0)

/-- The doublewords that MDRN writes, in its order (R307). -/
def SubTile.drain (u : SubTile) (g : Nat) (d : Word) (stride : Int) (nc rm : Nat) : List (Word × Word) × Flags :=
  let l := (List.range (4 * nc)).map (fun i =>
    let q := i / nc
    let j := i % nc
    let c := u.accAt (4 * g + q) j
    let r := drainAcc rm c.a (c.wb.getD 0) c.sticky c.exc
    ((d + BitVec.ofInt 64 ((q : Int) * stride) + BitVec.ofNat 64 (8 * j), r.1), r.2))
  (l.map (·.1), l.foldl (fun f p => f ||| p.2) 0)

/-- The form in force for a staging register (R302). -/
def SubTile.formOf (u : SubTile) (r : Nat) : PlaneForm := smGet {} u.forms r

/-- The staged elements of the command at the head, and the flags that gathering and staging them raised. -/
def SubTile.operands (u : SubTile) (c : MCmd) : List PlaneElem × Flags :=
  let l := u.staged.take c.need
  (l.map (·.elem), l.foldl (fun f e => f ||| e.flags) 0)

/-- What finishing the command that executes does to the sub-tile (R302 to R307), and the flags that it sets. An MDRN stays in the queue until its
writes are performed (R310). -/
def SubTile.finish (u : SubTile) : SubTile × Flags :=
  match u.waiting with
  | [] => (u, 0)
  | c :: rest =>
    let ops := u.operands c
    let v := { u with queue := u.queue.take u.draining ++ rest, started := false, staged := u.staged.drop c.need, kept := u.kept - c.need, finished := u.finished + 1 }
    match c with
    | .form vk f => ({ v with forms := smSet v.forms (8 + vk) f }, 0)
    | .ldb _ k n tr _ => ({ v with b := bStore k n tr ops.1, pB := (u.staged.headD {}).p }, ops.2)
    | .mma _ m k base _ => let r := v.mma m k base ops.1; (r.1, ops.2 ||| r.2)
    | .zero g => v.group g (fun _ => ({}, 0))
    | .win g w pin => v.group g (fun c => c.window w pin)
    | .drn g d st nc rm mode =>
      let r := v.drain g d st nc rm
      if u.discard then ({ v with discard := false }, r.2)
      else ({ v with
        queue := u.queue, draining := u.draining + 1
        drains := u.drains ++ r.1.map (fun p => { va := p.1, w := p.2, mode := mode, cmd := u.finished + 1 }) }, r.2)

/-- Is the head of a sub-tile's queue ready (R298)? -/
def SubTile.ready (u : SubTile) : Bool :=
  match u.waiting with
  | [] => false
  | c :: _ => !u.started && u.held.isNone && decide (c.need ≤ u.staged.length)

/-- Is the head of a member's queue ready to start? A cut has stopped the queue of its tile (R369). -/
def Tile.engineReady (t : Tile) : Bool := t.sub.ready && !t.cutMarked

/- Issuing commands -/

/-- The number of elements of a pattern. -/
def patternSize (p : Pattern) : Nat := p.c0 * (if 2 ≤ p.dims then p.c1 else 1) * (if 3 ≤ p.dims then p.c2 else 1)

/-- The steps that move a tile's commands on. -/
def engineSteps (t : Nat) : List (Instr × List Nat) :=
  [(.stagingElement, []), (.engineCommandStart, [clusterOf t])]

/-- The staging register of a command and the bindings of its sources (R297, R289): the register is bound as an input with STAGE = 1, in a format of the
width it was bound with (R287). -/
def stagingBound (r : Nat) (srcs : List Opnd) : Exec Unit := do
  let t ← look (·.tile)
  match t.stream r with
  | none => illegal 4
  | some b =>
    demand (!b.out && b.pat.stage) (illegal 4)
    checkBindings srcs []
    demand (storeBits (fmtBits (vget t.fmt b.fmtN 0)) == b.width) (illegal 8)

/-- What converts the elements of a staging register, at this place in program order (R184). -/
def Tile.convOf (t : Tile) (r : Nat) : Word × Option Word × Bool := ((t.stream r).map t.bindFmt).getD (0, none, false)

/-- The wait for room in the queue, which a command makes whole, before it takes an operand (R139, R297). -/
def queueRoom : Exec Unit := do
  let t ← look (·.tile)
  demand (decide (t.sub.queue.length < 8)) (waitPoint .full (engineSteps t.id))

/-- Put a command into the queue, which has room (R297): its elements remain in the binding's pattern. -/
def enqueue (c : MCmd) (names : Option Nat) : Exec Unit := do
  let t ← look (·.tile)
  let taken := c.need
  match names.bind t.stream with
  | none => pure ()
  | some b => demand (decide (b.promised + taken ≤ patternSize b.pat)) (illegal 8)
  update (fun s =>
    let s1 := onTile s (fun t =>
      let u := { t with sub := { t.sub with queue := t.sub.queue ++ [c], issued := t.sub.issued + 1 } }
      match names with
      | some r => u.updStream r (fun b => { b with promised := b.promised + taken })
      | none => u)
    schedule s1 s1.tile.id (engineSteps s1.tile.id))

/-- MFORM (R302). -/
def execMform (a b : BitVec 6) (r sel : BitVec 3) (s : State) : Host.Outcome State Fault Refusal :=
  run1 (do
    stagingBound (8 + sel.toNat) [.x a, .x b]
    checkOperands [.x a, .x b] []
    queueRoom
    let ws ← takeXs [a, b]
    let f := ws.getD 0 0
    let bw := (ws.getD 1 0).toInt
    let t ← look (·.tile)
    let exact := f == 0
    let p := bitsOf f 5 0
    let q := bitsOf f 12 8
    demand (if exact then bw == 0
      else bitsOf f 63 13 == 0 && bitsOf f 7 6 == 0 && decide (1 ≤ p ∧ p ≤ 48 ∧ q ≤ 16) && decide (-(2 ^ 19 : Int) ≤ bw ∧ bw < 2 ^ 19)) (illegal 8)
    let form : PlaneForm := if exact
      then match t.stream (8 + sel.toNat) with
        | some c => { exactForm (vget t.fmt c.fmtN 0) (txrOf t) with rm := roundingMode t r }
        | none => {}
      else { p := p, q := q, b := bw, rm := roundingMode t r }
    enqueue (.form sel.toNat form) (some (8 + sel.toNat))) s

/-- MLDB (R303). -/
def execMldb (a b : BitVec 6) (sel : BitVec 3) (s : State) : Host.Outcome State Fault Refusal :=
  run1 (do
    stagingBound (8 + sel.toNat) [.x a, .x b]
    checkOperands [.x a, .x b] []
    queueRoom
    let ws ← takeXs [a, b]
    let f := ws.getD 0 0
    let k := bitsOf f 7 0
    let n := bitsOf f 15 8
    demand (bitsOf f 63 16 == 0 && decide (1 ≤ k ∧ k ≤ 128 ∧ 1 ≤ n ∧ n ≤ 128) && bitsOf (ws.getD 1 0) 63 1 == 0) (illegal 8)
    let t ← look (·.tile)
    enqueue (.ldb sel.toNat k n (bitOf (ws.getD 1 0) 0) (t.convOf (8 + sel.toNat))) (some (8 + sel.toNat))) s

/-- MMA (R304). -/
def execMma (a b : BitVec 6) (sel : BitVec 3) (s : State) : Host.Outcome State Fault Refusal :=
  run1 (do
    stagingBound (8 + sel.toNat) [.x a, .x b]
    checkOperands [.x a, .x b] []
    queueRoom
    let ws ← takeXs [a, b]
    let f := ws.getD 0 0
    let m := bitsOf f 5 0
    let k := bitsOf f 15 8
    let base := bitsOf (ws.getD 1 0) 4 0
    demand (bitsOf f 63 16 == 0 && bitsOf f 7 6 == 0 && decide (1 ≤ m ∧ m ≤ 32 ∧ 1 ≤ k ∧ k ≤ 128) &&
      bitsOf (ws.getD 1 0) 63 5 == 0 && decide (base + m ≤ 32)) (illegal 8)
    let t ← look (·.tile)
    enqueue (.mma sel.toNat m k base (t.convOf (8 + sel.toNat))) (some (8 + sel.toNat))) s

/-- MZERO (R305). -/
def execMzero (g : BitVec 3) (s : State) : Host.Outcome State Fault Refusal := run1 (do queueRoom; enqueue (.zero g.toNat) none) s

/-- MWIN (R306). -/
def execMwin (a : BitVec 6) (g : BitVec 3) (s : State) : Host.Outcome State Fault Refusal :=
  run1 (do
    checkOperands [.x a] []
    queueRoom
    let f ← takeX a
    demand (bitsOf f 63 33 == 0) (illegal 8)
    enqueue (.win g.toNat (signedOf 32 (bitsOf f 31 0)) (bitOf f 32)) none) s

/-- MDRN (R307): the extent is checked at issue. -/
def execMdrn (a b : BitVec 6) (r g : BitVec 3) (s : State) : Host.Outcome State Fault Refusal :=
  run1 (do
    checkOperands [.x a, .x b] []
    queueRoom
    let ws ← takeXs [a, b]
    let d := ws.getD 0 0
    let f := ws.getD 1 0
    let stride := signedOf 32 (bitsOf f 31 0)
    let nc := bitsOf f 39 32
    demand (bitsOf f 63 40 == 0 && decide (1 ≤ nc ∧ nc ≤ 128)) (illegal 8)
    let lo : Int := (d.toNat : Int) + min 0 (3 * stride)
    let hi : Int := (d.toNat : Int) + max 0 (3 * stride) + (8 * nc - 1 : Nat)
    checkExtent .write (some (lo, hi))
    demand (d.toNat % 8 == 0 && stride % 8 == 0) (trap { cause := .align })
    let t ← look (·.tile)
    enqueue (.drn g.toNat d stride nc (roundingMode t r) t.mode) none) s

/-- MSYNC (R308): every command has finished and every drain is performed; a held fault is raised. -/
def execMsync (s : State) : Host.Outcome State Fault Refusal := run1 (awaitClass 3) s

/-- The status word of MSTAT (R309). -/
def mstatWord (u : SubTile) : Word :=
  at_ 32 (u.issued % 2 ^ 32) ||| at_ 5 (if u.held.isSome then 1 else 0) ||| at_ 4 (if u.started then 1 else 0) ||| at_ 0 u.queue.length

/-- MSTAT (R309). -/
def execMstat (d : BitVec 6) (s : State) : Host.Outcome State Fault Refusal :=
  run1 (do
    checkOperands [] [.x d]
    let u ← look (fun s => s.tile.sub)
    giveX d (mstatWord u)) s

/-- Is there an accumulator of a group with a property? -/
def SubTile.anyIn (u : SubTile) (p : Acc → Bool) (g : Nat) : Bool := u.acc.any (fun e => e.1 / 512 == g && p e.2)

/-- The word that a read of mr gives (R309). -/
def mrWord (u : SubTile) : Word :=
  let bits := fun (p : Acc → Bool) => ((List.range 8).filter (u.anyIn p)).foldl (fun n g => n + 2 ^ g) 0
  at_ 32 (u.finished % 2 ^ 32) ||| at_ 16 (bits (fun c => c.exc != .none)) ||| at_ 8 (bits (·.sticky))

/-- MR_VALUE_READY (R309) for entry argument 0: the commands queued before the read have finished and their drains are performed, or a fault is
held. -/
def execMrValueReady (s : State) : Host.Outcome State Fault Refusal :=
  event (fun s =>
    let k := argAt s 0
    match s.tile.longBuf[k]? with
    | none => s
    | some e =>
      match e.op, e.res with
      | .mr i other old upTo, .pending =>
        let u := s.tile.sub
        let set := fun (r : LongRes) =>
          schedule (onTile s (fun t => { t with longBuf := setAt t.longBuf k { e with res := r } })) s.tile.id [(.longResultReturn, [k])]
        if decide (upTo ≤ u.finished) && !(u.drains.any (fun d => decide (d.cmd ≤ upTo))) then set (.word (aluOf i (mrWord u) other old))
        else if u.held.isSome then set (.fault (u.held.getD { cause := .xlate }))
        else again (schedule s s.tile.id (engineSteps s.tile.id)) .mrValueReady
      | _, _ => s) s

/- The engine -/

/-- The weight of a member (R166). -/
def weightOf (c : Cluster) (i : Nat) : Nat := bitsOf c.mqw (8 * i + 7) (8 * i)

/-- The member that the arbiter serves next (R166): the member served last, while its turn lasts; else the next ready one with a
weight; else, when no weighted queue is ready, the next ready one of weight 0. -/
def arbiterPick (s : State) (cl : Nat) : Option Nat :=
  let c := getCluster s cl
  let rdy := fun (i : Nat) => (getTile s (memberTile cl i)).engineReady
  let order := (List.range 8).map (fun k => (c.turn + 1 + k) % 8)
  if rdy c.turn && decide (c.served < weightOf c c.turn) then some c.turn
  else match order.find? (fun i => rdy i && decide (0 < weightOf c i)) with
    | some i => some i
    | none => order.find? rdy

/-- ENGINE_COMMAND_START (R298) in cluster argument 0: the arbiter starts a ready head, unless a command is executing. -/
def engineStart (s : State) : State :=
  let cl := argAt s 0
  if (List.range 8).any (fun i => (getTile s (memberTile cl i)).sub.started) then s
  else match arbiterPick s cl with
    | none => s
    | some i =>
      let t := memberTile cl i
      let c := getCluster s cl
      let isMma := match (getTile s t).sub.waiting.head? with | some (.mma _ _ _ _ _) => true | _ => false
      let s1 := updTile s t (fun u => { u with sub := { u.sub with started := true } })
      let s2 := updCluster s1 cl (fun q =>
        { q with turn := i, served := if i = c.turn then q.served + 1 else 1, arrayOf := if isMma then some i else q.arrayOf })
      schedule s2 t [(.engineCommandFinish, [])]

/-- ENGINE_COMMAND_START (R298). -/
def execEngineCommandStart (s : State) : Host.Outcome State Fault Refusal := event engineStart s

/-- An accumulator takes the value of a decided dispute over an MMA's sums (R386): element 128 · row + column. -/
def SubTile.takeDispute (u : SubTile) (d : Option Dispute) : SubTile :=
  match d with
  | some d => if d.unit = 5 then u.setAcc (d.lane / 128) (d.lane % 128) { u.accAt (d.lane / 128) (d.lane % 128) with a := signedOf 640 d.value } else u
  | none => u

/-- ENGINE_COMMAND_FINISH (R299): the executing command of the tile has its effect and sets its flags. -/
def engineFinish (s : State) : State :=
  match s.tile.sub.started, s.tile.sub.waiting with
  | true, c :: _ =>
    let isLdb := match c with | .ldb _ _ _ _ _ => true | _ => false
    let isMma := match c with | .mma _ _ _ _ _ => true | _ => false
    let r := s.tile.sub.finish
    let s1 := onTile s (fun t => (if isMma then { t with sub := r.1.takeDispute t.dispute } else ({ t with sub := r.1 } : Tile)).setFlags r.2)
    let cl := clusterOf s.tile.id
    let s2 := if isLdb && (getCluster s1 cl).arrayOf == some (memberOf s.tile.id) then updCluster s1 cl (fun c => { c with arrayOf := none }) else s1
    schedule s2 s2.tile.id ((if r.1.drains.isEmpty then [] else [(.drainWritePerform, [])]) ++ engineSteps s2.tile.id)
  | _, _ => s

/-- ENGINE_COMMAND_FINISH (R299). -/
def execEngineCommandFinish (s : State) : Host.Outcome State Fault Refusal := event engineFinish s

/- Staging -/

/-- The element to be staged next (R298): its register, what converts it and its form, those in force at the place of the first command in the
queue that lacks elements, and the commands before that one. -/
def nextStaging (forms : SMap PlaneForm) (before : List MCmd) : List MCmd → Nat → Option (Nat × (Word × Option Word × Bool) × PlaneForm × List MCmd)
  | [], _ => none
  | c :: q, n =>
    let on := fun (r need : Nat) (conv : Word × Option Word × Bool) =>
      if n < need then some (r, conv, smGet {} forms r, before) else nextStaging forms (before ++ [c]) q (n - need)
    match c with
    | .form vk f => nextStaging (smSet forms (8 + vk) f) (before ++ [c]) q n
    | .ldb vk k m _ conv => on (8 + vk) (k * m) conv
    | .mma vk m k _ conv => on (8 + vk) (m * k) conv
    | _ => nextStaging forms (before ++ [c]) q n

/-- The next element of the tile's commands. -/
def SubTile.nextElem (u : SubTile) : Option (Nat × (Word × Option Word × Bool) × PlaneForm × List MCmd) :=
  nextStaging u.forms [] u.waiting u.staged.length

/-- Must the read of an element wait for a drain write of an earlier command to the same sector (R98, R301)? -/
def behindDrain (s : State) (before : List MCmd) (va : Word) : Bool :=
  let t := s.tile.id
  let x := sectorOf s t va
  s.tile.sub.drains.any (fun d => sectorOf s t d.va == x) || before.any (fun c => match c with
    | .drn _ d st nc _ _ =>
      rowsTouch ((d.toNat : Int) + sectorShift s t ((d.toNat : Int) + min 0 (3 * st))) st 0 (8 * nc) 0 4 ((x : Int) * 32)
    | _ => false)

/-- A fault that the engine meets is held by the member's queue (R310); after EXIT it goes to the field supervisor (R311). -/
def holdMatrix (s : State) (f : MemFault) : State :=
  let s1 := onTile s (fun t => { t with sub := { t.sub with held := some f } })
  if s.tile.run = .exited then supFault s1 s.tile.id f else s1

/-- STAGING_ELEMENT (R298, R302): gather and stage the next element of the queued commands, ahead of their execution, or hold the fault met at it
(R310). -/
def stageNext (s : State) : State :=
  let u := s.tile.sub
  if u.held.isSome || s.tile.cutMarked then s
  else match u.nextElem with
  | none => s
  | some (r, conv, form, before) =>
    match s.tile.stream r with
    | none => s
    | some b =>
      let a := elemAddr b.pat b.width b.pos
      let size := max 1 (b.width / 8)
      if behindElem s a.1 s.tile.outSeq || behindDrain s before a.1 then again s .stagingElement
      else if walkStalls s s.tile.id a.1 .read b.mode then again (askData s s.tile.id a.1 .read b.mode) .stagingElement
      else match reachElem s r b .read a.1 size (elemIndex b.pat b.pos) with
      | .fault f => holdMatrix (elemFaultState s b .read a.1 size) f
      | .wait | .refused | .gone _ => again s .stagingElement
      | .held u => deferStep s u .stagingElement
      | .poison => sealTile s s.tile.id
      | .ok tg s1 =>
        let q := readAt s1 tg size
        let v := readElem conv.1 conv.2.1 conv.2.2 (q.1 / 2 ^ a.2 % 2 ^ b.width)
        let e := stageElem form ((intFmt conv.1).map (·.2)) v.1
        let s2 := onTile q.2 (fun t => ({ t with sub := { t.sub with staged := t.sub.staged ++ [({ elem := e.1, flags := v.2 ||| e.2, p := form.p } : Staged)] } }).updStream r (fun c =>
          { c with pos := stepPos c.pat c.pos, count := c.count + 1 }))
        schedule s2 s2.tile.id (engineSteps s2.tile.id)

/-- STAGING_ELEMENT (R302). -/
def execStagingElement (s : State) : Host.Outcome State Fault Refusal := event (takeTurn .stagingElement stageNext) s

/-- The position in a pattern of element `n`, counted from 0 in the pattern's order (R287). -/
def Pattern.posAt (p : Pattern) (n : Nat) : Pos :=
  let k := min n (patternSize p - 1)
  let c1 := if 2 ≤ p.dims then p.c1 else 1
  { i0 := k % p.c0, i1 := k / p.c0 % c1, i2 := k / p.c0 / c1, done := decide (patternSize p ≤ n) }

/-- How many of the first `n` staged elements of some commands, the first `skip` left out, came from register `r`. -/
def stagedFrom (r : Nat) : List MCmd → Nat → Nat → Nat
  | [], _, _ => 0
  | c :: q, skip, n =>
    (if c.takes.any (fun p => p.1 == r) then min c.need n - skip else 0) + stagedFrom r q (skip - c.need) (n - c.need)

/-- What a cut leaves of staging (R369): the staged elements are dropped, and each staging binding is set back to the first element that no finished
command has taken. Those up to the last one whose binding has been replaced since stay (DESIGN CHOICE, log entry 92). -/
def Tile.unstage (t : Tile) : Tile :=
  let u := t.sub
  { t with
    sub := { u with staged := u.staged.take u.kept }
    streams := t.streams.map (fun e =>
      let n := e.2.count - stagedFrom e.1 u.waiting u.kept u.staged.length
      if e.2.pat.stage then (e.1, { e.2 with pos := e.2.pat.posAt n, count := n }) else e) }

/- Drains -/

/-- The oldest drain write is done with; an MDRN whose last one this was leaves the queue (R307, R310). -/
def SubTile.dropDrain (u : SubTile) : SubTile :=
  match u.drains with
  | [] => u
  | d :: rest =>
    if rest.any (fun e => e.cmd == d.cmd) then { u with drains := rest }
    else { u with drains := rest, queue := u.queue.drop 1, draining := u.draining - 1 }

/-- DRAIN_WRITE_PERFORM (R307): the oldest drain write is performed, or its fault is held (R310). -/
def drainWrite (s : State) : State :=
  let t := s.tile.id
  match s.tile.sub.drains with
  | [] => s
  | d :: _ =>
    let next := fun (u : State) =>
      schedule (onTile u (fun t => { t with sub := t.sub.dropDrain })) t ((.drainWritePerform, []) :: engineSteps t)
    if s.tile.sub.held.isSome then s
    else if windowClosed s t (.store 8 d.va d.w) then holdMatrix s { cause := .window, va := d.va, loads := false }
    else if walkStalls s t d.va .write d.mode then again (askData s t d.va .write d.mode) .drainWritePerform
    else match resolve s t d.mode { kind := .write, noDevice := true } d.va 8 with
      | .error e => holdMatrix (afterFault s t d.mode .write d.va e) { accessFault .write d.va e with loads := true, va := d.va }
      | .ok (tg, s1) =>
        match blockOf s1 t d.va tg false with
        | .held u => deferStep s u .drainWritePerform
        | .err => next (dropAt s1 ((servedBy s1 t d.va tg false).getD t))
        | .free => next (writeAt (atHome s1 tg true) tg 8 d.w.toNat)

/-- DRAIN_WRITE_PERFORM (R307). -/
def execDrainWritePerform (s : State) : Host.Outcome State Fault Refusal := event (takeTurn .drainWritePerform drainWrite) s

/-- MATRIX_FAULT_RESUME (R310): the member's queue goes on at the faulting element or doubleword. -/
def execMatrixFaultResume (s : State) : Host.Outcome State Fault Refusal :=
  event (supervised .matrixFaultResume (fun s =>
    if s.tile.sub.held.isSome then
      schedule (onTile s (fun t => { t with sub := { t.sub with held := none } })) s.tile.id
        ((.drainWritePerform, []) :: engineSteps s.tile.id)
    else s)) s

end Sys2Proof.Machine
end

