-- ==== Sys2Proof/Machine/Links.lean ====
section
/-! DEFINITION. The static network (R17, R18, R21, R88, R89, R314, R315, R381, R384, R385, R389): room at the far end of a link,
weirs and their spill rings, what a switch does to a token that it moves, and the suspect scores (R388). -/
namespace Sys2Proof.Machine

/- Suspect scores -/

/-- The index of a tile within its field (R388). -/
def indexIn (t : Nat) : Nat := rowOf t * 32 + colOf t

/-- SCORE and QUAR of a tile (R388). -/
def suspectOf (s : State) (t : Nat) : Word := smGet 0 (getField s (fieldOf t)).suspect (indexIn t)

/-- Add STEP to the suspect score of a tile (R388). -/
def addScore (s : State) (t : Nat) : State :=
  let w := suspectOf s t
  setSuspect s (fieldOf t) (indexIn t) (putBits w 0 8 (Nat.min 255 (bitsOf w 7 0 + bitsOf (getField s (fieldOf t)).quarCtl 15 8)))

/- Tokens -/

/-- CFG_TAG[11:0] of a tile, the ROUTE of the tokens that it injects (R385). -/
def Tile.routeId (t : Tile) : Nat := t.cfgTag.toNat % 4096

/-- An ERR token made at a tile (R312, R384). DEDUCED, log entry 42. -/
def errToken (t : Tile) : Token := { kind := .err, route := t.routeId }

/-- Count a replaced token (R384, R385). -/
def countRouteErr (s : State) (t : Nat) : State := updField s (fieldOf t) (fun f => { f with routeErr := f.routeErr + 1 })

/-- Is a token the CUT token of R370? -/
def Token.isCut (k : Token) : Bool := k.kind == .config && k.csub == 1

/-- A token as a weir passes it on: one whose residue fails becomes an ERR token (R384). -/
def weirToken (s : State) (t : Nat) (k : Token) : Token × State :=
  if residueOf k.payload = k.res then (k, s) else (errToken (getTile s t), countRouteErr s t)

/-- A token as the switch of tile `t` moves it on from input `p` (R384, R385): a failing residue or a foreign ROUTE makes it an ERR
token, and a foreign ROUTE scores against the neighbour. -/
def switchToken (s : State) (t p : Nat) (k : Token) : Token × State :=
  let u := getTile s t
  if residueOf k.payload ≠ k.res then (errToken u, countRouteErr s t)
  else if k.route ≠ u.routeId then
    let s1 := countRouteErr s t
    (errToken u, match neighbour t (p % 4) with
      | some n => addScore s1 n
      | none => s1)
  else (k, s)

/- Links -/

/-- The weir on an input of a tile. -/
def Tile.weir (t : Tile) (p : Nat) : Weir := smGet {} t.weirs p

/-- Change a weir. -/
def Tile.updWeir (t : Tile) (p : Nat) (g : Weir → Weir) : Tile := { t with weirs := smSet t.weirs p (g (t.weir p)) }

/-- Has a weir room for one more token: its 64 places, or the slots of its ring (R18, R88, R89)? -/
def Weir.room (w : Weir) : Bool :=
  decide (w.inflight.length + w.fifo.length < 64) || decide (w.ringCap ≠ 0 ∧ w.inflight.length + w.ring.length < w.ringCap)

/-- The input at the far end of output `p` of a tile: the neighbour and the port there. DEDUCED, log entry 70. -/
def farInput (t p : Nat) : Option (Nat × Nat) := (neighbour t (p % 4)).map (fun u => (u, p / 4 * 4 + opposite (p % 4)))

/-- The die-edge weir on the way out of an edge tile. -/
def Tile.rimOut (t : Tile) (p : Nat) : RimPort := smGet {} t.ports p

/-- Do both sides of a link that crosses a field boundary declare it as the same channel node (R147)? -/
def channelJoined (s : State) (t p u q : Nat) : Bool :=
  let a := (getTile s t).chan.getD p 0
  bitOf a 0 && a == (getTile s u).chan.getD q 0

/-- Change the rim-facing port of an edge tile. -/
def Tile.updPort (t : Tile) (p : Nat) (g : RimPort → RimPort) : Tile := { t with ports := smSet t.ports p (g (t.rimOut p)) }

/-- Is a present cistern or conduit attached to the rim edge of a tile (R21)? -/
def rimPresent (s : State) (t d : Nat) : Bool :=
  (cisternFacing t d).any (fun c => s.presentCisterns.getLsbD c) || (conduitFacing t d).any (fun c => s.presentConduits.getLsbD c)

/-- Does an input of a tile accept no token, since a cut marker has passed there or is on its way in its weir (R370)? -/
def Tile.cutClosed (t : Tile) (q : Nat) : Bool := t.cutFlags.contains q || (t.weir q).inflight.any Token.isCut

/-- Has the far end of output `p` of tile `t` room (R14, R17, R21, R147, R315, R370, R389)? A closed link is permanently full. -/
def linkRoom (s : State) (t p : Nat) : Bool :=
  match farInput t p with
  | none => rimPresent s t (p % 4) && decide ((Tile.rimOut (getTile s t) p).toRim.length < 64)
  | some (u, q) =>
    if !linkOpenOut s t (p % 4) (p / 4) then false
    else if sealed s u then true
    else if (getTile s u).cutClosed q then false
    else if crossesField t (p % 4) then channelJoined s t p u q && ((getTile s u).weir q).room
    else decide ((vget (getTile s u).swIn q []).length < 4)

/-- The step that takes what an edge tile sends toward the rim (R86, R403). -/
def rimStep (t p : Nat) : Instr × List Nat :=
  if (cisternFacing t (p % 4)).isSome then (.streamPortSinkToken, [p]) else (.rimOutputToken, [p])

/-- Put a token into a switch input FIFO of a tile. -/
def Tile.pushIn (t : Tile) (q : Nat) (k : Token) : Tile := { t with swIn := vset t.swIn q (vget t.swIn q [] ++ [k]) }

/-- Send a token over output `p` of tile `t`, which has room. Over a link that has failed the receiver sees an ERR token (R399). -/
def linkSend (s : State) (t p : Nat) (k0 : Token) : State :=
  let k := if s.deadLinks.contains (t * 8 + p) then errToken (getTile s t) else k0
  match farInput t p with
  | none =>
    schedule (updTile s t (fun u => u.updPort p (fun r => { r with toRim := r.toRim ++ [k] }))) t [rimStep t p]
  | some (u, q) =>
    if sealed s u then sealDrop s u
    else if crossesField t (p % 4) then
      schedule (updTile s u (fun a => a.updWeir q (fun w => { w with inflight := w.inflight ++ [{ k with inc := (getField s (fieldOf t)).inc }] })))
        u [(.weirIngress, [q])]
    else updTile s u (fun a => a.pushIn q k)

/-- A weir takes in its oldest token in flight (R18, R89, R381, R384, R385). A CUT token passes once what lies before it is stored, and takes a slot
of a spill ring that holds tokens (R370). DESIGN CHOICE, log entry 25. DEDUCED, log entry 47. -/
def weirTake (s : State) (t p : Nat) : State :=
  let w := (getTile s t).weir p
  match w.inflight with
  | [] => s
  | k :: r =>
    let f := fieldOf t
    let from_ := match neighbour t (p % 4) with
      | some u => fieldOf u
      | none => f
    let gone := updTile s t (fun a => a.updWeir p (fun x => { x with inflight := r }))
    if stale (smGet 0 (getField s f).incTable from_) k.inc then updField gone f (fun u => { u with incDrop := u.incDrop + 1 })
    else if k.isCut && residueOf k.payload == k.res then
      let route := if w.ringCap = 0 then k.route else (getTile s t).routeId
      if w.ring.isEmpty then scheduleAt gone t .cutMarkerArrival [p, route]
      else if w.ring.length < w.ringCap then
        scheduleAt (updTile gone t (fun u => u.updWeir p (fun x => { x with ring := x.ring ++ [k] }))) t .cutMarkerArrival [p, route]
      else s
    else
      let a := weirToken gone t k
      let k1 : Token := { a.1 with inc := 0, route := if w.ringCap = 0 then a.1.route else (getTile s t).routeId }
      if w.ring.isEmpty && decide (w.fifo.length < 64) then updTile a.2 t (fun u => u.updWeir p (fun x => { x with fifo := x.fifo ++ [k1] }))
      else if decide (w.ring.length < w.ringCap) then
        schedule (updTile a.2 t (fun u => u.updWeir p (fun x => { x with ring := x.ring ++ [k1] }))) t [(.spillRingDrain, [p])]
      else s

/-- A weir hands its oldest token to the switch input behind it (R17, R18). -/
def weirGive (s : State) (t p : Nat) : State :=
  let a := getTile s t
  match (a.weir p).fifo with
  | [] => s
  | k :: r =>
    if a.run = .killed then sealDrop (updTile s t (fun u => u.updWeir p (fun x => { x with fifo := r }))) t
    else if (vget a.swIn p []).length < 4 then updTile s t (fun u => (u.updWeir p (fun x => { x with fifo := r })).pushIn p k)
    else s

/-- WEIR_INGRESS (R18) at the input in argument 0: a token crosses the weir. -/
def execWeirIngress (s : State) : Host.Outcome State Fault Refusal :=
  event (fun s =>
    let t := s.tile.id
    let p := argAt s 0
    let s1 := weirGive (weirTake s t p) t p
    let w := s1.tile.weir p
    if w.inflight.isEmpty && w.fifo.isEmpty then s1 else again s1 .weirIngress) s

/-- SPILL_RING_DRAIN (R89) at the input in argument 0: the oldest token of the ring enters the weir when it has a place; a CUT token, whose marker
has been taken, goes no further (R370). -/
def execSpillRingDrain (s : State) : Host.Outcome State Fault Refusal :=
  event (fun s =>
    let t := s.tile.id
    let p := argAt s 0
    let w := s.tile.weir p
    match w.ring with
    | [] => s
    | k :: r =>
      if k.isCut || decide (w.fifo.length < 64) then
        let s1 := schedule (onTile s (fun u => u.updWeir p (fun x => { x with fifo := if k.isCut then x.fifo else x.fifo ++ [k], ring := r }))) t
          [(.weirIngress, [p])]
        if r.isEmpty then s1 else again s1 .spillRingDrain
      else again s .spillRingDrain) s

/-- KILLED_TILE_ERR_OUTPUT (R389) at the output in argument 0: a killed tile delivers an ERR token where the neighbour has room. -/
def execKilledTileErrOutput (s : State) : Host.Outcome State Fault Refusal :=
  event (fun s =>
    let t := s.tile
    if t.run ≠ .killed then s
    else if linkRoom s t.id (argAt s 0) then again (linkSend s t.id (argAt s 0) (errToken t)) .killedTileErrOutput
    else again s .killedTileErrOutput) s

/-- STATIC_LINK_FAILURE (R399) of the link in argument 0 out of the tile: from then on its receiver sees ERR tokens.
DEDUCED, log entry 43. -/
def execStaticLinkFailure (s : State) : Host.Outcome State Fault Refusal :=
  event (fun s => { s with deadLinks := insertNat (s.tile.id * 8 + argAt s 0) s.deadLinks }) s

end Sys2Proof.Machine
end

