-- ==== Sys2Proof/Machine/Ports.lean ====
section
/-! DEFINITION. The port instructions (R316 to R323), the record locks (R319) and the way of a core-output token to its link
(R314, R315). -/
namespace Sys2Proof.Machine

/- Record locks -/

/-- Put a lock entry of an output back (R319). -/
def Tile.setLock (t : Tile) (p e : Nat) : Tile :=
  { t with qlock := vset t.qlock (p / 4) (putBits (vget t.qlock (p / 4) 0) (16 * (p % 4)) 16 e) }

/-- A lock entry's SRC. -/
def lockSrc (e : Nat) : Nat := e / 1024 % 8
/-- A lock entry's REMAIN. -/
def lockRemain (e : Nat) : Nat := e % 256

/-- The record in progress on an output closes (R319): LOCKED and REMAIN go to 0, and so do FILT and SRC, which say by what and
from where the record in progress was opened (DEDUCED, log entry 31). RR stays. -/
def Tile.closeRecord (t : Tile) (p : Nat) : Tile :=
  let e := t.lock p
  if e.testBit 15 then t.setLock p (e / 2 ^ 13 % 2 * 2 ^ 13) else t

/-- Does a token open a record on an output? -/
def Tile.opens (t : Tile) (p : Nat) : Bool := !(t.locked p)

/-- Update the lock of output `p` for a token that passes from input `i` (R319): it may open a record, count in one, or close one. -/
def Tile.passRecord (t : Tile) (p i : Nat) (filt : Bool) (k : Token) : Tile :=
  let e := t.lock p
  if e.testBit 15 then
    if lockRemain e = 0 then (if k.kind = .marker then t.closeRecord p else t)
    else if lockRemain e = 1 then t.closeRecord p
    else t.setLock p (e - 1)
  else
    let len := bitsOf t.qrecCtl 7 0
    let rr := e / 8192 % 2
    let open_ := fun (n : Nat) => t.setLock p (2 ^ 15 + (if filt then 2 ^ 14 else 0) + rr * 2 ^ 13 + i * 2 ^ 10 + n)
    if len = 0 then (if k.kind = .marker then t else open_ 0)
    else if len = 1 then t else open_ (len - 1)

/-- RECORD_CLOSE (R319) at the output in argument 0. -/
def execRecordClose (s : State) : Host.Outcome State Fault Refusal := event (fun s => onTile s (·.closeRecord (argAt s 0))) s

/- Moving a token -/

/-- Take the head of a core-input queue. -/
def Tile.popPort (t : Tile) (p : Nat) : Tile := { t with coreIn := vset t.coreIn p ((vget t.coreIn p []).drop 1) }

/-- The head of a core-input queue. -/
def Tile.headPort (t : Tile) (p : Nat) : Option Token := (vget t.coreIn p []).head?

/-- Put a token unchanged into a core-output buffer; a send is stamped with its destination (R404). DEDUCED, log entry 41. -/
def Tile.moveOut (t : Tile) (p : Nat) (k : Token) : Tile :=
  t.pushOut p (if isSendPort t.id p then { k with dest := bitsOf t.optSend 35 32 } else k)

/-- The checks of a token that goes to an output: those of a send, then room (R131, R404). -/
def outReady (p : Nat) : Exec Unit := do
  let s ← look id
  match sendTrap s p with
  | some i => trap i
  | none => pure ()
  demand (s.tile.outRoom p) (waitPoint .full)

/-- Let what has entered a core-output buffer leave (R314). -/
def departs (p : Nat) : Exec Unit := update (fun s => schedule s s.tile.id [(.coreOutputDepart, [p])])

/-- The port of a port-register code. -/
def portOf (c : BitVec 6) : Nat := (c.toNat - 32) % 8

/-- QSEL (R317). DEDUCED, log entry 41. -/
def execQsel (d a b : BitVec 6) (s : State) : Host.Outcome State Fault Refusal :=
  run1 (do
    let t ← look (·.tile)
    let (o, pa, pb) := (portOf d, portOf a, portOf b)
    let e := t.lock o
    let lo := Nat.min pa pb
    let hi := Nat.max pa pb
    let has := fun (p : Nat) => (t.headPort p).isSome
    demand (!(t.locked o) || (!(e.testBit 14) && (lockSrc e == pa || lockSrc e == pb))) (waitPoint .full)
    let i := if t.locked o then lockSrc e
      else if has lo && has hi then (if e.testBit 13 then hi else lo)
      else if has lo then lo else hi
    match t.headPort i with
    | none => waitPoint .empty
    | some k =>
      outReady o
      updateTile (fun u =>
        let u1 := if u.opens o then u.setLock o (if e.testBit 13 then e - 2 ^ 13 else e + 2 ^ 13) else u
        ((u1.passRecord o i false k).popPort i).moveOut o k)
      departs o) s

/-- The second output of QFILT: the next direction clockwise on the same plane (R318). -/
def clockwise (p : Nat) : Nat := p / 4 * 4 + (p % 4 + 1) % 4

/-- QFILT (R318). DEDUCED, log entry 41. -/
def execQfilt (d a b : BitVec 6) (s : State) : Host.Outcome State Fault Refusal :=
  run1 (do
    let t ← look (·.tile)
    demand (!(t.streamBad false (.x b))) (illegal 4)
    demand (!(t.widthBad (.x b))) (illegal 8)
    let o1 := portOf d
    let o2 := clockwise o1
    let i := portOf a
    let mine := fun (p : Nat) => t.locked p && (t.lock p).testBit 14 && lockSrc (t.lock p) == i
    match t.headPort i with
    | none => waitPoint .empty
    | some k =>
      let started := if mine o1 then some o1 else if mine o2 then some o2 else none
      match started with
      | some o =>
        outReady o
        updateTile (fun u => ((u.passRecord o i true k).popPort i).moveOut o k)
        departs o
      | none =>
        let t1 := t.popPort i
        match availSrc t1 (.x b) with
        | some (c, e) => waitPoint c e
        | none => pure ()
        match examineSrc t t1 (.x b) with
        | some x => trap x
        | none => pure ()
        let o := if (t1.valueX b).1 ≠ 0 then o1 else o2
        demand (!(t.locked o)) (waitPoint .full)
        outReady o
        updateTile (fun u => u.popPort i)
        let _ ← takeX b
        updateTile (fun u => (u.passRecord o i true k).moveOut o k)
        departs o) s

/-- The checks of the destination of an inspecting instruction. -/
def checkDst (d : BitVec 6) (w : Option WaitCause) (e : Option TrapInfo) : Exec Unit := do
  let s ← look id
  demand (!(s.tile.streamBad true (.x d))) (illegal 4)
  demand (!(s.tile.widthBad (.x d))) (illegal 8)
  match w with
  | some c => waitPoint c
  | none => pure ()
  match e with
  | some i => trap i
  | none => pure ()
  checkOperands [] [.x d]

/-- QPEEK (R320): the examination of a port source, whose data token stays. -/
def execQpeek (d a : BitVec 6) (s : State) : Host.Outcome State Fault Refusal :=
  run1 (do
    checkOperands [.x a] [.x d]
    let v ← peekX a
    giveX d v) s

/-- The code of a token kind (R312). -/
def TokKind.code : TokKind → Nat
  | .data => 0 | .marker => 1 | .err => 2 | .config => 3

/-- The status word of QTRY (R321). -/
def qtryWord (l : List Token) : Word :=
  match l with
  | [] => 0
  | k :: _ => at_ 8 l.length ||| at_ 7 1 ||| at_ 5 k.kind.code ||| at_ 2 k.level

/-- QTRY (R320, R321). -/
def execQtry (d a : BitVec 6) (s : State) : Host.Outcome State Fault Refusal :=
  run1 (do
    checkDst d none none
    let l ← look (fun s => vget s.tile.coreIn (portOf a) [])
    giveX d (qtryWord l)) s

/-- QLVL (R320); a marker or a configuration token that it would take is checked first (R384). -/
def execQlvl (d a : BitVec 6) (s : State) : Host.Outcome State Fault Refusal :=
  run1 (do
    let h ← look (fun s => s.tile.headPort (portOf a))
    checkDst d (if h.isNone then some .empty else none)
      (match h with
       | some k => if k.kind = .err then some { cause := .portErr, port := portOf a, eat := some (portOf a) } else if k.kind = .data then none else residueTrap k
       | none => none)
    match h with
    | none => pure ()
    | some k =>
      demand (k.kind == .data) (updateTile (fun u => u.popPort (portOf a)))
      giveX d (match k.kind with
        | .marker => BitVec.ofNat 64 k.level
        | .config => 8
        | _ => 0)) s

/-- QEND (R322). -/
def execQend (d : BitVec 6) (l : BitVec 3) (s : State) : Host.Outcome State Fault Refusal :=
  run1 (do
    let p := portOf d
    let t ← look (·.tile)
    let st ← look id
    match sendTrap st p with
    | some i => trap i
    | none => pure ()
    demand (!(t.locked p)) (waitPoint .full)
    outReady p
    updateTile (fun u => u.pushOut p (u.marker l.toNat))
    departs p) s

/-- BQPUSH (R323). -/
def execBqpush (a : BitVec 6) (s : State) : Host.Outcome State Fault Refusal :=
  run1 (do
    checkOperands [.x a] [.x 50]
    let v ← takeX a
    giveX 50 v) s

/- Core outputs and the switch's word -/

/-- The selectors of a switch word (R218). -/
def selOf : Instr → BitVec 30
  | .route sel _ | .routen sel _ _ | .sjmp sel _ _ | .sbnz sel _ _ _ | .sbq sel _ _ | .swaitm sel _ _ _ | .smcast sel _ => sel
  | _ => 0

/-- Selector `i` of a word: 0 to 7 the link outputs, 8 and 9 the core-input ports of the planes. -/
def selector (sel : BitVec 30) (i : Nat) : Nat := sel.toNat / 2 ^ (3 * i) % 8

/-- Does the switch leave an output free to the core (R314)? DEDUCED, log entry 42. -/
def Switch.leavesFree (w : Switch) (p : Nat) : Bool :=
  match w.st with
  | .halted => true
  | .running => (match w.word, w.last with
    | some i, _ => selector (selOf i) p == 0
    | none, some i => selector (selOf i) p == 0
    | none, none => false)
  | _ => false

/-- A token of the core has entered the die-edge weir: where a fence awaits it, the fence now awaits it there (R430). -/
def Tile.passFence (t : Tile) (p : Nat) : Tile :=
  if (t.rimOut p).coreFence = 0 then t
  else t.updPort p (fun r => { r with coreFence := r.coreFence - 1, fence := r.toRim.length })

/-- CORE_OUTPUT_DEPART (R314) of the output in argument 0. A tile that a cut has stopped keeps its core outputs, behind the marker (R369). -/
def execCoreOutputDepart (s : State) : Host.Outcome State Fault Refusal :=
  event (fun s =>
    let t := s.tile
    let p := argAt s 0
    match vget t.coreOut p [] with
    | [] => s
    | k :: r =>
      if t.run ≠ .killed && !t.cutMarked && t.sw.leavesFree p && linkRoom s t.id p then
        let s1 := onTile (linkSend (onTile s (fun u => { u with coreOut := vset u.coreOut p r })) t.id p k) (fun u => u.passFence p)
        if r.isEmpty then s1 else again s1 .coreOutputDepart
      else again s .coreOutputDepart) s

end Sys2Proof.Machine
end

