-- ==== Sys2Proof/Machine/CtlRegs.lean ====
section
/-! DEFINITION. The control registers (R7, R217, R335, R336 and the register maps): what each reads, who may write it, which values
break its map, and what a write does; the steps of a TILE_SPLIT or CLUSTER_POOL change (R58, R67). -/
namespace Sys2Proof.Machine

/-- Who may write a register: everyone; the supervisor (PRIV in user mode); nobody, with each field unchanged; nobody, with ILLEGAL;
or, for PASS_PC, everyone while a passed trap awaits its report's HRET and otherwise nobody (PRIV) (R362). -/
inductive CrAccess where
  | all
  | sup
  | ro
  | fixed
  | passPc
  deriving DecidableEq, Repr

/-- The access of a control register; none for a number that no map assigns (R217, R336). -/
def crAccess (n : Nat) : Option CrAccess :=
  if n = 0x20 then some .all
  else if n = 0x40 ∨ n = 0x41 then some .ro
  else if 0x42 ≤ n ∧ n ≤ 0x44 then some .fixed
  else if 0x45 ≤ n ∧ n ≤ 0x48 then some .sup
  else if n = 0x49 then some .ro
  else if n = 0x4A ∨ n = 0x4B then some .fixed
  else if n = 0x4C then some .passPc
  else if n = 0x50 ∨ n = 0x51 ∨ n = 0x53 then some .sup
  else if n = 0x52 then some .ro
  else if 0x54 ≤ n ∧ n ≤ 0x57 then some .sup
  else if 0x60 ≤ n ∧ n ≤ 0x6F then some .sup
  else if n = 0x70 then some .all
  else if 0x78 ≤ n ∧ n ≤ 0x90 then some .sup
  else if n = 0x98 then some .fixed
  else if n = 0x99 ∨ n = 0x9A then some .all
  else if n = 0x9C ∨ n = 0x9D then some .sup
  else if 0x9E ≤ n ∧ n ≤ 0xA0 then some .fixed
  else if n = 0xA4 then some .all
  else if n = 0xA8 then some .sup
  else if 0xB0 ≤ n ∧ n ≤ 0xBB then some .sup
  else if 0xC0 ≤ n ∧ n ≤ 0xCF then some .fixed
  else if 0xD0 ≤ n ∧ n ≤ 0xDF then some .all
  else if 0xE0 ≤ n ∧ n ≤ 0xE4 then some .fixed
  else if n = 0xE8 ∨ n = 0xE9 then some .sup
  else if 0x100 ≤ n ∧ n ≤ 0x17F then some .fixed
  else none

/-- Four 16-bit entries in one doubleword, the lowest first. -/
def pack16 (l : List Nat) : Word := (l.zipIdx).foldl (fun w p => w ||| at_ (16 * p.2) (p.1 % 65536)) 0

/-- LOOP entry `i` as it reads: zero at or above DEPTH (R252). -/
def Loops.entry (l : Loops) (i : Nat) : LoopEntry :=
  if i < l.depth then vget l.entries i { start := 0, count := 0, len := 0, level := 0 } else { start := 0, count := 0, len := 0, level := 0 }

/-- SW_MCWn (R332). -/
def mcwWord (t : Tile) (pl : Nat) : Word :=
  match t.sw.word with
  | some (.smcast _ _) =>
    let c := fun (i : Nat) => t.sw.moved.getD i 0
    at_ 28 (c (8 + pl)) ||| at_ 21 (c (4 * pl + 3)) ||| at_ 14 (c (4 * pl + 2)) ||| at_ 7 (c (4 * pl + 1)) ||| at_ 0 (c (4 * pl))
  | _ => 0

/-- Is bank `b` a scratch bank (R54)? -/
def Tile.isScratchBank (t : Tile) (b : Nat) : Bool := decide (b < t.tileSplit)

/-- TOUCHn (R416). -/
def touchWord (t : Tile) (n : Nat) : Word :=
  pack16 ((List.range 4).map (fun k => match t.touch[4 * n + k]? with
    | some i => 0x8000 + i
    | none => 0))

/-- The value of a control register. COPY_LEAD of a tile in no partition, to which the spec gives no value, reads as zero (R116; DESIGN CHOICE,
log entry 2). -/
def crRead (s : State) (n : Nat) : Word :=
  let t := s.tile
  match n with
  | 0x20 => t.coreStatus
  | 0x40 => t.xfaultVa
  | 0x41 => t.xfaultInfo
  | 0x42 => t.classInfo
  | 0x43 => t.strayInfo
  | 0x44 => t.cwaitGen
  | 0x45 => t.trapCause
  | 0x46 => t.trapPc
  | 0x47 => t.trapVec
  | 0x48 => BitVec.ofNat 64 t.replay.length
  | 0x49 => t.replayPc
  | 0x4A => t.residueInfo
  | 0x4B => t.topoInfo
  | 0x4C => if bitOf t.trapCause 27 then t.passPc else 0
  | 0x50 => BitVec.ofNat 64 t.tileSplit
  | 0x51 => (getCluster s (clusterOf t.id)).pool
  | 0x52 => t.cfgTag.zeroExtend 64
  | 0x53 => (getCluster s (clusterOf t.id)).mqw
  | 0x70 => t.fetchCtl
  | 0x98 => t.inboxInfo
  | 0x99 => t.tokenCfg
  | 0x9A => t.qrecCtl
  | 0x9C => vget t.qlock 0 0
  | 0x9D => vget t.qlock 1 0
  | 0x9E => mcwWord t 0
  | 0x9F => mcwWord t 1
  | 0xA0 => if (partOfTile s t.id).isSome then BitVec.ofNat 64 (nearestCistern s t.id) else 0
  | 0xA4 => t.optSend
  | 0xA8 => at_ 16 t.loops.depth ||| at_ 0 t.loops.level
  | 0xE4 => boolW t.touchFull
  | 0xE8 => t.corrCnt
  | 0xE9 => t.discardCnt
  | _ =>
    if 0x54 ≤ n ∧ n ≤ 0x57 then pack16 ((List.range 4).map (fun k => (vget t.bankSucc (4 * (n - 0x54) + k) 0).toNat))
    else if 0x60 ≤ n ∧ n ≤ 0x6F then (if t.isScratchBank (n - 0x60) then (vget t.bankToken (n - 0x60) 0).zeroExtend 64 else 0)
    else if 0x78 ≤ n ∧ n ≤ 0x90 then vget t.counters (n - 0x78) 0
    else if 0xB0 ≤ n ∧ n ≤ 0xB3 then (t.loops.entry (n - 0xB0)).start
    else if 0xB4 ≤ n ∧ n ≤ 0xB7 then (t.loops.entry (n - 0xB4)).count
    else if 0xB8 ≤ n ∧ n ≤ 0xBB then at_ 16 (t.loops.entry (n - 0xB8)).len ||| at_ 0 (t.loops.entry (n - 0xB8)).level
    else if 0xC0 ≤ n ∧ n ≤ 0xCF then vget t.fmt (n - 0xC0) 0
    else if 0xD0 ≤ n ∧ n ≤ 0xDF then vget t.scale (n - 0xD0) 0
    else if 0xE0 ≤ n ∧ n ≤ 0xE3 then touchWord t (n - 0xE0)
    else if 0x100 ≤ n ∧ n ≤ 0x17F then
      let c := (n - 0x100) / 2
      if n % 2 = 0 then vget t.htPc c 0 else vget t.htCtl c 0 ||| at_ 4 (if t.htRun c then 1 else 0)
    else 0

/-- The reserved bits of a register that a write may be allowed to (R7). R362 gives REPLAY_PC as a code address and TRAP_VEC as
the trap entry in [63:2], and names no reserved bits of either: bits [1:0] are taken as reserved, as those of TRAP_PC are. R60 says of CFG_TAG only that [63:16]
read as zero: they too are taken as reserved (DESIGN CHOICE, log entry 74). -/
def crReserved (n : Nat) : Word :=
  match n with
  | 0x20 => ~~~0x3FF#64
  | 0x41 => 0xFFF000E0#64
  | 0x45 => 0xFFFFFFFF060070F0#64
  | 0x46 => 3#64
  | 0x47 => 3#64
  | 0x48 => ~~~0x1F#64
  | 0x49 => 3#64
  | 0x4C => 3#64
  | 0x50 => ~~~0x1F#64
  | 0x51 => ~~~0xFF07#64
  | 0x52 => ~~~0xFFFF#64
  | 0x70 => ~~~0xFF#64
  | 0x99 => ~~~0x13F0F#64
  | 0x9A => ~~~0xFF#64
  | 0x9C => 0x0300030003000300#64
  | 0x9D => 0x0300030003000300#64
  | 0xA4 => ~~~0x7FFFFFFFFF#64
  | 0xA8 => ~~~0x7FFFF#64
  | _ =>
    if 0x60 ≤ n ∧ n ≤ 0x6F then ~~~0xFFFF#64
    else if 0xB0 ≤ n ∧ n ≤ 0xB3 then 3#64
    else if 0xB8 ≤ n ∧ n ≤ 0xBB then ~~~0xFFFFFFF#64
    else 0

/-- Is a value one of the legal splits of R54? -/
def splitLegal (n : Nat) : Bool := [0, 8, 12, 14, 15, 16].contains n

/-- Does storing a value break the register's map (R7, R54, R64, R72, R176, R252, R313, R362, R436)? -/
def crBreaks (s : State) (n : Nat) (v : Word) : Bool :=
  let t := s.tile
  (v &&& crReserved n) != 0 ||
  match n with
  | 0x20 => !coreStatusLegal v
  | 0x48 => v != 0 && v.toNat != t.replay.length
  | 0x50 => !splitLegal v.toNat
  | 0x51 => decide (4 < bitsOf v 2 0)
  | 0x70 => decide (8 < bitsOf v 3 0)
  | 0x99 => bitOf v 16 && !(decide (32 ≤ bitsOf v 13 8 ∧ bitsOf v 13 8 ≤ 47))
  | 0xA4 => bitsOf v 38 32 != bitsOf t.optSend 38 32 && decide (0 < vget t.openChunk 0 0 ∨ 0 < vget t.openChunk 1 0)
  | 0xA8 => decide (4 < bitsOf v 18 16) ||
      (List.range 4).any (fun i => decide (t.loops.depth ≤ i ∧ i < bitsOf v 18 16) &&
        (vget t.loops.entries i { start := 0, count := 0, len := 0, level := 0 }).len == 0)
  | _ =>
    if 0x60 ≤ n ∧ n ≤ 0x6F then !t.isScratchBank (n - 0x60)
    else if 0xB8 ≤ n ∧ n ≤ 0xBB then bitsOf v 27 16 == 0
    else false

/-- Change a stored loop entry. -/
def Tile.setLoop (t : Tile) (i : Nat) (g : LoopEntry → LoopEntry) : Tile :=
  { t with loops := { t.loops with
      entries := vset t.loops.entries i (g (vget t.loops.entries i { start := 0, count := 0, len := 0, level := 0 })) } }

/-- Cycles that a change of the machine's shape holds the thread (R58, R67, R138): a handler's count under CYC_HANDLER, others under STALL_PARK. -/
def Tile.countHeld (t : Tile) (n : Nat) : Tile := t.count (if t.intr.isSome then 16 else 12) n

/-- The lines of a tile's banks that leave the cache when `n` banks are scratch (R55, R58): bank 15 - k holds the sets from 128 k on (DESIGN CHOICE,
log entry 34). -/
def leavingLine (t : Tile) (n : Nat) (d : DLine) : Bool := decide (128 * (16 - n) ≤ cacheSet (cacheBanks t) d.line)

/-- The lines that a change of TILE_SPLIT drops: of the tile's cache, and of the pool's in its ways. -/
def leavingLines (s : State) (id n : Nat) : List DLine :=
  let t := getTile s id
  t.dcache.filter (leavingLine t n) ++ (getCluster s (clusterOf id)).poolLines.filter (fun d => d.member == memberOf id && leavingLine t n d)

/-- The cycles of a change of TILE_SPLIT (R58): one for each dirty line that leaves, and 1,024 where banks join scratch. -/
def splitCycles (s : State) (id n : Nat) : Nat :=
  ((leavingLines s id n).filter (·.dirty)).length + (if (getTile s id).tileSplit < n then 1024 else 0)

/-- The steps of a change of TILE_SPLIT (R58): dirty lines in banks that leave the cache are written back and all of them go, banks that join
scratch are zero and open, banks that leave scratch lose their contents. Lines that stay are kept, also where their sets change (DESIGN CHOICE, log
entry 59). DEDUCED, log entry 59. -/
def changeSplit (s : State) (id n : Nat) : State :=
  let t := getTile s id
  let old := t.tileSplit
  let lo := Nat.min old n
  let hi := Nat.max old n
  let s0 := (leavingLines s id n).foldl writeBack s
  let s1 := updCluster s0 (clusterOf id) (fun c =>
    { c with poolLines := c.poolLines.filter (fun d => !(d.member == memberOf id && leavingLine t n d)) })
  updTile (clearRange s1 (scratchKey id (lo * 65536)) (scratchKey id (hi * 65536))) id (fun u => { u with
    tileSplit := n
    dcache := u.dcache.filter (fun d => !leavingLine t n d)
    bankToken := Vector.ofFn (fun b : Fin 16 => if lo ≤ b.val ∧ b.val < hi then 0 else vget u.bankToken b.val 0)
    dirtyGranules := (List.range ((n - old) * 16)).foldl (fun l i => insertNat (old * 16 + i) l) u.dirtyGranules })

/-- The ways of a tile's cache shrink to `ways` of each set (R65): the oldest lines go. -/
def trimWays (s : State) (id ways : Nat) : State :=
  let t := getTile s id
  let inSet := fun (d e : DLine) => cacheSet (cacheBanks t) e.line == cacheSet (cacheBanks t) d.line
  let q := t.dcache.foldl (fun (q : List DLine × List DLine) d =>
    if (q.1.filter (inSet d)).length < ways then (q.1 ++ [d], q.2) else (q.1, q.2 ++ [d])) ([], [])
  if q.2.isEmpty then s else q.2.foldl writeBack (updTile s id (fun u => { u with dcache := q.1 }))

/-- A change of CLUSTER_POOL (R65, R67): every dirty line of the pool is written back and the pool is emptied; then the new shape applies, and lines
that stand in ways given to it leave as evictions during the change do. -/
def changePool (s : State) (cl : Nat) (v : Word) : State :=
  let s1 := (getCluster s cl).poolLines.foldl writeBack s
  let s2 := updCluster s1 cl (fun c => { c with pool := v, poolLines := [] })
  ((List.range 8).filter (contributes s2 cl)).foldl (fun u i => trimWays u (memberTile cl i) (8 - poolWays u cl)) s2

/-- Does the format of a binding use TXR (R180)? -/
def Tile.usesTxr (t : Tile) (b : Binding) : Bool := bitsOf (vget t.fmt b.fmtN 0) 4 0 == 18

/-- Write CORE_STATUS, with the refetch of R184. -/
def Tile.writeStatus (t : Tile) (v : Word) : Tile :=
  let u := { t with coreStatus := v }
  if bitOf v 3 = txrOf t then u else u.refetch t.usesTxr

/-- Write a format register, with the refetch of R184. -/
def Tile.setFmt (t : Tile) (n : Nat) (w : Word) : Tile :=
  ({ t with fmt := vset t.fmt n w }).refetch (fun b => b.fmtN == n)

/-- What a legal write of a control register does. -/
def crStore (s : State) (n : Nat) (v : Word) : State :=
  let tile := fun (g : Tile → Tile) => onTile s g
  match n with
  | 0x20 => tile (·.writeStatus v)
  | 0x45 => tile (fun t => { t with trapCause := (v &&& ~~~0x8000000#64) ||| (t.trapCause &&& 0x8000000#64) })
  | 0x46 => tile (fun t => { t with trapPc := v })
  | 0x47 => tile (fun t => { t with trapVec := v })
  | 0x48 => if v = 0 then tile (fun t => { t with replay := [] }) else s
  | 0x4C => tile (fun t => { t with passPc := v })
  | 0x50 => onTile (changeSplit s s.tile.id v.toNat) (fun t => t.countHeld (splitCycles s s.tile.id v.toNat))
  | 0x51 => onTile (changePool s (clusterOf s.tile.id) v) (fun t =>
      t.countHeld ((getCluster s (clusterOf s.tile.id)).poolLines.filter (·.dirty)).length)
  | 0x53 => updCluster s (clusterOf s.tile.id) (fun c => { c with mqw := v })
  | 0x70 => tile (fun t => { t with fetchCtl := v })
  | 0x99 => tile (fun t => { t with tokenCfg := v })
  | 0x9A => tile (fun t => { t with qrecCtl := v })
  | 0x9C => tile (fun t => { t with qlock := vset t.qlock 0 v })
  | 0x9D => tile (fun t => { t with qlock := vset t.qlock 1 v })
  | 0xA4 => tile (fun t => { t with optSend := v })
  | 0xA8 => tile (fun t => { t with loops := { t.loops with depth := bitsOf v 18 16, level := bitsOf v 15 0 } })
  | 0xE8 => tile (fun t => { t with corrCnt := v })
  | 0xE9 => tile (fun t => { t with discardCnt := v })
  | _ =>
    if 0x54 ≤ n ∧ n ≤ 0x57 then
      tile (fun t => { t with bankSucc := (List.range 4).foldl (fun w k =>
        vset w (4 * (n - 0x54) + k) (BitVec.ofNat 16 (bitsOf v (16 * k + 15) (16 * k)))) t.bankSucc })
    else if 0x60 ≤ n ∧ n ≤ 0x6F then tile (fun t => { t with bankToken := vset t.bankToken (n - 0x60) (v.setWidth 16) })
    else if 0x78 ≤ n ∧ n ≤ 0x90 then tile (fun t => { t with counters := vset t.counters (n - 0x78) v })
    else if 0xB0 ≤ n ∧ n ≤ 0xB3 then tile (fun t => t.setLoop (n - 0xB0) (fun e => { e with start := v }))
    else if 0xB4 ≤ n ∧ n ≤ 0xB7 then tile (fun t => t.setLoop (n - 0xB4) (fun e => { e with count := v }))
    else if 0xB8 ≤ n ∧ n ≤ 0xBB then tile (fun t => t.setLoop (n - 0xB8) (fun e => { e with len := bitsOf v 27 16, level := bitsOf v 15 0 }))
    else if 0xD0 ≤ n ∧ n ≤ 0xDF then tile (fun t => t.setScale (n - 0xD0) v)
    else s

/-- May the mode write the register (R336)? DEDUCED, log entry 45. -/
def crMayWrite (t : Tile) (a : CrAccess) : Bool :=
  match a with
  | .sup => t.mode == .supervisor
  | .passPc => bitOf t.trapCause 27
  | _ => true

/-- CRR (R335). -/
def execCrr (d : BitVec 6) (n : BitVec 12) (s : State) : Host.Outcome State Fault Refusal :=
  run1 (do
    let bad ← look (fun s => s.tile.streamBad true (.x d))
    demand (!bad) (illegal 4)
    demand (crAccess n.toNat).isSome (illegal 5)
    checkOperands [] [.x d]
    let v ← look (fun s => crRead s n.toNat)
    giveX d v) s

/-- A write of a control register (R335, R336): `f` computes the new value from the old one and the source. A change of TILE_SPLIT parks
first (R58). DEDUCED, log entry 59. -/
def crWrite (a : BitVec 6) (n : Nat) (f : Word → Word → Word) (s : State) : Host.Outcome State Fault Refusal :=
  run1 (do
    let t ← look (·.tile)
    demand (!(t.streamBad false (.x a))) (illegal 4)
    match crAccess n with
    | none => illegal 5
    | some acc =>
      demand (crMayWrite t acc) (trap { cause := .priv })
      demand (acc != .fixed) (illegal 7)
      checkOperands [.x a] []
      let old ← look (fun s => crRead s n)
      let x ← takeX a
      let st ← look id
      let v := f old x
      demand (!(crBreaks st n v)) (illegal 7)
      demand (n != 0x50 || v == old) parkFirst
      update (fun s => crStore s n v)) s

/-- CRW (R335). -/
def execCrw (a : BitVec 6) (n : BitVec 12) (s : State) : Host.Outcome State Fault Refusal := crWrite a n.toNat (fun _ x => x) s

/-- CRS (R335). -/
def execCrs (a : BitVec 6) (n : BitVec 12) (s : State) : Host.Outcome State Fault Refusal := crWrite a n.toNat (fun o x => o ||| x) s

/-- CRC (R335). -/
def execCrc (a : BitVec 6) (n : BitVec 12) (s : State) : Host.Outcome State Fault Refusal := crWrite a n.toNat (fun o x => o &&& ~~~x) s

/- The same writes as steps of the hardware: a value that breaks the map changes nothing -/

/-- Write a register unless the value breaks its map. -/
def crApply (s : State) (n : Nat) (v : Word) : State := if crBreaks s n v then s else crStore s n v

/-- TILE_SPLIT_WRITE (R58) of the value in argument 0. -/
def execTileSplitWrite (s : State) : Host.Outcome State Fault Refusal := event (fun s => crApply s 0x50 (BitVec.ofNat 64 (argAt s 0))) s

/-- CLUSTER_POOL_WRITE (R67) of the value in argument 0. -/
def execClusterPoolWrite (s : State) : Host.Outcome State Fault Refusal := event (fun s => crApply s 0x51 (BitVec.ofNat 64 (argAt s 0))) s

/-- LOOP_CTL_WRITE (R252) of the value in argument 0. -/
def execLoopCtlWrite (s : State) : Host.Outcome State Fault Refusal := event (fun s => crApply s 0xA8 (BitVec.ofNat 64 (argAt s 0))) s

/-- REPLAY_CTL_WRITE (R363) of the value in argument 0. -/
def execReplayCtlWrite (s : State) : Host.Outcome State Fault Refusal := event (fun s => crApply s 0x48 (BitVec.ofNat 64 (argAt s 0))) s

/-- TOKEN_CFG_WRITE (R313) of the value in argument 0. -/
def execTokenCfgWrite (s : State) : Host.Outcome State Fault Refusal := event (fun s => crApply s 0x99 (BitVec.ofNat 64 (argAt s 0))) s

/-- OPT_SEND_WRITE (R436) of the value in argument 0. -/
def execOptSendWrite (s : State) : Host.Outcome State Fault Refusal := event (fun s => crApply s 0xA4 (BitVec.ofNat 64 (argAt s 0))) s

/-- FORMAT_STATE_CHANGE (R184): kind 0 writes SCALE number argument 1, kind 1 FMT number argument 1, any other kind TXR. -/
def execFormatStateChange (s : State) : Host.Outcome State Fault Refusal :=
  event (fun s =>
    let n := argAt s 1
    let v := BitVec.ofNat 64 (argAt s 2)
    match argAt s 0 with
    | 0 => onTile s (·.setScale n v)
    | 1 => if fmtLegal v then onTile s (·.setFmt n v) else s
    | _ => onTile s (fun t => t.writeStatus (putBits t.coreStatus 3 1 (argAt s 2)))) s

/-- BANK_TOKEN_WRITE (R62) of bank argument 0 with the value in argument 1. -/
def execBankTokenWrite (s : State) : Host.Outcome State Fault Refusal :=
  event (fun s => crApply s (0x60 + argAt s 0 % 16) (BitVec.ofNat 64 (argAt s 1))) s

end Sys2Proof.Machine
end

