-- ==== Sys2Proof/Machine/Fetch.lean ====
section
/-! DEFINITION. Instruction fetch (R39, R45, R68 to R75): the first-level cache, misses and fills, sequential prefetch and IPREF; the
walker's requests for fetches (R43, R44); the signature classes and CALLR (R248, R415); DPREF, CFLUSH and CINV (R295); TLBINV and IFENCE (R51, R70, R352, R353). -/
namespace Sys2Proof.Machine

/- The first-level cache -/

/-- Put a line into a level of `sets` sets of `ways` ways, which its physical address selects (R68); the oldest line of the set leaves (replacement is
not architectural). DESIGN CHOICE, log entry 34. -/
def lineFill (sets ways : Nat) (l : List ILine) (e : ILine) : List ILine :=
  (assocPut (fun f => f.pa == e.pa) (fun f => f.pa % sets == e.pa % sets) ways l e).1

/-- The first level: 32 KiB of 4 ways (R68). -/
def l1Fill (l : List ILine) (e : ILine) : List ILine := lineFill 128 4 l e
/-- The second level: 512 KiB of 8 ways. -/
def l2Fill (l : List ILine) (e : ILine) : List ILine := lineFill 1024 8 l e
/-- The third level: 16 MiB of 16 ways. -/
def l3Fill (l : List ILine) (e : ILine) : List ILine := lineFill 16384 16 l e

/-- The bytes of the line at a physical line address, if a level holds them. -/
def lineFind (l : List ILine) (pa : Nat) : Option (BitVec 512) := (l.find? (fun e => e.pa == pa)).map (·.bytes)

/-- What stands in the way of fetching an address whatever the page tables hold: R26, R27, R31, R32, and EXEC for the windows that
hold no executable bytes (R39). An offset of the place window beyond the target's scratch is for the target tile to find (R31), and no fetch goes
there, so it raises EXEC as well (DESIGN CHOICE, log entry 85). -/
def fetchBad (s : State) (t : Nat) (va : Word) : Option XErr :=
  match regionOf va with
  | .error e => some e
  | .ok .global | .ok .code | .ok (.owner _) => none
  | .ok (.place rank _) => some (if tileCount s (partNo s t) ≤ rank then { prot := false, sub := 4 } else { prot := true, sub := 2 })
  | .ok (.localScr off) => some (if scratchSize (getTile s t) ≤ off then { prot := false, sub := 6 } else { prot := true, sub := 2 })
  | .ok .device | .ok (.descr _) => some { prot := true, sub := 2 }

/-- The buffered leaf through which tile `t` may execute at an address (R34, R42, R50). -/
def execLeaf (s : State) (t : Nat) (va : Word) (m : Mode) : Option TlbEntry := bufferedLeaf s t va .exec m

/-- What a fetch of an address finds. -/
inductive Fetched where
  | bits (line : BitVec 512) (off : Nat)
  | line
  | xlate
  | bad (e : XErr)

/-- Look an address up in the tile's translation buffers and first-level cache. -/
def fetchAt (s : State) (t : Nat) (va : Word) (m : Mode) : Fetched :=
  match fetchBad s t va with
  | some e => .bad e
  | none =>
    match execLeaf s t va m with
    | none => .xlate
    | some e =>
      let pa := leafPa e va
      match lineFind (getTile s t).icache (pa / 64) with
      | some b => .bits b (pa % 64)
      | none => .line

/- Misses and the walker -/

/-- Does a fetch of the tile await a walk? -/
def walkPending (s : State) (t : Nat) (fsw : Bool) : Bool :=
  let f := getField s (fieldOf t)
  (f.walkQ ++ f.walks).any (fun r => r.tile == t && r.forSwitch == fsw && r.kind == 2)

/-- Ask the field's walker for the page of a fetch (R43). While the 16 miss entries of the cluster are all pending, another page finds no room, and
its requester stalls. The walker's 2,048 entries are those of its 128 clusters. -/
def askWalk (s : State) (t : Nat) (va : Word) (fsw : Bool) (m : Mode) : State :=
  if walkPending s t fsw then s else askMiss s { page := va.toNat / 4096, tile := t, forSwitch := fsw, mode := m }

/-- The miss of the thread or of the switch of a tile. -/
def Tile.missOf (t : Tile) (fsw : Bool) : Option FetchMiss := if fsw then t.swMiss else t.fetchMiss

/-- Set the miss of the thread or of the switch. -/
def Tile.setMiss (t : Tile) (fsw : Bool) (m : Option FetchMiss) : Tile := if fsw then { t with swMiss := m } else { t with fetchMiss := m }

/-- The steps that a miss waits for. -/
def missSteps (t : Nat) (xlate : Bool) : List (Instr × List Nat) :=
  if xlate then [(.walkStart, [fieldOf t]), (.walkComplete, [fieldOf t])] else [(.fetchFill, [])]

/-- Does a level (1 to 3) that serves tile `t` hold a line? -/
def levelHolds (s : State) (t pa level : Nat) : Bool :=
  (match level with
   | 1 => lineFind (getTile s t).icache pa
   | 2 => lineFind (getCluster s (clusterOf t)).l2 pa
   | _ => lineFind (getField s (fieldOf t)).l3 pa).isSome

/-- The level that supplies a line to level `level`: 0 the second, 1 the third, 2 memory (R68). -/
def supplyLevel (s : State) (t pa level : Nat) : Nat :=
  if level ≤ 1 && levelHolds s t pa 2 then 0 else if level ≤ 2 && levelHolds s t pa 3 then 1 else 2

/-- The counter that is charged with the wait of a miss (R74): that of the level that supplies its line, memory where no buffered leaf says which line
that is. -/
def chargedTo (s : State) (fsw : Bool) (m : FetchMiss) : Nat :=
  (if fsw then 5 else 0) + match execLeaf s s.tile.id m.va s.tile.mode with
    | some e => supplyLevel s s.tile.id (leafPa e m.va / 64) 1
    | none => 2

/-- A turn of a sequencer that waits for a fetch (R43, R45, R74): its miss is registered or goes on, and a walk is asked for where a translation is
missing. `counts` says that the turn counts toward what the supplying level is charged. The turns of a miss for another address, which a trap or a
handler has put aside, are charged now. -/
def missTurn (s : State) (va : Word) (fsw xlate counts : Bool) : State :=
  let t := s.tile
  let old := match t.missOf fsw with
    | some m => if m.va = va then m.waited else 0
    | none => 0
  let s0 := match t.missOf fsw with
    | some m => if m.va = va then s else onTile s (fun u => u.count (chargedTo s fsw m) m.waited)
    | none => s
  let s1 := onTile s0 (fun u => u.setMiss fsw (some { va := va, waited := old + (if counts && !xlate then 1 else 0) }))
  if xlate then askWalk s1 t.id va fsw t.mode else s1

/-- What a fetch of the thread that misses makes it do (R45, R68, R74): wait, with its miss registered or going on, or raise the fault of its walk. A turn
counts toward what the supplying level is charged, but in a handler, which counts under CYC_HANDLER alone (R138). A handler's fetch waits for the miss
of the thread that it interrupted. -/
def fetchStop (s : State) (va : Word) (xlate : Bool) : Stop :=
  let t := s.tile
  let wait := Stop.wait (if xlate then .xlate else .fetch) false (missSteps t.id xlate) (some (missTurn s va false xlate t.intr.isNone))
  match t.fetchMiss with
  | none => wait
  | some m => match m.fault with
    | none => if m.va ≠ va && t.intr.isSome then .wait .fetch false (missSteps t.id (walkPending s t.id false)) none else wait
    | some f => if m.va ≠ va then wait else .trap (faultTrap f false)

/-- WALK_START (R43) of field argument 0: the oldest request starts a walk while fewer than 32 run; requests for its page join. -/
def execWalkStart (s : State) : Host.Outcome State Fault Refusal :=
  event (fun s =>
    let f := argAt s 0
    let u := getField s f
    match u.walkQ with
    | [] => s
    | r :: _ =>
      let busy := (u.walks.map (·.page)).eraseDups.length
      if 32 ≤ busy && !(u.walks.any (fun w => w.page == r.page)) then again s .walkStart
      else
        let same := u.walkQ.filter (fun w => w.page == r.page)
        let rest := u.walkQ.filter (fun w => w.page != r.page)
        let s1 := schedule (updField s f (fun a => { a with walks := a.walks ++ same, walkQ := rest })) s.tile.id [(.walkComplete, [f])]
        if rest.isEmpty then s1 else again s1 .walkStart) s

/-- The fault of a fetch (R45, R47). -/
def fetchFault (fsw : Bool) (va : Word) (e : XErr) : MemFault := mkFault (if fsw then 7 else 1) 0 0 .exec va e

/-- A fault of a fetch waits where its context finds it: the thread's at its miss, the switch's in the switch (R45). -/
def holdFault (t : Tile) (fsw : Bool) (m : FetchMiss) (e : XErr) : Tile :=
  if fsw then { t with swMiss := none, sw := { t.sw with st := .fetchFault (fetchFault true m.va e) } }
  else { t with fetchMiss := some { m with fault := some (fetchFault false m.va e) } }

/-- The fault of a walk for a request reaches the miss that asked for it. -/
def holdFetchFault (s : State) (r : WalkReq) (e : XErr) : State :=
  updTile s r.tile (fun t => match t.missOf r.forSwitch with
    | some m => if m.va.toNat / 4096 == r.page then holdFault t r.forSwitch m e else t
    | none => t)

/-- The kind of access that a walk request is for (R43, R47). -/
def WalkReq.acc (r : WalkReq) : AccKind :=
  match r.kind with
  | 0 => .read | 1 => .write | 3 => .atomic | _ => .exec

/-- The end of a walk for one request (R44): its buffers are filled, with D set for a permitted write, or it faults by its own access kind. The
fault of an access that is no demand fetch is found again when the access is tried again. -/
def finishWalk (s : State) (r : WalkReq) : State :=
  let va := BitVec.ofNat 64 (r.page * 4096)
  match translateTile s r.tile va r.acc r.mode with
  | .ok (_, s1) => if r.kind == 2 then schedule s1 r.tile [(.fetchFill, [])] else s1
  | .error e =>
    let s1 := afterFault s r.tile r.mode r.acc va (false, e)
    if r.kind == 2 then holdFetchFault s1 r e else s1

/-- WALK_COMPLETE (R44) of field argument 0: the oldest walk ends for every request that joined it. -/
def execWalkComplete (s : State) : Host.Outcome State Fault Refusal :=
  event (fun s =>
    let f := argAt s 0
    let u := getField s f
    match u.walks with
    | [] => s
    | r :: _ =>
      let s1 := updField s f (fun a => { a with walks := a.walks.filter (fun w => w.page != r.page) })
      let s2 := (u.walks.filter (fun w => w.page == r.page)).foldl finishWalk s1
      if (getField s2 f).walks.isEmpty then s2 else again s2 .walkComplete) s

/- Fills -/

/-- The bytes of a line from what supplies it. -/
def supplyBytes (s : State) (t pa from_ : Nat) : BitVec 512 :=
  match from_ with
  | 0 => (lineFind (getCluster s (clusterOf t)).l2 pa).getD 0
  | 1 => (lineFind (getField s (fieldOf t)).l3 pa).getD 0
  | _ => BitVec.ofNat 512 (readNum s (pa * 64) 64)

/-- Fill a line into level `level` (1 to 3), unless it holds it, through every level between it and the one that supplies the line (R68, R73); one
from memory comes through the slice of its home (R80). -/
def fillLine (s : State) (t pa level : Nat) : State :=
  if levelHolds s t pa level then s
  else
    let from_ := supplyLevel s t pa level
    let e : ILine := { pa := pa, bytes := supplyBytes s t pa from_ }
    let s1 := if from_ = 2 then updField (sliceAt s (pa * 64) false) (fieldOf t) (fun f => { f with l3 := l3Fill f.l3 e }) else s
    let s2 := if level ≤ 2 && decide (1 ≤ from_) then updCluster s1 (clusterOf t) (fun c => { c with l2 := l2Fill c.l2 e }) else s1
    if level ≤ 1 then updTile s2 t (fun u => { u with icache := l1Fill u.icache e }) else s2

/-- After a demand fetch of the line of an address the fetch unit has sequential prefetches to send (R71): they can be cancelled until then. -/
def demandFetched (s : State) (fsw : Bool) (va : Word) : State :=
  if fsw then schedule (onTile s (fun t => { t with prefetchSw := some va })) s.tile.id [(.sequentialPrefetch, [va.toNat, 1])]
  else schedule (onTile s (fun t => { t with prefetch := some va, lastLine := some (va.toNat / 64) })) s.tile.id [(.sequentialPrefetch, [va.toNat])]

/-- The line that a miss waits for arrives, and the wait is charged to the level that supplied it; a wait that ends in a fault or in a
poisoned line is charged to the level that would have (R68, R74). DEDUCED, log entry 44. -/
def fillMiss (s : State) (fsw : Bool) (m : FetchMiss) : State :=
  let t := s.tile
  match execLeaf s t.id m.va t.mode with
  | none => askWalk s t.id m.va fsw t.mode
  | some e =>
    let pa := leafPa e m.va
    match paErr s (partNo s t.id) pa e.level with
    | some x => onTile s (fun u => holdFault (u.count (chargedTo s fsw m) m.waited) fsw { m with waited := 0 } x)
    | none =>
      if poisoned s pa then sealTile (onTile s (fun u => u.count (chargedTo s fsw m) m.waited)) t.id
      else
        let k := chargedTo s fsw m
        let s1 := fillLine s t.id (pa / 64) 1
        demandFetched (onTile s1 (fun u => { (u.count k m.waited).setMiss fsw none with
          fetchSw := !fsw
          sw := if fsw && u.sw.st == .fetchWait then { u.sw with st := .running } else u.sw })) fsw m.va

/-- Does the miss of a sequencer wait for its line: is no walk pending for it, and no fault held? -/
def missReady (s : State) (fsw : Bool) : Bool := (s.tile.missOf fsw).any (fun m => m.fault.isNone) && !walkPending s s.tile.id fsw

/-- FETCH_FILL (R68, R69, R74): the line of one sequencer's miss arrives, round robin between the thread and the switch. -/
def execFetchFill (s : State) : Host.Outcome State Fault Refusal :=
  event (fun s =>
    let fsw := if missReady s false && missReady s true then s.tile.fetchSw else missReady s true
    if !missReady s fsw then s
    else match s.tile.missOf fsw with
      | none => s
      | some m =>
        let s1 := fillMiss s fsw m
        if missReady s (!fsw) then again s1 .fetchFill else s1) s

/-- The first address past what sequential prefetch of the line at `va` may reach (R71): the segment end, or the page end. -/
def prefetchEnd (s : State) (t : Nat) (va : Word) : Nat :=
  match slotOf va with
  | some i => (slotBase i).toNat + (((moduleEntry s (fieldOf t) i).getD 1 0).toNat)
  | none => va.toNat / 4096 * 4096 + 4096

/-- Prefetch up to `n` further lines into a level; the first line that may not be fetched ends it (R71). DEDUCED, log entry 44. -/
def prefetchLines (s : State) (t level end_ : Nat) (m : Mode) : Nat → Nat → State
  | 0, _ => s
  | n + 1, a =>
    if end_ ≤ a then s
    else
      let va := BitVec.ofNat 64 a
      if (fetchBad s t va).isSome || walkStalls s t va .exec m then s
      else match translateTile s t va .exec m with
        | .error _ => s
        | .ok (pa, s1) => if poisoned s1 pa then s else prefetchLines (fillLine s1 t (pa / 64) level) t level end_ m n (a + 64)

/-- The sequential prefetches after the demand fetch of an address (R71, R72). -/
def prefetchAfter (s : State) (va : Word) : State :=
  let t := s.tile
  let next := va.toNat / 64 * 64 + 64
  let e := prefetchEnd s t.id va
  let s0 := match slotOf va with
    | some i => (moduleRead s (fieldOf t.id) i).2
    | none => s
  let s1 := prefetchLines s0 t.id 2 e t.mode (bitsOf t.fetchCtl 7 4) next
  prefetchLines s1 t.id 1 e t.mode (bitsOf t.fetchCtl 3 0) next

/-- SEQUENTIAL_PREFETCH (R71) after the demand fetch of the address in argument 0: the switch's where argument 1 is 1, and the thread's otherwise, unless
a taken branch, call or return has cancelled them. -/
def execSequentialPrefetch (s : State) : Host.Outcome State Fault Refusal :=
  event (fun s =>
    let va := BitVec.ofNat 64 (argAt s 0)
    if argAt s 1 = 1 then (if s.tile.prefetchSw = some va then prefetchAfter (onTile s (fun t => { t with prefetchSw := none })) va else s)
    else if s.tile.prefetch = some va then prefetchAfter (onTile s (fun t => { t with prefetch := none })) va
    else s) s

/- IPREF -/

/-- IPREF (R73, R294). -/
def execIpref (l a b : BitVec 6) (s : State) : Host.Outcome State Fault Refusal :=
  run1 (do
    checkOperands [.x a, .x b] []
    let ws ← takeXs [a, b]
    let lo := (ws.getD 0 0).toNat
    let n := (ws.getD 1 0).toNat
    updateTile (fun t => t.count 3 1)
    let t ← look (·.tile)
    if n = 0 then pure ()
    else if 4 ≤ t.ipref.length then updateTile (fun t => t.count 4 1)
    else
      let hi := Nat.min (lo + n - 1) (2 ^ 64 - 1)
      update (fun s0 =>
        schedule (onTile s0 (fun t => { t with ipref := t.ipref ++ [{ next := lo / 64 * 64, last := hi, level := l.toNat }] })) t.id
          [(.iprefFill, [])])) s

/-- The lines of one page of an IPREF range (R73). -/
def iprefPage (s : State) (t level last : Nat) (m : Mode) : Nat → Nat → State
  | 0, _ => s
  | n + 1, a =>
    if last < a then s
    else match translateTile s t (BitVec.ofNat 64 a) .exec m with
      | .error _ => s
      | .ok (pa, s1) => iprefPage (if poisoned s1 pa then s1 else fillLine s1 t (pa / 64) level) t level last m n (a + 64)

/-- IPREF_FILL (R73): the next page of the oldest range is filled, or skipped and counted; its translation waits for the walker as any
miss does (R43). -/
def execIprefFill (s : State) : Host.Outcome State Fault Refusal :=
  event (fun s =>
    let t := s.tile
    match t.ipref with
    | [] => s
    | r :: q =>
      let va := BitVec.ofNat 64 r.next
      if walkStalls s t.id va .exec t.mode then again (askMiss s { page := r.next / 4096, tile := t.id, mode := t.mode, kind := 4 }) .iprefFill
      else
      let pageEnd := r.next / 4096 * 4096 + 4096
      let blocked := (fetchBad s t.id va).isSome || (match translateTile s t.id va .exec t.mode with
        | .ok _ => false
        | .error _ => true)
      let s1 := if blocked then onTile s (fun u => u.count 4 1) else iprefPage s t.id r.level r.last t.mode 64 r.next
      let more := decide (pageEnd ≤ r.last)
      let s2 := onTile s1 (fun u => { u with ipref := (if more then [{ r with next := pageEnd }] else []) ++ q })
      if s2.tile.ipref.isEmpty then s2 else again s2 .iprefFill) s

/- Data lines -/

/-- The line of an address for DPREF, CFLUSH and CINV, which none of their faults keeps from completing (R295). -/
def quietLine (s : State) (va : Word) : Option (Nat × State) :=
  match resolve s s.tile.id s.tile.mode { kind := .read } va 1 with
  | .ok (.mem pa, s1) => if pageUncached s1 s.tile.id va then none else some (pa / 64, s1)
  | _ => none

/-- An instruction that acts on the line of its operand (R295). -/
def lineOp (a : BitVec 6) (g : Nat → State → State) (s : State) : Host.Outcome State Fault Refusal :=
  run1 (do
    checkOperands [.x a] []
    let va ← takeX a
    let st ← look id
    demand (!(walkStalls st st.tile.id va .read st.tile.mode)) (stop (missWait st (.load 1 false va)))
    update (fun s0 => match quietLine s0 va with
      | none => s0
      | some (line, s1) => g line s1)) s

/-- DPREF (R295): the line enters the data cache, from the pool or from its home; or the victim pool, of a tile with no cache banks, unless a cache
of the cluster holds it (R65). -/
def dprefLine (s : State) (line : Nat) : State :=
  let t := s.tile
  let cl := clusterOf t.id
  if t.dcache.any (fun d => d.line == line) then s
  else if cacheBanks t ≠ 0 then cacheMiss s t.id (line * 64) false
  else if (getCluster s cl).poolLines.any (fun d => d.line == line) then s
  else poolPut (sliceAt (recallWhere s line (·.dirty)) (line * 64) false) cl { line := line, dirty := false, placer := t.id }

/-- DPREF (R295). -/
def execDpref (a : BitVec 6) (s : State) : Host.Outcome State Fault Refusal := lineOp a (fun line s => dprefLine s line) s

/-- Mark a line clean where it stands. DEDUCED, log entry 13. -/
def cleanLine (l : List DLine) (line : Nat) : List DLine := l.map (fun d => if d.line = line then { d with dirty := false } else d)

/-- Does the tile's data cache or its cluster's pool hold a line dirty? -/
def holdsDirty (s : State) (line : Nat) : Bool :=
  (s.tile.dcache ++ (getCluster s (clusterOf s.tile.id)).poolLines).any (fun d => d.line == line && d.dirty)

/-- Write a line back where the tile or its cluster's pool holds it dirty (R80, R295). -/
def flushLine (s : State) (line : Nat) : State := if holdsDirty s line then sliceAt s (line * 64) true else s

/-- CFLUSH (R295): a dirty line is written back and stays, clean. -/
def execCflush (a : BitVec 6) (s : State) : Host.Outcome State Fault Refusal :=
  lineOp a (fun line s =>
    updCluster (onTile (flushLine s line) (fun t => { t with dcache := cleanLine t.dcache line })) (clusterOf s.tile.id)
      (fun c => { c with poolLines := cleanLine c.poolLines line })) s

/-- CINV (R295): the line is written back when it is dirty, and leaves the data cache and the victim pool. -/
def execCinv (a : BitVec 6) (s : State) : Host.Outcome State Fault Refusal :=
  lineOp a (fun line s =>
    let keep := fun (l : List DLine) => l.filter (fun d => d.line != line)
    updCluster (onTile (flushLine s line) (fun t => { t with dcache := keep t.dcache })) (clusterOf s.tile.id)
      (fun c => { c with poolLines := keep c.poolLines })) s

/- Invalidation -/

/-- Does a leaf meet the pages of a range; a length of 0 names everything (R352)? -/
def leafMeets (lo n : Nat) (e : TlbEntry) : Bool :=
  n == 0 || (decide (e.vaBase < lo / 4096 * 4096 + ((lo + n - 1) / 4096 - lo / 4096 + 1) * 4096) &&
    decide (lo / 4096 * 4096 < e.vaBase + 2 ^ e.log2))

/-- Does a pointer entry of a walk cache lie on the path to a page of a range (R51)? A range that runs past the top meets every one. -/
def ptrMeets (lo n : Nat) (w : WalkPtr) : Bool :=
  let size := 2 ^ (12 + 9 * (w.level - 1))
  let b := lo % 2 ^ 57
  n == 0 || decide (2 ^ 57 < b + n) || (decide (w.tag * size < b + n) && decide (b < (w.tag + 1) * size))

/-- The source homes that lead spouts have translated for the sectors of a tile's copies are forgotten: each is translated anew when it moves (R51, R115). -/
def Tile.dropHomes (t : Tile) : Tile :=
  { t with copies := t.copies.map (fun e => (e.1, { e.2 with pieces := e.2.pieces.map (fun p =>
      { p with queue := p.queue.map (fun q => { q with homes := [] }) }) })) }

/-- Drop the buffered leaves of a partition that a range meets, the pointer entries of its fields' walk caches on the way to them, and what its copies have
translated (R51). -/
def dropLeaves (s : State) (part lo n : Nat) : State :=
  let keep := fun (l : List TlbEntry) => l.filter (fun e => !(e.part == part && leafMeets lo n e))
  let s1 := (allTiles s).foldl (fun u id => if (getTile u id).tlb.isEmpty && (getTile u id).copies.isEmpty then u
    else updTile u id (fun t =>
      let a := { t with tlb := keep t.tlb }
      if partOfTile s id == some part then a.dropHomes else a)) s
  { s1 with
    clusters := s1.clusters.map (fun e => (e.1, { e.2 with tlb := keep e.2.tlb }))
    fields := s1.fields.map (fun e => (e.1, { e.2 with walkCache := e.2.walkCache.filter (fun w => !(w.part == part && ptrMeets lo n w)) })) }

/- The class check of CALLR -/

/-- The line that holds an address, and the place in it, on path I of the thread (R45, R68). -/
def pathLine (s : State) (va : Word) : Except Stop (BitVec 512 × Nat) :=
  match fetchAt s s.tile.id va s.tile.mode with
  | .bits b off => .ok (b, off)
  | .line => .error (fetchStop s va false)
  | .xlate => .error (fetchStop s va true)
  | .bad e => .error (.trap (faultTrap (fetchFault false va e) false))

/-- The doubleword at an address, on path I of the thread; its bytes may lie in two lines. -/
def pathD (s : State) (va : Word) : Except Stop Word :=
  match pathLine s va with
  | .error x => .error x
  | .ok (b, off) =>
    let low := b.toNat / 2 ^ (8 * off)
    if off ≤ 56 then .ok (BitVec.ofNat 64 low)
    else match pathLine s (va + BitVec.ofNat 64 (64 - off)) with
      | .error x => .error x
      | .ok (c, _) => .ok (BitVec.ofNat 64 (low + c.toNat * 2 ^ (8 * (64 - off))))

/-- What class_tag finds (R248, R414): a tag or none, an entry that counts as EMPTY, or a fetch in its way, with the part of the table that is still to
be searched. -/
inductive ClassFind where
  | tag (k : Option Nat)
  | empty
  | blocked (lo hi : Nat) (x : Stop)

/-- Search the entries from `lo` to before `hi` of the sorted table at `base` for an offset (R415). DESIGN CHOICE, log entry 82. -/
def findClass (s : State) (base : Word) (off : Nat) : Nat → Nat → Nat → ClassFind
  | 0, _, _ => .tag none
  | n + 1, lo, hi =>
    if hi ≤ lo then .tag none
    else
      let mid := (lo + hi) / 2
      match pathD s (base + BitVec.ofNat 64 (8 * mid)) with
      | .error x => .blocked lo hi x
      | .ok w =>
        if bitsOf w 31 0 = off then .tag (some (bitsOf w 43 32))
        else if bitsOf w 31 0 < off then findClass s base off n (mid + 1) hi
        else findClass s base off n lo mid

/-- class_tag of R248: the class that the signature-class table of the target's module gives its address. A search that a fetch has interrupted goes on
where it stood. DESIGN CHOICE, log entry 82. -/
def classTag (s : State) (target : Word) : ClassFind :=
  let t := s.tile
  match slotOf target with
  | none => .tag none
  | some i =>
    let e := moduleEntry s (fieldOf t.id) i
    if moduleState e < 2 then .empty
    else
      let sig := e.getD 2 0
      let r := match t.waitOps.find? (fun w => w.ctx == t.ctx && w.pc == t.pc && w.a == target) with
        | some w => (bitsOf w.v 63 32, bitsOf w.v 31 0)
        | none => (0, bitsOf sig 63 32)
      findClass s (slotBase i + BitVec.ofNat 64 (bitsOf sig 31 0)) (target.toNat - (slotBase i).toNat) 34 r.1 r.2

/-- A wait of a search keeps the part of the table that is still to be searched. -/
def keepSearch (s : State) (target : Word) (lo hi : Nat) : Stop → Stop
  | .wait c point evs keep => .wait c point evs (some (onTile (keep.getD s) (fun t =>
      { t with waitOps := { ctx := t.ctx, pc := t.pc, a := target, v := at_ 32 lo ||| at_ 0 hi } :: t.waitOps.filter (fun w => w.ctx != t.ctx) })))
  | x => x

/-- The class check of CALLR (R248). DEDUCED, log entry 51. -/
def checkClass (target : Word) (c : Nat) : Exec Unit := do
  let s0 ← look id
  update (slotRead s0.tile target)
  let s ← look id
  match classTag s target with
  | .tag none => classTrap 1 0 c target
  | .tag (some k) => demand (k == c) (classTrap 0 k c target)
  | .empty => classTrap 3 0 0 target
  | .blocked lo hi x => stop (keepSearch s target lo hi x)

/-- CALLR (R248): every check precedes the consumption of the target's source. -/
def execCallr (a : BitVec 6) (c : BitVec 12) (s : State) : Host.Outcome State Fault Refusal :=
  run 1 (do
    checkOperands [.x a] []
    let u ← peekX a
    demand (u.toNat % 4 == 0) (trap { cause := .align })
    checkSlot u
    demand (c == 4095#12) (checkClass u c.toNat)
    let _ ← takeX a
    updateTile (fun t => t.callTo u (t.pc + 4))
    pure true) s

/-- TLBINV (R51, R352). -/
def execTlbinv (a b : BitVec 6) (s : State) : Host.Outcome State Fault Refusal :=
  run1 (do
    checkOperands [.x a, .x b] []
    let ws ← takeXs [a, b]
    update (fun s0 => dropLeaves s0 (partNo s0 s0.tile.id) (ws.getD 0 0).toNat (ws.getD 1 0).toNat)) s

/-- The physical lines that a virtual range names in tile `t`'s partition, one page at a time, by the leaves of its tables. -/
def rangeHolds (s : State) (t lo n pa : Nat) : Bool :=
  n == 0 || (List.range (Nat.min 4096 ((lo + n - 1) / 4096 - lo / 4096 + 1))).any (fun i =>
    let page := lo / 4096 * 4096 + i * 4096
    match walk s (partNo s t) (getField s (fieldOf t)).xlateRoot (BitVec.ofNat 64 page) with
    | .ok e =>
      let p := leafPa e (BitVec.ofNat 64 page) / 4096 * 4096
      decide (p ≤ pa * 64) && decide (pa * 64 < p + 4096) &&
        decide (lo < page + (pa * 64 - p) + 64) && decide (page + (pa * 64 - p) < lo + n)
    | .error _ => false)

/-- The lines that an IFENCE of a range drops: all of them for the whole partition, and for a range that names more pages than the
model follows (R70 allows a line more to be filled again). DESIGN CHOICE, log entry 58. -/
def fenceDrops (s : State) (t lo n : Nat) (e : ILine) : Bool :=
  n == 0 || decide (4096 < (lo + n - 1) / 4096 - lo / 4096 + 1) || rangeHolds s t lo n e.pa

/-- The guarantees of R70 for a scope: 0 the tile, 1 the cluster, 2 the field, 3 the partition. The levels that serve a tile of the scope
drop the range as well, so that its later fetches read no older bytes. DESIGN CHOICE, log entry 58. -/
def fenceLines (s : State) (t lo n scope : Nat) : State :=
  let keep := fun (l : List ILine) => l.filter (fun e => !(fenceDrops s t lo n e))
  let inScope := fun (u : Nat) =>
    if scope = 0 then u == t else if scope = 1 then clusterOf u == clusterOf t else if scope = 2 then fieldOf u == fieldOf t
    else partNo s u == partNo s t
  let s1 := (allTiles s).foldl (fun u id =>
    if inScope id && !(getTile u id).icache.isEmpty then updTile u id (fun a => { a with icache := keep a.icache }) else u) s
  let s2 := { s1 with clusters := s1.clusters.map (fun (e : Nat × Cluster) =>
    let f := e.1 / 128
    if e.1 == clusterOf t || (scope == 2 && f == fieldOf t) || (scope == 3 && partOfField s f == partOfTile s t)
    then (e.1, { e.2 with l2 := keep e.2.l2 }) else e) }
  { s2 with fields := s2.fields.map (fun (e : Nat × Field) =>
    if e.1 == fieldOf t || (scope == 3 && partOfField s e.1 == partOfTile s t) then (e.1, { e.2 with l3 := keep e.2.l3 }) else e) }

/-- IFENCE (R70, R353). -/
def execIfence (a b c : BitVec 6) (s : State) : Host.Outcome State Fault Refusal :=
  run1 (do
    checkOperands [.x a, .x b] []
    let ws ← takeXs [a, b]
    update (fun s0 => fenceLines s0 s0.tile.id (ws.getD 0 0).toNat (ws.getD 1 0).toNat c.toNat)) s

end Sys2Proof.Machine
end

