-- ==== Sys2Proof/Machine/Switch.lean ====
section
/-! DEFINITION. The switch (R129, R218 to R220, R329 to R334): what each word does in one cycle, the fetch of the next word, and the
ILLEGAL and fetch faults that reach the thread. -/
namespace Sys2Proof.Machine

/- Moving tokens -/

/-- Count a switch cycle (R333). DESIGN CHOICE, log entry 5. -/
def countSw (s : State) (i : Nat) : State := onTile s (fun t => t.count i 1)

/-- The input that selector `k` of output `i` names, on the output's plane (R219). -/
def inputOf (i k : Nat) : Nat := (if i < 8 then i / 4 else i - 8) * 4 + (k - 1) % 4

/-- The branches of a word: each driven output with its input (R218, R219). -/
def branches (sel : BitVec 30) : List (Nat × Nat) :=
  ((List.range 10).filter (fun i => selector sel i != 0)).map (fun i => (i, inputOf i (selector sel i)))

/-- Has the destination of a branch room (R315)? -/
def branchRoom (s : State) (b : Nat × Nat) : Bool :=
  if b.1 < 8 then linkRoom s s.tile.id b.1 else decide ((vget s.tile.coreIn b.2 []).length < 4)

/-- Hand a token to the destination of a branch. -/
def branchGive (s : State) (b : Nat × Nat) (k : Token) : State :=
  if b.1 < 8 then linkSend s s.tile.id b.1 k
  else onTile s (fun t => { t with coreIn := vset t.coreIn b.2 (vget t.coreIn b.2 [] ++ [k]) })

/-- The input FIFO of the switch. -/
def Tile.fifo (t : Tile) (p : Nat) : List Token := vget t.swIn p []

/-- The checks of R384 and R385 on the token at place `n` of an input: a token that fails is an ERR token from then on. -/
def checkToken (s : State) (p n : Nat) : State :=
  match (s.tile.fifo p)[n]? with
  | none => s
  | some k =>
    let r := switchToken s s.tile.id p k
    onTile r.2 (fun t => { t with swIn := vset t.swIn p ((t.fifo p).set n r.1) })

/-- The check of R384 alone, on a token that is tested and not moved. -/
def checkResidue (s : State) (p : Nat) : State :=
  match (s.tile.fifo p).head? with
  | none => s
  | some k =>
    let r := weirToken s s.tile.id k
    onTile r.2 (fun t => { t with swIn := vset t.swIn p ((t.fifo p).set 0 r.1) })

/-- The head token leaves an input; the set of R349's NOEOS follows it. -/
def Tile.takeIn (t : Tile) (p : Nat) : Tile :=
  match (t.fifo p).head? with
  | none => t
  | some k =>
    { t with
      swIn := vset t.swIn p ((t.fifo p).drop 1)
      carried := if k.kind = .marker ∧ k.level = 7 then t.carried.filter (· ≠ p) else insertNat p t.carried }

/-- One step of a word whose sources and destinations are ready (R329): every branch moves its input's head, which leaves. -/
def moveAll (s : State) (bs : List (Nat × Nat)) : State :=
  let ins := (bs.map (·.2)).eraseDups
  let s1 := ins.foldl (fun u p => checkToken u p 0) s
  let s2 := bs.foldl (fun u b => match (s1.tile.fifo b.2).head? with
    | some k => branchGive u b k
    | none => u) s1
  onTile s2 (fun t => ins.foldl Tile.takeIn t)

/-- The word ends and the switch goes on at a word index. -/
def swGo (s : State) (pc : Nat) : State :=
  onTile s (fun t => { t with sw := { t.sw with pc := pc, last := t.sw.word, word := none, rem := 0, moved := [] } })

/-- A taken branch of the switch, which cancels its sequential prefetches not yet sent (R71). -/
def swJump (s : State) (pc : Nat) : State := swGo (onTile s (fun t => { t with prefetchSw := none })) pc

/-- The word ends and the switch goes on at the next word. -/
def swNext (s : State) : State := swGo s (s.tile.sw.pc + 1)

/-- The switch thread stops at an illegal word; the ILLEGAL waits for the thread (R220, R334). DEDUCED, log entry 42. -/
def swStop (s : State) : State :=
  countSw (onTile s (fun t => { t with sw := { t.sw with st := .illegal, word := none, rem := 0, moved := [] } })) 24

/-- Does a word break a check of R220 that depends on the tile or the program? -/
def wordIllegal (t : Tile) (i : Instr) : Bool :=
  (match i with
   | .sjmp _ _ g | .sbnz _ _ g _ | .sbq _ _ g => decide (t.sw.len ≤ g.toNat)
   | _ => false) ||
  (List.range 8).any (fun p => isSendPort t.id p && selector (selOf i) p != 0)

/-- One cycle of a word (R329, R333): it stops if illegal; it stalls for a source (`test` is an input that it also needs), for the
branch-outcome queue or for room; otherwise it makes its step, and `fin` ends it, given the tile before the step. -/
def swCycle (s : State) (i : Instr) (test : Option Nat) (bq : Bool) (fin : Tile → State → State) : State :=
  let bs := branches (selOf i)
  let t := s.tile
  if wordIllegal t i then swStop s
  else if (bs.any (fun b => (t.fifo b.2).isEmpty)) || (test.any (fun p => (t.fifo p).isEmpty)) then countSw s 19
  else if bq && t.bq.isEmpty then countSw s 21
  else if !(bs.all (branchRoom s)) then countSw s 20
  else
    let s1 := match test with
      | some p => if bs.any (fun b => b.2 == p) then checkToken s p 0 else checkResidue s p
      | none => s
    fin s1.tile (countSw (moveAll s1 bs) 18)

/-- SNOP (R330). -/
def execSnop (s : State) : Host.Outcome State Fault Refusal := event (fun s => swCycle s .snop none false (fun _ u => swNext u)) s

/-- ROUTE (R330). -/
def execRoute (sel : BitVec 30) (mc : BitVec 1) (s : State) : Host.Outcome State Fault Refusal :=
  event (fun s => swCycle s (.route sel mc) none false (fun _ u => swNext u)) s

/-- The end of ROUTEN's count (R330): no step remains of a word that was fetched with all its steps to make. -/
def routenEnd (s : State) : State :=
  match s.tile.sw.word with
  | some (.routen _ _ _) => if s.tile.sw.rem = 0 then swNext s else s
  | _ => s

/-- ROUTEN_COUNT_END (R330). -/
def execRoutenCountEnd (s : State) : Host.Outcome State Fault Refusal := event routenEnd s

/-- ROUTEN (R330): a word that has just been reached makes `n` steps. -/
def execRouten (sel : BitVec 30) (mc : BitVec 1) (n : BitVec 16) (s : State) : Host.Outcome State Fault Refusal :=
  event (fun s =>
    let left := if s.tile.sw.rem = 0 then n.toNat else s.tile.sw.rem
    swCycle s (.routen sel mc n) none false (fun _ u =>
      routenEnd (onTile u (fun t => { t with sw := { t.sw with word := some (.routen sel mc n), rem := left - 1 } })))) s

/-- SJMP (R330). -/
def execSjmp (sel : BitVec 30) (mc : BitVec 1) (g : BitVec 16) (s : State) : Host.Outcome State Fault Refusal :=
  event (fun s => swCycle s (.sjmp sel mc g) none false (fun _ u => swJump u g.toNat)) s

/-- SBNZ (R330): the head token of the tested input decides. -/
def execSbnz (sel : BitVec 30) (mc : BitVec 1) (g : BitVec 16) (i : BitVec 3) (s : State) : Host.Outcome State Fault Refusal :=
  event (fun s => swCycle s (.sbnz sel mc g i) (some i.toNat) false (fun t u =>
    match (t.fifo i.toNat).head? with
    | some k => if k.kind = .data ∧ k.payload ≠ 0 then swJump u g.toNat else swNext u
    | none => swNext u)) s

/-- SBQ (R330). -/
def execSbq (sel : BitVec 30) (mc : BitVec 1) (g : BitVec 16) (s : State) : Host.Outcome State Fault Refusal :=
  event (fun s => swCycle s (.sbq sel mc g) none true (fun t u =>
    let u1 := onTile u (fun a => { a with bq := a.bq.drop 1 })
    if t.bq.headD false then swJump u1 g.toNat else swNext u1)) s

/-- The end of SWAITM (R330): the marker's level enters the end-marker queue when it has room; until then the level waits. `c` is the counter of the
cycle, if it has not been counted: SW_CYC_ROUTE (18), where an SWAITM that names no input ends, and else SW_STALL_MARK (22) (R333). -/
def swMark (s : State) (level : Nat) (c : Option Nat) : State :=
  let counted := fun (u : State) (i : Nat) => if c.isSome then countSw u i else u
  if s.tile.emq.length < 8 then counted (swNext (onTile s (fun t => { t with emq := t.emq ++ [level] }))) (c.getD 22)
  else counted (onTile s (fun t => { t with sw := { t.sw with rem := level } })) 22

/-- A token that ends SWAITM of a level. -/
def endsWait (k : Token) (l : Nat) : Bool := k.kind == .marker && decide (l ≤ k.level)

/-- SWAITM (R330). A token that is tested or moved is checked first (R384, R385). -/
def execSwaitm (sel : BitVec 30) (mc : BitVec 1) (i l : BitVec 3) (s : State) : Host.Outcome State Fault Refusal :=
  event (fun s =>
    let p := i.toNat
    let w := Instr.swaitm sel mc i l
    let named := (branches sel).any (fun b => b.2 == p)
    if wordIllegal s.tile w then swStop s
    else if s.tile.sw.rem ≠ 0 then swMark s s.tile.sw.rem (some (if named then 22 else 18))
    else if named then
      swCycle s w (some p) false (fun t u => match (t.fifo p).head? with
        | some k => if endsWait k l.toNat then swMark u k.level none else u
        | none => u)
    else
      let s1 := checkResidue s p
      match (s1.tile.fifo p).head?.filter (fun k => endsWait k l.toNat) with
      | some k => swMark s1 k.level (some 18)
      | none => if (branches sel).isEmpty then countSw s1 22 else swCycle s1 w none false (fun _ u => u)) s

/-- The count of branch `i` in the window. -/
def Switch.movedBy (w : Switch) (i : Nat) : Nat := w.moved.getD i 0

/-- How many tokens of input `p` every branch that names it has moved. -/
def windowTaken (w : Switch) (bs : List (Nat × Nat)) (p : Nat) : Nat :=
  ((bs.filter (fun b => b.2 == p)).map (fun b => w.movedBy b.1)).foldl (fun a n => match a with
    | none => some n
    | some m => some (Nat.min m n)) (none : Option Nat) |>.getD 0

/-- Take `n` tokens from an input. -/
def Tile.takeInN (t : Tile) (p : Nat) : Nat → Tile
  | 0 => t
  | n + 1 => (t.takeIn p).takeInN p n

/-- One branch of a window tries to move the token at its cursor (R331). The answer says whether it moved one and whether its token
was absent. -/
def windowBranch (n : Nat) (start : Switch) (bs : List (Nat × Nat)) (r : State × Bool × Bool) (b : Nat × Nat) : State × Bool × Bool :=
  let (s, moved, absent) := r
  let c := start.movedBy b.1
  if n ≤ c then r
  else
    let k := c - windowTaken start bs b.2
    match (s.tile.fifo b.2)[k]? with
    | none => (s, moved, true)
    | some _ =>
      if branchRoom s b then
        let s1 := checkToken s b.2 k
        let s2 := match (s1.tile.fifo b.2)[k]? with
          | some x => branchGive s1 b x
          | none => s1
        (onTile s2 (fun t => { t with sw := { t.sw with moved := t.sw.moved.set b.1 (c + 1) } }), true, absent)
      else (s, moved, absent)

/-- The end of a window (R331): every branch has moved its tokens. -/
def windowEnd (s : State) : State :=
  match s.tile.sw.word with
  | some (.smcast sel n) => if (branches sel).all (fun b => decide (n.toNat ≤ s.tile.sw.movedBy b.1)) then swNext s else s
  | _ => s

/-- SMCAST_WINDOW_END (R331). -/
def execSmcastWindowEnd (s : State) : Host.Outcome State Fault Refusal := event windowEnd s

/-- SMCAST (R331). -/
def execSmcast (sel : BitVec 30) (n : BitVec 16) (s : State) : Host.Outcome State Fault Refusal :=
  event (fun s =>
    let w := Instr.smcast sel n
    if wordIllegal s.tile w then swStop s
    else
      let bs := branches sel
      let s0 := onTile s (fun t => { t with sw := { t.sw with
        word := some w, moved := if t.sw.moved.isEmpty then List.replicate 10 0 else t.sw.moved } })
      let start := s0.tile.sw
      let (s1, moved, absent) := bs.foldl (windowBranch n.toNat start bs) (s0, false, false)
      let s2 := onTile s1 (fun t => ((bs.map (·.2)).eraseDups).foldl
        (fun u p => u.takeInN p (windowTaken t.sw bs p - windowTaken start bs p)) t)
      windowEnd (countSw s2 (if moved || bs.isEmpty then 18 else if absent then 19 else 20))) s

/-- SHALT (R330): the switch thread ends, and every output is free to the core (R314). -/
def execShalt (s : State) : Host.Outcome State Fault Refusal :=
  event (fun s => countSw (onTile s (fun t => { t with sw := { t.sw with st := .halted, word := none, rem := 0, moved := [] } })) 24) s

/- Fetching the next word -/

/-- The address of the switch's next word. -/
def Switch.wordVa (w : Switch) : Word := w.base + BitVec.ofNat 64 (8 * w.pc)

/-- Stall for the fetch of the next word (R69, R74): a turn that waits for a translation is counted, one that waits for its line is charged when
the line arrives. -/
def swFetchStall (s : State) (va : Word) (xlate : Bool) : State :=
  let s1 := missTurn (onTile s (fun t => { t with sw := { t.sw with st := .fetchWait } })) va true xlate true
  schedule (if xlate then countSw s1 23 else s1) s.tile.id (missSteps s.tile.id xlate)

/-- Does the fetch of the next word demand a line that the word before did not (R71)? -/
def Switch.newLine (w : Switch) : Bool :=
  w.wordVa.toNat % 64 == 0 || (match w.last with
    | some (.sjmp _ _ _) | some (.sbnz _ _ _ _) | some (.sbq _ _ _) | none => true
    | _ => false)

/-- The steps that a word has to make when it becomes current: those of ROUTEN's count (R330). -/
def Instr.steps : Instr → Nat
  | .routen _ _ n => n.toNat
  | _ => 0

/-- The fetch of the next word (R45, R69, R220): the word becomes current, or the switch stops, stalls or holds a fault.
DEDUCED, log entry 42. -/
def fetchWord (s : State) : State :=
  let t := s.tile
  if t.sw.len ≤ t.sw.pc then swStop s
  else
    let va := t.sw.wordVa
    match fetchAt s t.id va t.mode with
    | .bad e => countSw (onTile s (fun t => { t with sw := { t.sw with st := .fetchFault (fetchFault true va e) } })) 23
    | .xlate => swFetchStall s va true
    | .line => swFetchStall s va false
    | .bits b off =>
      match decodeSwitch (BitVec.ofNat 64 (b.toNat / 2 ^ (8 * off))) with
      | .error _ => swStop s
      | .ok i =>
        if wordIllegal t i then swStop s
        else
          let s1 := onTile s (fun t => { t with swMiss := none, sw := { t.sw with st := .running, word := some i, rem := Instr.steps i, moved := [] } })
          if t.sw.newLine then demandFetched s1 true va else s1

/-- SWITCH_WORD_FETCH (R45, R69): the switch fetches its next word; one that held a fault tries again. -/
def execSwitchWordFetch (s : State) : Host.Outcome State Fault Refusal :=
  event (fun s =>
    let w := s.tile.sw
    match w.st with
    | .running | .fetchWait => if w.word.isNone then addTurn (fetchWord s) (.switch s.tile.id) else s
    | .fetchFault _ | .fetchPassed _ => addTurn (fetchWord (onTile s (fun t => { t with sw := { t.sw with st := .running, word := none } }))) (.switch s.tile.id)
    | _ => s) s

/-- What the switch's turn does: the word to execute with the state in which it does, or the state that the turn leaves. The cycles
of a fetch that waits for its line are charged when the line arrives (R74); a switch that has ended or stopped idles (R138, R333). -/
def switchTurn (s : State) : State × Option Instr :=
  let w := s.tile.sw
  match w.st with
  | .halted | .illegal | .stopped => (countSw s 24, none)
  | .fetchFault _ | .fetchPassed _ => (countSw s 23, none)
  | .running =>
    (match w.word with
     | some i => (s, some i)
     | none => let s1 := fetchWord s; (s1, s1.tile.sw.word))
  | .fetchWait => let s1 := fetchWord s; (s1, s1.tile.sw.word)

/-- The switch stops at its next step when its task is cancelled (R342). -/
def swCancel (s : State) : State :=
  countSw (onTile s (fun t => { t with swMiss := none, sw := { t.sw with st := .halted, word := none, rem := 0, moved := [] } })) 24

/-- Does the switch still take turns: is it running, or waiting for a fetch? -/
def Switch.active (w : Switch) : Bool :=
  match w.st with
  | .running | .fetchWait => true
  | _ => false

/- What reaches the thread -/

/-- The trap that the switch has ready for its thread (R334, R45, R366), and the switch with it taken. A passed fetch fault is held
again until the trap returns. -/
def Switch.pending (w : Switch) : Option (TrapInfo × Switch) :=
  match w.st with
  | .illegal => some ({ cause := .illegal, cls := 6 }, { w with st := .stopped })
  | .fetchPassed f => some (faultTrap f false, { w with st := .fetchFault f })
  | _ => none

/-- Raise what the switch has ready, at an interruption point outside handlers and outside the service of a trap (R139, R334; log
entry 20): the thread parks as for any trap. DEDUCED, log entry 20. -/
def raiseSwitch (s : State) : Option State :=
  let t := s.tile
  if t.intr.isSome || bitsOf t.trapCause 3 0 != 0 || !(t.run == .running || t.run == .idling) || !(t.atBoundary || t.waitPoint) ||
      (!t.longBuf.isEmpty && !t.waitPoint) then none
  else match t.sw.pending with
    | none => none
    | some (i, w) =>
      some (takeTrap (onTile s (fun u => { u with sw := w, run := .running })) i)

/-- SWITCH_ILLEGAL_RAISE (R334): at an interruption point of the thread, the pending ILLEGAL of class 6 is raised. -/
def execSwitchIllegalRaise (s : State) : Host.Outcome State Fault Refusal :=
  match s.tile.sw.st, raiseSwitch s with
  | .illegal, some s' => .next s'
  | _, _ => event id s

/-- SWITCH_FETCH_FAULT_RAISE (R45): the supervisor passes a held fault; it is raised at the thread's next interruption point. -/
def execSwitchFetchFaultRaise (s : State) : Host.Outcome State Fault Refusal :=
  event (fun s => match s.tile.sw.st with
    | .fetchFault f => onTile s (fun t => { t with sw := { t.sw with st := .fetchPassed f } })
    | _ => s) s

end Sys2Proof.Machine
end

