-- ==== Sys2Proof/Machine/Images.lean ====
section
/-! DEFINITION. Tile images and configurations (R85, R147, R347 to R350): the checks of an image, CFGLD, CFGDRN, CFGSWP and what the
activation of a shadow plane does. -/
namespace Sys2Proof.Machine

/- The checks of an image -/

/-- Doubleword `i` of an image or a record. -/
def imgD (ws : List Word) (i : Nat) : Word := ws.getD i 0

/-- The port descriptor of a plane in a tile image. -/
def imgPort (ws : List Word) (pl : Nat) : List Word := (ws.drop (40 + 8 * pl)).take 8

/-- DIMS of a port descriptor. -/
def portDims (d : List Word) : Nat := bitsOf (imgD d 0) 3 2
/-- The counts of a port descriptor. -/
def portCount (d : List Word) (i : Nat) : Nat := if i = 0 then bitsOf (imgD d 2) 31 0 else if i = 1 then bitsOf (imgD d 2) 63 32 else bitsOf (imgD d 3) 31 0

/-- The pattern of a port descriptor (R85). -/
def portPattern (d : List Word) : Pattern :=
  { dims := portDims d, base := imgD d 1, c0 := portCount d 0, c1 := max 1 (portCount d 1), c2 := max 1 (portCount d 2),
    s0 := imgD d 4, s1 := imgD d 5, s2 := imgD d 6 }

/-- FORMAT of a port descriptor, as a format register's value (R85). -/
def portFmt (d : List Word) : Word := BitVec.ofNat 64 (bitsOf (imgD d 3) 63 32)

/-- Storage bits of a port's elements (R181). -/
def portWidth (d : List Word) : Nat := storeBits (fmtBits (portFmt d))

/-- Is a port descriptor illegal (R85)? One of all zero bytes is legal. -/
def portBad (d : List Word) : Bool :=
  !(d.all (· == 0)) &&
  (bitsOf (imgD d 0) 15 7 != 0 || bitsOf (imgD d 0) 63 32 != 0 || portDims d == 0 ||
    (List.range (portDims d)).any (fun i => portCount d i == 0) || !fmtLegal (portFmt d))

/-- The module of a tile image. -/
def imgModule (ws : List Word) : Nat := bitsOf (imgD ws 1) 11 0
/-- The entry offset of a tile image. -/
def imgEntry (ws : List Word) : Nat := bitsOf (imgD ws 1) 63 32
/-- SCRATCH of a tile image. -/
def imgSplit (ws : List Word) : Nat := bitsOf (imgD ws 0) 12 8

/-- Does the image declare a channel node on a link? DEDUCED, log entry 46. -/
def imgNode (ws : List Word) (i : Nat) : Bool := bitOf (imgD ws (56 + i)) 0

/-- Does an image for tile `t` break R347 or the checks of R348? DEDUCED, log entry 46. -/
def imageBad (s : State) (t : Nat) (ws : List Word) : Bool :=
  let w := imgD ws
  let e := moduleEntry s (fieldOf t) (imgModule ws)
  bitsOf (w 0) 7 0 != 1 || bitsOf (w 0) 63 13 != 0 || !splitLegal (imgSplit ws) ||
  bitsOf (w 1) 31 12 != 0 || moduleState e != 2 || imgEntry ws % 4 != 0 || decide ((e.getD 1 0).toNat ≤ imgEntry ws) ||
  bitsOf (w 2) 31 0 % 8 != 0 || decide (imgSplit ws * 65536 < (w 4).toNat) || (w 5).toNat % 16 != 0 || w 6 != 0 || w 7 != 0 ||
  (List.range 16).any (fun i => !fmtLegal (w (8 + i))) ||
  portBad (imgPort ws 0) || portBad (imgPort ws 1) ||
  ((rimDir t).isNone && !((imgPort ws 0 ++ imgPort ws 1).all (· == 0))) ||
  (List.range 8).any (fun i => bitsOf (w (56 + i)) 63 6 != 0 ||
    (imgNode ws i && (!(decide (16 ≤ bitsOf (w (56 + i)) 5 1 ∧ bitsOf (w (56 + i)) 5 1 ≤ 24)) || !crossesField t (i % 4))))

/-- The image as it enters the shadow plane: CFG_TAG stands in CTRL.TAG of each loaded port descriptor (R429). -/
def tagImage (ws : List Word) (tag : BitVec 16) : List Word :=
  ws.mapIdx (fun i w => if (i = 40 ∨ i = 48) ∧ w ≠ 0 then putBits w 16 16 tag.toNat else w)

/-- Why the read of an image for a core stops: a fault of R41, a poisoned line (R83), a sealed tile (R389), or a wait, for a network interface
(R143) or for the walk of an address (R43). -/
inductive ImageStop where
  | fault (f : MemFault)
  | poison
  | err
  | held
  | walk (va : Word)

/-- Read the doublewords of an image for a core, as loads do (R41, R143, R348). -/
def readImage (m : Mode) (va : Word) : Nat → State → Except ImageStop (List Word × State)
  | 0, s => .ok ([], s)
  | n + 1, s =>
    if walkStalls s s.tile.id va .read m then .error (.walk va)
    else match resolve s s.tile.id m (coreRule .read) va 8 with
    | .error e => .error (.fault (accessFault .read va e))
    | .ok (tg, s1) =>
      match blockOf s1 s.tile.id va tg false with
      | .err => .error .err
      | .held _ => .error .held
      | .free =>
        if targetPoisoned s1 tg then .error .poison
        else
          let r := readAt s1 tg 8
          match readImage m (va + 8) n (cacheTouch r.2 s.tile.id va tg false) with
          | .error f => .error f
          | .ok (l, s2) => .ok (BitVec.ofNat 64 r.1 :: l, s2)

/-- What a CFGLD does whose image cannot be read now: it waits under the park cause until it has been read (R348), or ends as a load would (R381). -/
def imageStop {α : Type} (s : State) : ImageStop → Exec α
  | .fault f => memTrap f
  | .poison => stop .poison
  | .err => trap { cause := .portErr }
  | .held => waitHere .fence []
  | .walk va => stop (.wait .fence false [] (some (askData s s.tile.id va .read s.tile.mode)))

/-- CFGLD (R348, R416). -/
def execCfgld (a : BitVec 6) (s : State) : Host.Outcome State Fault Refusal :=
  run1 (do
    checkOperands [.x a] []
    let va ← takeX a
    demand (va.toNat % 64 == 0) (trap { cause := .align })
    let st ← look id
    demand (heldBehind st st.tile.id).isNone (waitHere .fence [])
    match readImage st.tile.mode va 64 st with
    | .error x => imageStop s x
    | .ok (ws, s1) =>
      demand (!(imageBad s1 st.tile.id ws)) (illegal 8)
      update (fun _ => onTile (moduleRead s1 (fieldOf st.tile.id) (imgModule ws)).2
        (fun t => { t with shadow := some (tagImage ws t.cfgTag), shadowImg := some (.address va) }))) s

/- Draining -/

/-- Does an input hold a token: in its switch FIFO, its weir or the core-input queue that its direction fills (R349)? -/
def Tile.inputHeld (t : Tile) (i : Nat) : List Token :=
  vget t.coreIn i [] ++ vget t.swIn i [] ++ (t.weir i).fifo ++ (t.weir i).ring ++ (t.weir i).inflight

/-- INQ of R349. -/
def Tile.inq (t : Tile) : Nat := (List.range 8).foldl (fun a i => if (t.inputHeld i).isEmpty then a else a + 2 ^ i) 0

/-- The drain word of R349. -/
def Tile.drainWord (t : Tile) : Word :=
  let mask := fun (p : Nat → Bool) => (List.range 8).foldl (fun a i => if p i then a + 2 ^ i else a) 0
  let w := at_ 26 (if t.sw.st == .halted then 0 else 1) ||| at_ 25 (if t.streams.isEmpty then 0 else 1) |||
    at_ 17 (mask (fun i => !(vget t.coreOut i []).isEmpty)) ||| at_ 9 (mask t.carried.contains) ||| at_ 1 t.inq
  if w = 0 then 1 else w

/-- CFGDRN (R349). -/
def execCfgdrn (d : BitVec 6) (s : State) : Host.Outcome State Fault Refusal :=
  run1 (do
    checkOperands [] [.x d]
    let w ← look (·.tile.drainWord)
    giveX d w) s

/- Activation -/

/-- The rim-facing port of a plane of an edge tile of a cistern (R21). -/
def rimPort (t pl : Nat) : Option Nat := (rimDir t).map (fun d => 4 * pl + d)

/-- A port descriptor becomes active (R85): a legal one with EN = 0 leaves the port idle. -/
def activatePort (s : State) (t pl : Nat) (d : List Word) : State :=
  match rimPort t pl with
  | none => s
  | some p =>
    let on := bitOf (imgD d 0) 0
    let s1 := updTile s t (fun u => u.updPort p (fun r =>
      { r with active := d, pos := {}, idle := !on, ahead := [], fault := none, passed := false, cut := false }))
    if on && !bitOf (imgD d 0) 1 then schedule s1 t [(.streamPortSourceElement, [p])] else s1

/- Spill rings -/

/-- The first address and the size of every spill ring that stands in local units (R88). -/
def liveRings (s : State) : List (Nat × Nat) :=
  (allTiles s).flatMap (fun t => (getTile s t).weirs.filterMap (fun e => e.2.ringAt.map (fun a => (a, 16 * e.2.ringCap))))

/-- Is a stretch of a local unit free for a ring: does no other ring meet it? -/
def ringFree (l : List (Nat × Nat)) (a n : Nat) : Bool := l.all (fun r => decide (a + n ≤ r.1) || decide (r.1 + r.2 ≤ a))

/-- The place of a new ring of `n` bytes (R88): aligned to its size in the first local unit, in the order of cisterns and units, that is unassigned or
holds rings and has room before the end of the cistern. DEDUCED, log entry 47. -/
def ringPlace (s : State) (n : Nat) : Option Nat :=
  let l := liveRings s
  (presentList s).findSome? (fun c =>
    ((List.range ((capacity s c - interSize s + 2 ^ 24 - 1) / 2 ^ 24)).filter (fun u =>
      decide (62 ≤ bitsOf (smGet 0x3E s.localUnits (c * 4096 + u)) 5 0))).findSome? (fun u =>
        ((List.range (2 ^ 24 / n)).map (fun i => localBase c + u * 2 ^ 24 + i * n)).find? (fun a =>
          ringFree l a n && decide (a - localBase c + n ≤ capacity s c - interSize s))))

/-- The number of the local unit of a physical address in the table of R78. -/
def unitOf (a : Nat) : Nat := (a - 2 ^ 49) / 2 ^ 36 * 4096 + (a - 2 ^ 49) % 2 ^ 36 / 2 ^ 24

/-- Give the ring of input `i` of a tile its slots at a place in a unit whose OWNER becomes 63 (R88); where no unit has room the weir stays without a ring.
DEDUCED, log entry 47. -/
def takeRing (s : State) (t i n : Nat) : State :=
  match ringPlace s n with
  | none => s
  | some a => updTile { s with localUnits := smSet s.localUnits (unitOf a) 0x3F } t (fun u =>
      u.updWeir i (fun w => { w with ringCap := n / 16, ringAt := some a }))

/-- Release the ring of input `i` of a tile, once it is empty: a unit that no ring stands in any longer is unassigned, with undefined contents (R89). -/
def giveRing (s : State) (t i : Nat) : State :=
  let w := (getTile s t).weir i
  if !w.ring.isEmpty || (w.ringCap == 0 && w.ringAt.isNone) then s
  else
    let s1 := updTile s t (fun u => u.updWeir i (fun x => { x with ringCap := 0, ringAt := none }))
    match w.ringAt with
    | none => s1
    | some a =>
      if (liveRings s1).any (fun r => unitOf r.1 == unitOf a) then s1
      else
        let base := a / 2 ^ 24 * 2 ^ 24
        havocRange { s1 with localUnits := smSet s1.localUnits (unitOf a) 0x3E } base (base + 2 ^ 24)

/-- Release the rings of a tile's weirs, those that hold tokens excepted (R89). -/
def giveRings (s : State) (t : Nat) : State := (List.range 8).foldl (fun u i => giveRing u t i) s

/-- The rings of the channel nodes that an image declares (R88, R350); a weir whose ring still holds tokens keeps it. -/
def installRings (s : State) (t : Nat) (ws : List Word) : State :=
  (List.range 8).foldl (fun u i =>
    if imgNode ws i && ((getTile u t).weir i).ring.isEmpty then takeRing u t i (2 ^ bitsOf (imgD ws (56 + i)) 5 1) else u) (giveRings s t)

/-- The fault of a preload's byte (R350): a copy's, by the tile's spout. -/
def preloadFault (va : Word) (off : Nat) (e : Bool × XErr) : MemFault := mkFault 5 0 (off / 32) .read va e.2

/-- Copy the preload bytes to scratch (R350), as a copy reads and writes: a line held dirty is recalled (R97), and an uncorrectable error kills the
tile (R83). -/
def preloadBytes (t : Nat) (m : Mode) (va : Word) (off : Nat) : Nat → State → Except MemFault State
  | 0, s => .ok s
  | n + 1, s =>
    match resolve s t m { kind := .read, noDevice := true } va 1 with
    | .error e => .error (preloadFault va off e)
    | .ok (tg, s1) =>
      if targetPoisoned s1 tg then .ok (sealTile s1 t) else
      let r := readAt (atHome s1 tg false) tg 1
      preloadBytes t m (va + 1) (off + 1) n (writeAt r.2 (.scratch t off) 1 r.1)

/-- The switch of a tile starts at word 0 of its image's program, or stays halted (R350). The program's offset counts from the slot of the image's module,
at a placement's swap too, which uses ENTRY for nothing else (R163; DESIGN CHOICE, log entry 90). -/
def startSwitch (ws : List Word) : Switch :=
  let len := bitsOf (imgD ws 2) 63 32
  { base := slotBase (imgModule ws) + BitVec.ofNat 64 (bitsOf (imgD ws 2) 31 0), len := len,
    st := if len = 0 then .halted else .running }

/-- The shadow plane of tile `t` becomes active (R350): the split, the formats, the scales, the port descriptors, the channel nodes,
the loop state, the switch and the preload. DEDUCED, log entry 47. -/
def activate (s : State) (t : Nat) (ws : List Word) : Except MemFault State :=
  let s1 := if (getTile s t).tileSplit = imgSplit ws then s else changeSplit s t (imgSplit ws)
  let s2 := updTile s1 t (fun u => { u with
    fmt := Vector.ofFn (fun i : Fin 16 => imgD ws (8 + i.val))
    scale := Vector.ofFn (fun i : Fin 16 => imgD ws (24 + i.val))
    chan := ws.drop 56
    loops := {}
    carried := []
    shadow := none
    activeImg := u.shadowImg
    shadowImg := none
    sw := startSwitch ws })
  let s3 := activatePort (activatePort (installRings s2 t ws) t 0 (imgPort ws 0)) t 1 (imgPort ws 1)
  let s4 := addTurn s3 (.switch t)
  if imgD ws 3 = 0 then .ok s4 else preloadBytes t (getTile s4 t).mode (imgD ws 3) 0 (imgD ws 4).toNat s4

/-- STRAY_INFO (R350). -/
def strayWord (s : State) (t : Tile) : Word :=
  let i := ((List.range 8).find? (fun i => t.inq.testBit i)).getD 0
  at_ 32 (rankOf s t.id) ||| at_ 8 t.inq ||| at_ 3 (((t.inputHeld i).head?.map (·.kind.code)).getD 0) ||| at_ 2 (i / 4) ||| at_ 0 (i % 4)

/-- The preload of a CFGSWP stopped at a fault: the pair goes to the field supervisor (R49) once, and the CFGSWP waits.
DEDUCED, log entry 39. -/
def holdPreload (s : State) (f : MemFault) : State :=
  if (getField s (fieldOf s.tile.id)).supQ.contains (f.va, f.info) then s else supFault s s.tile.id f

/-- Must the preload of a CFGSWP wait for an earlier copy of the tile, which its spout copy would pass at a sector of its source or of its destination
(R98, R350)? -/
def preloadBehind (s : State) (t : Nat) (ws : List Word) : Bool :=
  let va := imgD ws 3
  let n := (imgD ws 4).toNat
  va != 0 && !(getTile s t).ownCopies.isEmpty && (List.range n).any (fun i =>
    behindCopy s t (fun k => decide (k < 32)) (nextCopy (getTile s t)) (sectorOf s t (va + BitVec.ofNat 64 i)) false ||
      behindCopy s t (fun k => decide (k < 32)) (nextCopy (getTile s t)) (scratchKey t i / 32) true)

/-- CFGSWP (R350). DEDUCED, log entry 39. -/
def execCfgswp (s : State) : Host.Outcome State Fault Refusal :=
  run 1 (do
    let t ← look (·.tile)
    demand t.intr.isNone (illegal 2)
    parkFirst
    match t.shadow with
    | none => illegal 8
    | some ws =>
      demand (t.drainWord &&& 0x7FFFE00#64 == 0) (waitHere .empty)
      let st ← look id
      demand (t.inq == 0) (trap { cause := .stray, info := some (.stray, strayWord st t) })
      let target := slotBase (imgModule ws) + BitVec.ofNat 64 (imgEntry ws)
      let e := moduleRead st (fieldOf t.id) (imgModule ws)
      demand (moduleState e.1 != 3) (trap { cause := .cls, va := some target, info := some (.cls, at_ 32 2) })
      demand (!(preloadBehind st t.id ws)) (waitHere .fence (t.ownCopies.flatMap copySteps))
      match activate e.2 t.id ws with
      | .error f => stop (.wait .park false [] (some (holdPreload st f)))
      | .ok s1 =>
        demand (!(sealed s1 t.id)) (stop .poison)
        update (fun _ => onTile s1 (fun u => { u with pc := target }.countHeld (if t.tileSplit = imgSplit ws then 0 else splitCycles st t.id (imgSplit ws))))
        pure true) s

end Sys2Proof.Machine
end

