-- ==== Sys2Proof/Machine/Launch.lean ====
section
/-! DEFINITION. Launch and scheduling (R148, R149, R151 to R170, R339, R341, R345): the checks of a record, the queues, eligibility and
selection, placement and the swap, retirement and completion, and the cancel-scope tree. -/
namespace Sys2Proof.Machine

/- Records -/

/-- The doubleword at a byte offset of a record (R151). -/
def recD (r : List Word) (off : Nat) : Word := r.getD (off / 8) 0

/-- LEVELS of a record. -/
def recLevels (r : List Word) : Nat := bitsOf (recD r 0) 11 8
/-- PRIO of a record. -/
def recPrio (r : List Word) : Nat := bitsOf (recD r 0) 14 12
/-- FOLLOW of a record. -/
def recFollow (r : List Word) : Bool := bitOf (recD r 0) 15
/-- NDEP of a record. -/
def recNdep (r : List Word) : Nat := bitsOf (recD r 0) 31 24
/-- SCOPE of a record. -/
def recScope (r : List Word) : Nat := bitsOf (recD r 0) 47 32
/-- Level `i` of a record, counted from 0: domain, memory scope and extent. -/
def recLevel (r : List Word) (i : Nat) : Nat × Nat × Nat :=
  let w := recD r (8 + 8 * i)
  (bitsOf w 2 0, bitsOf w 6 4, bitsOf w 63 32)
/-- MODULE of a record. -/
def recModule (r : List Word) : Nat := bitsOf (recD r 0x48) 11 0
/-- OFFSET of a record. -/
def recOffset (r : List Word) : Nat := bitsOf (recD r 0x48) 63 32
/-- IMAGE of a record. -/
def recImage (r : List Word) : Nat := bitsOf (recD r 0x50) 15 0
/-- CLAIM of a record. -/
def recClaim (r : List Word) : Nat := bitsOf (recD r 0xA8) 15 0
/-- KEY of a record. -/
def recKey (r : List Word) : Nat := bitsOf (recD r 0xA8) 31 16
/-- KEY and MASK of PREDi. -/
def recPred (r : List Word) (i : Nat) : Nat × Nat :=
  let w := recD r (0xB0 + 8 * i)
  (bitsOf w 15 0, bitsOf w 31 16)

/- Cancel scopes -/

/-- The address of a scope record (R339). EN of SCOPE_BASE bears on allocation alone. -/
def scopeVa (s : State) (f sc : Nat) : Word := BitVec.ofNat 64 (bitsOf (getField s f).scopeBase 63 20 * 2 ^ 20 + 16 * sc)

/-- STATE of a scope as the table holds it; none where its read faults. -/
def scopeState (s : State) (f sc : Nat) : Option Word :=
  match partReadD s f (scopeVa s f sc) with
  | .ok (w, _) => some w
  | .error _ => none

/-- A fault of the hardware's own accesses joins the field supervisor's queue, unless the same pair waits there (R49, R339). -/
def supPair (s : State) (f : Nat) (va info : Word) : State :=
  if (getField s f).supQ.contains (va, info) then s else updField s f (fun u => { u with supQ := u.supQ ++ [(va, info)] })

/-- Queue what an access of the hardware to the scope table has met: the pair of a fault, or nothing where the access must wait (R49, R339). -/
def supNote (s : State) (f : Nat) : Option (Word × Word) → State
  | some (va, info) => supPair s f va info
  | none => s

/-- Read a doubleword of the scope table for the hardware (R339): its value; or the pair of its fault, or none where the network interface of the tile
that holds the table takes no request now (R143). The state keeps what the walk did (R40). -/
def scopeGet (s : State) (f : Nat) (va : Word) : Except (Option (Word × Word)) Word × State :=
  if partHeld s f va then (.error none, s)
  else match partReadD s f va with
  | .ok (w, s1) => (.ok w, s1)
  | .error e => (.error (some (va, mkInfo 0 0 0 .read e)), partFault s f .read va)

/-- Write a doubleword of the scope table for the hardware, in the same way (R339). -/
def scopePut (s : State) (f : Nat) (va w : Word) : Except (Option (Word × Word)) Unit × State :=
  if partHeld s f va then (.error none, s)
  else match partWriteD s f va w with
  | .ok s1 => (.ok (), s1)
  | .error e => (.error (some (va, mkInfo 0 0 0 .write e)), partFault s f .write va)

/-- The hardware reads STATE of a scope, and the field supervisor learns of a fault (R339); of the partition root none is read (R152). -/
def noteScope (s : State) (f sc : Nat) : State :=
  if sc = 0 then s
  else match scopeGet s f (scopeVa s f sc) with
  | (.ok _, s1) => s1
  | (.error p, s1) => supNote s1 f p

/-- Is a scope live (R152)? The partition root always is. -/
def scopeLive (s : State) (f sc : Nat) : Bool := sc == 0 || (scopeState s f sc).any (fun w => bitOf w 16)

/-- Is a scope known not to be live? -/
def scopeDead (s : State) (f sc : Nat) : Bool := sc != 0 && (scopeState s f sc).any (fun w => !bitOf w 16)

/-- Is a scope cancelled? The partition root never is (R341). -/
def scopeCancelled (s : State) (f sc : Nat) : Bool := sc != 0 && (scopeState s f sc).any (fun w => bitOf w 17)

/-- Is `anc` the scope `sc` or one of its ancestors, or what stops a read of a STATE on the way? The depth of the tree is at most the number of scopes. -/
def scopeWalk (f anc : Nat) : Nat → Nat → State → Except (Option (Word × Word)) Bool × State
  | 0, _, s => (.ok false, s)
  | n + 1, sc, s =>
    if sc = anc then (.ok true, s)
    else if sc = 0 then (.ok false, s)
    else match scopeGet s f (scopeVa s f sc) with
      | (.ok w, s1) => scopeWalk f anc n (bitsOf w 15 0) s1
      | (.error p, s1) => (.error p, s1)

/-- What the scope table says of the SCOPE of a record (R152, R155). -/
inductive ScopeSays where
  | runs
  | bad
  | cancelled
  | unread (p : Option (Word × Word))
  deriving DecidableEq, Repr

/-- The scope of a record as the table says it: `bad` where it is not live or does not stand under `anc`. -/
def scopeCheck (s : State) (f anc sc : Nat) : ScopeSays × State :=
  match (if anc = 0 then (.ok true, s) else scopeWalk f anc 65536 sc s) with
  | (.error p, s1) => (.unread p, s1)
  | (.ok false, s1) => (.bad, s1)
  | (.ok true, s1) =>
    if sc = 0 then (.runs, s1)
    else match scopeGet s1 f (scopeVa s1 f sc) with
      | (.error p, s2) => (.unread p, s2)
      | (.ok w, s2) => (if !bitOf w 16 then .bad else if bitOf w 17 then .cancelled else .runs, s2)

/-- The live ones of some scopes that lie in the subtree of a scope (R341), or what stops a read of the table. -/
def subtreeOf (f sc : Nat) : List Nat → State → Except (Option (Word × Word)) (List Nat) × State
  | [], s => (.ok [], s)
  | t :: r, s =>
    match scopeGet s f (scopeVa s f t) with
    | (.error p, s1) => (.error p, s1)
    | (.ok w, s1) =>
      if !bitOf w 16 then subtreeOf f sc r s1
      else match scopeWalk f sc 65536 t s1 with
        | (.error p, s2) => (.error p, s2)
        | (.ok b, s2) => let q := subtreeOf f sc r s2; (q.1.map (fun l => if b then t :: l else l), q.2)

/-- A write of the hardware that a fault turns into a pair of the field supervisor's queue (R49, R339). -/
def supWrite (s : State) (f : Nat) (va w : Word) : State :=
  match partWriteD s f va w with
  | .ok s1 => s1
  | .error e => supPair s f va (mkInfo 0 0 0 .write e)

/-- The lowest scope number from `sc` up that has LIVE at 0 (R339; which number is taken is not architectural); one whose instance has still to write its
ACK is not taken. A read that faults ends the search, and the supervisor learns of it. DESIGN CHOICE, log entry 17. -/
def lowestScope (p f : Nat) : Nat → Nat → State → Option Nat × State
  | 0, _, s => (none, s)
  | n + 1, sc, s =>
    if (getPart s p).scopes.contains sc then lowestScope p f n (sc + 1) s
    else match scopeGet s f (scopeVa s f sc) with
      | (.error q, s1) => (none, supNote s1 f q)
      | (.ok w, s1) => if bitOf w 16 then lowestScope p f n (sc + 1) s1 else (some sc, s1)

/-- The number that the next task takes, while SCOPE_BASE.EN lets scopes be allocated (R339). DESIGN CHOICE, log entry 17. -/
def freeScope (s : State) (p f : Nat) : Option Nat × State :=
  if bitOf (getField s f).scopeBase 0 then lowestScope p f 65534 1 s else (none, s)

/-- Allocate a scope under a parent (R339). An access that faults allocates none, and the supervisor learns of it. -/
def allocScope (s : State) (p f parent : Nat) : Option Nat × State :=
  match freeScope s p f with
  | (none, s1) => (none, s1)
  | (some sc, s1) =>
    match scopeGet s1 f (scopeVa s f sc) with
    | (.error q, s2) => (none, supNote s2 f q)
    | (.ok w, s2) =>
      let gen := (bitsOf w 63 32 + 1) % 2 ^ 32
      match scopePut s2 f (scopeVa s f sc) (at_ 32 gen ||| at_ 16 1 ||| at_ 0 parent) with
      | (.error q, s3) => (none, supNote s3 f q)
      | (.ok _, s3) => (some sc, updPart s3 p (fun q => { q with scopes := insertNat sc q.scopes }))

/- The checks of a record -/

/-- The modules that conduits join in the fleet group of a partition (R148): this one, and those in the GROUP of the table that is installed on a
conduit set granted to it (R400, R401). DEDUCED, log entry 75. -/
def joinedModules (s : State) (p : Nat) : Nat :=
  let m := s.csets.foldl (fun a e => match e.2.table with
    | some t => if e.2.en && e.2.part == p then a ||| bitsOf (imgD t.words 1) 15 0 else a
    | none => a) (2 ^ (s.fleetId % 16))
  (setBits 16 m).length

/-- Lanes in one instance of a domain (R148), in a partition of `nf` fields whose fleet group joins `nm` modules. -/
def domainSize (nf nm : Nat) : Nat → Nat
  | 0 => 1 | 1 => 8 | 2 => 64 | 3 => 1024 | 4 => 8192 | 5 => 8192 * nf | 6 => 8192 * nf | _ => 8192 * nf * nm

/-- The smallest memory scope of a domain (R148). -/
def minScope : Nat → Nat
  | 0 => 0 | 1 => 1 | 2 => 2 | 3 => 3 | 4 => 3 | 5 => 4 | 6 => 5 | _ => 6

/-- Does level `i` of a record break R148 or R151? The outermost level, which has no next one, is limited as inside the fleet domain (DESIGN CHOICE, log
entry 77), but for a field level, of which R162 says that more fields than the partition has are a shape that does not fit. -/
def levelBad (nf nm : Nat) (r : List Word) (i : Nat) : Bool :=
  let w := recD r (8 + 8 * i)
  let n := recLevels r
  if n ≤ i then w != 0
  else
    let (d, m, e) := recLevel r i
    let outer := decide (n ≤ i + 1)
    let next := if outer then 7 else (recLevel r (i + 1)).1
    bitOf w 3 || bitsOf w 31 7 != 0 || m == 7 || e == 0 || decide (m < minScope d) ||
      (i != 0 && decide (d ≤ (recLevel r (i - 1)).1)) || (!(outer && d == 4) && decide (domainSize nf nm (Nat.max next d) / domainSize nf nm d < e))

/-- The records queued in the fields of a partition. -/
def queuedRecs (s : State) (p : Nat) : List QRec := (partFields s p).flatMap (fun f => (getField s f).queues.flatMap (·.2))

/-- The address of configuration image `i` of a module (R414); none beyond its image table, and the fault where the table's read faults (R168). -/
def imageVa (s : State) (f m i : Nat) : Except (Option (Word × Word)) Word :=
  let e := moduleEntry s f m
  let va := e.getD 4 0 + BitVec.ofNat 64 (8 * i)
  if (e.getD 5 0).toNat ≤ i then .error none
  else match partReadD s f va with
    | .ok (w, _) => .ok w
    | .error x => .error (some (va, mkInfo 0 0 0 .read x))

/-- The scratch banks that the first tile image of a record's image gives (R152); 16 where it cannot be read, since placement
reads it again. -/
def imageBanks (s : State) (f : Nat) (r : List Word) : Nat :=
  match imageVa s f (recModule r) (recImage r) with
  | .error _ => 16
  | .ok va => match partReadD s f va with
    | .ok (w, _) => bitsOf w 12 8
    | .error _ => 16

/-- Does a live launch or a queued record of the partition use a KEY? -/
def keyTaken (s : State) (p k : Nat) : Bool :=
  (queuedRecs s p).any (fun q => recKey q.words == k) ||
    s.launches.any (fun e => e.2.live && e.2.part == p && recKey e.2.words == k)

/-- The offset of the first doubleword of a record that breaks R152. FOLLOW with no PRED0.KEY is charged to PRED0, an overlap of the
two masks to PRED1. DEDUCED, log entry 40. A SCOPE that cannot be read now is looked at again when it can (log entry 18). -/
def recordBad (s : State) (f : Nat) (r : List Word) : Option Nat :=
  let p := (partOfField s f).getD 64
  let nf := (partFields s p).length
  let h := recD r 0
  let e := moduleEntry s f (recModule r)
  let dep := fun (i : Nat) => if i < recNdep r then (if (recD r (0x68 + 16 * i)).toNat % 8 ≠ 0 then some (0x68 + 16 * i) else none)
    else if recD r (0x68 + 16 * i) ≠ 0 then some (0x68 + 16 * i)
    else if recD r (0x70 + 16 * i) ≠ 0 then some (0x70 + 16 * i) else none
  let outside := fun (i : Nat) => (recPred r i).2 &&& (65535 - recClaim r) != 0
  if bitsOf h 7 0 ≠ 1 ∨ recLevels r = 0 ∨ 8 < recLevels r ∨ 4 < recNdep r ∨ bitsOf h 63 48 ≠ 0 ∨ scopeDead s f (recScope r) then some 0
  else match (List.range 8).find? (levelBad nf (joinedModules s p) r) with
  | some i => some (8 + 8 * i)
  | none =>
    if bitsOf (recD r 0x48) 31 12 ≠ 0 ∨ moduleState e ≠ 2 ∨ recOffset r % 4 ≠ 0 ∨ (e.getD 1 0).toNat ≤ recOffset r then some 0x48
    else if bitsOf (recD r 0x50) 63 16 ≠ 0 ∨ (e.getD 5 0).toNat ≤ recImage r then some 0x50
    else if (recD r 0x58).toNat % 8 ≠ 0 then some 0x58
    else if (recD r 0x60).toNat % 32 ≠ 0 then some 0x60
    else match (List.range 4).findSome? dep with
    | some o => some o
    | none =>
      if bitsOf (recD r 0xA8) 63 32 ≠ 0 ∨ 2 ^ imageBanks s f r ≤ recClaim r ∨ (recKey r ≠ 0 ∧ keyTaken s p (recKey r)) then some 0xA8
      else if bitsOf (recD r 0xB0) 63 32 ≠ 0 ∨ outside 0 ∨ (recFollow r ∧ (recPred r 0).1 = 0) then some 0xB0
      else if bitsOf (recD r 0xB8) 63 32 ≠ 0 ∨ outside 1 ∨ (recPred r 0).2 &&& (recPred r 1).2 ≠ 0 then some 0xB8
      else none

/- Completion -/

/-- Count a completion write that faulted (R167, R382). -/
def countSupFault (s : State) (f : Nat) : State := updField s f (fun u => { u with supFaults := u.supFaults + 1 })

/-- Write the completion record and add 1 to the completion counter (R167), with user privilege; a fault skips the write and
is counted. DEDUCED, log entry 36. -/
def complete (s : State) (f : Nat) (r : List Word) (code detail scope tiles : Nat) (fva finfo : Word) : State :=
  let crec := recD r 0x60
  let cc := recD r 0x58
  let ws := [at_ 32 detail ||| at_ 16 scope ||| at_ 0 code, BitVec.ofNat 64 tiles, fva, finfo]
  let s1 := if crec = 0 then s else match partWriteWords s f crec .user ws with
    | .ok u => u
    | .error _ => countSupFault s f
  if cc = 0 then s1 else match partIncrement s1 f cc .user with
    | .ok u => u
    | .error _ => countSupFault s1 f

/-- A change made while a field counts as one of a partition's: the supervisor still answers there for what the field took for it (R170). -/
def asMember (s : State) (p f : Nat) (g : State → State) : State :=
  let old := (getPart s p).fields
  updPart (g (updPart s p (fun q => { q with fields := q.fields ||| BitVec.ofNat 48 (2 ^ f) }))) p (fun q => { q with fields := old })

/-- The field that answers for a launch of a partition: its home field, or the lowest one where that has left the partition (R170). -/
def answerField (s : State) (p f : Nat) : Nat := if (partFields s p).contains f then f else (partFields s p).headD f

/-- A record that was never placed completes. -/
def completeUnplaced (s : State) (f : Nat) (r : List Word) (code detail : Nat) : State := complete s f r code detail 0 0 0 0

/-- A record of a cancelled scope completes with CANCELLED and is counted (R155, R169). -/
def suppress (s : State) (f : Nat) (r : List Word) : State :=
  completeUnplaced (updField s f (fun u => { u with suppress := u.suppress + 1 })) f r 2 0

/- Queues -/

/-- Queue `q` of a field. -/
def queueOf (s : State) (f q : Nat) : List QRec := smGet [] (getField s f).queues q

/-- Replace queue `q` of a field. -/
def setQueue (s : State) (f q : Nat) (l : List QRec) : State := updField s f (fun u => { u with queues := smSet u.queues q l })

/-- The steps of a field's sequencer, at the field's first tile. -/
def kickField (s : State) (f : Nat) : State := schedule s (tileIn f 0 0) [(.lsSelection, [f])]

/-- The queues of every field that holds records may go on: tiles or tokens have become free. -/
def kickAll (s : State) : State :=
  (s.fields.filter (fun e => e.2.queues.any (fun q => !q.2.isEmpty))).foldl (fun u e => kickField u e.1) s

/-- Is a launch that PREDi names still queued (R157)? -/
def predsMet (s : State) (p : Nat) (r : List Word) : Bool :=
  (List.range 2).all (fun i => let k := (recPred r i).1
    k == 0 || !((queuedRecs s p).any (fun q => recKey q.words == k)))

/-- Are a head's dependences and predecessors met (R157, R158)? -/
def headMet (s : State) (f : Nat) (h : QRec) : Bool :=
  (List.range (recNdep h.words)).all h.deps.contains && predsMet s ((partOfField s f).getD 64) h.words

/-- The aging count of a head begins once its dependences and predecessors are met (R158). -/
def stampHead (s : State) (f q : Nat) : State :=
  match queueOf s f q with
  | [] => s
  | h :: r => if h.agingStart.isNone && headMet s f h then setQueue s f q ({ h with agingStart := some s.time } :: r) else s

/-- The same for every head of a field. -/
def stampHeads (s : State) (f : Nat) : State := (getField s f).queues.foldl (fun u e => stampHead u f e.1) s

/-- A record that has not been a head: its aging starts anew. -/
def QRec.fresh (r : QRec) : QRec := { r with aging := 0, agingStart := none }

/-- The head of a queue leaves it: its hold is released and the next head starts to age (R158, R159). -/
def popHead (s : State) (f q : Nat) : State :=
  stampHead (updField s f (fun u => { u with
    queues := smSet u.queues q ((smGet [] u.queues q).drop 1 |>.mapIdx (fun i r => if i = 0 then r.fresh else r))
    holds := smErase u.holds q })) f q

/-- A record enters queue `q`, or completes at once if it is illegal (R152, R154, R155). The answer is none when the queue is full. `anc` is the scope under
which its SCOPE must stand where the table could not be read yet. -/
def enterQueue (s0 : State) (f q : Nat) (r : List Word) (vf : Nat) (slot anc : Option Nat) : Option State :=
  let s := noteScope s0 f (recScope r)
  let late := if anc.isSome then anc else if recScope r ≠ 0 ∧ scopeState s f (recScope r) = none then some 0 else none
  match recordBad s f r with
  | some off => some (completeUnplaced s f r 3 off)
  | none =>
    if 64 ≤ (queueOf s f q).length then none
    else some (kickField (stampHead (setQueue s f q (queueOf s f q ++ [{ words := r, vf := vf, slot := slot, late := late }])) f q) f)

/-- The slot that enters next, when all its doublewords are written (R154). DESIGN CHOICE, log entry 27. -/
def fullSlot (s : State) (f q : Nat) : Option (List Word) :=
  let k := smGet 0 (getField s f).windowNext q
  let w := smGet [] (smGet [] (getField s f).windows q) k
  if (List.range 32).all (fun i => w.any (fun e => e.1 == i)) then
    some ((List.range 32).map (fun i => ((w.find? (fun e => e.1 == i)).map (·.2)).getD 0))
  else none

/-- LAUNCH_SLOT_ENTER (R154) of field argument 0, queue argument 1: the next slot enters its queue when it is complete. -/
def execLaunchSlotEnter (s : State) : Host.Outcome State Fault Refusal :=
  event (fun s =>
    let f := argAt s 0
    let q := argAt s 1
    let k := smGet 0 (getField s f).windowNext q
    match fullSlot s f q with
    | none => s
    | some r =>
      match enterQueue s f q r (bitsOf (readLqCtl s f q) 8 0) (some k) none with
      | none => again s .launchSlotEnter
      | some s1 =>
        again (updField s1 f (fun u => { u with
          windowNext := smSet u.windowNext q ((k + 1) % 256)
          windows := smSet u.windows q (smErase (smGet [] u.windows q) k) })) .launchSlotEnter) s

/-- DEPENDENCE_SATISFIED (R157) of dependence argument 2 at the head of queue argument 1 of field argument 0. DEDUCED, log entry 36. -/
def execDependenceSatisfied (s : State) : Host.Outcome State Fault Refusal :=
  event (fun s =>
    let f := argAt s 0
    let q := argAt s 1
    let i := argAt s 2
    match queueOf s f q with
    | [] => s
    | h :: rest =>
      if recNdep h.words ≤ i || h.deps.contains i then s
      else
        let va := recD h.words (0x68 + 16 * i)
        match partReadD s f va .user with
        | .error e =>
          kickField (complete (popHead s f q) f h.words 5 0 0 0 va (mkInfo 0 0 0 .read e)) f
        | .ok (w, s1) =>
          if (recD h.words (0x70 + 16 * i)).toNat ≤ w.toNat then
            kickField (stampHead (setQueue s1 f q ({ h with deps := insertNat i h.deps } :: rest)) f q) f
          else again s1 .dependenceSatisfied) s

/-- The effective priority of a head (R158). -/
def effPrio (h : QRec) : Nat := Nat.min 7 (recPrio h.words + h.aging)

/-- Is a head aged (R158)? -/
def isAged (h : QRec) : Bool := decide (recPrio h.words < 7) && effPrio h == 7

/-- HEAD_AGING (R158) of queue argument 1 of field argument 0: the aging count passes a multiple of AGE_STEP. -/
def execHeadAging (s : State) : Host.Outcome State Fault Refusal :=
  event (fun s =>
    let f := argAt s 0
    let q := argAt s 1
    match queueOf s f q with
    | [] => s
    | h :: rest =>
      if headMet s f h then
        kickField (stampHead (setQueue s f q ({ h with aging := h.aging + 1 } :: rest)) f q) f
      else s) s

/- Shapes and places -/

/-- The tiles of one field's task before rounding (R161). -/
def taskTiles (r : List Word) : Nat :=
  let ls := (List.range (recLevels r)).map (recLevel r)
  match ls.filter (fun l => decide (1 ≤ l.1 ∧ l.1 ≤ 3)) with
  | [] => 1024
  | l => l.foldl (fun a x => a * x.2.2 * (if x.1 = 2 then 8 else if x.1 = 3 then 128 else 1)) 1

/-- Columns and rows of the rectangle of a rounded tile count (R161). -/
def rectOf (t : Nat) : Nat × Nat :=
  match t with
  | 1 => (1, 1) | 2 => (2, 1) | 4 => (4, 1) | 8 => (4, 2) | 16 => (8, 2) | 32 => (16, 2) | 64 => (32, 2)
  | 128 => (32, 4) | 256 => (32, 8) | 512 => (32, 16) | _ => (32, 32)

/-- The field count of a launch (R162). -/
def launchFields (s : State) (p : Nat) (r : List Word) : Nat :=
  let ls := (List.range (recLevels r)).map (recLevel r)
  if ls.any (fun l => l.1 == 5) then (partFields s p).length
  else ((ls.find? (fun l => l.1 == 4)).map (·.2.2)).getD 1

/-- The fields of a launch in ordinal order: the home field and the next ones, wrapping (R162). -/
def fieldsFrom (s : State) (p f n : Nat) : List Nat :=
  let fs := partFields s p
  let k := fs.findIdx (· == f)
  ((fs.drop k ++ fs.take k)).take n

/-- The tiles of a rectangle in a field, in launch-index order (R163). -/
def rectTiles (f : Nat) (o : Nat × Nat) (wh : Nat × Nat) : List Nat :=
  (List.range (wh.1 * wh.2)).map (fun i => tileIn f (o.1 + i % wh.1) (o.2 + i / wh.1))

/-- The origins of a rectangle, lowest row first (R161). -/
def origins (wh : Nat × Nat) : List (Nat × Nat) :=
  (List.range (32 / wh.2)).flatMap (fun r => (List.range (32 / wh.1)).map (fun c => (c * wh.1, r * wh.2)))

/-- Is a tile free for placement: no task holds it, it is not killed and not quarantined (R149, R163, R388)? -/
def tileFree (s : State) (t : Nat) : Bool :=
  let u := getTile s t
  u.launch == 0 && (u.run == .inactive || u.run == .retired) && !bitOf (suspectOf s t) 8 && (getField s (fieldOf t)).resetState == 0 &&
    fieldPresent s (fieldOf t)

/-- The newest launch of the partition with a KEY that has been placed: its number and itself. -/
def launchWithKey (s : State) (p k : Nat) : Option (Nat × Launch) :=
  (s.launches.filter (fun e => e.2.part == p && e.2.placed && recKey e.2.words == k)).getLast?

/-- The banks that the PRED masks of a record name with a KEY. -/
def predMasks (r : List Word) : Nat := (List.range 2).foldl (fun a i => a ||| (recPred r i).2) 0

/-- The name under which a launch lists a tile that lies in an image: no tile has it, and no two records share it. -/
def Saved.ghost (k : Saved) : Nat := k.place + 2048 * k.base

/-- The record of the tile that a launch lists under a name of an image, with its key. -/
def savedTile (s : State) (t : Nat) : Option (Nat × Saved) := s.images.find? (fun e => e.2.ghost == t)

/-- The tile whose banks a name in a launch's list means (R164): a tile itself; the tile that a pre-empted task has left, which keeps the task's tokens; or
the record of one that the supervisor moves, which takes them with it (log entry 30). -/
def bankTile (s : State) (t : Nat) : Tile :=
  match savedTile s t with
  | none => getTile s t
  | some (key, k) => if 2 ^ 60 ≤ key then k.tile else getTile s k.place

/-- Change the banks of that tile. -/
def updBanks (s : State) (t : Nat) (g : Tile → Tile) : State :=
  match savedTile s t with
  | none => updTile s t g
  | some (key, k) => if 2 ^ 60 ≤ key then { s with images := smSet s.images key { k with tile := g k.tile } } else updTile s k.place g

/-- May a task claim bank `b` of a tile from a predecessor (R164)? Its token is open, or a predecessor holds it and no successor is
recorded. -/
def succFree (s : State) (t b : Nat) (tags : List (BitVec 16)) : Bool :=
  let u := bankTile s t
  let o := vget u.bankToken b 0
  o == 0 || (tags.contains o && vget u.bankSucc b 0 == 0)

/-- Do the bank claims of a record allow a placement on some tiles (R62, R164)? DEDUCED, log entry 40. -/
def claimsFree (s : State) (p : Nat) (r : List Word) (tiles : List Nat) : Bool :=
  tiles.all (fun t => (setBits 16 (recClaim r &&& (65535 - predMasks r))).all (fun b => vget (getTile s t).bankToken b 0 == 0)) &&
  (List.range 2).all (fun i =>
    let (k, m) := recPred r i
    k == 0 || (match launchWithKey s p k with
      | none => true
      | some (_, l) => l.tiles.all (fun t => (setBits 16 m).all (fun b => succFree s t b l.tags))))

/-- Does the hold of another queue or field keep a tile (R159)? -/
def heldForOther (s : State) (f q t : Nat) : Bool :=
  s.fields.any (fun e => e.2.holds.any (fun h => !(e.1 == f && h.1 == q) && h.2.contains t))

/-- A placement that a head may take now (R160 to R162, R163): its tiles field by field. A FOLLOW task takes no quarantined tile either (R388). A free origin
whose banks the task cannot claim now is passed over for the next one (R160, R164; DESIGN CHOICE, log entry 90). -/
def findPlace (s : State) (f q : Nat) (r : List Word) : Option (List (List Nat)) :=
  let p := (partOfField s f).getD 64
  let fs := fieldsFrom s p f (launchFields s p r)
  let wh := rectOf (pow2Ceil (taskTiles r))
  if recFollow r then
    match launchWithKey s p (recPred r 0).1 with
    | none => none
    | some (id, l) =>
      if l.tiles.all (fun t => (tileFree s t && !heldForOther s f q t) || ((getTile s t).launch == id && (getTile s t).follow.isNone && !bitOf (suspectOf s t) 8)) &&
          claimsFree s p r l.tiles then
        some (fs.map (fun g => l.tiles.filter (fun t => fieldOf t == g)))
      else none
  else
    let free := fun (o : Nat × Nat) => fs.all (fun g => (rectTiles g o wh).all (fun t => tileFree s t && !heldForOther s f q t)) &&
      claimsFree s p r (fs.flatMap (fun g => rectTiles g o wh))
    ((origins wh).find? free).map (fun o => fs.map (fun g => rectTiles g o wh))

/-- The placement that an aged head holds (R159): the one that it would take if all tiles were free, but for held and quarantined ones; that of a
FOLLOW record is its predecessor's. -/
def findHold (s : State) (f q : Nat) (r : List Word) : Option (List (List Nat)) :=
  let p := (partOfField s f).getD 64
  let fs := fieldsFrom s p f (launchFields s p r)
  let wh := rectOf (pow2Ceil (taskTiles r))
  let ok := fun (t : Nat) => !heldForOther s f q t && !bitOf (suspectOf s t) 8
  if recFollow r then
    (launchWithKey s p (recPred r 0).1).bind (fun e =>
      if e.2.tiles.all ok then some (fs.map (fun g => e.2.tiles.filter (fun t => fieldOf t == g))) else none)
  else ((origins wh).find? (fun o => fs.all (fun g => (rectTiles g o wh).all ok))).map (fun o => fs.map (fun g => rectTiles g o wh))

/-- Can a record never be placed in the partition (R162, R163)? DEDUCED, log entry 68. A FOLLOW record whose fields are not PRED0's has another shape
(DESIGN CHOICE, log entry 90). -/
def noFit (s : State) (f : Nat) (r : List Word) : Bool :=
  let p := (partOfField s f).getD 64
  let n := launchFields s p r
  let t := pow2Ceil (taskTiles r)
  decide (1024 < taskTiles r) || decide ((partFields s p).length < n) ||
  (recFollow r && (match launchWithKey s p (recPred r 0).1 with
    | none => false
    | some (_, l) => l.shape != rectOf t || l.fields != fieldsFrom s p f n))

/- Placement -/

/-- Read and check the images of a launch (R147, R163, R347): one for each tile of its rectangles, those counted only by the rounding included. The
image of the field with ordinal `k` is the one at index IMAGE + `k` of the module's image table (DESIGN CHOICE, log entry 28); it is 64-byte
aligned. A fault of the table or of an image is answered with its address and its information (R168). DEDUCED, log entry 36. -/
def loadImages (s : State) (f : Nat) (r : List Word) : List (Nat × Nat × Nat) → Except (Option (Word × Word)) (List (Nat × List Word))
  | [] => .ok []
  | (k, i, t) :: rest =>
    match imageVa s f (recModule r) (recImage r + k) with
    | .error e => .error e
    | .ok base =>
      let va := base + BitVec.ofNat 64 (512 * i)
      if base.toNat % 64 ≠ 0 then .error none
      else match partReadWords s f va .supervisor 64 with
      | .error e => .error (some (va, mkInfo 0 0 0 .read e))
      | .ok (ws, _) =>
        if imageBad s t ws then .error none
        else match loadImages s f r rest with
          | .error e => .error e
          | .ok l => .ok ((t, ws) :: l)

/-- The lowest tag that no live launch of the partition holds (R60). DESIGN CHOICE, log entry 17. -/
def freeTag (s : State) (p : Nat) (taken : List (BitVec 16)) : BitVec 16 :=
  let used := taken ++ (s.launches.filter (fun e => e.2.live && e.2.part == p)).flatMap (·.2.tags)
  BitVec.ofNat 16 ((((List.range 65534).map (· + 1)).find? (fun n => !used.contains (BitVec.ofNat 16 n))).getD 1)

/-- Allocate a scope and a tag for each field's task of a launch (R163); the answer is none where a scope cannot be had now, with the state in which the
supervisor learns why. DESIGN CHOICE, log entry 17. -/
def allocTasks (p f parent : Nat) (taken : List (BitVec 16)) : Nat → State → Option (List Nat × List (BitVec 16)) × State
  | 0, s => (some ([], []), s)
  | n + 1, s =>
    match allocScope s p f parent with
    | (none, s1) => (none, s1)
    | (some sc, s1) =>
      let tag := freeTag s1 p taken
      let q := allocTasks p f parent (tag :: taken) n s1
      (q.1.map (fun e => (sc :: e.1, tag :: e.2)), q.2)

/-- What the field supervisor has learned on the way to a state that is given up. -/
def takeNotes (s s1 : State) (f : Nat) : State := updField s f (fun u => { u with supQ := (getField s1 f).supQ })

/-- The banks that a record claims and that no PRED mask names. -/
def ownClaim (r : List Word) : List Nat := setBits 16 (recClaim r &&& (65535 - predMasks r))

/-- Claim the banks of a placement (R62, R164): those of each field's task on its own tiles, and those of MASK on the predecessor's tiles, where the
task of the tile's field claims them, or the first one where the launch has no task in that field (DEDUCED, log entry 40). -/
def claimBanks (s : State) (p : Nat) (r : List Word) (pls : List (List Nat)) (tags : List (BitVec 16)) : State :=
  let s1 := (pls.zip tags).foldl (fun u e => e.1.foldl (fun w t => updTile w t (fun a =>
    { a with bankToken := (ownClaim r).foldl (fun v b => vset v b e.2) a.bankToken })) u) s
  let tagIn := fun (g : Nat) => (((pls.zip tags).find? (fun e => e.1.any (fun t => fieldOf t == g))).map (·.2)).getD (tags.headD 0)
  (List.range 2).foldl (fun u i =>
    let (k, m) := recPred r i
    match (if k = 0 then none else launchWithKey s p k) with
    | none => u
    | some (_, l) => l.tiles.foldl (fun w t => updBanks w t (fun a =>
        (setBits 16 m).foldl (fun c b =>
          if vget c.bankToken b 0 = 0 then { c with bankToken := vset c.bankToken b (tagIn (fieldOf a.id)) }
          else { c with bankSucc := vset c.bankSucc b (tagIn (fieldOf a.id)) }) a)) u) s1

/-- Give tile `t` its place in launch `id` (R163, R166): its byte of CLUSTER_MQW and its image; a FOLLOW task waits for the tile.
The module's slot enters the tile's set (R416). DEDUCED, log entry 28. -/
def seatTile (s : State) (id : Nat) (r : List Word) (t : Nat) (scope idx : Nat) (tag : BitVec 16) (ws : Option (List Word)) : State :=
  let s1 := updCluster s (clusterOf t) (fun c => { c with mqw := putBits c.mqw (8 * memberOf t) 8 (bitsOf (recD r 0) 23 16) })
  let src := ws.map (fun _ => ImageSource.table (recModule r))
  updTile s1 t (fun a =>
    if a.launch = 0 then { a with launch := id, launchIdx := idx, scope := scope, cfgTag := tag, cancelled := false, follow := none,
                                  run := .inactive, shadow := ws.map (fun w => tagImage w tag), shadowImg := src }.touchSlot (slotBase (recModule r))
    else { a with follow := some id, shadow := ws.map (fun w => tagImage w tag), shadowImg := src }.touchSlot (slotBase (recModule r)))

/-- Place a picked head on some tiles (R163): its images are loaded, its scopes, tags and banks taken, and the swap follows. -/
def place (s : State) (f q : Nat) (h : QRec) (pls : List (List Nat)) : State :=
  let r := h.words
  let p := (partOfField s f).getD 64
  let n := taskTiles r
  let tt := pow2Ceil n
  let m := moduleRead s f (recModule r)
  let gone := popHead m.2 f q
  if moduleState m.1 ≠ 2 then completeUnplaced gone f r 3 0x48
  else
    let seats := (pls.zipIdx).flatMap (fun e => (e.1.zipIdx).map (fun a => (e.2, a.2, a.1)))
    match loadImages s f r seats with
    | .error none => completeUnplaced gone f r 3 0x50
    | .error (some (va, info)) => complete gone f r 5 0 0 0 va info
    | .ok imgs =>
      match allocTasks p f (recScope r) [] pls.length gone with
      | (none, s1) => takeNotes s s1 f
      | (some (scs, tags), s1) =>
        let id := s1.nextLaunch
        let s2 := claimBanks s1 p r pls tags
        let s3 := seats.foldl (fun u e =>
          let (k, i, t) := e
          seatTile u id r t (scs.getD k 0) (k * tt + i) (tags.getD k 0) ((imgs.find? (fun a => a.1 == t)).map (·.2))) s2
        let l : Launch :=
          { words := r, field := f, fields := pls.map (fun ts => fieldOf (ts.headD 0)), part := p, vf := h.vf, tiles := seats.map (·.2.2)
            threads := (seats.filter (fun e => decide (e.2.1 < n))).map (·.2.2), shape := rectOf tt, scopes := scs, tags := tags, placed := true }
        let s4 := { s3 with launches := smSet s3.launches id l, nextLaunch := id + 1 }
        schedule s4 s4.tile.id [(.placementSwap, [id])]

/-- The head of a queue is placed if a placement is free; a shape that can never be placed completes with NOFIT (R162). -/
def tryPlace (s : State) (f q : Nat) : Option State :=
  match queueOf s f q with
  | [] => none
  | h :: _ => (findPlace s f q h.words).map (place s f q h)

/-- The reads that the heads of a field ask for (R157): their dependences, and the records of their scopes, whose faults the supervisor learns of. -/
def headReads (s : State) (f : Nat) : State :=
  (getField s f).queues.foldl (fun u e => match e.2 with
    | [] => u
    | h :: _ => schedule (noteScope u f (recScope h.words)) (tileIn f 0 0)
        (((List.range (recNdep h.words)).filter (fun i => !h.deps.contains i)).map (fun i => (.dependenceSatisfied, [f, e.1, i])))) s

/-- The check of a head's SCOPE that could not be made when the record came (R152, R155). DEDUCED, log entry 18. -/
def lateCheck (s : State) (f q : Nat) (h : QRec) : State :=
  match h.late with
  | none => s
  | some anc => match scopeCheck s f anc (recScope h.words) with
    | (.unread p, s1) => supNote s1 f p
    | (.bad, s1) => completeUnplaced (popHead s1 f q) f h.words 3 0
    | (.cancelled, s1) => suppress (popHead s1 f q) f h.words
    | (.runs, s1) => setQueue s1 f q ({ h with late := none } :: (queueOf s1 f q).drop 1)

/-- Heads whose shape can never be placed, and heads of cancelled scopes, leave their queues (R162, R169). DEDUCED, log entry 68. -/
def dropHeads (s : State) (f : Nat) : State :=
  (getField s f).queues.foldl (fun u e => match e.2 with
    | [] => u
    | h :: _ =>
      if h.late.isSome then lateCheck u f e.1 h
      else if scopeCancelled u f (recScope h.words) then suppress (popHead u f e.1) f h.words
      else if noFit u f h.words && headMet u f h then completeUnplaced (popHead u f e.1) f h.words 4 0 else u) s

/-- The queue that the round-robin walk of a priority takes (R158): the first with an eligible head from the pointer on. -/
def roundRobin (ptr : Nat) (qs : List Nat) : Option Nat :=
  match qs.find? (fun q => ptr ≤ q) with
  | some q => some q
  | none => qs.head?

/-- Of some aged heads, the one whose aging began first, in the lowest queue on a tie (R158, R159). -/
def firstAged (l : List (Nat × QRec)) : Option (Nat × QRec) :=
  l.foldl (fun b e => match b with
    | none => some e
    | some x => if e.2.agingStart.getD 0 < x.2.agingStart.getD 0 then some e else some x) none

/-- Does a field have a head whose dependences and predecessors are met? -/
def headWaits (s : State) (f : Nat) : Bool := (getField s f).queues.any (fun e => e.2.head?.any (headMet s f))

/-- One selection (R158): the eligible heads, the aged one whose aging began first, or the round robin of the highest priority. A head that finds no free
scope number is not eligible (R339). -/
def select (s0 : State) (f : Nat) : Option Nat × State :=
  let (sc, s) := if headWaits s0 f then freeScope s0 ((partOfField s0 f).getD 64) f else (none, s0)
  let u := getField s f
  let elig := u.queues.filterMap (fun e => match e.2 with
    | [] => none
    | h :: _ =>
      if headMet s f h && h.late.isNone && scopeLive s f (recScope h.words) && sc.isSome && (findPlace s f e.1 h.words).isSome
      then some (e.1, h) else none)
  match firstAged (elig.filter (fun e => isAged e.2)) with
  | some (q, _) => (some q, s)
  | none =>
    match elig with
    | [] => (none, s)
    | _ =>
      let top := elig.foldl (fun a e => Nat.max a (effPrio e.2)) 0
      let qs := (elig.filter (fun e => effPrio e.2 == top)).map (·.1)
      let (ptr, used) := smGet (0, 0) u.rr top
      match roundRobin ptr qs with
      | none => (none, s)
      | some q =>
        let n := if q = ptr then used + 1 else 1
        let w := bitsOf (readLqCtl s f q) 23 16
        let next := if w ≤ n then ((q + 1) % 64, 0) else (q, n)
        (some q, updField s f (fun a => { a with rr := smSet a.rr top next }))

/-- Aged heads with no free placement take holds, in the order in which their aging began (R159). -/
def takeHolds (s : State) (f : Nat) : State :=
  let aged := (getField s f).queues.filterMap (fun e => match e.2 with
    | [] => none
    | h :: _ => if isAged h && headMet s f h && (findPlace s f e.1 h.words).isNone && !((getField s f).holds.any (fun x => x.1 == e.1)) then some (e.1, h) else none)
  match firstAged aged with
  | none => s
  | some (q, h) => match findHold s f q h.words with
    | none => s
    | some pls => schedule (updField s f (fun u => { u with holds := smSet u.holds q pls.flatten })) s.tile.id [(.holdGrant, [f, q])]

/-- Does a field's sequencer take launches: not while the field is in reset, and not while its firmware is updated (R380, R392)? -/
def takesLaunches (s : State) (f : Nat) : Bool := (getField s f).resetState == 0 && (getField s f).updating.isNone

/-- LS_SELECTION (R158) of field argument 0: it comes again while the field has records in its queues (R150). -/
def execLsSelection (s : State) : Host.Outcome State Fault Refusal :=
  event (fun s =>
    let f := argAt s 0
    let more := fun (u : State) => if (getField u f).queues.any (fun e => !e.2.isEmpty) then kickField u f else u
    if !takesLaunches s f then more s
    else
      let s1 := takeHolds (headReads (stampHeads (dropHeads s f) f) f) f
      let (q, s2) := select s1 f
      match q with
      | none => more s2
      | some q => more ((tryPlace s2 f q).getD s2)) s

/-- HOLD_GRANT (R159) of queue argument 1 of field argument 0: once every held tile is free, the held placement is given to the head. -/
def execHoldGrant (s : State) : Host.Outcome State Fault Refusal :=
  event (fun s =>
    let f := argAt s 0
    let q := argAt s 1
    match smFind (getField s f).holds q, queueOf s f q with
    | some ts, h :: _ =>
      let p := (partOfField s f).getD 64
      if takesLaunches s f && ts.all (tileFree s) && claimsFree s p h.words ts then
        place s f q h ((fieldsFrom s p f (launchFields s p h.words)).map (fun g => ts.filter (fun t => fieldOf t == g)))
      else again s .holdGrant
    | _, _ => s) s

/- The swap -/

/-- A tile as a task's thread finds it (R140, R163, R319, R344): every register at its reset value but those that placement gives; what
belongs to the physical tile stays, and so do messages that its last task has queued (R149). DESIGN CHOICE, log entry 11. DEDUCED, log entry 37. -/
def startTile (t : Tile) (l : Launch) (id : Nat) (ws : List Word) : Tile :=
  let m := recModule l.words
  let regs : Vector Word 32 := Vector.ofFn (fun i : Fin 32 =>
    if 1 ≤ i.val ∧ i.val ≤ 8 then recD l.words (0xC0 + 8 * (i.val - 1))
    else if i.val = 9 then BitVec.ofNat 64 t.launchIdx
    else if i.val = 30 then (if imgD ws 5 = 0 then localVa (imgSplit ws * 65536) else imgD ws 5)
    else 0)
  { freshTile t.id with
    run := .running, x := regs, pc := slotBase m + BitVec.ofNat 64 (recOffset l.words), touch := [m]
    tileSplit := t.tileSplit, bankSucc := t.bankSucc, bankToken := t.bankToken, cfgTag := t.cfgTag
    trapVec := Config.firmwareTrapVec (fieldOf t.id) &&& ~~~3#64
    htPc := vset (Vector.replicate 64 0) 0 (Config.moduleHandlerZero m &&& ~~~3#64), htCtl := vset (Vector.replicate 64 0) 0 0x83
    corrCnt := t.corrCnt, discardCnt := t.discardCnt, inbox := t.inbox, copies := t.copies, coreIn := t.coreIn, coreOut := t.coreOut, swIn := t.swIn
    weirs := t.weirs, ports := t.ports, shadow := t.shadow, shadowImg := t.shadowImg, openChunk := t.openChunk, dcache := t.dcache, tlb := t.tlb, icache := t.icache
    sendQ := t.sendQ, ring := t.ring, rankCache := t.rankCache, ownerLines := t.ownerLines
    dirtyGranules := t.dirtyGranules, dirtyGroups := List.range 8
    scope := t.scope, launch := id, launchIdx := t.launchIdx, cancelled := t.cancelled, follow := t.follow }

/-- Does a launch run a collective (R395): ENTRY.MODULE 4,095, OFFSET 0 and IMAGE 0? DEDUCED, log entry 29. -/
def isCollective (l : Launch) : Bool := recModule l.words == 4095 && recOffset l.words == 0 && recImage l.words == 0

/-- May a tile swap into launch `id` now (R163, R350)? It is free of its predecessor and in no cut, it runs no trap code of a STRAY at this swap, and SW, STRM,
OUTQ and NOEOS are 0. -/
def swapReady (s : State) (id t : Nat) : Bool :=
  let u := getTile s t
  u.launch == id && !(getLaunch s id).swapped.contains t && u.cutOf.isNone && u.run != .running && u.drainWord &&& 0x7FFFE00#64 == 0

/-- Has the trap code of a STRAY that the current tile met at its swap returned, so that the swap is to be made again (R163, R350)? -/
def swapOwed (s : State) : Bool :=
  let t := s.tile
  let l := getLaunch s t.launch
  t.launch != 0 && t.intr.isNone && t.report.isNone && bitsOf t.trapCause 3 0 == 0 && t.shadow.isSome && l.live && l.placed && !l.swapped.contains t.id

/-- The tile waits again for its swap. -/
def swapAgain (s : State) : State :=
  schedule (onTile s (fun t => { t with run := .inactive, wait := none })) s.tile.id [(.placementSwap, [s.tile.launch])]

/-- After the swap a claimed bank that has joined scratch is held by the task (DESIGN CHOICE, log entry 76). -/
def holdClaims (u : Tile) (r : List Word) (old : Nat) : Tile :=
  { u with bankToken := ((ownClaim r).filter (fun b => decide (old ≤ b) && vget u.bankToken b 0 == 0)).foldl (fun v b => vset v b u.cfgTag) u.bankToken }

/-- A tile that meets a token left in a link at its swap raises STRAY as CFGSWP does (R163): its plane stays in the shadow, and it starts in the trap code,
which the field supervisor takes first; the swap is made when the trap code has returned. DEDUCED, log entry 38. -/
def strayAt (s : State) (id t : Nat) (u : Tile) (ws : List Word) : State :=
  let here := s.tile.id
  focus (enterTrap (focus (addTurn (putTile s (startTile u (getLaunch s id) id ws)) (.thread t)) t)
    { cause := .stray, info := some (.stray, strayWord s u) } 8) here

/-- Swap one tile in and start its thread (R163); the tiles of a collective start their nodes instead (R395), and a tile counted only by the
rounding runs no thread (R161). A token left in a link raises STRAY; at a FOLLOW placement the field supervisor ends the launch with FAULT (R432).
DEDUCED, log entry 38. -/
def swapTile (s : State) (id : Nat) (t : Nat) : Except MemFault State :=
  let l := getLaunch s id
  let u := getTile s t
  match u.shadow with
  | none => .ok s
  | some ws =>
    if u.inq != 0 then (if recFollow l.words then .error { cause := .stray, loads := false } else .ok (strayAt s id t u ws))
    else
    let s1 := putTile s (startTile u l id ws)
    match activate s1 t ws with
    | .error f => .error f
    | .ok s2 =>
      let s2' := updTile s2 t (fun a => holdClaims a l.words u.tileSplit)
      let idle := !l.threads.contains t
      .ok (updLaunch (
        if isCollective l then schedule s2' t [(.collectiveNodeCombine, [id])]
        else addTurn (if idle then updTile s2' t (fun a => { a with run := if a.run = .killed then .killed else .inactive, sw := { a.sw with st := .halted } })
          else s2') (.thread t)) id
        (fun a => { a with swapped := insertNat t a.swapped }))

/-- Swap the tiles of a launch in, in order. -/
def swapTiles (id : Nat) : List Nat → State → Except MemFault State
  | [], s => .ok s
  | t :: r, s => match swapTile s id t with
    | .error f => .error f
    | .ok s1 => swapTiles id r s1

/-- A tile leaves the place that a launch gave it and that it has not swapped into (R169, R432). -/
def Tile.leavePlace (a : Tile) (id : Nat) : Tile :=
  if a.launch = id then { a with launch := 0, run := if a.run = .killed then .killed else .retired, trapCause := 0, cfgTag := 0, touch := [], touchFull := false,
                                 shadow := none, shadowImg := none }
  else if a.follow = some id then { a with follow := none, shadow := none, shadowImg := none } else a

/-- The tiles of a placement that is given up, and its successor entries, are freed (R169). Its tasks end without having retired, so the tokens that they
took are sealed (R62). -/
def freeTiles (s : State) (id : Nat) : State :=
  let l := getLaunch s id
  let s1 := (allTiles s).foldl (fun u t =>
    let a := getTile u t
    if (a.bankSucc.toList.any l.tags.contains || a.bankToken.toList.any l.tags.contains) && partOfTile u t == some l.part then
      updTile u t (fun b => { b with
        bankSucc := b.bankSucc.map (fun o => if l.tags.contains o then 0 else o)
        bankToken := b.bankToken.map (fun o => if l.tags.contains o then 0xFFFF#16 else o) })
    else u) s
  l.tiles.foldl (fun u t => updTile u t (fun a => a.leavePlace id)) s1

/-- A tile leaves its task (R149, R163, R416): its configuration and its rings end, and a task that follows swaps in. -/
def leaveTask (s : State) (id : Nat) : State :=
  let t := getTile s id
  let s1 := giveRings (updTile s id (fun u => { u with
    run := if u.run = .killed then .killed else .retired, streams := [], touch := [], touchFull := false, carried := [], cancelled := false
    launch := 0, cfgTag := 0, activeImg := none
    shadow := if u.follow.isSome then u.shadow else none, shadowImg := if u.follow.isSome then u.shadowImg else none })) id
  match t.follow with
  | none => s1
  | some nx =>
    let l := getLaunch s1 nx
    let k := l.fields.findIdx (· == fieldOf id)
    schedule (updTile s1 id (fun u => Tile.touchSlot { u with launch := nx, follow := none, scope := l.scopes.getD k 0, cfgTag := l.tags.getD k 0, launchIdx := l.tiles.findIdx (· == id) } (slotBase (recModule l.words)))) id [(.followSwap, [nx])]

/-- A launch ends: its completion record is written, its tokens and tags are released, the tiles counted only by the rounding are free, and its scopes
may end (R62, R161, R167, R345). The tokens of tasks that have not retired are sealed. -/
def finishLaunch (s : State) (id : Nat) : State :=
  let l := getLaunch s id
  if !l.live then s
  else
    let f := answerField s l.part l.field
    let s1 := asMember s l.part f (fun u => complete u f l.words l.code l.detail (l.scopes.headD 0) l.tiles.length
      (if l.code = 5 then l.faultVa else 0) (if l.code = 5 then l.faultInfo else 0))
    let s2 := (allTiles s1).foldl (fun u t =>
      if (getTile u t).bankToken.toList.any l.tags.contains && partOfTile u t == some l.part then
        updTile u t (fun b => { b with bankToken := b.bankToken.map (fun o => if l.tags.contains o then (if l.code = 0 then 0 else 0xFFFF#16) else o) })
      else u) s1
    let s3 := l.tiles.foldl (fun u t => if (getTile u t).launch = id then leaveTask u t else u) s2
    let s4 := updLaunch s3 id (fun a => { a with live := false })
    kickAll (schedule s4 s4.tile.id (l.scopes.map (fun sc => (.scopeEnd, [l.part, sc]))))

/-- A launch whose placement is given up completes with a code (R163, R169). -/
def abandon (s : State) (id code : Nat) (fva finfo : Word) : State :=
  finishLaunch (updLaunch (freeTiles s id) id (fun a => { a with code := code, faultVa := fva, faultInfo := finfo })) id

/-- Has every thread of a launch ended? One that lies in an image has not. -/
def threadsDone (s : State) (id : Nat) : Bool :=
  let l := getLaunch s id
  l.imaged.isEmpty && l.threads.all (fun t => (getTile s t).launch != id && (getTile s t).follow != some id)

/-- Is an item of a network interface a request that a launch's task issued? -/
def NiItem.ofLaunch (id : Nat) : NiItem → Bool
  | .req q => q.launch == id
  | _ => false

/-- Does work of a launch go on away from its tiles (R127, R345): a request that a network interface holds, or a copy that has left its tile with an
image and owes its last additions? -/
def workLeft (s : State) (id : Nat) : Bool :=
  (allTiles s).any (fun t => (getTile s t).ring.any (NiItem.ofLaunch id) || (getTile s t).copies.any (fun e => decide (32 ≤ e.1) && e.2.launch == id)) ||
    s.images.any (fun e => e.2.tile.ring.any (NiItem.ofLaunch id))

/-- May a launch complete: have its threads ended, and the work that they left (R167, R345)? -/
def launchDone (s : State) (id : Nat) : Bool := threadsDone s id && !workLeft s id

/-- The tiles of a launch that have not swapped are freed, and its successor entries are cleared (R169). -/
def dropUnswapped (s : State) (id : Nat) : State :=
  let l := getLaunch s id
  let rest := l.tiles.filter (fun t => !l.swapped.contains t && !l.imaged.contains t)
  if rest.isEmpty then s
  else
    let s1 := (allTiles s).foldl (fun u t =>
      if (getTile u t).bankSucc.toList.any l.tags.contains && partOfTile u t == some l.part then
        updTile u t (fun a => { a with bankSucc := a.bankSucc.map (fun o => if l.tags.contains o then 0 else o) })
      else u) s
    let s2 := rest.foldl (fun u t => updTile u t (fun a => a.leavePlace id)) s1
    updLaunch s2 id (fun a => { a with threads := a.threads.filter (fun t => !rest.contains t) })

/-- A launch of which some tiles have ended without an event of their own completes once no other runs (R167). -/
def endIfDone (s : State) (id : Nat) : State := if threadsDone s id then schedule s s.tile.id [(.launchComplete, [id])] else s

/-- A swap of a launch failed: a placement that has not begun is given up; otherwise the tiles that have swapped are killed (R163). No tile's shadow plane
stays loaded (R432). -/
def failSwap (s : State) (id : Nat) (f : MemFault) : State :=
  let l := getLaunch s id
  if l.swapped.isEmpty then abandon s id 5 f.va f.info
  else
    let s1 := updLaunch (dropUnswapped s id) id (fun a => if a.code = 0 then { a with code := 5, faultVa := f.va, faultInfo := f.info } else a)
    endIfDone (l.swapped.foldl (fun u t => if (getTile u t).launch = id then
      schedule (updTile u t (fun b => { b with cancelled := true, shadow := if b.follow.isSome then b.shadow else none,
                                               shadowImg := if b.follow.isSome then b.shadowImg else none })) t [(.cancelKill, [])] else u) s1) id

/-- Is a scope of a launch cancelled? -/
def launchCancelled (s : State) (l : Launch) : Bool := l.scopes.any (scopeCancelled s (answerField s l.part l.field))

/-- PLACEMENT_SWAP (R163, R169) of launch argument 0: every tile that is free of its predecessor swaps and its thread starts; one that CFGSWP would
have wait (R350) is tried again. -/
def execPlacementSwap (s : State) : Host.Outcome State Fault Refusal :=
  event (fun s =>
    let id := argAt s 0
    let l := getLaunch s id
    if !l.live || !l.placed then s
    else if launchCancelled s l && l.swapped.isEmpty then abandon s id 2 0 0
    else
      match swapTiles id (l.tiles.filter (swapReady s id)) s with
      | .ok s1 =>
        if l.tiles.any (fun t => (getTile s t).launch == id && !l.swapped.contains t && !swapReady s id t) then again s1 .placementSwap else s1
      | .error f => failSwap s id f) s

/-- FOLLOW_SWAP (R163) of launch argument 0 at a tile that has retired from its predecessor. -/
def execFollowSwap (s : State) : Host.Outcome State Fault Refusal :=
  event (fun s =>
    let id := argAt s 0
    let l := getLaunch s id
    let t := s.tile.id
    if !l.live || s.tile.launch != id || l.swapped.contains t then s
    else if launchCancelled s l && l.swapped.isEmpty then abandon s id 2 0 0
    else if !swapReady s id t then again s .followSwap
    else match swapTile s id t with
      | .ok s1 => s1
      | .error f => failSwap s id f) s

/- Retirement and the end of a launch -/

/-- May the tile retire from its task (R149)? -/
def mayRetire (t : Tile) : Bool :=
  t.run == .exited && (t.sw.st == .halted) && t.longBuf.isEmpty && t.streams.all (fun e => !e.2.out || e.2.held.isEmpty) &&
    t.sub.queue.isEmpty && t.sub.drains.isEmpty && t.ownCopies.isEmpty && t.cutOf.isNone

/-- A tile retires (R62, R149, R416): its inbox is discarded, its bank tokens open, and it leaves its task. -/
def retire (s : State) (id : Nat) : State :=
  let old := (getTile s id).launch
  let s2 := leaveTask (updTile s id (fun u => { u.dropInbox with
    bankToken := u.bankToken.map (fun o => if o == u.cfgTag && o != 0 then 0 else o) })) id
  kickAll (if old ≠ 0 && threadsDone s2 old then schedule s2 id [(.launchComplete, [old])] else s2)

/-- TILE_RETIRE (R149): the tile retires once all its queued work has ended. -/
def execTileRetire (s : State) : Host.Outcome State Fault Refusal :=
  event (fun s =>
    if s.tile.run ≠ .exited then s else if mayRetire s.tile then retire s s.tile.id else again s .tileRetire) s

/-- LAUNCH_COMPLETE (R167) of launch argument 0. -/
def execLaunchComplete (s : State) : Host.Outcome State Fault Refusal :=
  event (fun s =>
    let id := argAt s 0
    if !(getLaunch s id).live || !(getLaunch s id).placed || !threadsDone s id then s
    else if workLeft s id then again s .launchComplete else finishLaunch s id) s

/-- The instance of a scope ends (R339, R345): LIVE goes to 0, then ACK takes GEN. An access that faults goes to the field supervisor, and the scope ends
when all of them have been made. -/
def endScope (s : State) (p f sc : Nat) : State :=
  let va := scopeVa s f sc
  let later := fun (q : Option (Word × Word)) (u : State) => again (supNote u f q) .scopeEnd
  match scopeGet s f va with
  | (.error q, s1) => later q s1
  | (.ok w, s1) => match scopePut s1 f va (w &&& ~~~0x10000#64) with
    | (.error q, s2) => later q s2
    | (.ok _, s2) => match scopePut s2 f (va + 8) (at_ 0 (bitsOf w 63 32)) with
      | (.error q, s3) => later q s3
      | (.ok _, s3) => kickAll (updPart s3 p (fun q => { q with scopes := q.scopes.filter (· ≠ sc) }))

/-- Which of some scopes that have not ended are children of a scope, or cannot be read now (R339)? -/
def childLeft (f sc : Nat) : List Nat → State → Bool × State
  | [], s => (false, s)
  | t :: r, s =>
    match scopeGet s f (scopeVa s f t) with
    | (.error q, s1) => (true, supNote s1 f q)
    | (.ok w, s1) => if bitsOf w 15 0 = sc then (true, s1) else childLeft f sc r s1

/-- SCOPE_END (R339) of scope argument 1 of partition argument 0: once the task and every child scope have ended. -/
def execScopeEnd (s : State) : Host.Outcome State Fault Refusal :=
  event (fun s =>
    let p := argAt s 0
    let sc := argAt s 1
    let f := (partFields s p).headD 0
    if !(getPart s p).scopes.contains sc then s
    else if s.launches.any (fun e => e.2.live && e.2.part == p && e.2.scopes.contains sc) then s
    else match childLeft f sc ((getPart s p).scopes.filter (· ≠ sc)) s with
      | (true, s1) => again s1 .scopeEnd
      | (false, s1) => endScope s1 p f sc) s

/- Cancellation -/

/-- The queued records of a subtree are suppressed in a field (R169, R341). -/
def suppressQueues (s : State) (f : Nat) (scs : List Nat) : State :=
  (getField s f).queues.foldl (fun u e =>
    let bad := fun (r : QRec) => scs.contains (recScope r.words)
    let out := e.2.filter bad
    if out.isEmpty then u
    else
      let kept := e.2.filter (fun r => !bad r)
      let headGone := match e.2.head? with
        | some h => bad h
        | none => false
      let u1 := updField u f (fun a => { a with
        queues := smSet a.queues e.1 (if headGone then kept.mapIdx (fun i r => if i = 0 then r.fresh else r) else kept)
        holds := if headGone then smErase a.holds e.1 else a.holds })
      out.foldl (fun w r => suppress w f r.words) (stampHead u1 f e.1)) s

/-- Mark every tile of the tasks of some scopes for the kill (R342), and give up placements that have not swapped (R169). -/
def cancelTasks (s : State) (p : Nat) (scs : List Nat) : State :=
  s.launches.foldl (fun u e =>
    let l := e.2
    if l.live && l.part == p && l.placed && l.scopes.any scs.contains then
      if l.swapped.isEmpty then abandon u e.1 2 0 0
      else
        let u1 := updLaunch (dropUnswapped u e.1) e.1 (fun a => { a with code := if a.code = 0 then 2 else a.code })
        endIfDone (l.threads.foldl (fun w t =>
          let a := getTile w t
          if a.launch = e.1 ∧ scs.contains a.scope then schedule (updTile w t (fun b => { b with cancelled := true })) t [(.cancelKill, [])] else w) u1) e.1
    else u) s

/-- Mark some scopes CANCELLED (R341), or what stops an access to the table. -/
def markScopes (f : Nat) : List Nat → State → Except (Option (Word × Word)) Unit × State
  | [], s => (.ok (), s)
  | t :: r, s =>
    match scopeGet s f (scopeVa s f t) with
    | (.error p, s1) => (.error p, s1)
    | (.ok w, s1) => match scopePut s1 f (scopeVa s f t) (w ||| 0x20000#64) with
      | (.error p, s2) => (.error p, s2)
      | (.ok _, s2) => markScopes f r s2

/-- Cancel the subtree of a live scope (R341): every live scope of it is marked, its own mark coming last, its queued records are suppressed in every field,
and its tiles are killed at their next kill points. Where an access to the table cannot be made, nothing is suppressed or killed yet. -/
def cancelScope (s : State) (f sc : Nat) : Except (Option (Word × Word)) Unit × State :=
  let p := (partOfField s f).getD 64
  match subtreeOf f sc (getPart s p).scopes s with
  | (.error q, s1) => (.error q, s1)
  | (.ok scs, s1) => match markScopes f (scs.filter (· ≠ sc) ++ scs.filter (· = sc)) s1 with
    | (.error q, s2) => (.error q, s2)
    | (.ok _, s2) => (.ok (), cancelTasks ((partFields s2 p).foldl (fun u g => suppressQueues u g scs) s2) p scs)

/-- CANCEL_KILL (R342): the tile of a cancelled task is killed at its next kill point, after a cut that holds it (R371). -/
def execCancelKill (s : State) : Host.Outcome State Fault Refusal :=
  event (fun s =>
    let t := s.tile
    if !t.cancelled || t.run == .retired || t.run == .killed || t.launch == 0 then s
    else if t.cutOf.isNone && t.killPoint then endTile s t.id else again s .cancelKill) s

/-- The task of a tile ends with a code (R364, R389): each tile of the task is killed by R342 and R343. -/
def endTask (s : State) (t code : Nat) (fva finfo : Word) : State :=
  let id := (getTile s t).launch
  let l := getLaunch s id
  if id = 0 ∨ !l.live then updTile s t (fun a => { a with cancelled := true })
  else
    let s1 := updLaunch s id (fun a => if a.code = 0 then { a with code := code, faultVa := fva, faultInfo := finfo } else a)
    (l.threads.filter (fun u => fieldOf u == fieldOf t)).foldl (fun w u =>
      if (getTile w u).launch = id then schedule (updTile w u (fun a => { a with cancelled := true })) u [(.cancelKill, [])] else w) s1

end Sys2Proof.Machine
end

