-- ==== Sys2Proof/Machine/System.lean ====
section
/-! DEFINITION. The system instructions (R149, R155, R337 to R341, R346, R351, R354 to R359, R363, R364) and the residue arbitration
(R386). PREEMPT and RESUME stand with the cut. -/
namespace Sys2Proof.Machine

/- Traps and the end of a thread -/

/-- TRAP (R337): TRAP_PC names the next instruction (R361). -/
def execTrap (c : BitVec 6) (s : State) : Host.Outcome State Fault Refusal :=
  run1 (trap { cause := .trap, tcode := c.toNat, next := true }) s

/-- TRET with PASS = 0 (R363): the replay record is issued again and committed before the resumed instruction. -/
def returnTrap (s : State) : State :=
  let t := s.tile
  let u := { t.swapBank with
    mode := if bitOf t.trapCause 29 then .supervisor else .user
    trapCause := t.trapCause &&& ~~~0xF#64
    pc := t.trapPc
    replay := [] }
  schedule (reissue { s with tile := u } t.replay) t.id (resumeSteps t)

/-- TRET with PASS = 1 of a trap that struck the thread (R364): the report handler starts at once. -/
def passTrap (s : State) : State :=
  let t := s.tile
  let inc : Word := BitVec.ofNat 64 (getField s (fieldOf t.id)).inc
  let cause := t.trapCause &&& ~~~0x88000000#64
  let u := { t.swapBank with
    mode := .user
    trapCause := (t.trapCause &&& ~~~0x8000000F#64) ||| 0x8000000#64
    passPc := t.trapPc
    passed := t.replay
    replay := []
    pc := t.trapPc
    report := some { words := reportWords inc 1 cause t.xfaultVa t.xfaultInfo t.trapPc } }
  { s with tile := u.select.getD u }

/-- TRET (R337, R363, R364). A passed trap that struck a handler ends the task with FAULT. -/
def execTret (s : State) : Host.Outcome State Fault Refusal :=
  run 1 (do
    let t ← look (·.tile)
    demand (bitsOf t.trapCause 3 0 != 0) (illegal 2)
    supervisorOnly
    if !(bitOf t.trapCause 31) then
      update returnTrap
      pure true
    else if bitOf t.trapCause 30 then
      update (fun s0 => endTile (endTask s0 t.id 5 t.xfaultVa t.xfaultInfo) t.id)
      pure false
    else
      parkFirst
      update passTrap
      pure true) s

/-- EXIT (R149, R338): the park, the accepted output elements with the fault that one may hold, then the end of the thread. A fault that the matrix
queue holds goes to the field supervisor (R311). The wait for the elements counts under the park cause, and is no handler-selection point (DESIGN CHOICE,
log entry 89). -/
def execExit (s : State) : Host.Outcome State Fault Refusal :=
  run1 (do
    let t ← look (·.tile)
    demand t.intr.isNone (illegal 2)
    parkFirst
    match t.streams.findSome? (fun e => if e.2.out then e.2.fault else none) with
    | some f => memTrap f
    | none => pure ()
    demand (t.streams.all (fun e => !e.2.out || e.2.held.isEmpty))
      (waitHere .park (t.streams.map (fun e => (.streamElementPerform, [e.1]))))
    update (fun s0 =>
      let s1 := schedule (onTile s0 (fun u => { u with run := .exited, streams := u.streams.filter (fun e => e.2.out || e.2.pat.stage) }))
        t.id [(.tileRetire, [])]
      match t.sub.held with
      | some f => supFault s1 t.id f
      | none => s1)) s

/-- IDLE (R338): the park, then the wait for a handler; the HRET of that handler returns to the next instruction. -/
def execIdle (s : State) : Host.Outcome State Fault Refusal :=
  run1 (do
    let t ← look (·.tile)
    demand t.intr.isNone (illegal 2)
    parkFirst
    let s0 ← look id
    stop (.wait .idle true [] (some (onTile s0 (fun u => { u with run := .idling }))))) s

/- Cancel scopes -/

/-- The low 16 bits of a source that names a scope or a tag. DEDUCED, log entry 16. -/
def low16 (w : Word) : Nat := bitsOf w 15 0

/-- An access to the scope table for an instruction cannot be made: the pair of a fault goes to the field supervisor once, and the thread waits and tries
again (R339). `point` says that the wait is CWAIT's, a blocking wait and a kill point (R139, R342). DEDUCED, log entry 18. -/
def scopeWait {α : Type} (s : State) (point : Bool) (f : Nat) (p : Option (Word × Word)) : Exec α := stop (.wait .scope point [] (some (supNote s f p)))

/-- The parent chain of a scope, read for an instruction: is it the task's own or one below it (R341)? DEDUCED, log entry 18. -/
def scopeBelow (old : State) (f anc sc : Nat) : Exec Bool := do
  let st ← look id
  match scopeWalk f anc 65536 sc st with
  | (.ok b, s1) => do
    update (fun _ => s1)
    pure b
  | (.error p, _) => scopeWait (scopeWalk f anc 65536 sc old).2 false f p

/-- SPAWN (R155, R340). Where the scope table cannot be read, the record is appended and its SCOPE is looked at again before it is selected.
DEDUCED, log entry 18. -/
def execSpawn (a : BitVec 6) (s : State) : Host.Outcome State Fault Refusal :=
  run1 (do
    checkOperands [.x a] []
    let va ← takeX a
    let r ← localWords va 256 32
    let st ← look id
    let t := st.tile
    let f := fieldOf t.id
    let q := scopeCheck st f t.scope (recScope r)
    let enter := fun (anc : Option Nat) (u : State) => (match enterQueue u f (56 + recPrio r) r (getLaunch u t.launch).vf none anc with
      | none => waitPoint .full [(.lsSelection, [f])]
      | some s1 => update (fun _ => s1) : Exec Unit)
    match q.1 with
    | .bad => update (fun _ => completeUnplaced q.2 f r 3 0)
    | .cancelled => update (fun _ => suppress q.2 f r)
    | .runs => enter none q.2
    | .unread p => enter (some t.scope) (supNote q.2 f p)) s

/-- CANCEL (R341): an issuer in the subtree is killed when the marking is complete. While the scope table cannot be read or written it waits, and what it
has marked stays marked. DEDUCED, log entry 16. DEDUCED, log entry 18. -/
def execCancel (a : BitVec 6) (s : State) : Host.Outcome State Fault Refusal :=
  run1 (do
    checkOperands [.x a] []
    let sc := low16 (← takeX a)
    demand (sc != 0 && sc != 0xFFFF) (illegal 5)
    let t := s.tile
    let f := fieldOf t.id
    let own ← if t.mode = .supervisor then pure true else scopeBelow s f t.scope sc
    demand own (illegal 5)
    let st ← look id
    match scopeGet st f (scopeVa st f sc) with
    | (.error p, _) => scopeWait (scopeGet s f (scopeVa s f sc)).2 false f p
    | (.ok w, s1) =>
      if !bitOf w 16 || bitOf w 17 then update (fun _ => s1)
      else match cancelScope s1 f sc with
        | (.error p, _) => scopeWait (cancelScope s f sc).2 false f p
        | (.ok _, u) => update (fun _ => if u.tile.cancelled then endTile u u.tile.id else u)) s

/-- CWAIT (R346). While it waits on, the generation read at issue stands in CWAIT_GEN; a restart reads STATE again.
DEDUCED, log entry 16. DEDUCED, log entry 18. -/
def execCwait (a : BitVec 6) (s : State) : Host.Outcome State Fault Refusal :=
  run1 (do
    checkOperands [.x a] []
    let sc := low16 (← takeX a)
    demand (sc != 0 && sc != 0xFFFF) (illegal 5)
    let f := fieldOf s.tile.id
    let va := scopeVa s f sc
    let st ← look id
    let first := s.tile.wait != some .wait
    let state := if first then (scopeGet st f va).1 else .ok (at_ 32 (bitsOf s.tile.cwaitGen 31 0) ||| at_ 16 1)
    let read := fun (u : State) => if first then (scopeGet u f va).2 else u
    match state with
    | .error p => scopeWait (read s) true f p
    | .ok w =>
      if !(bitOf w 16) then update read
      else
        let g := bitsOf w 63 32
        let keep := fun (u : State) => onTile (scopeGet (read u) f (va + 8)).2 (fun t => { t with cwaitGen := at_ 0 g })
        match (scopeGet (read st) f (va + 8)).1 with
        | .error p => stop (.wait .wait true [] (some (supNote (keep s) f p)))
        | .ok ack =>
          demand (reached (bitsOf ack 31 0) g) (stop (.wait .wait true [(.waitWake, [])] (some (keep s))))
          update keep) s

/- Banks -/

/-- The tile and the bank of scratch that a stream element of tile `t` names, if it names scratch (R61). -/
def bankNamed (s : State) (t : Nat) (va : Word) : Option (Nat × Nat) :=
  match regionOf va with
  | .ok (.localScr off) => some (t, off / 65536)
  | .ok (.place rank off) => some ((rankEntry s (partNo s t) rank).tile, off / 65536)
  | _ => none

/-- Has a stream unit bound by tag `g` an access to bank `b` of tile `u` that is not yet performed (R63)? -/
def bankBusy (s : State) (u b : Nat) (g : BitVec 16) : Bool :=
  (allTiles s).any (fun t => (getTile s t).streams.any (fun e =>
    e.2.out && e.2.tag == g && e.2.held.any (fun o => bankNamed s t o.va == some (u, b))))

/-- BANKPASS (R62, R63, R165, R351). DEDUCED, log entry 16. -/
def execBankpass (a b : BitVec 6) (s : State) : Host.Outcome State Fault Refusal :=
  run1 (do
    checkOperands [.x a, .x b] []
    let k := (← takeX a).toNat
    let succ := BitVec.ofNat 16 (low16 (← takeX b))
    let st ← look id
    let t := st.tile
    let rec_ := vget t.bankSucc k 0
    demand (decide (k ≤ 15) && t.isScratchBank k && vget t.bankToken k 0 == t.cfgTag && succ != 0xFFFF#16 && (succ == 0 || rec_ == 0 || succ == rec_))
      (illegal 5)
    demand (!bankBusy st t.id k t.cfgTag) (waitHere .park ((t.streams.filter (fun e => e.2.out)).map (fun e => (.streamElementPerform, [e.1]))))
    updateTile (fun u => { u with
      bankToken := vset u.bankToken k (if succ = 0 then rec_ else succ)
      bankSucc := vset u.bankSucc k 0 })) s

/- Topology -/

/-- Is a conduit set granted to the partition of the tile (R354, R400)? -/
def setGranted (s : State) (k : Nat) : Bool :=
  let c := getCSet s k
  c.en && partOfTile s s.tile.id == some c.part

/-- The checks of a set's number and grant (R354). -/
def checkSet (w : Word) : Exec Unit := do
  demand (decide (w.toNat ≤ 7)) (illegal 5)
  let st ← look id
  demand (setGranted st w.toNat) (memTrap (mkFault 0 0 0 .read w { prot := true, sub := 5 }))

/-- Partner of module `i` in a PERM doubleword (R401). -/
def permOf (w : Word) (i : Nat) : Nat := bitsOf w (4 * i + 3) (4 * i)

/-- Does a TOPOREQ descriptor break its layout (R401)? -/
def topoBad (id : Nat) (d : List Word) : Bool :=
  let ctrl := imgD d 0
  let group := imgD d 1
  let n := bitsOf ctrl 11 8
  let perms := (d.drop 2).take 8
  bitsOf ctrl 7 0 != 1 || bitsOf ctrl 15 12 != 0 || bitsOf ctrl 63 48 != 0 || bitsOf group 63 16 != 0 || (d.drop 10).any (· != 0) ||
  n == 0 || decide (8 < n) || (perms.drop n).any (· != 0) ||
  (perms.take n).any (fun w => (List.range 16).any (fun i => permOf w (permOf w i) != i || (!bitOf group i && permOf w i != i))) ||
  !bitOf group id || decide (bitsOf ctrl 31 16 < 100) || decide (bitsOf ctrl 47 32 < 100)

/-- TOPOREQ (R354, R401, R402). -/
def execToporeq (a b : BitVec 6) (s : State) : Host.Outcome State Fault Refusal :=
  run1 (do
    checkOperands [.x a, .x b] []
    let va ← takeX a
    let kw ← takeX b
    checkSet kw
    let k := kw.toNat
    let d ← localWords va 64 16
    let st ← look id
    demand (!topoBad (st.fleetId % 16) d) (illegal 8)
    demand (!(getCSet st k).pend) (waitHere .full [(.topoAccept, [k])])
    update (fun s0 => schedule (updCSet s0 k (fun c => { c with pend := true, request := some { words := d } })) s0.tile.id [(.topoAccept, [k])])) s

/-- TOPOGEN (R355). -/
def execTopogen (d b : BitVec 6) (s : State) : Host.Outcome State Fault Refusal :=
  run1 (do
    checkOperands [.x b] [.x d]
    let kw ← takeX b
    checkSet kw
    let g ← look (fun s => smGet 0 (getField s (fieldOf s.tile.id)).gens kw.toNat)
    giveX d (BitVec.ofNat 64 (g % 2 ^ 32))) s

/- Supervisor instructions -/

/-- FMTSET (R289, R357, R184). -/
def execFmtset (b c : BitVec 6) (s : State) : Host.Outcome State Fault Refusal :=
  run1 (do
    checkOperands [.x b] []
    let v ← takeX b
    let n := c.toNat
    demand (fmtLegal v) (illegal 7)
    let t ← look (·.tile)
    demand (!(isInt64 v && t.streams.any (fun e => e.2.pat.stage && e.2.fmtN == n))) (illegal 8)
    supervisorOnly
    updateTile (fun u => u.setFmt n v)) s

/-- Set the descriptor of an owner window (R358): the old owner writes back the lines that its unit holds (R106), and a rank other than the one that
was lost restores the window (R30). -/
def setOwner (s : State) (p i : Nat) (rank : Option Nat) : State :=
  let s1 := match smFind (getPart s p).ownerWin i with
    | some r => if some r = rank then s else giveOwnerLines s (rankEntry s p r).tile []
    | none => s
  updPart s1 p (fun q => { q with
    ownerWin := match rank with
      | some r => smSet q.ownerWin i r
      | none => smErase q.ownerWin i
    ownerLost := if rank.isNone || smFind q.ownerLost i == rank then q.ownerLost else smErase q.ownerLost i })

/-- OWNSET (R358). -/
def execOwnset (a b : BitVec 6) (s : State) : Host.Outcome State Fault Refusal :=
  run1 (do
    checkOperands [.x a, .x b] []
    let i ← takeX a
    let d ← takeX b
    let st ← look id
    let p := partNo st st.tile.id
    demand (decide (i.toNat ≤ 255) && bitsOf d 63 17 == 0 && decide (bitsOf d 15 0 < tileCount st p)) (illegal 5)
    supervisorOnly
    update (fun s0 => setOwner s0 p i.toNat (if bitOf d 16 then some (bitsOf d 15 0) else none))) s

/-- Write an entry of the rank table, and replace every copy that a network interface of the partition holds of it (R16, R359).
DEDUCED, log entry 19. -/
def setRank (s : State) (p r : Nat) (e : RankEntry) : State :=
  (allTiles s).foldl (fun u t =>
    if partOfTile u t == some p && (getTile u t).rankCache.any (fun c => c.1 == r) then
      updTile u t (fun a => { a with rankCache := a.rankCache.map (fun c => if c.1 = r then (r, e) else c) }) else u)
    (updPart s p (fun q => { q with ranks := smSet q.ranks r e }))

/-- Is a message on its way to a tile: in the network, or held at its network interface for want of room (R143, R359)? -/
def messagesFor (s : State) (t : Nat) : Bool :=
  s.net.any (fun m => m.tile == t) || (getTile s t).ring.any (fun i => match i with | .msg _ => true | _ => false)

/-- RANKSET (R359). With TRANSIT = 1 the entry keeps the old tile until every message sent there has arrived. DEDUCED, log entry 19. -/
def execRankset (a b : BitVec 6) (s : State) : Host.Outcome State Fault Refusal :=
  run1 (do
    checkOperands [.x a, .x b] []
    let r := (← takeX a).toNat
    let d ← takeX b
    let st ← look id
    let p := partNo st st.tile.id
    let t := tileAt (bitsOf d 7 0) (bitsOf d 15 8)
    demand (decide (r < tileCount st p) && bitsOf d 63 17 == 0 && decide (tileY t < 192) && partOfTile st t == some p) (illegal 5)
    supervisorOnly
    let old := rankEntry st p r
    demand (!(bitOf d 16 && messagesFor st old.tile))
      (stop (.wait .park false [] (some (setRank s p r { old with transit := true }))))
    update (fun s0 => setRank s0 p r { tile := t, transit := bitOf d 16 })) s

/-- RANK_TABLE_FILL (R16): the network interface takes the entry of the rank in argument 0 into its copy of the rank table, where it misses.
DESIGN CHOICE, log entry 26. -/
def execRankTableFill (s : State) : Host.Outcome State Fault Refusal :=
  event (fun s => if argAt s 0 < tileCount s (partNo s s.tile.id) then rankFill s s.tile.id (argAt s 0) else s) s

/- Residue arbitration -/

/-- The tile that executes a disputed operation a third time (R386). DESIGN CHOICE, log entry 21. -/
def buddyOf (s : State) (t : Nat) : Option Nat :=
  let ok := fun (u : Nat) => !bitOf (suspectOf s u) 8 && (getTile s u).run != .killed
  let at1 := fun (k : Nat) => tileIn (fieldOf t) (colOf t ^^^ k) (rowOf t)
  if ok (at1 1) then some (at1 1) else if ok (at1 2) then some (at1 2) else none

/-- RESIDUE_INFO of an arbitration (R387). -/
def arbitrationInfo (pred seen outcome unit : Nat) : Word := at_ 24 pred ||| at_ 16 seen ||| at_ 4 outcome ||| at_ 0 unit

/-- What a decided dispute says (R386): 0 where the buddy's value fits the prediction and differs from the datapath's, 1 where it is the datapath's; none
where nothing is decided. -/
def disputeOutcome (pred d third : Nat) : Option Nat := if third ≠ d ∧ third % 255 = pred then some 0 else if third = d then some 1 else none

/-- RESIDUE_ARBITRATION (R386, R387): unit argument 0 of the current instruction predicted residue argument 1, its datapath gave
argument 2, and the buddy gives argument 3; argument 4 is the element of the result. When the dispute is decided the instruction completes with the value
that the table gives: the buddy's, or the datapath's; otherwise it raises RESIDUE, after the park of the trap. DESIGN CHOICE, log entry 21. -/
def execResidueArbitration (s : State) : Host.Outcome State Fault Refusal :=
  event (fun s =>
    let t := s.tile.id
    let unit := argAt s 0
    let pred := argAt s 1
    let d := argAt s 2
    let outcome := (buddyOf s t).bind (fun _ => disputeOutcome pred d (argAt s 3))
    if s.tile.run ≠ .running ∨ d % 255 = pred then s
    else
      let s1 := updField s (fieldOf t) (fun f => { f with residueCnt := f.residueCnt + 1 })
      let s2 := match buddyOf s1 t with
        | none => s1
        | some b => onTile (updTile s1 b (fun u => u.count 9 1)) (fun u => u.count (if u.intr.isSome then 16 else 9) 40)
      match outcome with
      | none => takeTrap s2 { cause := .residue, info := some (.residue, arbitrationInfo pred (d % 255) 2 unit) }
      | some o => onTile (addScore s2 t) (fun u => { u with
          residueInfo := arbitrationInfo pred (d % 255) o unit
          dispute := some { unit := unit, lane := argAt s 4, value := if o = 0 then argAt s 3 else d } })) s

end Sys2Proof.Machine
end

