-- ==== Sys2Proof/Machine/Cut.lean ====
section
/-! DEFINITION. Pre-emption (R368 to R375): PREEMPT and RESUME, the cut of a region with its markers, the tile records of a region
image, and the resume that loads them. -/
namespace Sys2Proof.Machine

/- Stores and loads of an image -/

/-- A run of stores and loads of an image: what it answers, or the fault, or with none the uncorrectable error, at which it ends (R83, R371), and the state
that its accesses leave. -/
abbrev Img (α : Type) := ExceptT (Option MemFault) (StateM State) α

/-- A path-C store of a doubleword by tile `t`, with supervisor privilege (R371). -/
def imageStore (t : Nat) (va w : Word) : Img Unit := fun s =>
  match resolve s t .supervisor { kind := .write, noDevice := true } va 8 with
  | .error e => (.error (some { accessFault .write va e with va := va }), afterFault s t .supervisor .write va e)
  | .ok (tg, s1) => (.ok (), cacheTouch (writeAt s1 tg 8 w.toNat) t va tg true)

/-- Store doublewords one after the other. -/
def imageStores (t : Nat) (va : Word) : List Word → Img Unit
  | [] => pure ()
  | w :: r => do imageStore t va w; imageStores t (va + 8) r

/-- A path-C load of a doubleword of an image; a line that holds an uncorrectable error ends the run (R83). -/
def imageLoad (t : Nat) (va : Word) : Img Word := fun s =>
  match resolve s t .supervisor (coreRule .read) va 8 with
  | .error e => (.error (some { accessFault .read va e with va := va }), afterFault s t .supervisor .read va e)
  | .ok (tg, s1) =>
    if targetPoisoned s1 tg then (.error none, s1)
    else let r := readAt s1 tg 8; (.ok (BitVec.ofNat 64 r.1), cacheTouch r.2 t va tg false)

/-- Load doublewords one after the other. -/
def imageLoads (t : Nat) (va : Word) : Nat → Img (List Word)
  | 0 => pure []
  | n + 1 => do
    let w ← imageLoad t va
    let l ← imageLoads t (va + 8) n
    pure (w :: l)

/-- The lines of a stretch of memory leave every cache near a tile, as the home recalls them (R97). -/
def recallRange (s : State) (lo n : Nat) : State :=
  let inside := fun (l : Nat) => decide (lo / 64 ≤ l) && decide (l * 64 < lo + n)
  let s1 := (allTiles s).foldl (fun u id =>
    if (getTile u id).dcache.any (fun d => inside d.line) || (getTile u id).ownerLines.any inside then
      updTile u id (fun t => { t with dcache := t.dcache.filter (fun d => !inside d.line), ownerLines := t.ownerLines.filter (fun l => !inside l) }) else u) s
  { s1 with clusters := s1.clusters.map (fun e => (e.1, { e.2 with poolLines := e.2.poolLines.filter (fun d => !inside d.line) })) }

/-- Where `n` blocks of `size` bytes of an area lie: their home addresses (R374). A block lies in one page. -/
def areaHomes (t : Nat) (va : Word) (k : AccKind) (size : Nat) : Nat → Img (List Nat)
  | 0 => pure []
  | n + 1 => do
    let a ← (fun (s : State) => match resolve s t .supervisor { kind := k, noDevice := true } va 8 with
      | .error e => (.error (some { accessFault k va e with va := va }), afterFault s t .supervisor k va e)
      | .ok (tg, s1) =>
        let a := (targetKey tg).getD 0
        if k = .read && (List.range ((size + 63) / 64)).any (fun i => poisoned s1 (a + 64 * i)) then (.error none, s1)
        else (.ok a, recallRange s1 a size) : Img Nat)
    let l ← areaHomes t (va + BitVec.ofNat 64 size) k size n
    pure (a :: l)

/-- Write an area of a record of `u` whose inner layout the manual does not give: its bytes become free values, and what they stand for is kept
(R374; DESIGN CHOICE, log entry 25). -/
def writeArea (by_ : Nat) (u : Tile) (base part : Nat) (va : Word) (size n : Nat) : Img Unit := do
  let l ← areaHomes by_ va .write size n
  modify (fun s =>
    let bs := (l.zipIdx).map (fun p => (p.1, s.freeCtr + p.2))
    { l.foldl (fun v a => havocRange v a (a + size)) s with records := { part := part, tile := u, base := base, blocks := bs } :: s.records })

/-- Do the `size` bytes at a home address hold what the block that was written at `lo` in event `epoch` got? -/
def holdsBlock (s : State) (home lo epoch size : Nat) : Bool :=
  (home == lo && (s.undef.find? (fun u => decide (u.lo < lo + size) && decide (lo < u.hi))).any (fun u =>
    u.epoch == epoch && decide (u.lo ≤ lo) && decide (lo + size ≤ u.hi))) ||
  (List.range size).all (fun i => readByte s (home + i) == Config.freeByte epoch (lo + i))

/-- What an area of a record stands for that holds bytes which no save has written there together (DESIGN CHOICE, log entry 25). -/
opaque unknownArea : Nat → List Byte → Tile

/-- The area that a save has written as the bytes of some blocks, at their own place or copied. -/
def findArea (s : State) (part size : Nat) (homes : List Nat) : Option RecordArea :=
  s.records.find? (fun r => r.part == part && r.blocks.length == homes.length &&
    (r.blocks.zip homes).all (fun p => holdsBlock s p.2 p.1.1 p.1.2 size))

/-- Read an area of a record: what was saved, with the number of its save (R375). -/
def readArea (by_ part : Nat) (va : Word) (size n : Nat) : Img (Tile × Option Nat) := do
  let l ← areaHomes by_ va .read size n
  let s ← get
  pure (match findArea s part size l with
    | some r => (r.tile, some r.base)
    | none => (unknownArea part (l.flatMap (fun a => readBytes s a size)), none))

/-- The address of tile record `i` of an image (R373). -/
def recordVa (image : Word) (i : Nat) : Word := image + BitVec.ofNat 64 ((i + 1) * 2 ^ 21)

/- The record of a tile -/

/-- The flags of THDR (R374). -/
def headerFlags (t : Tile) : Nat :=
  (if t.run = .exited then 1 else 0) + (if t.intr.isSome then 2 else 0) + (if bitsOf t.trapCause 3 0 ≠ 0 then 4 else 0) +
    (if t.sw.st = .halted then 8 else 0) + (if t.run = .killed then 16 else 0)

/-- The granule map of THDR (R374). -/
def granuleMap (gs : List Nat) (i : Nat) : Word := BitVec.ofNat 64 ((gs.filter (fun g => g / 64 = i)).foldl (fun a g => a + 2 ^ (g % 64)) 0)

/-- The handler bank: x24 to x31 of the thread while a handler runs. -/
def handlerBank (t : Tile) : List Word := match t.intr with
  | some h => h.bank.toList
  | none => List.replicate 8 0

/-- L of the long accumulator as ten doublewords (R374). -/
def laWords (l : Int) : List Word := (List.range 10).map (fun i => BitVec.ofInt 64 (l / (2 ^ (64 * i) : Nat)))

/-- Control register `n` as CREG holds it (R374): the stored loop entries stand in it, those at or above DEPTH too (R252). -/
def savedCreg (s : State) (t : Tile) (n : Nat) : Word :=
  let e := fun (i : Nat) => vget t.loops.entries i { start := 0, count := 0, len := 0, level := 0 }
  if 0xB0 ≤ n ∧ n ≤ 0xB3 then (e (n - 0xB0)).start
  else if 0xB4 ≤ n ∧ n ≤ 0xB7 then (e (n - 0xB4)).count
  else if 0xB8 ≤ n ∧ n ≤ 0xBB then at_ 16 (e (n - 0xB8)).len ||| at_ 0 (e (n - 0xB8)).level
  else if (crAccess n).isSome then crRead (focus s t.id) n else 0

/-- The sideband of a token (R312). -/
def sideband (k : Token) : Word :=
  at_ 20 k.route ||| at_ 12 k.res ||| at_ 8 k.carg ||| at_ 5 k.csub ||| at_ 2 k.level ||| at_ 0 k.kind.code

/-- A token as a record holds it: payload, sideband and incarnation (R374). DEDUCED, log entry 25. -/
def tokenWords (k : Token) : List Word := [k.payload, sideband k ||| at_ 32 k.inc]

/-- A piece of a record: doublewords at an offset, or an area of `n` blocks of `size` bytes whose inner layout the manual does not give. -/
inductive RecordPiece where
  | words (off : Nat) (ws : List Word)
  | area (part off size n : Nat)
  deriving DecidableEq, Repr

/-- The pieces of a record that belong to a register group (R372, R374). -/
def groupPieces (s : State) (t : Tile) (g : Nat) : List RecordPiece :=
  match g with
  | 0 => [.words 0x100 (t.x.toList ++ handlerBank t ++ t.trapBank.toList)]
  | 1 => [.words 0x300 (t.m.toList ++ laWords t.la.l), .area 1 0x390 8 1, .words 0x400 (t.v.toList.flatMap lanes)]
  | 2 => [.words 0x800 ((List.range 512).map (savedCreg s t))]
  | 3 => [.area 3 0x8000 1024 8]
  | 4 => [.area 4 0x2000 1024 16]
  | 5 => [.area 5 0x6000 1024 8]
  | 6 => [.area 6 0x10000 1024 388]
  | _ => [.area 7 0x1800 1024 2, .area 8 0xA000 1024 8] ++
      (List.range 8).map (fun p => .words (0xC000 + 1024 * p) ((t.weir p).fifo.flatMap tokenWords)) ++
      [.area 9 0xE000 1024 4, .area 10 0xF000 1024 1]

/-- The doublewords of a granule of a tile's scratch. -/
def granuleWords (s : State) (t g : Nat) : List Word := (List.range 512).map (fun i => readD s (scratchKey t (4096 * g + 8 * i)))

/-- The pieces of a tile record: all of it, or for an incremental save its dirty groups and granules (R372, R374). What no group names stands in the rest
of THDR (DESIGN CHOICE, log entry 25). RING is written when the cut is complete. -/
def recordPieces (s : State) (t : Tile) (seq : Word) (full : Bool) : List RecordPiece :=
  let groups := if full then List.range 8 else t.dirtyGroups
  let granules := if full then List.range (t.tileSplit * 16) else t.dirtyGranules.filter (fun g => decide (g < t.tileSplit * 16))
  [.words 0 [at_ 16 t.cfgTag.toNat ||| at_ 8 (groups.foldl (fun a g => a ||| 2 ^ g) 0) ||| at_ 0 (headerFlags t), seq, BitVec.ofNat 64 t.tileSplit],
    .words 32 ((List.range 4).map (granuleMap granules)), .area 0 0x40 192 1] ++ groups.flatMap (groupPieces s t) ++
    granules.map (fun g => .words (0x80000 + 4096 * g) (granuleWords s t.id g))

/-- Write one piece of the record of a tile at an address. -/
def writePiece (by_ : Nat) (t : Tile) (base : Nat) (va : Word) : RecordPiece → Img Unit
  | .words off ws => imageStores by_ (va + BitVec.ofNat 64 off) ws
  | .area part off size n => writeArea by_ t base part (va + BitVec.ofNat 64 off) size n

/-- Write a tile record (R372, R374). -/
def saveRecord (by_ : Nat) (t : Tile) (base : Nat) (va seq : Word) (full : Bool) : Img Unit := do
  let s ← get
  (recordPieces s t seq full).forM (writePiece by_ t base va)

/- The start of a cut -/

/-- Does a PREEMPT descriptor break its layout (R368)? -/
def preemptBad (d : List Word) : Bool :=
  bitsOf (imgD d 0) 7 0 != 1 || bitsOf (imgD d 0) 63 9 != 0 || bitsOf (imgD d 1) 63 16 != 0 || (imgD d 2).toNat % 2 ^ 21 != 0 ||
    (imgD d 3).toNat % 8 != 0 || imgD d 5 != 0 || imgD d 6 != 0 || imgD d 7 != 0

/-- The tiles of a region in launch-index order (R368, R373): every tile of every task in the subtree of a scope, but those of a task that is already
cancelled, which the kill takes before the pre-emption stop (R366). -/
def regionTiles (s : State) (p : Nat) (scs : List Nat) : List Nat :=
  s.launches.flatMap (fun e => if e.2.live && e.2.part == p && e.2.placed then
      e.2.tiles.filter (fun t => (getTile s t).launch == e.1 && scs.contains (getTile s t).scope && !e.2.imaged.contains t && !(getTile s t).cancelled) else [])

/-- Write the completion word of a cut or a resume (R371): a store that faults goes to the field supervisor and counts among its skipped writes
(R382). A tile that has been killed stores nothing. -/
def doneWord (s : State) (by_ : Nat) (va : Word) (tiles code : Nat) : State :=
  if sealed s by_ then s
  else match imageStore by_ va (at_ 32 tiles ||| at_ 0 code) s with
    | (.ok (), s1) => s1
    | (.error f, s1) => countSupFault (match f with
      | some f => supFault s1 by_ f
      | none => s1) (fieldOf by_)

/-- Every sequencer of a region stops at its next kill point (R369). -/
def beginCut (s : State) (c : Cut) : State :=
  let id := s.nextCut
  let s1 := { s with cuts := smSet s.cuts id c, nextCut := id + 1 }
  let s2 := c.tiles.foldl (fun u t => schedule (updTile u t (fun a => { a with cutOf := some id, cutMarked := false, cutFlags := [] })) t [(.cutStop, [])]) s1
  if c.tiles.isEmpty then schedule s2 c.asTile [(.cutComplete, [id])] else s2

/-- Start the cut that a descriptor names (R369, R371), of the tasks of the scopes `scs`. -/
def startCut (s : State) (d : List Word) (live : Bool) (scs : List Nat) : State :=
  let by_ := s.tile.id
  let p := partNo s by_
  let sc := bitsOf (imgD d 1) 15 0
  let ts := regionTiles s p (sc :: scs)
  let stop_ := fun (code : Nat) => doneWord s by_ (imgD d 3) 0 code
  if !live then stop_ 4
  else if ts.any (fun t => (getTile s t).cutOf.isSome) then stop_ 5
  else if (imgD d 4).toNat < ts.length then stop_ 3
  else
    beginCut s { part := p, tiles := ts, image := imgD d 2, done := imgD d 3, incr := bitOf (imgD d 0) 8, scope := sc, asTile := by_ }

/-- PREEMPT (R356, R368). The layout check of R216 comes before PRIV, the address checks after it. While the scope table cannot be read it waits, as CANCEL
does (log entry 18). -/
def execPreempt (a : BitVec 6) (s : State) : Host.Outcome State Fault Refusal :=
  run1 (do
    checkOperands [.x a] []
    let va ← takeX a
    let st ← look id
    let off := va.toNat % 2 ^ 20
    let here := isLocal va && decide (va.toNat % 64 = 0 ∧ off + 64 ≤ scratchSize st.tile)
    demand (!(here && preemptBad ((List.range 8).map (fun i => readD st (scratchKey st.tile.id (off + 8 * i)))))) (illegal 8)
    supervisorOnly
    let d ← localWords va 64 8
    let st ← look id
    let f := fieldOf st.tile.id
    let sc := bitsOf (imgD d 1) 15 0
    match scopeCheck st f 0 sc with
    | (.unread p, _) => scopeWait (scopeCheck s f 0 sc).2 false f p
    | (.bad, s1) => update (fun _ => startCut s1 d false [])
    | (_, s1) => match subtreeOf f sc (getPart s1 (partNo s1 st.tile.id)).scopes s1 with
      | (.error p, _) => scopeWait (subtreeOf f sc (getPart s (partNo s s.tile.id)).scopes s).2 false f p
      | (.ok scs, s2) => update (fun _ => startCut s2 d true scs)) s

/- Stopping and markers -/

/-- The input that output `p` feeds over an open link, which gets its CUT token (R370). -/
def markerInput (s : State) (t p : Nat) : Option (Nat × Nat) :=
  match farInput t p with
  | none => none
  | some (u, q) => if linkOpenOut s t (p % 4) (p / 4) && (!crossesField t (p % 4) || channelJoined s t p u q) then some (u, q) else none

/-- Does a tile of the same cut feed input `q` of tile `t` over an open link, so that a marker will pass there (R369, R370)? The spec gives no marker to wait
for where the tile before the input goes on (DESIGN CHOICE, log entry 25). -/
def markerDue (s : State) (t q : Nat) : Bool :=
  match neighbour t (q % 4) with
  | none => false
  | some u => (getTile s u).cutOf.isSome && (getTile s u).cutOf == (getTile s t).cutOf && markerInput s u (q / 4 * 4 + opposite (q % 4)) == some (t, q)

/-- The CUT token of a node (R370). -/
def cutToken (t : Tile) : Token := { kind := .config, csub := 1, route := t.routeId }

/-- Send the marker on output `p` behind the last token moved (R369, R370): into the far input, the weir before it, or a sink port. A tile that is no part of a
cut takes it without effect (log entry 25), and a killed one discards it (R389). -/
def sendMarker (s : State) (t p : Nat) : State :=
  match farInput t p with
  | none =>
    if (cisternFacing t (p % 4)).isSome then
      schedule (updTile s t (fun u => u.updPort p (fun r => { r with toRim := r.toRim ++ [cutToken u] }))) t [rimStep t p]
    else s
  | some _ =>
    match markerInput s t p with
    | none => s
    | some (u, q) =>
      if sealed s u then sealDrop s u
      else if crossesField t (p % 4) then
        let k : Token := { cutToken (getTile s t) with inc := (getField s (fieldOf t)).inc }
        schedule (updTile s u (fun a => a.updWeir q (fun w => { w with inflight := w.inflight ++ [k] }))) u [(.weirIngress, [q])]
      else scheduleAt s u .cutMarkerArrival [q, (getTile s t).routeId]

/-- Is port `p` of a tile an active source port (R86)? -/
def Tile.sourceActive (t : Tile) (p : Nat) : Bool :=
  let r := t.rimOut p
  !r.idle && !bitOf (imgD r.active 0) 1 && (smFind t.ports p).isSome

/-- A source port stops reading and sends its marker, with the ROUTE of its other tokens (R369, R370, R429). -/
def cutSource (s : State) (t p : Nat) : State :=
  if (getTile s t).sourceActive p then
    schedule (updTile s t (fun u => (u.updPort p (fun r => { r with cut := true })).updWeir p (fun w =>
      { w with inflight := w.inflight ++ [{ cutToken u with route := bitsOf (imgD (u.rimOut p).active 0) 27 16, inc := (getField s (fieldOf t)).inc }] })))
      t [(.weirIngress, [p])]
  else s

/-- The tile has stopped (R369): what its streams fetched ahead is discarded, its markers leave, and what it has begun goes on. -/
def cutMark (s : State) (t : Nat) : State :=
  let s1 := updTile s t (fun u => { u.refetch (fun _ => true) with cutMarked := true, wait := none, waitPoint := false })
  let s2 := (List.range 8).foldl (fun u p => cutSource (sendMarker u t p) t p) s1
  let u := getTile s2 t
  schedule s2 t (((u.streams.filter (fun e => e.2.out)).map (fun e => (.streamElementPerform, [e.1]))) ++
    [(.msgInject, []), (.engineCommandFinish, []), (.drainWritePerform, []), (.tileSave, [])])

/-- Does a network interface that a cut has stopped hold the request of entry `n` of a tile's long-result buffer? -/
def heldEntry (s : State) (t : Tile) (n : Nat) : Bool :=
  (allTiles s).any (fun u => (getTile s u).cutOf.isSome && (getTile s u).ring.any (fun i => match i with
    | .req q => q.tile == t.id && q.launch == t.launch && q.entry == n
    | _ => false))

/-- Does everything that a tile's park still awaits stand in network interfaces that a cut has stopped? It comes at the replay, and the stop does not
wait for it (DESIGN CHOICE, log entry 24). -/
def awaitsReplay (s : State) (t : Tile) : Bool :=
  t.longBuf.any (fun e => !e.returned) && (t.longBuf.zipIdx).all (fun p => p.1.returned || heldEntry s t p.2)

/-- Stop the current tile for its cut, if it is at a kill point (R342, R369): the thread parks first, and faults go to the replay
record. None when it is not yet there. -/
def stopForCut (s : State) : Option State :=
  let t := s.tile
  let away := awaitsReplay s t
  if t.cutOf.isNone || t.cutMarked || !(t.killPoint || (away && (t.atBoundary || t.wait == some .park))) then none
  else if t.longBuf.isEmpty || away then some (cutMark s t.id)
  else match t.park with
    | .waiting => some (waitStep s .park true (returnSteps t))
    | .poisoned => some (sealTile s t.id)
    | .done u fs =>
      some (cutMark { s with tile := if fs = [] then u else { u with replay := u.replay ++ fs, replayPc := ((u.replay ++ fs).head?.map (·.pc)).getD 0 } } t.id)

/-- CUT_STOP (R369): a sequencer of the region stops at its next kill point. -/
def execCutStop (s : State) : Host.Outcome State Fault Refusal :=
  event (fun s =>
    if s.tile.cutOf.isNone || s.tile.cutMarked then s
    else match stopForCut s with
      | some s1 => if s1.tile.cutMarked then s1 else again s1 .cutStop
      | none => again s .cutStop) s

/-- CUT_MARKER_ARRIVAL (R370) at the input in argument 0 of a CUT token with the ROUTE in argument 1. A tile that is no part of a cut takes no notice of it
(DESIGN CHOICE, log entry 25). In a cut its checks are those of any token (R384, R385), and
an ERR token in its place enters the input; the marker counts as passed either way (DESIGN CHOICE, log entry 25). -/
def execCutMarkerArrival (s : State) : Host.Outcome State Fault Refusal :=
  event (fun s =>
    if s.tile.cutOf.isNone then s
    else
      let q := argAt s 0
      let r := switchToken s s.tile.id q { kind := .config, csub := 1, route := argAt s 1 }
      onTile r.2 (fun t =>
        let u := { t with cutFlags := insertNat q t.cutFlags }
        if !r.1.isCut && decide ((vget t.swIn q []).length < 4) then u.pushIn q r.1 else u)) s

/- Saving -/

/-- Has the marker passed on every input (R369, R370)? An input that no tile of the region feeds counts as passed. -/
def markersPassed (s : State) (t : Tile) : Bool :=
  (List.range 8).all (fun q => t.cutFlags.contains q ||
    (if (neighbour t.id (q % 4)).isNone then !(t.sourceActive q) else !(markerDue s t.id q)))

/-- Does the target of an access lie behind a network interface that a cut has stopped? It is performed at the replay (R369). -/
def replayLater (s : State) (t : Nat) (m : Mode) (va : Word) (n : Nat) : Bool :=
  match resolve s t m { kind := .write, noDevice := true } va n with
  | .ok (tg, s1) => match blockOf s1 t va tg false with
    | .held u => (getTile s u).cutOf.isSome
    | _ => false
  | .error _ => false

/-- Are the accepted elements of an output stream performed, but for a faulting one and those that wait for the replay (R369)? -/
def streamSettled (s : State) (t : Tile) (b : Binding) : Bool :=
  !b.out || b.fault.isSome || match b.held with
    | [] => true
    | o :: _ => replayLater s t.id b.mode o.va (max 1 (o.width / 8))

/-- Has the member's engine come to rest: no command started, and its drain writes performed, held by a fault or waiting for the replay (R369)? -/
def engineSettled (s : State) (t : Tile) : Bool :=
  !t.sub.started && (t.sub.held.isSome || match t.sub.drains with
    | [] => true
    | d :: _ => replayLater s t.id d.mode d.va 8)

/-- Have the sink ports written every token that precedes the marker, or stopped at a fault or at an element that waits for the replay (R87, R369)? -/
def portsSettled (s : State) (t : Tile) : Bool :=
  t.ports.all (fun e => (cisternFacing t.id (e.1 % 4)).isNone || e.2.toRim.isEmpty || e.2.fault.isSome || e.2.cut ||
    (let d := e.2.active
     replayLater s t.id .user (elemAddr (portPattern d) (portWidth d) e.2.pos).1 (max 1 (portWidth d / 8))))

/-- May the tile save (R369)? Its accepted elements are performed or faulted, its sink ports have stopped, its messages are injected but for ranks in
transit, and its engine command is finished. -/
def readyToSave (s : State) (t : Tile) : Bool :=
  t.cutMarked && markersPassed s t && t.streams.all (fun e => streamSettled s t e.2) && portsSettled s t &&
    t.sendQ.all (fun m => (rankSeen s t.id m.part m.dest).transit) && engineSettled s t

/-- The cut is over for a region that stays where it stood (R371), or has been loaded (R375): its tiles go on, and what their network interfaces hold is
taken in arrival order. -/
def releaseTile (s : State) (t : Nat) : State :=
  let s1 := updTile s t (fun u => { u with
    cutOf := none, cutMarked := false, cutFlags := []
    ports := u.ports.map (fun e => (e.1, { e.2 with cut := false })) })
  let u := getTile s1 t
  let s3 := schedule (nextHeld s1 t) t (returnSteps u ++
    ((u.streams.filter (fun e => e.2.out && !e.2.held.isEmpty && e.2.fault.isNone)).map (fun e => (.streamElementPerform, [e.1]))) ++
    ((u.ports.filter (fun e => u.sourceActive e.1)).map (fun e => (.streamPortSourceElement, [e.1]))) ++
    ((u.ports.filter (fun e => !e.2.toRim.isEmpty)).map (fun e => rimStep t e.1)) ++
    ((u.weirs.filter (fun e => !(e.2.inflight.isEmpty && e.2.fifo.isEmpty))).map (fun e => (.weirIngress, [e.1]))) ++
    ((u.weirs.filter (fun e => !e.2.ring.isEmpty)).map (fun e => (.spillRingDrain, [e.1]))) ++
    (((List.range 8).filter (fun p => !(vget u.coreOut p []).isEmpty)).map (fun p => (.coreOutputDepart, [p]))) ++
    (if u.sub.queue.isEmpty then [] else (.drainWritePerform, []) :: engineSteps t) ++
    (if u.sendQ.isEmpty then [] else [(.msgInject, [])]) ++
    (if u.run = .exited then [(.tileRetire, [])] else []))
  addTurn (addTurn s3 (.switch t)) (.thread t)

/-- The replay of what failed at the park of the cut, for a thread in no trap (R369, R363). -/
def replayAfterCut (s : State) (t : Nat) : State :=
  let u := getTile s t
  if bitsOf u.trapCause 3 0 ≠ 0 ∨ u.replay = [] then s
  else
    let here := s.tile.id
    focus (reissue (focus (updTile s t (fun a => { a with replay := [], dirtyGroups := insertNat 7 a.dirtyGroups })) t) u.replay) here

/-- A cut that ends with its region in place (R371): TILES counts the records written before it ended. -/
def abandonCut (s : State) (id code : Nat) : State :=
  let c := smGet {} s.cuts id
  let s1 := (c.tiles.filter (fun t => (getTile s t).cutOf == some id)).foldl (fun u t => replayAfterCut (releaseTile u t) t)
    { s with cuts := smErase s.cuts id }
  if c.launch ≠ 0 then s1 else doneWord s1 c.asTile c.done c.saved.length code

/-- A cut whose image could not be accessed ends with FAULT (R371); an uncorrectable error that its loads met kills the tile that made them (R83, R389). -/
def imageFailed (s : State) (id : Nat) (f : Option MemFault) : State :=
  abandonCut (if f.isNone then sealTile s (smGet {} s.cuts id).asTile else s) id 2

/-- The tile has been saved; the cut is complete once all its tiles are. -/
def markSaved (s : State) (id t : Nat) : State :=
  let c := smGet {} s.cuts id
  let done := insertNat t c.saved
  let s1 := { s with cuts := smSet s.cuts id { c with saved := done } }
  if done.length = c.tiles.length then schedule s1 c.asTile [(.cutComplete, [id])] else s1

/-- Write the record of a tile of cut `id` (R369, R372): an incremental save of a tile that was last loaded from the same image, with an unchanged SEQ, writes
what is dirty; any other writes the whole record. Answers which. -/
def saveTile (id : Nat) (c : Cut) (t : Tile) : Img Bool := do
  let seq ← imageLoad c.asTile (c.image + 8)
  let full := !(c.incr && t.imageOf == c.image && t.imageOf != 0 && t.seq == seq)
  saveRecord c.asTile t (32 * id) (recordVa c.image (c.tiles.findIdx (· == t.id))) (seq + 1) full
  pure full

/-- TILE_SAVE (R369, R372): a tile saves its record once markers have passed on every input. What it has staged is set back (R369). The record of a
cut that a resize or a quarantine makes stays with the supervisor (R170, R388). A full save clears the dirty bits (R372). -/
def execTileSave (s : State) : Host.Outcome State Fault Refusal :=
  event (fun s =>
    match s.tile.cutOf with
    | none => s
    | some id =>
      let c := smGet {} s.cuts id
      if c.saved.contains s.tile.id then s
      else if !readyToSave s s.tile then again s .tileSave
      else
        let s0 := onTile s Tile.unstage
        if c.launch ≠ 0 then markSaved s0 id s.tile.id
        else match saveTile id c s0.tile s0 with
          | (.error f, s1) => imageFailed s1 id f
          | (.ok full, s1) =>
            markSaved (onTile s1 (fun t => if full then { t with dirtyGroups := [], dirtyGranules := [] } else t)) id s.tile.id) s

/-- The copy of slot `k` of tile `a` is now that of slot `l` of tile `b`. -/
def NiItem.moveCopy (a b lo hi : Nat) (g : Nat → Nat) : NiItem → NiItem
  | .sector t k p l => if t = a ∧ lo ≤ k ∧ k < hi then .sector b (g k) p l else .sector t k p l
  | i => i

/-- The requests and accesses that the task of launch `id` issued at tile `a` are now tile `b`'s. -/
def NiItem.moveIssuer (a b id : Nat) : NiItem → NiItem
  | .req q => if q.tile = a ∧ q.launch = id then .req { q with tile := b } else .req q
  | .access t l i args => if t = a ∧ l = id then .access b l i args else .access t l i args
  | i => i

/-- A launch lists `b` for `a`. -/
def Launch.rename (l : Launch) (a b : Nat) : Launch :=
  let g := fun (u : Nat) => if u = a then b else u
  { l with tiles := l.tiles.map g, threads := l.threads.map g, swapped := l.swapped.map g }

/-- Change the launches that a tile belongs to: its own, and the one that follows on it. -/
def updLaunchesOf (s : State) (t : Tile) (g : Launch → Launch) : State := (t.launch :: t.follow.toList).foldl (fun u i => updLaunch u i g) s

/-- A saved tile leaves the region: what it holds is kept with its record, its copies go on under numbers of their own (R124), and the
tile is free. -/
def vacate (s : State) (id : Nat) (key t : Nat) : State :=
  let u := getTile s t
  let base := 32 * id
  let own := u.ownCopies
  let k : Saved := { tile := { u with copies := [] }, place := t, base := base }
  let s1 := updLaunchesOf s u (fun l => { l.rename t k.ghost with imaged := insertNat k.ghost l.imaged })
  let kept : Tile := { freshTile t with
    run := if u.run = .killed then .killed else .inactive, corrCnt := u.corrCnt, discardCnt := u.discardCnt, bankToken := u.bankToken
    bankSucc := u.bankSucc, tileSplit := u.tileSplit, tlb := u.tlb, icache := u.icache, rankCache := u.rankCache, ownerLines := u.ownerLines
    openChunk := u.openChunk
    copies := (u.copies.filter (fun e => decide (32 ≤ e.1))) ++ own.map (fun e => (base + e.1, e.2)) }
  let s2 := putTile { s1 with images := smSet s1.images key k } kept
  schedule (mapRings s2 (NiItem.moveCopy t t 0 32 (base + ·))) t (own.flatMap (fun e => copySteps (base + e.1, e.2)))

/-- Store the header and the MAP of an image, and the rings of its tiles (R373, R374). -/
def saveHeader (id : Nat) (c : Cut) : Img Unit := do
  let seq ← imageLoad c.asTile (c.image + 8)
  (c.tiles.zipIdx).forM (fun e => do
    let s ← get
    writePiece c.asTile (getTile s e.1) (32 * id) (recordVa c.image e.2) (.area 11 0x180000 1024 512))
  imageStores c.asTile c.image [at_ 32 c.tiles.length ||| at_ 16 c.scope ||| at_ 0 1, seq + 1]
  imageStores c.asTile (c.image + 24) (List.replicate 5 0)
  let s ← get
  imageStores c.asTile (c.image + 64) (c.tiles.map (fun t => at_ 16 (rankOf s t) ||| at_ 8 (tileY t) ||| at_ 0 (tileX t)))

/-- The name under which the machine keeps what it knows of record `i` of a save. -/
def savedKey (id i : Nat) : Nat := id * 65536 + i

/-- Take every tile of a cut out of its place. -/
def vacateAll (s : State) (id : Nat) (c : Cut) : State := (c.tiles.zipIdx).foldl (fun u e => vacate u id (savedKey id e.2) e.1) s

/- Cuts that a partition resize makes (R170): the supervisor keeps the records itself -/

/-- The home address under which record `i` of a resize's cut is kept, with the scratch of its tile: it lies above every memory.
DESIGN CHOICE, log entry 30. -/
def heldKey (id i : Nat) : Nat := 2 ^ 60 + (id * 65536 + i) * 2 ^ 20

/-- Move `n` bytes of memory, with what is undefined or poisoned among them. -/
def moveBytes (s : State) (src dst n : Nat) : State :=
  let cells := s.mem.filter (fun c => decide (src ≤ c.1) && decide (c.1 < src + n))
  let s1 := clearRange (clearRange s dst (dst + n)) src (src + n)
  { s1 with
    mem := cells.foldl (fun m c => cellSet m (c.1 - src + dst) c.2) s1.mem
    undef := (s.undef.filterMap (fun u => if u.lo < src + n ∧ src < u.hi then
      some { u with lo := max u.lo src - src + dst, hi := min u.hi (src + n) - src + dst } else none)) ++ s1.undef
    poison := s1.poison.foldl (fun l p =>
      if src / 64 ≤ p ∧ p < (src + n) / 64 then insertNat (p - src / 64 + dst / 64) l else if dst / 64 ≤ p ∧ p < (dst + n) / 64 then l else insertNat p l) [] }

/-- A task that the supervisor moves releases what its tags hold of the tile's banks, since it takes them with it: the supervisor's own writes of the
tokens (R62). DESIGN CHOICE, log entry 30. -/
def openTags (s : State) (t : Nat) (tags : List (BitVec 16)) : State :=
  updTile s t (fun u => { u with
    bankToken := u.bankToken.map (fun o => if tags.contains o then 0 else o)
    bankSucc := u.bankSucc.map (fun o => if tags.contains o then 0 else o) })

/-- The tiles of a resize's cut are free, and the supervisor keeps their records (R170). -/
def holdAll (id : Nat) (c : Cut) (s : State) : State :=
  kickAll ((c.tiles.zipIdx).foldl (fun u e =>
    openTags (moveBytes (vacate u id (heldKey id e.2) e.1) (scratchKey e.1 0) (heldKey id e.2) (2 ^ 20)) e.1 (getLaunch s c.launch).tags) s)

/-- The ranks of a launch that moves are in transit or arrive (R390): no message to them is injected meanwhile. -/
def transitRanks (s : State) (c : Cut) (on : Bool) : State :=
  (c.ranks.filter (fun r => decide (r < tileCount s c.part))).foldl (fun u r => setRank u c.part r { rankEntry u c.part r with transit := on }) s

/-- Pre-empt a launch whole, across all its fields, as one cut (R170, R388). With `stay` its tiles are not left, and go on in their places; otherwise
their ranks are in transit (R390). -/
def startHeld (s : State) (id by_ : Nat) (stay : Bool) : State :=
  let l := getLaunch s id
  let ts := l.tiles.filter (fun t => (getTile s t).launch == id)
  let c : Cut := { part := l.part, tiles := ts, asTile := by_, launch := id, ranks := ts.map (rankOf s), stay := stay }
  beginCut (if stay then s else transitRanks s c true) c

/-- The cut in which the supervisor keeps a launch (R170, R388): its number and itself. -/
def heldCut (s : State) (id : Nat) : Option (Nat × Cut) := s.cuts.find? (fun e => e.2.launch == id && !e.2.resume)

/-- The regions that a cut had stopped in their places go on (R388). -/
def resumeStay (s : State) (f : Nat) : State :=
  (s.cuts.filter (fun e => e.2.stay && e.2.tiles.any (fun t => fieldOf t == f))).foldl (fun u e =>
    (e.2.tiles.filter (fun t => (getTile u t).cutOf == some e.1)).foldl (fun w t => replayAfterCut (releaseTile w t) t)
      { u with cuts := smErase u.cuts e.1 }) s

/-- CUT_COMPLETE (R371) of cut argument 0: the header, then the completion word. A launch that moves is taken from its tiles once no message is on its
way to them (R390). -/
def execCutComplete (s : State) : Host.Outcome State Fault Refusal :=
  event (fun s =>
    let id := argAt s 0
    match smFind s.cuts id with
    | none => s
    | some c =>
      if c.resume || c.saved.length != c.tiles.length then s
      else if c.launch ≠ 0 then
        (if c.stay then s else if s.net.any (fun m => c.tiles.contains m.tile) then again s .cutComplete else holdAll id c s)
      else match saveHeader id c s with
        | (.error f, s1) => imageFailed s1 id f
        | (.ok (), s1) =>
          let s2 := vacateAll s1 id c
          kickAll (doneWord { s2 with cuts := smErase s2.cuts id } c.asTile c.done c.tiles.length 1)) s

/- Resume -/

/-- RESUME (R356, R375): the image is loaded by RESUME_COMPLETE. -/
def execResume (a : BitVec 6) (s : State) : Host.Outcome State Fault Refusal :=
  run1 (do
    checkOperands [.x a] []
    let va ← takeX a
    supervisorOnly
    demand (va.toNat % 2 ^ 21 == 0) (trap { cause := .align })
    let st ← look id
    match imageLoads st.tile.id va 8 st with
    | (.error (some f), _) => memTrap f
    | (.error none, _) => stop .poison
    | (.ok h, s1) =>
      let id := s1.nextCut
      let c : Cut := { part := partNo s1 s1.tile.id, image := va, done := imgD h 2, scope := bitsOf (imgD h 0) 31 16, resume := true, asTile := s1.tile.id }
      update (fun _ => schedule { s1 with cuts := smSet s1.cuts id c, nextCut := id + 1 } s1.tile.id [(.resumeComplete, [id])])) s

/-- Load the groups whose bytes R374 places: the registers of XREG, MLA and VREG. -/
def loadRegs (t : Tile) (x m v : List Word) : Tile :=
  { t with
    x := Vector.ofFn (fun i : Fin 32 => x.getD i.val 0)
    trapBank := Vector.ofFn (fun i : Fin 8 => x.getD (40 + i.val) 0)
    intr := t.intr.map (fun h => { h with bank := Vector.ofFn (fun i : Fin 8 => x.getD (32 + i.val) 0) })
    m := Vector.ofFn (fun i : Fin 8 => m.getD i.val 0)
    la := { t.la with l := signedOf 640 ((((m.drop 8).take 10).zipIdx).foldl (fun a p => a + p.1.toNat * 2 ^ (64 * p.2)) 0) }
    v := Vector.ofFn (fun i : Fin 16 => ofLanes ((v.drop (8 * i.val)).take 8)) }

/-- Load the loop state of CREG: LOOP_CTL, and the stored entries as they are (R252, R374). -/
def loadLoops (cr : List Word) : Loops :=
  let w := fun (n : Nat) => cr.getD n 0
  { depth := Nat.min 4 (bitsOf (w 0xA8) 18 16), level := bitsOf (w 0xA8) 15 0
    entries := Vector.ofFn (fun i : Fin 4 =>
      { start := w (0xB0 + i.val) &&& ~~~3#64, count := w (0xB4 + i.val), len := bitsOf (w (0xB8 + i.val)) 27 16, level := bitsOf (w (0xB8 + i.val)) 15 0 }) }

/-- The slots that TOUCH0 to TOUCH3 list (R416). -/
def touchSlots (cr : List Word) : List Nat :=
  (List.range 16).filterMap (fun i => let e := bitsOf (cr.getD (0xE0 + i / 4) 0) (16 * (i % 4) + 15) (16 * (i % 4)); if 0x8000 ≤ e then some (e - 0x8000) else none)

/-- Load one control register of a tile (R179, R374). The loop state, TOUCH, what is derived (REPLAY_CTL, SW_MCW, COPY_LEAD, RUN) or the cluster's, and CORR_CNT
and DISCARD_CNT, which stay the tile's (R383), are not loaded here. -/
def Tile.loadReg (t : Tile) (n : Nat) (w : Word) : Tile :=
  match n with
  | 0x20 => { t with coreStatus := w }
  | 0x40 => { t with xfaultVa := w }
  | 0x41 => { t with xfaultInfo := w }
  | 0x42 => { t with classInfo := w }
  | 0x43 => { t with strayInfo := w }
  | 0x44 => { t with cwaitGen := w }
  | 0x45 => { t with trapCause := w }
  | 0x46 => { t with trapPc := w }
  | 0x47 => { t with trapVec := w }
  | 0x49 => { t with replayPc := w }
  | 0x4A => { t with residueInfo := w }
  | 0x4B => { t with topoInfo := w }
  | 0x4C => { t with passPc := w }
  | 0x52 => { t with cfgTag := w.setWidth 16 }
  | 0x70 => { t with fetchCtl := w }
  | 0x98 => { t with inboxInfo := w }
  | 0x99 => { t with tokenCfg := w }
  | 0x9A => { t with qrecCtl := w }
  | 0x9C => { t with qlock := vset t.qlock 0 w }
  | 0x9D => { t with qlock := vset t.qlock 1 w }
  | 0xA4 => { t with optSend := w }
  | _ =>
    if 0x54 ≤ n ∧ n ≤ 0x57 then
      { t with bankSucc := (List.range 4).foldl (fun v k => vset v (4 * (n - 0x54) + k) (BitVec.ofNat 16 (bitsOf w (16 * k + 15) (16 * k)))) t.bankSucc }
    else if 0x60 ≤ n ∧ n ≤ 0x6F then { t with bankToken := vset t.bankToken (n - 0x60) (w.setWidth 16) }
    else if 0x78 ≤ n ∧ n ≤ 0x90 then { t with counters := vset t.counters (n - 0x78) w }
    else if 0xC0 ≤ n ∧ n ≤ 0xCF then (if fmtLegal w then { t with fmt := vset t.fmt (n - 0xC0) w } else t)
    else if 0xD0 ≤ n ∧ n ≤ 0xDF then { t with scale := vset t.scale (n - 0xD0) w }
    else if 0x100 ≤ n ∧ n ≤ 0x17F then
      (if n % 2 = 0 then { t with htPc := vset t.htPc ((n - 0x100) / 2) w }
       else { t with htCtl := vset t.htCtl ((n - 0x100) / 2) (w &&& ~~~0x10#64) })
    else t

/-- Load CREG (R374); a doubleword that breaks its register's map leaves the register (DESIGN CHOICE, log entry 25). -/
def Tile.loadCreg (t : Tile) (cr : List Word) : Tile :=
  let u := (cr.zipIdx).foldl (fun a p => if p.1 &&& crReserved p.2 = 0 ∧ (p.2 = 0x20 → coreStatusLegal p.1) then a.loadReg p.2 p.1 else a) t
  { u with loops := loadLoops cr, touch := touchSlots cr, touchFull := bitOf (cr.getD 0xE4 0) 0 }

/-- A tile with the part of its state that an area of a record holds (R374): 0 the rest of THDR, 1 the sticky bit and the state of la, 3 to 6 the groups of those
numbers, 7 LONG, 8 EDGE, 9 the rest of WEIR, 10 PASSREC, 11 RING. -/
def Tile.takePart (t a : Tile) : Nat → Tile
  | 1 => { t with la := { t.la with sticky := a.la.sticky, exc := a.la.exc } }
  | 3 => { t with inbox := a.inbox, report := a.report, sendQ := a.sendQ, barRec := a.barRec }
  | 4 => { t with streams := a.streams, outSeq := a.outSeq }
  | 5 => { t with sw := a.sw, coreIn := a.coreIn, coreOut := a.coreOut, swIn := a.swIn, bq := a.bq, emq := a.emq, chan := a.chan, carried := a.carried }
  | 6 => { t with sub := a.sub }
  | 7 => { t with replay := a.replay, longBuf := a.longBuf }
  | 8 => { t with ports := a.ports }
  | 9 => { t with weirs := a.weirs, cutFlags := a.cutFlags }
  | 10 => { t with passed := a.passed }
  | 11 => { t with ring := a.ring }
  | _ => a

/-- A token with the payload, the sideband and the incarnation that a record holds (R312, R374). -/
def Token.ofWords (k : Token) (payload w : Word) : Token :=
  { k with
    payload := payload, route := bitsOf w 31 20, res := bitsOf w 19 12, carg := bitsOf w 11 8, csub := bitsOf w 7 5, level := bitsOf w 4 2, inc := bitsOf w 47 32
    kind := match bitsOf w 1 0 with | 0 => .data | 1 => .marker | 2 => .err | _ => .config }

/-- Load the tokens of the weirs from their places (R374): as many as the rest of WEIR says. -/
def loadWeirs (by_ : Nat) (va : Word) (t : Tile) : List Nat → Img Tile
  | [] => pure t
  | p :: r => do
    let l := (t.weir p).fifo
    let ws ← imageLoads by_ (va + BitVec.ofNat 64 (0xC000 + 1024 * p)) (2 * l.length)
    loadWeirs by_ va (if l.isEmpty then t else t.updWeir p (fun w => { w with
      fifo := (l.zipIdx).map (fun k => k.1.ofWords (ws.getD (2 * k.2) 0) (ws.getD (2 * k.2 + 1) 0)) })) r

/-- The areas of a record in the order in which they are read: part, offset, block size, blocks (R374). -/
def recordAreas : List (Nat × Nat × Nat × Nat) :=
  [(0, 0x40, 192, 1), (1, 0x390, 8, 1), (3, 0x8000, 1024, 8), (4, 0x2000, 1024, 16), (5, 0x6000, 1024, 8), (6, 0x10000, 1024, 388), (7, 0x1800, 1024, 2),
    (8, 0xA000, 1024, 8), (9, 0xE000, 1024, 4), (10, 0xF000, 1024, 1)]

/-- Read some areas of a record, one after the other, into a tile. -/
def readAreas (by_ : Nat) (va : Word) : List (Nat × Nat × Nat × Nat) → Tile → Img Tile
  | [], t => pure t
  | (part, off, size, n) :: r, t => do
    let a ← readArea by_ part (va + BitVec.ofNat 64 off) size n
    readAreas by_ va r (t.takePart a.1 part)

/-- What the machine still keeps of the record that a save wrote last for a task: its key, if the task has not gone on since. -/
def keptRecord (s : State) (base : Option Nat) (place : Nat) : Option (Nat × Saved) :=
  s.images.find? (fun e => some e.2.base == base && e.2.place == place)

/-- Read a tile record (R374, R375): the tile that it holds, whatever its place, and what the machine keeps of it. -/
def readRecord (by_ : Nat) (va : Word) : Img (Tile × Option (Nat × Saved)) := do
  let h ← imageLoads by_ va 3
  let x ← imageLoads by_ (va + 0x100) 48
  let m ← imageLoads by_ (va + 0x300) 18
  let v ← imageLoads by_ (va + 0x400) 128
  let cr ← imageLoads by_ (va + 0x800) 512
  let t ← readAreas by_ va recordAreas {}
  let ring ← readArea by_ 11 (va + 0x180000) 1024 512
  let t1 ← loadWeirs by_ va (t.takePart ring.1 11) (List.range 8)
  let flags := imgD h 0
  let u := (loadRegs t1 x m v).loadCreg cr
  let s ← get
  pure ({ u with
    tileSplit := Nat.min 16 (bitsOf (imgD h 2) 4 0), cfgTag := BitVec.ofNat 16 (bitsOf flags 31 16), seq := imgD h 1
    run := if bitOf flags 4 then .killed else if bitOf flags 0 then .exited else if u.run = .exited ∨ u.run = .killed then .running else u.run
    sw := if bitOf flags 3 then { u.sw with st := .halted } else u.sw }, keptRecord s ring.2 ring.1.id)

/-- The scope of the task whose tile record stands at an address, and what the machine keeps of it. -/
def recordScope (by_ : Nat) (va : Word) : Img (Nat × Option (Nat × Saved)) := do
  let t ← readArea by_ 0 (va + 0x40) 192 1
  let ring ← readArea by_ 11 (va + 0x180000) 1024 512
  let s ← get
  pure (t.1.scope, keptRecord s ring.2 ring.1.id)

/-- Load the scratch of a record, `n` doublewords from offset `off` on. -/
def loadScratch (by_ t : Nat) (va : Word) (off : Nat) : Nat → Img Unit
  | 0 => pure ()
  | n + 1 => do
    let w ← imageLoad by_ (va + BitVec.ofNat 64 off)
    modify (fun s => writeD s (scratchKey t off) w)
    loadScratch by_ t va (off + 8) n

/-- A tile that goes on takes its place in its launch, for the first time since its save: its copies, under their own numbers again, and its requests
come with it (R124, R369, R375). -/
def takeKept (s : State) (key : Nat) (k : Saved) (fresh : Tile) : State :=
  let t := fresh.id
  let mine := ((getTile s k.place).copies.filter (fun e => decide (k.base ≤ e.1 ∧ e.1 < k.base + 32 ∧ 32 ≤ k.base))).map (fun e => (e.1 - k.base, e.2))
  let s2 := updTile s k.place (fun u => { u with copies := u.copies.filter (fun e => !decide (k.base ≤ e.1 ∧ e.1 < k.base + 32 ∧ 32 ≤ k.base)) })
  let s3 := mapRings { putTile s2 { fresh with copies := mine ++ (getTile s2 t).copies.filter (fun e => decide (32 ≤ e.1)) } with images := smErase s2.images key }
    (fun i => NiItem.moveCopy k.place t k.base (k.base + 32) (· - k.base) (NiItem.moveIssuer k.place t fresh.launch i))
  updLaunchesOf (schedule s3 t (mine.flatMap copySteps)) fresh (fun l => { l.rename k.ghost t with imaged := l.imaged.filter (· ≠ k.ghost) })

/-- A tile that goes on once more from a record that has been loaded before takes the place in its launch of the tile, or of the later record, that stands
there (R375, R389; DESIGN CHOICE, log entry 25). -/
def takeAgain (s : State) (fresh : Tile) : State :=
  let t := fresh.id
  let same := fun (e : Nat × Saved) => e.2.tile.launch == fresh.launch && e.2.tile.launchIdx == fresh.launchIdx && fresh.launch != 0
  let ghosts := (s.images.filter same).map (fun e => e.2.ghost)
  let was := ((getLaunch s fresh.launch).tiles[fresh.launchIdx]?).getD t
  let s1 := { s with images := s.images.filter (fun e => !same e) }
  let s2 := if (allTiles s1).contains was && was != t && sealed s1 was && (getTile s1 was).launch == fresh.launch then updTile s1 was (fun u => { u with launch := 0, follow := none }) else s1
  let s3 := mapRings (putTile s2 { fresh with copies := (getTile s2 t).copies.filter (fun e => decide (32 ≤ e.1)) }) (NiItem.moveIssuer was t fresh.launch)
  updLaunchesOf s3 fresh (fun l => { l.rename was t with imaged := l.imaged.filter (fun g => !ghosts.contains g) })

/-- The tile of a record goes on at place `t` (R375). What belongs to the physical tile stays. -/
def seatRecord (s : State) (u : Tile) (k : Option (Nat × Saved)) (t : Nat) : State :=
  let old := getTile s t
  let fresh : Tile := { u with
    id := t, corrCnt := old.corrCnt, discardCnt := old.discardCnt, tlb := old.tlb, icache := old.icache, dcache := []
    rankCache := old.rankCache, ownerLines := old.ownerLines, openChunk := old.openChunk
    streams := u.streams.map (fun e => (e.1, { e.2 with refused := false })), cutFlags := [] }
  match k with
  | some (key, k) => takeKept s key k { fresh with longBuf := k.tile.longBuf, ring := k.tile.ring }
  | none => takeAgain s fresh

/-- Load tile record `i` of an image into tile `t` (R374, R375). Its copies come with it, and its dirty bits are clear (R372). DESIGN CHOICE, log entry 25. -/
def loadRecord (c : Cut) (i t : Nat) : Img Unit := do
  let va := recordVa c.image i
  let r ← readRecord c.asTile va
  modify (fun s => seatRecord s { r.1 with imageOf := c.image, dirtyGroups := [], dirtyGranules := [] } r.2 t)
  loadScratch c.asTile t (va + 0x80000) 0 (r.1.tileSplit * 8192)

/-- The updates of R344 for the barrier record of a task that ends in an image, on behalf of launch `id`. -/
def markBarriers (s : State) (t id : Nat) (l : List (Word × Nat)) : State :=
  let mine := fun (i : NiItem) => match i with
    | .req q => if q.tile = t && q.launch == (getTile s t).launch && l.any (fun e => q.op == .cancelMark e.1 e.2) then NiItem.req { q with launch := id } else i
    | i => i
  mapRings ((l.filter (fun e => !isLocal e.1)).foldl (fun u e => (performNow u t .supervisor (.cancelMark e.1 e.2)).st) s) mine

/-- A task's record ends where it lies (R170, R371): none of its tiles is loaded, its copies stop (R343) and make their last additions (R127), its barriers
are marked (R344), and its place's network interface takes what its own held. `code` is that of the launch if it has none. -/
def dropKept (s : State) (by_ key code : Nat) : State :=
  match smFind s.images key with
  | none => s
  | some k =>
    let mine := fun (e : Nat × CopySlot) => decide (k.base ≤ e.1) && decide (e.1 < k.base + 32)
    let id := k.tile.launch
    let s0 := markBarriers { s with images := smErase s.images key } by_ id k.tile.barRec
    let moved := nextHeld (updTile s0 k.place (fun u =>
      let st := ({ u with copies := (u.copies.filter mine).map (fun (e : Nat × CopySlot) => (e.1 - k.base, e.2)) }).stopCopies
      { u with
        copies := u.copies.filter (fun e => !mine e) ++ st.copies.map (fun (e : Nat × CopySlot) => (e.1 + k.base, e.2))
        ring := u.ring ++ k.tile.ring })) k.place
    let s1 := schedule moved k.place (((getTile moved k.place).copies.filter mine).map (fun e => (.copyCounterAddition, [e.1])))
    let s2 := updLaunchesOf s1 k.tile (fun l => { l with
      imaged := l.imaged.filter (· ≠ k.ghost), threads := l.threads.filter (· ≠ k.ghost), code := if l.code = 0 then code else l.code })
    schedule s2 k.place (((id :: k.tile.follow.toList).filter (threadsDone s2)).map (fun i => (.launchComplete, [i])))

/-- The tiles of a launch that a resize had pre-empted go on at new places, with their ranks (R170) and their weights (R166): record `i` at tile `ts[i]`. A rank that the
partition no longer has is not kept. DESIGN CHOICE, log entry 30. -/
def seatHeld (s : State) (id : Nat) (c : Cut) (ts : List Nat) : State :=
  let s1 := { s with cuts := smErase s.cuts id }
  let s2 := (ts.zipIdx).foldl (fun u e => match smFind u.images (heldKey id e.2) with
    | none => u
    | some k => moveBytes (seatRecord u k.tile (some (heldKey id e.2, k)) e.1) (heldKey id e.2) (scratchKey e.1 0) (2 ^ 20)) s1
  let s3 := (ts.zip c.ranks).foldl (fun u e =>
    if e.2 < tileCount u c.part then
      let was := (rankEntry u c.part e.2).tile
      setRank (setRank u c.part (rankOf u e.1) { tile := was }) c.part e.2 { tile := e.1 }
    else u) s2
  let w := bitsOf (recD (getLaunch s3 c.launch).words 0) 23 16
  ts.foldl (fun u t => replayAfterCut (releaseTile (updCluster u (clusterOf t) (fun k => { k with mqw := putBits k.mqw (8 * memberOf t) 8 w })) t) t) s3

/-- Load or drop the records of an image, one after the other; the answer lists the tiles that were loaded. A task that was cancelled while it lay in an image
ends as killed (R371). -/
def loadAll (c : Cut) : List (Nat × Word) → Img (List Nat)
  | [] => pure []
  | (i, w) :: r => do
    let t := tileAt (bitsOf w 7 0) (bitsOf w 15 8)
    let q ← recordScope c.asTile (recordVa c.image i)
    let s ← get
    if q.1 ≠ 0 && scopeCancelled s (fieldOf c.asTile) q.1 then do
      modify (fun s => match q.2 with
        | some (key, _) => dropKept s c.asTile key 2
        | none => s)
      loadAll c r
    else do
      loadRecord c i t
      let l ← loadAll c r
      pure (t :: l)

/-- Does a header or its MAP break R373, or name a tile that cannot be loaded? DESIGN CHOICE, log entry 25. -/
def headerBad (s : State) (c : Cut) (h : List Word) (map : List Word) : Bool :=
  bitsOf (imgD h 0) 7 0 != 1 || bitsOf (imgD h 0) 15 8 != 0 || (h.drop 3).any (· != 0) ||
  map.any (fun w =>
    let t := tileAt (bitsOf w 7 0) (bitsOf w 15 8)
    bitsOf w 63 32 != 0 || decide (192 ≤ tileY t) || partOfTile s t != some c.part || (getTile s t).launch != 0 || (getTile s t).run == .killed) ||
  !noRepeats (map.map (fun w => bitsOf w 15 0))

/-- What RESUME_COMPLETE reads and loads: the tiles that it has loaded, or none where a tile of the region is in a cut, and the code of R371 otherwise. -/
def resumeRegion (c : Cut) : Img (Except Nat (List Nat)) := do
  let h ← imageLoads c.asTile c.image 8
  let n := bitsOf (imgD h 0) 63 32
  let map ← imageLoads c.asTile (c.image + 64) n
  let s ← get
  if map.any (fun w => (getTile s (tileAt (bitsOf w 7 0) (bitsOf w 15 8))).cutOf.isSome) then pure (.error 5)
  else if headerBad s c h map then pure (.error 2)
  else do
    let ts ← loadAll c ((List.range n).zip map)
    pure (.ok ts)

/-- RESUME_COMPLETE (R375) of resume argument 0: every record is loaded, the rings are replayed, RDONE is written, and only then does a
sequencer of the region start. A fault, or a header that breaks R373, starts nothing; an uncorrectable error kills the tile that resumes (R83). -/
def execResumeComplete (s : State) : Host.Outcome State Fault Refusal :=
  event (fun s =>
    let id := argAt s 0
    match smFind s.cuts id with
    | none => s
    | some c =>
      if !c.resume then s
      else
        let gone := { s with cuts := smErase s.cuts id }
        match resumeRegion c gone with
        | (.error (some _), _) => doneWord gone c.asTile c.done 0 2
        | (.error none, _) => sealTile gone c.asTile
        | (.ok (.error code), s1) => doneWord s1 c.asTile c.done 0 code
        | (.ok (.ok ts), s1) => doneWord (ts.foldl (fun u t => replayAfterCut (releaseTile u t) t) s1) c.asTile c.done ts.length 1) s

end Sys2Proof.Machine
end

