-- ==== Sys2Proof/Machine/Reliability.lean ====
section
/-! DEFINITION. Bulkheads and reliability (R170, R376 to R383, R388 to R392, R426, R428): the reset of a field, the kill of a tile, suspect scores and
quarantine, the lifetime record, servicing, the resize of a partition, and the stores to device registers as steps of their own. -/
namespace Sys2Proof.Machine

/- The lifetime record -/

/-- Add to a count of the lifetime record. -/
def addCount (m : SMap Nat) (k n : Nat) : SMap Nat := smSet m k (smGet 0 m k + n)

/-- Add to a bin of a 32-bin histogram. -/
def addBin (m : SMap (List Nat)) (k b n : Nat) : SMap (List Nat) :=
  let l := smGet (List.replicate 32 0) m k
  smSet m k (setAt l (b % 32) (l.getD (b % 32) 0 + n))

/-- What has been added to a count of R383 since the firmware read it last; a count that a write has made smaller counts anew. -/
def sinceSeen (now seen : Nat) : Nat := if seen ≤ now then now - seen else now

/-- The firmware adds the corrected-error counts of some tiles and cisterns to the lifetime record (R383, R391). -/
def recordCounts (s : State) (tiles cists : Nat → Bool) : State :=
  let ts := (allTiles s).filter tiles
  let cs := (List.range 24).filter cists
  let l := s.lifetime
  let n := fun (t : Nat) => (getTile s t).corrCnt.toNat
  let m := fun (c : Nat) => (getCistern s c).corr.toNat
  { s with lifetime := { l with
      tileCorr := ts.foldl (fun a t => addCount a t (sinceSeen (n t) (smGet 0 l.tileSeen t))) l.tileCorr
      tileSeen := ts.foldl (fun a t => smSet a t (n t)) l.tileSeen
      cistCorr := cs.foldl (fun a c => addCount a c (sinceSeen (m c) (smGet 0 l.cistSeen c))) l.cistCorr
      cistSeen := cs.foldl (fun a c => smSet a c (m c)) l.cistSeen } }

/- Field reset -/

/-- The tiles of a field. -/
def fieldTiles (f : Nat) : List Nat := (List.range 1024).map (fun i => tileIn f (i % 32) (i / 32))

/-- End a launch with KILLED (R380, R389): tiles that still run are killed by R342 and R343; a sealed tile leaves the launch, and what lies in an image
ends there. DESIGN CHOICE, log entry 22. -/
def killLaunch (s : State) (id : Nat) : State :=
  let l := getLaunch s id
  if !l.live then s
  else
    let s1 := updLaunch (dropUnswapped s id) id (fun a => { a with code := if a.code = 0 then 6 else a.code })
    let s2 := l.threads.foldl (fun u t =>
      let a := getTile u t
      if a.launch ≠ id then u
      else if a.run = .killed then giveRings (updTile u t (fun b => { b with launch := 0 })) t
      else schedule (updTile u t (fun b => { b with cancelled := true })) t [(.cancelKill, [])]) s1
    let s3 := (s2.images.filter (fun e => e.2.tile.launch == id)).foldl (fun u e => dropKept u u.tile.id e.1 6) s2
    if threadsDone s3 id then schedule s3 s3.tile.id [(.launchComplete, [id])] else s3

/-- Clear one tile (R380): nothing of it is saved, and its SRAM is zero; the counts of R383, which belong to the physical tile, those of the open chunks of
its send ports, which the conduit holds (R406), and the copies of tasks that lie in images (R124) stay.
DESIGN CHOICE, log entry 22. -/
def clearTile (s : State) (t : Nat) : State :=
  let known := (allTiles s).contains t
  let s1 := clearRange s (scratchKey t 0) (scratchKey t 0 + 2 ^ 20)
  if known then putTile { s1 with poison := s1.poison.filter (fun l => decide (l * 64 < scratchKey t 0) || decide (scratchKey t 0 + 2 ^ 20 ≤ l * 64)) }
    { freshTile t with
      corrCnt := (getTile s t).corrCnt, discardCnt := (getTile s t).discardCnt, openChunk := (getTile s t).openChunk
      copies := (getTile s t).copies.filter (fun e => decide (32 ≤ e.1)) } else s1

/-- The tokens that the die-edge weirs of a tile hold, on the way out and on the way in (R21). -/
def rimTokens (t : Tile) : Nat :=
  t.ports.foldl (fun n e => n + e.2.toRim.length) 0 +
    t.weirs.foldl (fun n e => if (neighbour t.id (e.1 % 4)).isNone then n + e.2.inflight.length + e.2.fifo.length + e.2.ring.length else n) 0

/-- What the weirs and the boundary queues at a field's edges hold, those of its rim edges among them, is discarded and counted (R14, R380): messages of
other fields to its tiles among it. A message of the field to another has passed the edge (R381). DESIGN CHOICE, log entry 22. -/
def clearEdges (s : State) (f : Nat) : State :=
  let from_ := fun (m : OutMsg) => fieldOf m.src == f && fieldOf m.tile != f
  let s1 := closeSluices { s with net := s.net.filter (fun m => !from_ m) }
  let lost := s1.net.filter (fun m => fieldOf m.tile == f && fieldOf m.src != f)
  let stay := s1.net.filter (fun m => fieldOf m.tile != f)
  updField { s1 with net := s.net.filter (fun m => from_ m || stay.contains m) } f (fun u =>
    { u with sluiceDrop := u.sluiceDrop + BitVec.ofNat 64 (lost.foldl (fun n m => n + flits m) 0 +
      ((allTiles s).filter (fun t => fieldOf t == f)).foldl (fun n t => n + rimTokens (getTile s t)) 0) })

/-- The tiles that answer a long operation of tile `t`, those of every lane and of both steps of a REDF, when tiles do. -/
def answeredBy (s : State) (t : Nat) (op : LongOp) : List Nat :=
  op.addresses.filterMap (fun va => match regionOf va with
    | .ok (.place rank _) => some (rankEntry s (partNo s t) rank).tile
    | .ok (.owner i) => (smFind (getPart s (partNo s t)).ownerWin i).map (fun r => (rankEntry s (partNo s t) r).tile)
    | _ => none)

/-- What a network interface of a field that stops held of an issuer elsewhere (R112, R381): a request to the field answers ERR, another is performed where it
goes, a sector is discarded, and the access of a stream, of the engine or of a port is tried again. -/
def releaseItem (f t : Nat) (s : State) (i : NiItem) : State :=
  match i with
  | .req q =>
    if fieldOf q.tile = f then s
    else if (answeredBy s q.tile q.op).any (fun u => fieldOf u == f) then giveResult s q .err q.op else applyReq s q
  | .sector u k p l => if fieldOf u = f then s else focus (applySector (focus s t) u k p l) s.tile.id
  | .access u _ j a => if fieldOf u = f then s else scheduleAt s u j a
  | .msg _ => s

/-- The dirty lines that the data caches and the victim pools of a field hold. -/
def dirtyLines (s : State) (f : Nat) : List Nat :=
  ((((allTiles s).filter (fun t => fieldOf t == f)).flatMap (fun t => (getTile s t).dcache) ++
    (s.clusters.filter (fun e => e.1 / 128 == f)).flatMap (fun e => e.2.poolLines)).filter (·.dirty)).map (·.line)

/-- Every tile of a field stops, and nothing of it is saved (R380): the launches with a task there end, the windows whose owner stood there lose it, with
the lines in `lost` poisoned (R30), and a line that a cache there held dirty has undefined contents. DESIGN CHOICE, log entry 22. -/
def stopField (s : State) (f : Nat) (lost : List Nat) : State :=
  let busy := (s.cuts.filter (fun e => !e.2.resume && e.2.tiles.any (fun t => fieldOf t == f && (getTile s t).cutOf == some e.1))).map (·.1)
  let s0 := busy.foldl (fun u id => abandonCut u id 2) s
  let s1 := ((allTiles s0).filter (fun t => fieldOf t == f)).foldl (fun u t => giveOwnerLines u t lost) (loseOwners s0 (fieldTiles f))
  let s2 := (dirtyLines s1 f).foldl (fun u l => havocRange u (l * 64) (l * 64 + 64)) s1
  let ids := (s2.launches.filter (fun e => e.2.live && e.2.placed && e.2.tiles.any (fun t => !e.2.imaged.contains t && fieldOf t == f && heldByLaunch s2 e.1 t))).map (·.1)
  let held := ((allTiles s2).filter (fun t => fieldOf t == f)).map (fun t => (t, (getTile s2 t).ring))
  let s3 := held.foldl (fun u e => e.2.foldl (releaseItem f e.1) u) (ids.foldl killLaunch ((fieldTiles f).foldl clearTile s2))
  { s3 with
    clusters := s3.clusters.map (fun e => if e.1 / 128 = f then (e.1, { e.2 with poolLines := [], tlb := [], l2 := [], arrayOf := none, turn := 0, served := 0 }) else e)
    agenda := s3.agenda.filter (fun e => match e with
      | .thread t => fieldOf t != f
      | .switch t => fieldOf t != f
      | .event _ _ _ => true) }

/-- Steps 1 to 4 of a field reset (R380). DESIGN CHOICE, log entry 22. -/
def resetField (s : State) (f : Nat) (lost : List Nat) : State :=
  updField (stopField (clearEdges s f) f lost) f (fun u => { u with
    inc := (u.inc + 1) % 2 ^ 16, resetState := 2, queues := [], windows := [], windowNext := [], holds := [], rr := [], walkQ := [], walks := [],
    walkCache := [], supQ := [], l3 := [], incTable := smSet u.incTable f ((u.inc + 1) % 2 ^ 16) })

/-- FIELD_RESET (R380) of field argument 0: the field stops and is cleared, and every other field is told its incarnation. Further arguments are
the lines of its owner-window units that are not intact (R30). -/
def execFieldReset (s : State) : Host.Outcome State Fault Refusal :=
  event (fun s =>
    let f := argAt s 0
    if (getField s f).resetState ≠ 1 then s
    else
      let s1 := resetField (recordCounts s (fun t => fieldOf t == f) (fun _ => false)) f (s.arg.drop 1)
      schedule s1 s1.tile.id (((List.range 48).filter (fun g => g != f && fieldPresent s1 g)).map (fun g => (.incTableUpdate, [f, g])) ++
        [(.lifetimeRecordUpdate, []), (.fieldResetComplete, [f])])) s

/-- Does an entry of a tile's long-result buffer await a reply from a field (R381)? One that a fault has ended does not. -/
def awaitsField (s : State) (t f : Nat) (e : LongEntry) : Bool :=
  !e.returned && (match e.res with | .fault _ => false | _ => true) && (answeredBy s t e.op).any (fun u => fieldOf u == f)

/-- INC_TABLE_UPDATE (R381): field argument 1 loads the incarnation of field argument 0, and long operations that await a reply from
it complete with an ERR result. -/
def execIncTableUpdate (s : State) : Host.Outcome State Fault Refusal :=
  event (fun s =>
    let f := argAt s 0
    let g := argAt s 1
    let s1 := updField s g (fun u => { u with incTable := smSet u.incTable f (getField s f).inc })
    (allTiles s1).foldl (fun u t =>
      let a := getTile u t
      if fieldOf t == g && a.longBuf.any (awaitsField s1 t f) then
        updTile u t (fun b => { b with longBuf := b.longBuf.map (fun e => if awaitsField s1 t f e then { e with res := .err } else e) })
      else u) s1) s

/-- A field whose firmware does not start is left out as a fused-off field is: its tiles stop, its cistern and its conduit are absent with it, and the
failure is recorded (R24, R426). DEDUCED, log entry 69. -/
def failField (s0 : State) (f : Nat) : State :=
  let cs := (List.range 24).filter (fun c => (cisternPlace c).1 == f)
  let ds := (List.range 4).filter (fun c => (conduitPlace c).1 == f)
  let s := stopField s0 f []
  closeSluices { s with
    presentFields := s.presentFields &&& ~~~(BitVec.ofNat 48 (2 ^ f))
    presentCisterns := cs.foldl (fun m c => m &&& ~~~(BitVec.ofNat 24 (2 ^ c))) s.presentCisterns
    presentConduits := ds.foldl (fun m c => m &&& ~~~(BitVec.ofNat 4 (2 ^ c))) s.presentConduits
    lifetime := { s.lifetime with failures := s.lifetime.failures ++ [f] } }

/-- FIELD_RESET_COMPLETE (R380, R426) of field argument 0: once every table holds the new incarnation, the verified firmware starts and
the edges reopen. DESIGN CHOICE, log entry 22. -/
def execFieldResetComplete (s : State) : Host.Outcome State Fault Refusal :=
  event (fun s =>
    let f := argAt s 0
    let u := getField s f
    if u.resetState ≠ 2 then s
    else if (List.range 48).any (fun g => fieldPresent s g && smGet 0 (getField s g).incTable f != u.inc) then again s .fieldResetComplete
    else
      let s1 := updField s f (fun a => { a with resetState := 0 })
      if Config.firmwareVerifies f u.firmware then s1
      else failField s1 f) s

/- Tiles -/

/-- TILE_KILL (R389): with argument 0 the tile has consumed an uncorrectable error, and the lines in the further arguments that its owner-window unit
holds are not intact (R30); with 1 the supervisor ends its launch with KILLED. -/
def execTileKill (s : State) : Host.Outcome State Fault Refusal :=
  event (fun s =>
    if argAt s 0 = 0 then (if s.tile.run = .killed then s else sealLost s s.tile.id (s.arg.drop 1))
    else if s.tile.run = .killed && s.tile.launch != 0 then killLaunch s s.tile.launch else s) s

/-- SCORE_DECAY (R388): the tile's score decreases by 1, and the change is recorded (R391). -/
def execScoreDecay (s : State) : Host.Outcome State Fault Refusal :=
  event (fun s =>
    let w := suspectOf s s.tile.id
    if bitsOf w 7 0 = 0 then s else setSuspect s (fieldOf s.tile.id) (indexIn s.tile.id) (putBits w 0 8 (bitsOf w 7 0 - 1))) s

/-- The launches of a partition with a task on one of some fields. -/
def launchesOn (s : State) (p : Nat) (fs : List Nat) : List Nat :=
  (s.launches.filter (fun e => e.2.live && e.2.placed && e.2.part == p && e.2.tiles.any (fun t => fs.contains (fieldOf t) && heldByLaunch s e.1 t))).map (·.1)

/-- Can a launch be pre-empted whole now? Its tiles have swapped in and lie in no cut, and no task waits to follow on them. -/
def cuttable (s : State) (id : Nat) : Bool :=
  let l := getLaunch s id
  (heldCut s id).isNone && l.tiles.all (fun t => let u := getTile s t
    (u.launch != id || (l.swapped.contains t && u.cutOf.isNone && u.follow.isNone)) && u.follow != some id)

/-- Has a launch been pre-empted in its place, all its tiles being saved? -/
def stays (s : State) (id : Nat) : Bool := match heldCut s id with
  | some (_, c) => c.stay && c.saved.length == c.tiles.length
  | none => false

/-- A quarantine by the repair map (R388): once every launch with a task in the field is pre-empted, the physical column of the tile is bypassed in its
row (R23), and they go on in their places. DESIGN CHOICE, log entry 23. -/
def bypassColumn (s : State) (t : Nat) : State :=
  let f := fieldOf t
  let ids := launchesOn s ((partOfField s f).getD 64) [f]
  if ids.all (stays s) then
    let s1 := resumeStay s f
    updField { s1 with lifetime := { s1.lifetime with quarantines := s1.lifetime.quarantines ++ [t] } } f
      (fun a => { a with bypass := smSet a.bypass (rowOf t) (physCol s t) })
  else scheduleAt ((ids.filter (cuttable s)).foldl (fun u id => startHeld u id t true) s) t .quarantine [f, indexIn t, 1]

/-- The task of a marked tile is pre-empted, to go on at another placement with its ranks (R388, R390). DESIGN CHOICE, log entry 23. -/
def moveTask (s : State) (t : Nat) : State :=
  let id := (getTile s t).launch
  let l := getLaunch s id
  if id = 0 ∨ !l.live ∨ (getTile s t).run = .killed then s
  else if cuttable s id then schedule (startHeld s id t false) t [(.partFieldsWrite, [l.part, 0, 3, id])]
  else if (heldCut s id).any (fun e => !e.2.stay) then s
  else scheduleAt s t .quarantine [fieldOf t, indexIn t, 1]

/-- QUARANTINE (R388): the physical column of a tile whose score has reached THRESH is bypassed in its row, or else the tile is marked and its task
moves. A further argument says that the quarantine has begun, and waits for pre-emptions. DESIGN CHOICE, log entry 23. -/
def execQuarantine (s : State) : Host.Outcome State Fault Refusal :=
  event (fun s =>
    let t := s.tile.id
    let f := fieldOf t
    let u := getField s f
    let w := suspectOf s t
    let begun := argAt s 2 == 1
    if bitOf w 8 then (if begun then moveTask s t else s)
    else if !begun && (!bitOf u.quarCtl 24 || decide (bitsOf w 7 0 < bitsOf u.quarCtl 7 0)) then s
    else match smFind u.bypass (rowOf t) with
      | none => bypassColumn s t
      | some _ => moveTask (updField { s with lifetime := { s.lifetime with quarantines := s.lifetime.quarantines ++ [t] } } f
          (fun a => { a with suspect := smSet a.suspect (indexIn t) (w ||| 0x100#64) })) t) s

/- The lifetime record and servicing -/

/-- The SRAM of tile `t` has met errors (R59): `n` single-bit errors have been corrected on read and are counted, or a clean cache line has a double-bit
error and is invalidated, to be fetched again; it may stand in the tile's own ways or in those that it gives to the pool (R65). -/
def sramError (s : State) (t : Nat) (line : Option Nat) (n : Nat) : State :=
  match line with
  | none => updTile s t (fun u => { u with corrCnt := u.corrCnt + BitVec.ofNat 64 n })
  | some l =>
    let s1 := updTile s t (fun u => { u with dcache := u.dcache.filter (fun d => d.line != l || d.dirty), icache := u.icache.filter (fun e => e.pa != l) })
    if (getCluster s (clusterOf t)).poolLines.any (fun d => d.line == l && d.member == memberOf t && !d.dirty) then
      updCluster s1 (clusterOf t) (fun c => { c with poolLines := c.poolLines.filter (fun d => d.line != l || d.member != memberOf t || d.dirty) })
    else s1

/-- LIFETIME_RECORD_UPDATE (R391): with no argument the firmware adds every corrected-error count of R383 to the record; argument 0 names one thing to add
(0 the count of tile argument 1, 1 that of cistern argument 1, 2 argument 2 corrected errors of conduit argument 1, 3 and 4 argument 2 to bin argument 3 of
a field's temperature and droop histograms). The same step stands for the errors that the
counts come from (R59; DESIGN CHOICE, log entry 64): 5 for argument 2 corrected errors in the SRAM of tile argument 1, 6 for a double-bit error in its
clean cache line argument 2. -/
def execLifetimeRecordUpdate (s : State) : Host.Outcome State Fault Refusal :=
  event (fun s =>
    let l := s.lifetime
    let k := argAt s 1
    let n := argAt s 2
    match s.arg.head? with
    | none => recordCounts s (fun _ => true) (fun _ => true)
    | some 0 => recordCounts s (· == k) (fun _ => false)
    | some 1 => recordCounts s (fun _ => false) (· == k)
    | some 2 => { s with lifetime := { l with condCorr := addCount l.condCorr k n } }
    | some 3 => { s with lifetime := { l with temperature := addBin l.temperature k (argAt s 3) n } }
    | some 4 => { s with lifetime := { l with droop := addBin l.droop k (argAt s 3) n } }
    | some 5 => sramError s k none n
    | some 6 => sramError s k (some n) 0
    | _ => s) s

/-- Does a placement that a field has begun still wait to swap? A task that follows waits for its predecessor, not for the firmware. -/
def placing (s : State) (f : Nat) : Bool :=
  s.launches.any (fun e => e.2.live && e.2.placed && e.2.tiles.any (fun t => fieldOf t == f && (getTile s t).launch == e.1 && !e.2.swapped.contains t &&
    (getTile s t).run != .killed))

/-- FIRMWARE_UPDATE (R392, R422, R426) of field argument 0 to image argument 1: the field takes no more launches, and what its supervisor serves waits, until
its placements have finished and the image has been loaded; a verified image replaces the firmware while tiles run, and the partition's translation cache
is discarded. An image that fails is not started. DEDUCED, log entry 69. -/
def execFirmwareUpdate (s : State) : Host.Outcome State Fault Refusal :=
  event (fun s =>
    let f := argAt s 0
    match (getField s f).updating with
    | none => again (updField s f (fun u => { u with updating := some (argAt s 1) })) .firmwareUpdate
    | some v =>
      if placing s f then again s .firmwareUpdate
      else
        let s0 := updField s f (fun u => { u with updating := none })
        if Config.firmwareVerifies f v then
          let s1 := kickField (updField { s0 with firmStore := smSet s0.firmStore (1 + f) v } f (fun u => { u with firmware := v })) f
          match partOfField s1 f with
          | some p => updPart s1 p (fun q => { q with zogCache := [] })
          | none => s1
        else failField s0 f) s

/-- HBM_RETRAIN (R392): the retraining of channel argument 1 of cistern argument 0 starts, and with it its count; or, if it was in
progress, ends. -/
def execHbmRetrain (s : State) : Host.Outcome State Fault Refusal :=
  event (fun s =>
    let c := argAt s 0
    let ch := argAt s 1
    if (getCistern s c).retraining.contains ch then updCistern s c (fun u => { u with retraining := u.retraining.filter (· ≠ ch) })
    else
      let s1 := updCistern s c (fun u => { u with retraining := insertNat ch u.retraining })
      { s1 with lifetime := { s1.lifetime with retrains := addCount s1.lifetime.retrains (c * 64 + ch) 1 } }) s

/-- WAVELENGTH_RECALIBRATE (R392) of wavelength argument 2 of conduit argument 0, a transmit one when argument 1 is 0: it goes out of service, one at a
time, while the others carry the traffic; when it is out already, it comes back. -/
def execWavelengthRecalibrate (s : State) : Host.Outcome State Fault Refusal :=
  event (fun s => updConduit s (argAt s 0) (fun c =>
    let w := (argAt s 1 == 0, argAt s 2)
    match c.recal with
    | some r => if r = w then { c with recal := none } else c
    | none => if argAt s 2 < (if w.1 then c.lambda else c.lambdaRx) then { c with recal := some w } else c)) s

/-- CLOCK_STEP (R428): field argument 0 lowers its clock by a step, down to 1.35 GHz, eight steps below 2.7 GHz. -/
def execClockStep (s : State) : Host.Outcome State Fault Refusal :=
  event (fun s => updField s (argAt s 0) (fun u => { u with clockStep := Nat.min 8 (u.clockStep + 1) })) s

/- Stores to device registers -/

/-- STRIPE_CTL_WRITE (R78, R79): argument 0 is 0 for STRIPE_CTL argument 1 with value argument 2, and 1 for the unit argument 2 of cistern
argument 1 with value argument 3. -/
def execStripeCtlWrite (s : State) : Host.Outcome State Fault Refusal :=
  event (fun s => if argAt s 0 = 0 then writeStripe s (argAt s 1) (BitVec.ofNat 64 (argAt s 2))
    else writeLocal s (argAt s 1) (argAt s 2) (BitVec.ofNat 64 (argAt s 3))) s

/-- A record of a leaving field goes to its function's queue in field `g`, or completes with RESIZED (R170); its aging starts anew.
DEDUCED, log entry 30. -/
def moveRecord (s : State) (p g q : Nat) (r : QRec) : State :=
  let dest := if 56 ≤ q then some q
    else (List.range 56).find? (fun k => bitOf (readLqCtl s g k) 32 && bitsOf (readLqCtl s g k) 8 0 == r.vf)
  match dest with
  | some k => stampHead (setQueue s g k (queueOf s g k ++ [{ r.fresh with deps := [], slot := none }])) g k
  | none => completeUnplaced s g r.words 1 (launchFields s p r.words)

/-- The queues of a field that has left a partition (R170). DEDUCED, log entry 30. -/
def moveQueues (s : State) (p g f : Nat) : State :=
  let qs := (getField s f).queues
  let s1 := updField s f (fun u => { u with queues := [], holds := [] })
  kickField (qs.foldl (fun u e => e.2.foldl (fun w r => moveRecord w p g e.1 r) u) s1) g

/-- The records of fields that left a partition, of which none remains, complete with RESIZED (R170). -/
def resizeQueues (s : State) (p f : Nat) : State :=
  (getField s f).queues.foldl (fun v e => e.2.foldl (fun w r => asMember w p f (fun x => completeUnplaced x f r.words 1 (launchFields s p r.words))) v)
    (updField s f (fun a => { a with queues := [], holds := [] }))

/-- The supervisor takes fields from a partition that holds work (R170): each launch with a task on them is pre-empted whole, then PART_FIELDS is
stored, and the launches are placed again. DESIGN CHOICE, log entry 30. -/
def resizePart (s : State) (p : Nat) (v : Word) : State :=
  let new := (List.range 48).filter (fun f => bitOf v f)
  let gone := (partFields s p).filter (fun f => !new.contains f)
  let bad := new.any (fun f => !fieldPresent s f || s.parts.any (fun e => e.1 != p && e.2.fields.getLsbD f)) || !connected new
  let ids := launchesOn s p gone
  if bad then writePartFields s p v
  else if ids.isEmpty then
    let s1 := writePartFields s p v
    schedule s1 s1.tile.id ((s1.cuts.filter (fun e => e.2.part == p && e.2.launch != 0 && !e.2.resume && !e.2.stay)).map (fun e => (.partFieldsWrite, [p, 0, 3, e.2.launch])))
  else again ((ids.filter (cuttable s)).foldl (fun u id => startHeld u id u.tile.id false) s) .partFieldsWrite

/-- The places that R161 and R162 give a launch anew: its home field, or the lowest one if that has left, the next ones, and the first free origin. -/
def placesAnew (s : State) (l : Launch) : Option (List (List Nat)) :=
  let fs := partFields s l.part
  let home := if fs.contains l.field then l.field else fs.headD 0
  let on := fieldsFrom s l.part home l.fields.length
  ((origins l.shape).find? (fun o => on.all (fun g => (rectTiles g o l.shape).all (fun t => tileFree s t && !heldForOther s 64 64 t)))).map
    (fun o => on.map (fun g => rectTiles g o l.shape))

/-- A launch that a resize pre-empted goes on at new places with its ranks, when its shape fits the partition; otherwise it completes with RESIZED and its
field count, and one whose scope has been cancelled with CANCELLED (R170, R371). DESIGN CHOICE, log entry 30. -/
def placeHeld (s : State) (id : Nat) : State :=
  let l := getLaunch s id
  match heldCut s id with
  | none => s
  | some (cid, c) =>
    let finish := fun (code : Nat) =>
      ((s.images.filter (fun e => e.2.tile.launch == id)).foldl (fun u e => dropKept u u.tile.id e.1 code)
        { updLaunch (transitRanks s c false) id (fun a => { a with code := code, detail := if code = 1 then a.fields.length else 0 }) with
          cuts := smErase s.cuts cid })
    if c.tiles.any (fun t => (getTile s t).cutOf == some cid) then again s .partFieldsWrite
    else if launchCancelled s l then finish 2
    else if (partFields s l.part).length < l.fields.length then finish 1
    else match placesAnew s l with
      | none => again s .partFieldsWrite
      | some pls =>
        let seat := fun (i : Nat) => pls.flatten.getD (l.tiles.findIdx (some · == ((smFind s.images (heldKey cid i)).map Saved.ghost))) 0
        let s1 := seatHeld s cid c ((List.range c.tiles.length).map seat)
        updLaunch s1 id (fun a => { a with fields := pls.map (fun ts => fieldOf (ts.headD 0)), field := fieldOf (pls.flatten.headD 0) })

/-- PART_FIELDS_WRITE (R170, R376): with argument 2 at 0 a store of argument 1 to PART_FIELDS argument 0; at 2 the supervisor's store that takes fields
from a partition at work; at 1 the queues of the fields that left move; at 3 launch argument 3, which such a store pre-empted, is placed again.
DEDUCED, log entry 30. -/
def execPartFieldsWrite (s : State) : Host.Outcome State Fault Refusal :=
  event (fun s =>
    let p := argAt s 0
    match argAt s 2 with
    | 0 => writePartFields s p (BitVec.ofNat 64 (argAt s 1))
    | 1 =>
      (match partFields s p with
       | [] => (s.arg.drop 3).foldl (fun u f => resizeQueues u p f) s
       | g :: _ => (s.arg.drop 3).foldl (fun u f => moveQueues u p g f) s)
    | 2 => resizePart s p (BitVec.ofNat 64 (argAt s 1))
    | _ => placeHeld s (argAt s 3)) s

/-- WINDOW_WRITE (R379): a store of argument 1 to WINDOW argument 0. -/
def execWindowWrite (s : State) : Host.Outcome State Fault Refusal := event (fun s => writeWindow s (argAt s 0) (BitVec.ofNat 64 (argAt s 1))) s

/-- VF_CTL_WRITE (R377): a store of argument 1 to VF_CTL argument 0. -/
def execVfCtlWrite (s : State) : Host.Outcome State Fault Refusal := event (fun s => writeVfCtl s (argAt s 0) (BitVec.ofNat 64 (argAt s 1))) s

/-- LQ_CTL_WRITE (R156): a store of argument 2 to LQ_CTL argument 1 of field argument 0. -/
def execLqCtlWrite (s : State) : Host.Outcome State Fault Refusal :=
  event (fun s => writeLqCtl s (argAt s 0) (argAt s 1) (BitVec.ofNat 64 (argAt s 2))) s

/-- CSET_CTL_WRITE (R400): a store of argument 1 to CSET_CTL argument 0. -/
def execCsetCtlWrite (s : State) : Host.Outcome State Fault Refusal := event (fun s => writeCset s (argAt s 0) (BitVec.ofNat 64 (argAt s 1))) s

/-- DEVICE_REGISTER_WRITE (R33): a store of argument 1 to the device register at address argument 0. -/
def execDeviceRegisterWrite (s : State) : Host.Outcome State Fault Refusal :=
  event (fun s => devWrite s (BitVec.ofNat 64 (argAt s 0)) (BitVec.ofNat 64 (argAt s 1))) s

end Sys2Proof.Machine
end

