-- ==== Sys2Proof/Machine/Edge.lean ====
section
/-! DEFINITION. The memory side of the cisterns (R80 to R84) and their stream ports (R85 to R87, R430), the tokens that go toward the
rim (R86, R403, R406). -/
namespace Sys2Proof.Machine

/- The memory-side cache -/

/-- CISTERN_REQUEST (R80, R81, R438) of the tile at physical address argument 0: the slice serves the line, or a fill from HBM begins. A request stands at
the edge of a field in reset on its way to the cistern's edge tile until the reset ends (R380). DESIGN CHOICE, log entry 66. -/
def execCisternRequest (s : State) : Host.Outcome State Fault Refusal :=
  match cisternOf s (argAt s 0) with
  | none => .fault .noMemory
  | some (c, ca) =>
    event (fun s =>
      let t := s.tile.id
      if trafficHeld s (presentFor s t) t (edgeTile c t) then again s .cisternRequest
      else if (getCistern s c).lines.any (fun d => d.line == ca / 64) then sliceAt s (argAt s 0) false
      else schedule (updCistern s c (fun u => { u with fills := insertNat (ca / 64) u.fills })) t [(.cisternFill, [argAt s 0])]) s

/-- CISTERN_FILL (R80, R84) of the line at physical address argument 0. DESIGN CHOICE, log entry 66. -/
def execCisternFill (s : State) : Host.Outcome State Fault Refusal :=
  match cisternOf s (argAt s 0) with
  | none => .fault .noMemory
  | some (c, ca) =>
    event (fun s =>
      if (getCistern s c).fills.contains (ca / 64) then
        sliceAt (updCistern s c (fun u => { u with fills := u.fills.filter (· ≠ ca / 64) })) (argAt s 0) false
      else s) s

/-- HBM_REFRESH (R82): no register or instruction shows a refresh. -/
def execHbmRefresh (s : State) : Host.Outcome State Fault Refusal := event id s

/-- PATROL_SCRUB (R83) of the line at physical address argument 0: with argument 1 at 1 an error is corrected and counted, at 2 one that
cannot be corrected poisons the line. DESIGN CHOICE, log entry 66. -/
def execPatrolScrub (s : State) : Host.Outcome State Fault Refusal :=
  match cisternOf s (argAt s 0) with
  | none => .fault .noMemory
  | some (c, _) =>
    event (fun s => match argAt s 1 with
      | 0 => s
      | 1 => updCistern s c (fun u => { u with corr := u.corr + 1 })
      | _ => poisonLine s (argAt s 0)) s

/- Port patterns -/

/-- SCALE of a port descriptor. DEDUCED, log entry 32. -/
def portScale (d : List Word) : Word := imgD d 7
/-- TAG of a port descriptor. -/
def portTag (d : List Word) : BitVec 16 := BitVec.ofNat 16 (bitsOf (imgD d 0) 31 16)
/-- The end markers that follow an element (R86): level d + 1 at the end of dimension d with its EMASK bit, and the end-of-stream marker
after the last element. The EMASK bit of a dimension that the pattern does not use sends none (DESIGN CHOICE, log entry 78). -/
def markersAfter (d : List Word) (p : Pattern) (q : Pos) : List Nat :=
  let e0 := decide (q.i0 + 1 ≥ p.c0)
  let e1 := e0 && (decide (p.dims < 2) || decide (q.i1 + 1 ≥ p.c1))
  let e2 := e1 && (decide (p.dims < 3) || decide (q.i2 + 1 ≥ p.c2))
  let m := fun (i : Nat) (e : Bool) => if e && decide (i < p.dims) && bitOf (imgD d 0) (4 + i) then [i + 1] else []
  m 0 e0 ++ m 1 e1 ++ m 2 e2 ++ (if (stepPos p q).done then [7] else [])

/-- Does the traffic of a port's element stand at the edge of a field in reset (R380)? It goes to another cistern between the edge tiles of R438, or to the
tile whose scratch holds the element. -/
def portHeld (s : State) (t p : Nat) (tg : Target) : Bool :=
  match cisternFacing t (p % 4), tg with
  | some c, .mem pa =>
    (match cisternOf s pa with
     | some (d, _) => d != c && trafficHeld s (presentFor s t) (edgeTiles c d).1 (edgeTiles c d).2
     | none => false)
  | some c, .scratch u _ => trafficHeld s (presentFor s t) (edgeTile c u) u
  | _, _ => false

/-- The rule for an element of a port, with user privilege (R87). -/
def portRule (k : AccKind) : AccessRule := { kind := k, noDevice := true }

/-- What a port meets at an element's address (R61, R87): user privilege, path S of the edge tile. An element in the scratch of a tile of a
field in reset waits and is tried again (DESIGN CHOICE, log entry 80); one in the scratch of a sealed tile is discarded and counted (R389).
DEDUCED, log entry 32. -/
def reachPort (s : State) (t p : Nat) (d : List Word) (k : AccKind) (q : Pos) : Reach :=
  let pat := portPattern d
  let w := portWidth d
  let a := elemAddr pat w q
  if walkStalls s t a.1 k .user then .wait
  else match resolve s t .user (portRule k) a.1 (max 1 (w / 8)) with
  | .error e =>
    if e.1 then .fault { cause := .align, va := a.1, info := mkInfo 6 (p / 4) (elemIndex pat q) k { prot := false, sub := 0 } }
    else .fault (mkFault 6 (p / 4) (elemIndex pat q) k a.1 e.2)
  | .ok (tg, s1) =>
    match blockOf s1 t a.1 tg false with
    | .err => (match servedBy s1 t a.1 tg false with
      | some u => if sealed s1 u then .gone (sealDrop s1 u) else .wait
      | none => .wait)
    | .held u => .held u
    | .free =>
      if !bankOpen s1 (portTag d) tg || portHeld s1 t p tg then .wait
      else if k = .read && targetPoisoned s1 tg then .poison
      else .ok tg (atHome s1 tg (k != .read))

/-- The state that a port's faulting access leaves (R40). -/
def portFaultState (s : State) (t : Nat) (d : List Word) (k : AccKind) (q : Pos) : State :=
  let a := elemAddr (portPattern d) (portWidth d) q
  match resolve s t .user (portRule k) a.1 (max 1 (portWidth d / 8)) with
  | .error e => afterFault s t .user k a.1 e
  | .ok _ => s

/-- A port stops at a fault (R49, R87). DEDUCED, log entry 32. -/
def stopPort (s : State) (t p : Nat) (f : MemFault) : State :=
  supFault (updTile s t (fun u => u.updPort p (fun r => { r with fault := some f }))) t f

/- Source ports -/

/-- A source port puts a token into the die-edge weir of its edge tile (R86). -/
def portSend (s : State) (t p : Nat) (k : Token) : State :=
  let k1 := { k with inc := (getField s (fieldOf t)).inc }
  schedule (updTile s t (fun u => u.updWeir p (fun w => { w with inflight := w.inflight ++ [k1] }))) t [(.weirIngress, [p])]

/-- The oldest token that a source port has read leaves for the weir when that has room; after the last one the port is idle (R86). -/
def portAdvance (s : State) (p : Nat) : State :=
  let t := s.tile
  let r := t.rimOut p
  match r.ahead with
  | [] => s
  | k :: rest =>
    if !(t.weir p).room then s
    else onTile (portSend s t.id p k) (fun u => u.updPort p (fun x => { x with ahead := rest, idle := rest.isEmpty && x.pos.done }))

/-- A source port reads its next element: it takes its place behind those read ahead, with the markers that follow it (R83, R86, R177). -/
def portRead (s : State) (p : Nat) : State :=
  let t := s.tile
  let r := t.rimOut p
  let d := r.active
  let pat := portPattern d
  let route := (portTag d).toNat % 4096
  let marks : List Token := (markersAfter d pat r.pos).map (fun l => { kind := .marker, level := l, route := route })
  let step := fun (u : State) (k : Token) => onTile u (fun a => a.updPort p (fun x => { x with pos := stepPos pat x.pos, ahead := x.ahead ++ (k :: marks) }))
  match reachPort s t.id p d .read r.pos with
  | .fault f => stopPort (portFaultState s t.id d .read r.pos) t.id p f
  | .held u => deferStep s u .streamPortSourceElement
  | .wait | .refused => askData s t.id (elemAddr pat (portWidth d) r.pos).1 .read .user
  | .poison => step s { kind := .err, route := route }
  | .gone s1 => step s1 { kind := .err, route := route }
  | .ok tg s1 =>
    let a := elemAddr pat (portWidth d) r.pos
    let n := readAt s1 tg (max 1 (portWidth d / 8))
    let e := readElem (portFmt d) (some (portScale d)) (txrOf t) (n.1 / 2 ^ a.2 % 2 ^ portWidth d)
    step (setFlags n.2 e.2) { payload := e.1, res := residueOf e.1, route := route }

/-- May a source port read an element: its pattern has one, no fault stands before it, and fewer than 64 are read ahead of the weir (R86, R87)? -/
def RimPort.reads (r : RimPort) : Bool := !r.pos.done && r.fault.isNone && decide ((r.ahead.filter (fun k => k.kind != .marker)).length < 64)

/-- STREAM_PORT_SOURCE_ELEMENT (R83, R86, R177) of port argument 0: one token leaves for the weir, and one element is read ahead of it. Behind a fault
the port delivers what stands before it (R87). DEDUCED, log entry 32. -/
def sourceElement (s : State) : State :=
  let p := argAt s 0
  let r := s.tile.rimOut p
  if !s.tile.sourceActive p || r.cut || (r.fault.isSome && r.ahead.isEmpty) then s
  else
    let s1 := portAdvance s p
    let s2 := if (s1.tile.rimOut p).reads then portRead s1 p else s1
    if s2.tile.sourceActive p then again s2 .streamPortSourceElement else s2

/-- While the read of a source port stands in a network interface, what it has read before goes on to the weir (R86, R143). -/
def sourceWaits (s : State) : State :=
  let s1 := portAdvance s (argAt s 0)
  if s1.tile.sourceActive (argAt s 0) then again s1 .streamPortSourceElement else s1

/-- STREAM_PORT_SOURCE_ELEMENT (R86). -/
def execStreamPortSourceElement (s : State) : Host.Outcome State Fault Refusal :=
  event (takeTurnOr .streamPortSourceElement sourceElement sourceWaits) s

/- Sink ports -/

/-- Count a token dropped by a port (R86, R383). -/
def countOverrun (s : State) (t p : Nat) : State :=
  let d := p % 4
  updField s (fieldOf t) (fun f => let k := 32 * (p / 4) + edgePos t d
    { f with portOvr := smSet f.portOvr k (smGet 0 f.portOvr k + 1) })

/-- The head token toward the rim leaves the die-edge weir; a fence awaits one less (R430). -/
def popRim (s : State) (p : Nat) : State := onTile s (fun t => t.updPort p (fun r => { r with toRim := r.toRim.drop 1, fence := r.fence - 1 }))

/-- A sink port consumes a token (R83, R86, R183, R187, R370); with an error it cannot yet: the error names the tile whose network interface does not take
the element now, if that is why. An ERR token after the last element is dropped without a count (DESIGN CHOICE, log entry 79). DEDUCED, log entry 32. -/
def sinkToken (s : State) (p : Nat) (k : Token) : Except (Option Nat) State :=
  let t := s.tile
  let r := t.rimOut p
  let d := r.active
  let pat := portPattern d
  let gone := popRim s p
  let next := fun (u : State) => onTile u (fun a => a.updPort p (fun x => { x with pos := stepPos pat x.pos }))
  let reach := fun (write : Target → State → State) => match reachPort s t.id p d .write r.pos with
    | .fault f => .ok (stopPort (portFaultState s t.id d .write r.pos) t.id p f)
    | .ok tg s1 => .ok (next (popRim (write tg s1) p))
    | .gone s1 => .ok (next (popRim s1 p))
    | .held u => .error (some u)
    | _ => .error none
  match k.kind with
  | .marker => .ok gone
  | .config =>
    if k.csub = 1 then .ok (onTile gone (fun u => u.updPort p (fun x => { x with cut := true })))
    else .ok (onTile gone (fun u => u.updPort p (fun x => { x with active := setAt x.active 7 k.payload })))
  | .err =>
    if r.pos.done then .ok gone
    else reach (fun tg s1 => match targetKey tg with
      | some a => poisonLine s1 a
      | none => s1)
  | .data =>
    if r.pos.done then .ok (countOverrun gone t.id p)
    else reach (fun tg s1 =>
      let a := elemAddr pat (portWidth d) r.pos
      let e := writeElem (portFmt d) (some (portScale d)) (txrOf t) k.payload
      setFlags (writeElemAt s1 tg { va := a.1, bitOff := a.2, width := portWidth d, raw := e.1, idx := elemIndex pat r.pos }) e.2)

/-- A token toward an idle or source port is consumed and counted, but for a CUT token (R86, R370); the weir has checked it (R384, R385). -/
def rimConsume (s : State) (p : Nat) (k : Token) : State :=
  if k.isCut then popRim s p else countOverrun (popRim s p) s.tile.id p

/-- One token toward a cistern port: an active sink writes it, an idle or source port drops it. -/
def rimToken (s : State) (i : Instr) : State :=
  let p := argAt s 0
  let t := s.tile
  let r := t.rimOut p
  match r.toRim with
  | [] => s
  | k0 :: rest =>
    let k := weirToken s t.id k0
    if !r.idle && bitOf (imgD r.active 0) 1 then
      if r.cut || r.fault.isSome then s
      else match sinkToken k.2 p k.1 with
        | .error (some u) => deferStep s u i
        | .error none => again (askData s t.id (elemAddr (portPattern r.active) (portWidth r.active) r.pos).1 .write .user) i
        | .ok s1 => if rest.isEmpty then s1 else again s1 i
    else
      let s1 := rimConsume k.2 p k.1
      if rest.isEmpty then s1 else again s1 i

/-- STREAM_PORT_SINK_TOKEN (R86) of port argument 0. -/
def execStreamPortSinkToken (s : State) : Host.Outcome State Fault Refusal := event (takeTurn .streamPortSinkToken (fun s => rimToken s .streamPortSinkToken)) s

/-- STREAM_PORT_RESUME (R87) of port argument 0: the supervisor resumes the port at its faulting element; with argument 1 set it passes the
fault to the task as a port report (R365), and the port stays stopped. -/
def execStreamPortResume (s : State) : Host.Outcome State Fault Refusal :=
  event (supervised .streamPortResume (fun s =>
    let p := argAt s 0
    let t := s.tile
    match (t.rimOut p).fault with
    | none => s
    | some f =>
      if argAt s 1 = 1 then
        if (t.rimOut p).passed then s
        else
          let where_ := at_ 13 ((cisternFacing t.id (p % 4)).getD 0) ||| at_ 8 (edgePos t.id (p % 4)) ||| at_ 0 (p / 4)
          sendReport (onTile s (fun u => u.updPort p (fun r => { r with passed := true }))) t.id 3 (BitVec.ofNat 64 f.cause.code) f.va f.info where_
      else
        schedule (onTile s (fun u => u.updPort p (fun r => { r with fault := none, passed := false }))) t.id
          [(if t.sourceActive p then .streamPortSourceElement else .streamPortSinkToken, [p])])) s

/- Sends -/

/-- The port number of an edge tile's send port at its conduit: its plane and edge position (R21, R400). -/
def conduitPort (t p : Nat) : Nat := 32 * (p / 4) + edgePos t (p % 4)

/-- Tokens in a conduit's send queue (R406). -/
def chunkTokens (l : List Chunk) : Nat := l.foldl (fun a c => a + c.toks.length) 0

/-- A token enters the send queue of its destination (R406): it joins its port's open chunk, which a marker closes behind the chunks that
are complete. -/
def enqueueSend (l : List Chunk) (src port : Nat) (k : Token) : List Chunk :=
  let done := l.filter (·.complete)
  let open_ := l.filter (fun c => !c.complete)
  let mine := (open_.find? (fun c => c.port == port)).getD { src := src, port := port }
  let c : Chunk := { mine with toks := mine.toks ++ [k], complete := k.kind == .marker }
  let rest := open_.filter (fun x => x.port != port)
  if c.complete then done ++ [c] ++ rest else done ++ rest ++ [c]

/-- RIM_OUTPUT_TOKEN (R86, R403, R406) of port argument 0: at a conduit the token enters its send queue when that has room; at a cistern
port it is consumed as R86 gives. -/
def execRimOutputToken (s : State) : Host.Outcome State Fault Refusal :=
  event (fun s =>
    let p := argAt s 0
    let t := s.tile
    match conduitFacing t.id (p % 4) with
    | none => takeTurn .rimOutputToken (fun s => rimToken s .rimOutputToken) s
    | some c =>
      match (t.rimOut p).toRim with
      | [] => s
      | k0 :: rest =>
        let k := weirToken s t.id k0
        let q := smGet [] (getConduit s c).sendQ k0.dest
        if 65536 ≤ chunkTokens q then again s .rimOutputToken
        else
          let s1 := updConduit (popRim k.2 p) c (fun u => { u with
            sendQ := smSet u.sendQ k0.dest (enqueueSend q (s.fleetId % 16) (conduitPort t.id p) { k.1 with dest := k0.dest }) })
          let s2 := if k.1.kind = .marker then schedule s1 t.id [(.chunkStart, [c, k0.dest])] else s1
          if rest.isEmpty then s2 else again s2 .rimOutputToken) s

end Sys2Proof.Machine
end

