-- ==== Sys2Proof/Machine/Collectives.lean ====
section
/-! DEFINITION. Collectives (R393 to R399): groups and their trees, the descriptor, the combine order, the destinations and STATUS, the
stop and the rerun. -/
namespace Sys2Proof.Machine

/- Groups -/

/-- A child of a node: a leaf by rank, the result of sub-group `g` on another module `m` of a fleet as the leaf 2^20 + 16 · g + m, or a node by number. -/
abbrev Child := Bool × Nat

/-- A tree under construction: from the first free node number, its root and its nodes in preorder (R395). -/
abbrev Build := Nat → Child × List (List Child)

/-- A leaf. -/
def leafB (r : Nat) : Build := fun _ => ((true, r), [])

/-- The children of a node, built one after the other. -/
def buildAll : List Build → Nat → List Child × List (List Child)
  | [], _ => ([], [])
  | b :: r, n =>
    let x := b n
    let y := buildAll r (n + x.2.length)
    (x.1 :: y.1, x.2 ++ y.2)

/-- A level of the tree: one that has a single child adds no node (R394). -/
def joinB (subs : List Build) : Build := fun n =>
  match subs with
  | [b] => b n
  | _ =>
    let x := buildAll subs (n + 1)
    ((false, n), x.1 :: x.2)

/-- The runs of equal keys of a list whose equal keys need not be adjacent, in order of first appearance. -/
def groupByKey (key : Nat → Nat) (l : List Nat) : List (List Nat) :=
  ((l.map key).eraseDups).map (fun k => l.filter (fun r => key r == k))

/-- The cluster of a rank by its place in the partition's order (R16, R394): moves of ranks do not change it. -/
def rankCluster (r : Nat) : Nat := r / 1024 * 128 + (r % 1024 / 32 / 2 * 8 + r % 32 / 4)

/-- The tree of a range of ranks (R394). -/
def rangeTree (ranks : List Nat) : Build :=
  joinB ((groupByKey (· / 1024) ranks).map (fun fs => joinB ((groupByKey rankCluster fs).map (fun cs => joinB (cs.map leafB)))))

/-- An entry of the group table (R393). -/
def groupEntry (s : State) (f g : Nat) : Option (List Word) :=
  let b := (getField s f).groupBase
  if bitOf b 0 && decide (g < 4096) then
    match partReadWords s f (BitVec.ofNat 64 (bitsOf b 63 20 * 2 ^ 20 + 32 * g)) .supervisor 4 with
    | .ok (l, _) => some l
    | .error _ => none
  else none

/-- Sub-group indices of an entry: the list ends at the first 0xFFFF (R393). -/
def subGroups (e : List Word) : List Nat :=
  ((List.range 8).map (fun i => bitsOf (e.getD (2 + i / 4) 0) (16 * (i % 4) + 15) (16 * (i % 4)))).takeWhile (· ≠ 0xFFFF)

/-- The leaf that stands for rank `r` of module `m`, as module `here` numbers it: a rank of its own, or a member elsewhere. -/
def memberLeaf (here m r : Nat) : Nat := if m = here then r else 2 ^ 32 * (m + 1) + r

/-- The tree and the leaves of a group as module `me` has it, at most `n` deep (R394); none for a group that is not valid: one with a rank at or beyond
`tiles`, among others. What another module combines comes as one result (log entry 29). -/
def groupTree (s : State) (f tiles : Nat) : Nat → Nat → Nat → Option (Build × List Nat)
  | 0, _, _ => none
  | n + 1, me, g =>
    match groupEntry s f g with
    | none => none
    | some e =>
      let ctrl := e.getD 0 0
      let range := e.getD 1 0
      let first := bitsOf range 31 0
      let count := bitsOf range 63 32
      if bitsOf ctrl 63 3 ≠ 0 then none
      else match bitsOf ctrl 1 0 with
      | 1 =>
        if bitOf ctrl 2 || count = 0 || decide (65536 < count) || decide (tiles < first + count) then none
        else let ranks := (List.range count).map (first + ·); some (rangeTree ranks, ranks.map (memberLeaf (s.fleetId % 16) me))
      | 2 =>
        let subs := subGroups e
        if bitOf ctrl 2 then
          let mods := setBits 16 (bitsOf range 15 0)
          let g1 := subs.headD 0
          let parts := mods.map (fun m => (m, groupTree s f tiles n m g1))
          if subs.length ≠ 1 ∨ bitsOf range 63 16 ≠ 0 ∨ mods = [] ∨ parts.any (fun p => p.2.isNone) then none
          else some (joinB (parts.filterMap (fun p => p.2.map (fun b => if p.1 = me then b.1 else leafB (2 ^ 20 + 16 * g1 + p.1)))),
            parts.flatMap (fun p => (p.2.map (·.2)).getD []))
        else if range ≠ 0 ∨ subs = [] then none
        else
          let parts := subs.map (groupTree s f tiles n me)
          if parts.any (·.isNone) then none
          else some (joinB (parts.filterMap (fun p => p.map (·.1))), parts.flatMap (fun p => (p.map (·.2)).getD []))
      | _ => none

/-- A valid group (R394): its leaf ranks are distinct and below the partition's tile count. -/
def validGroup (s : State) (p f g : Nat) : Option (Build × List Nat) :=
  match groupTree s f (tileCount s p) 4 (s.fleetId % 16) g with
  | none => none
  | some (b, ls) => if ls.eraseDups.length == ls.length then some (b, ls) else none

/- The descriptor -/

/-- KIND of a collective. -/
def Coll.kind (c : Coll) : Nat := bitsOf (dw c.words 0) 3 0
/-- OP of a collective. -/
def Coll.op (c : Coll) : Nat := bitsOf (dw c.words 0) 7 4
/-- PAIR of a collective. -/
def Coll.pair (c : Coll) : Bool := bitOf (dw c.words 0) 8
/-- COUNT of a collective. -/
def Coll.count (c : Coll) : Nat := (dw c.words 3).toNat

/-- Does a descriptor break R395? -/
def collBad (d : List Word) (leaves nodes tiles : Nat) : Bool :=
  let h := dw d 0
  let n := (dw d 3).toNat
  bitsOf h 11 9 != 0 || bitsOf h 31 24 != 0 || bitsOf h 63 48 != 0 || dw d 6 != 0 || dw d 7 != 0 ||
  decide (4 < bitsOf h 3 0) || decide (6 < bitsOf h 7 4) || (bitOf h 8 && bitsOf h 7 4 != 0) ||
  ((bitsOf h 3 0 == 1 || bitsOf h 3 0 == 2) && decide (leaves ≤ bitsOf h 47 32)) ||
  n == 0 || decide (2 ^ 20 < n) || (bitsOf h 3 0 == 4 && n % leaves != 0) || decide (tiles < nodes)

/-- Write STATUS (R395). -/
def writeStatus (s : State) (f : Nat) (c : Coll) : State :=
  supWrite s f (c.descVa + 0x28) (at_ 16 (c.flags % 64) ||| at_ 8 c.reruns ||| at_ 0 c.code)

/-- The threads of a collective end: its launch's tiles exit and retire; a killed one leaves the launch. -/
def exitTiles (s : State) (id : Nat) : State :=
  let s1 := (getLaunch s id).threads.foldl (fun u t =>
    if (getTile u t).launch ≠ id then u
    else if sealed u t then giveRings (updTile u t (fun a => { a with launch := 0 })) t
    else schedule (updTile u t (fun a => { a with run := .exited, sw := { a.sw with st := .halted } })) t [(.tileRetire, [])]) s
  if threadsDone s1 id then schedule s1 s1.tile.id [(.launchComplete, [id])] else s1

/-- A collective ends with a code: STATUS is written, and the launch ends. -/
def endColl (s : State) (id : Nat) (c : Coll) (code : Nat) : State :=
  let f := (getLaunch s id).field
  exitTiles (writeStatus { s with colls := smErase s.colls id } f { c with code := code }) id

/-- The step of a collective's node for an element (R397, R398). -/
def collStep (c : Coll) (id node e : Nat) : Instr × List Nat :=
  (if c.pair then .collectivePairCombine else .collectiveNodeCombine, [id, node, e])

/-- The collective of a launch starts (R395): its descriptor and its group are checked, and its first element is combined. -/
def startColl (s : State) (id reruns : Nat) : State :=
  let l := getLaunch s id
  let f := l.field
  let va := recD l.words 0xC0
  match partReadWords s f va .supervisor 8 with
  | .error _ => exitTiles (countSupFault s f) id
  | .ok (d, s1) =>
    let c : Coll := { part := l.part, launch := id, descVa := va, words := d, reruns := reruns }
    match validGroup s1 l.part f (bitsOf (dw d 0) 23 12) with
    | none => endColl s1 id c 3
    | some (b, ls) =>
      let (root, nodes) := b 0
      if collBad d ls.length nodes.length l.threads.length then endColl s1 id c 4
      else
        let c1 := { c with root := root, nodes := nodes, leaves := ls }
        let s2 := writeStatus { s1 with colls := smSet s1.colls id c1 } f c1
        schedule s2 (l.threads.headD s2.tile.id) [collStep c1 id (nodes.length - 1) 0]

/- Values -/

/-- A member's source or destination element: the scratch that the place window reaches (R97, R395); none beyond the scratch or on a killed tile. -/
def memberKey (s : State) (c : Coll) (rank off e : Nat) : Option Nat :=
  let u := (rankEntry s c.part rank).tile
  let a := off + 8 * e
  if a + 8 ≤ scratchSize (getTile s u) ∧ (getTile s u).run ≠ .killed then some (scratchKey u a) else none

/-- The combination of two values (R397). -/
def combine (op : Nat) (a b : Word) : Word × Flags :=
  match op with
  | 0 => addT64 0 a b
  | 1 => (a + b, 0)
  | 2 => minMaxT64 false a b
  | 3 => minMaxT64 true a b
  | 4 => (a &&& b, 0)
  | 5 => (a ||| b, 0)
  | _ => (a ^^^ b, 0)

/-- A finite value as a sign, a magnitude and a weight. -/
def finite (w : Word) : Option (Bool × Nat × Int) := match viewT64 w with
  | .fin s n e => some (s, n, e)
  | _ => none

/-- The error of a compensated step, rounded once: e + e2 + ((s + s2) - t) (R398). Where a term is not finite, the same sums by T64
additions. -/
def pairError (e e2 s s2 t : Word) : Word × Flags :=
  match finite e, finite e2, finite s, finite s2, finite t with
  | some a, some b, some c, some d, some x =>
    let q := min (min a.2.2 b.2.2) (min (min c.2.2 d.2.2) x.2.2)
    let v := fun (y : Bool × Nat × Int) => atWeight y.1 y.2.1 y.2.2 q
    let n := v a + v b + v c + v d - v x
    if n = 0 then (zeroT64 (a.1 && a.2.1 == 0 && b.1 && b.2.1 == 0), 0) else roundT64 0 (decide (n < 0)) n.natAbs q
  | _, _, _, _, _ =>
    let u := addT64 0 s s2
    let d := subT64 0 u.1 t
    let x := addT64 0 e e2
    let y := addT64 0 x.1 d.1
    (y.1, d.2 ||| x.2 ||| y.2)

/-- One step of the combination in child order: a value with its error (R397, R398). -/
def combineStep (c : Coll) (a b : Word × Word) : (Word × Word) × Flags :=
  if c.pair then
    let t := addT64 0 a.1 b.1
    let e := pairError a.2 b.2 a.1 b.1 t.1
    ((t.1, e.1), t.2 ||| e.2)
  else
    let r := combine c.op a.1 b.1
    ((r.1, 0), r.2)

/-- The value of a child for an element, when it is there and not poisoned (R83). -/
def childValue (s : State) (c : Coll) (e : Nat) (ch : Child) : Option (Word × Word) :=
  if ch.1 && decide (ch.2 < 2 ^ 20) then ((memberKey s c ch.2 (dw c.words 1).toNat e).filter (fun a => !s.poison.contains (a / 64))).map (fun a => (readD s a, 0))
  else smFind (smGet [] c.outs ch.2) e

/-- Combine the children of a node for an element (R397). -/
def combineChildren (c : Coll) : List (Word × Word) → (Word × Word) × Flags
  | [] => ((0, 0), 0)
  | v :: r => r.foldl (fun a b => let x := combineStep c a.1 b; (x.1, a.2 ||| x.2)) (v, 0)

/- Destinations -/

/-- The result of the whole tree for an element: the root's output, or the only leaf's value; in pair mode value and error are added
(R398). -/
def rootValue (s : State) (c : Coll) (e : Nat) : Option (Word × Flags) :=
  (childValue s c e c.root).map (fun p => if c.pair then addT64 0 p.1 p.2 else (p.1, 0))

/-- Is a member one of this module's? -/
def isHere (leaf : Nat) : Bool := decide (leaf < 2 ^ 20)

/-- Does the delivery of an element await a value of another module? -/
def awaitsFleet (s : State) (c : Coll) (e : Nat) : Bool :=
  let away := fun (l : Nat) => !isHere l && (childValue s c e (true, l)).isNone
  if c.kind = 2 then away (c.leaves.getD (bitsOf (dw c.words 0) 47 32) 0)
  else if c.kind = 3 then c.leaves.any away
  else c.root.1 && away c.root.2

/-- Write a destination element of a member; another module writes those of its own. -/
def putMember (s : State) (c : Coll) (rank e : Nat) (w : Word) : Option State :=
  if !isHere rank then some s
  else (memberKey s c rank (dw c.words 2).toNat e).map (fun a =>
    markScratch (writeD s a w) (rankEntry s c.part rank).tile (a - scratchKey (rankEntry s c.part rank).tile 0) 8)

/-- Write one element for each member of a list; none when a member cannot be reached. -/
def putAll (c : Coll) (s : State) (l : List (Nat × Nat × Word)) : Option State :=
  l.foldl (fun u x => u.bind (fun v => putMember v c x.1 x.2.1 x.2.2)) (some s)

/-- Deliver element `e` of a collective to its destinations (R395). -/
def deliverElem (s : State) (c : Coll) (e : Nat) : Option (State × Flags) :=
  let n := c.leaves.length
  let src := fun (rank : Nat) => childValue s c e (true, rank)
  match c.kind with
  | 0 => (rootValue s c e).bind (fun v => (putAll c s (c.leaves.map (fun r => (r, e, v.1)))).map (fun u => (u, v.2)))
  | 1 => (rootValue s c e).bind (fun v => (putMember s c (c.leaves.getD (bitsOf (dw c.words 0) 47 32) 0) e v.1).map (fun u => (u, v.2)))
  | 2 => (src (c.leaves.getD (bitsOf (dw c.words 0) 47 32) 0)).bind (fun v => (putAll c s (c.leaves.map (fun r => (r, e, v.1)))).map (fun u => (u, 0)))
  | 3 =>
    let vs := c.leaves.map src
    if vs.any (·.isNone) then none
    else (putAll c s (c.leaves.flatMap (fun r => (vs.zipIdx).map (fun v => (r, v.2 * c.count + e, (v.1.getD (0, 0)).1))))).map (fun u => (u, 0))
  | _ =>
    let k := c.count / n
    (rootValue s c e).bind (fun v => (putMember s c (c.leaves.getD (e / k) 0) (e % k) v.1).map (fun u => (u, v.2)))

/-- Members of this module whose destination is complete at the end: the root's alone for a reduce (R395). -/
def completeMembers (c : Coll) : Nat :=
  if c.kind = 1 then (if isHere (c.leaves.getD (bitsOf (dw c.words 0) 47 32) 0) then 1 else 0) else (c.leaves.filter isHere).length

/-- The end of a collective (R396): one addition to COUNTER for each complete member, then STATUS. -/
def finishColl (s : State) (id : Nat) (c : Coll) : State :=
  let f := (getLaunch s id).field
  let cc := dw c.words 4
  let s1 := if cc = 0 then s else (List.range (completeMembers c)).foldl (fun u _ => match partIncrement u f cc .supervisor with
    | .ok v => v
    | .error _ => countSupFault u f) s
  endColl s1 id c 1

/- Stops and reruns -/

/-- Do the destinations of a collective overlap its sources on a member (R399)? -/
def overlaps (c : Coll) : Bool :=
  let a := (dw c.words 1).toNat
  let b := (dw c.words 2).toNat
  let n := 8 * c.count
  let m := if c.kind = 3 then n * c.leaves.length else if c.kind = 4 then n / c.leaves.length else n
  decide (a < b + m ∧ b < a + n)

/-- A collective stops (R399): STATUS CODE 2, and the firmware runs it once more, unless it has done so or its ranges overlap.
DEDUCED, log entry 29. -/
def stopColl (s : State) (id : Nat) (c : Coll) : State :=
  let f := (getLaunch s id).field
  let s1 := writeStatus { s with colls := smErase s.colls id } f { c with code := 2 }
  if overlaps c || c.reruns != 0 then killLaunch s1 id else schedule s1 s1.tile.id [(.collectiveRerun, [id, c.reruns + 1])]

/-- The tile of a node: the launch's tiles in launch-index order (R395). -/
def nodeTile (s : State) (id node : Nat) : Option Nat := (getLaunch s id).threads[node]?

/-- A value that another module of a fleet sends for an element: arguments 3 on, in triples of the leaf that stands for it, value and error.
DEDUCED, log entry 29. -/
def fleetInputs (c : Coll) (e : Nat) : List Nat → Coll
  | k :: v :: x :: r =>
    fleetInputs (if isHere k then c else { c with outs := smSet c.outs k (smSet (smGet [] c.outs k) e (BitVec.ofNat 64 v, BitVec.ofNat 64 x)) }) e r
  | _ => c

/-- One node's combination of one element, and what follows it: the next node toward the root, the destinations, the next element. -/
def nodeStep (s : State) (i : Instr) : State :=
  let id := argAt s 0
  let l := getLaunch s id
  match smFind s.colls id with
  | none =>
    if s.arg.length = 1 && l.live && isCollective l && l.threads.all l.swapped.contains then startColl s id l.reruns else s
  | some c0 =>
    let node := argAt s 1
    let e := argAt s 2
    let c := fleetInputs c0 e (s.arg.drop 3)
    if s.arg.length = 1 || c.count ≤ e || l.code != 0 then s
    else if (nodeTile s id node).any (sealed s) then stopColl s id c
    else
      let kids := (c.nodes.getD node []).map (childValue s c e)
      let need := c.kind == 0 || c.kind == 1 || c.kind == 4
      if need && kids.any (·.isNone) then
        (if (c.nodes.getD node []).any (fun ch => ch.1 && !isHere ch.2 && (childValue s c e ch).isNone) then again { s with colls := smSet s.colls id c } i else stopColl s id c)
      else
        let v := combineChildren c (kids.filterMap (fun x => x))
        let c1 := if need && decide (node < c.nodes.length) then
            { c with outs := smSet c.outs node (smSet (smGet [] c.outs node) e v.1), flags := c.flags ||| v.2.toNat / 16 }
          else c
        let s1 := { s with colls := smSet s.colls id c1 }
        if node ≠ 0 then schedule s1 s1.tile.id [collStep c1 id (node - 1) e]
        else if awaitsFleet s1 c1 e then again s1 i
        else match deliverElem s1 c1 e with
          | none => stopColl s1 id c1
          | some (s2, fl) =>
            let c2 := { c1 with flags := c1.flags ||| fl.toNat / 16 }
            let s3 := { s2 with colls := smSet s2.colls id c2 }
            if e + 1 = c2.count then finishColl s3 id c2 else schedule s3 s3.tile.id [collStep c2 id (c2.nodes.length - 1) (e + 1)]

/-- COLLECTIVE_NODE_COMBINE (R395, R397): with launch argument 0 alone the collective starts; else node argument 1 combines element
argument 2. -/
def execCollectiveNodeCombine (s : State) : Host.Outcome State Fault Refusal :=
  event (fun s => match smFind s.colls (argAt s 0) with
    | some c => if c.pair then s else nodeStep s .collectiveNodeCombine
    | none => nodeStep s .collectiveNodeCombine) s

/-- COLLECTIVE_PAIR_COMBINE (R398): node argument 1 of launch argument 0 combines the value and error pairs of element argument 2. -/
def execCollectivePairCombine (s : State) : Host.Outcome State Fault Refusal :=
  event (fun s => match smFind s.colls (argAt s 0) with
    | some c => if c.pair then nodeStep s .collectivePairCombine else s
    | none => s) s

/-- COLLECTIVE_RESEND (R399): after a rerouted link, node argument 1 of launch argument 0 combines element argument 2 again from the inputs
that it has kept. The result is the same. -/
def execCollectiveResend (s : State) : Host.Outcome State Fault Refusal :=
  event (fun s =>
    match smFind s.colls (argAt s 0) with
    | none => s
    | some c =>
      let node := argAt s 1
      let e := argAt s 2
      match smFind (smGet [] c.outs node) e with
      | some v => { s with colls := smSet s.colls (argAt s 0) { c with outs := smSet c.outs node (smSet (smGet [] c.outs node) e v) } }
      | none => s) s

/-- COLLECTIVE_FLEET_TIMEOUT (R399): a module of a fleet group has been silent for 1 ms; the collective of launch argument 0 stops. -/
def execCollectiveFleetTimeout (s : State) : Host.Outcome State Fault Refusal :=
  event (fun s =>
    match smFind s.colls (argAt s 0) with
    | none => s
    | some c => if (c.root :: c.nodes.flatten).any (fun ch => ch.1 && !isHere ch.2) then stopColl s (argAt s 0) c else s) s

/-- The launch of a collective with a killed tile at a placement without it (R399), when one is free: its tiles leave, and the new ones take it with its
scopes and its tags, to start it once they have swapped in. DEDUCED, log entry 29. -/
def placeColl (s : State) (id : Nat) : Option State :=
  let l := getLaunch s id
  let s1 := l.tiles.foldl (fun u t => openTags (if (getTile u t).launch = id then leaveTask u t else u) t l.tags) s
  match placesAnew s1 l with
  | none => none
  | some pls =>
    let seats := (pls.zipIdx).flatMap (fun e => (e.1.zipIdx).map (fun a => (e.2, a.2, a.1)))
    let n := taskTiles l.words
    match loadImages s l.field l.words seats with
    | .error _ => none
    | .ok imgs =>
      let s2 := seats.foldl (fun u e => seatTile u id l.words e.2.2 (l.scopes.getD e.1 0) (e.1 * pow2Ceil n + e.2.1) (l.tags.getD e.1 0)
        ((imgs.find? (fun a => a.1 == e.2.2)).map (·.2))) (claimBanks s1 l.part l.words pls l.tags)
      some (schedule (updLaunch s2 id (fun a => { a with
        tiles := seats.map (·.2.2), threads := (seats.filter (fun e => decide (e.2.1 < n))).map (·.2.2), swapped := []
        fields := pls.map (fun ts => fieldOf (ts.headD 0)), reruns := 1 })) s2.tile.id [(.placementSwap, [id])])

/-- Has the partition a place for the shape of a launch that only tasks at work keep it from? -/
def placeLater (s : State) (l : Launch) : Bool :=
  let ok := fun (t : Nat) => !sealed s t && !bitOf (suspectOf s t) 8 && fieldPresent s (fieldOf t)
  let on := fieldsFrom s l.part l.field l.fields.length
  (origins l.shape).any (fun o => on.all (fun g => (rectTiles g o l.shape).all ok))

/-- COLLECTIVE_RERUN (R399): the firmware runs the collective of launch argument 0 again: where a tile of it was killed, at a placement without that tile, which
it awaits. A launch that another follows, or that has no such place, completes with KILLED. DEDUCED, log entry 29. -/
def execCollectiveRerun (s : State) : Host.Outcome State Fault Refusal :=
  event (fun s =>
    let id := argAt s 0
    let l := getLaunch s id
    if l.live && isCollective l && (smFind s.colls id).isNone && l.code == 0 && argAt s 1 = 1 then
      if !l.threads.any (sealed s) then startColl s id 1
      else if l.tiles.any (fun t => (getTile s t).follow.isSome) || recFollow l.words then killLaunch s id
      else match placeColl s id with
        | some s1 => s1
        | none => if placeLater s l then again s .collectiveRerun else killLaunch s id
    else s) s

end Sys2Proof.Machine
end

