-- ==== Sys2Proof/Machine/Optical.lean ====
section
/-! DEFINITION. The optical circuit switch and the conduits (R400 to R407): matching and installing permutation tables, slot periods,
chunks that leave, chunks that arrive, and credit. Times within a slot period are arguments of the steps, in ns (DESIGN CHOICE, log entry 3). -/
namespace Sys2Proof.Machine

/- Permutation tables -/

/-- The words of a table: CTRL, GROUP, PERM0 to PERM7 (R401). -/
def tableWords (t : Option Topo) : List Word := (t.map (·.words)).getD []
/-- NSLOT (R401). -/
def tableSlots (w : List Word) : Nat := bitsOf (imgD w 0) 11 8
/-- SLOT in ns (R401). -/
def tableSlotNs (w : List Word) : Nat := 10 * bitsOf (imgD w 0) 31 16
/-- GUARD in ns (R401). -/
def tableGuardNs (w : List Word) : Nat := 10 * bitsOf (imgD w 0) 47 32
/-- The modules of GROUP (R401). -/
def tableGroup (w : List Word) : List Nat := setBits 16 (bitsOf (imgD w 1) 15 0)
/-- The partner of a module in a slot period (R401). -/
def partnerIn (w : List Word) (period i : Nat) : Nat := permOf (imgD w (2 + period)) i

/-- This module's partner in the period in progress of a set; none without a table or while the module is idle (R401, R405). -/
def partnerNow (s : State) (k : Nat) : Option Nat :=
  let c := getCSet s k
  let me := s.fleetId % 16
  match c.table with
  | none => none
  | some t => let d := partnerIn t.words c.period me
    if d = me then none else some d

/-- The requests of other modules that the arguments of TOPO_ACCEPT bring: a fleet identifier, a CONDUITS value and 16 doublewords each.
DESIGN CHOICE, log entry 64. -/
def requestsOf : Nat → List Nat → SMap (Nat × List Word)
  | 0, _ => []
  | n + 1, l => match l with
    | m :: c :: r => smSet (requestsOf n (r.drop 16)) (m % 16) (c % 16, (r.take 16).map (BitVec.ofNat 64))
    | _ => []

/-- A request fails (R402): ERR is set and PEND cleared, and the set keeps its generation and its table. DESIGN CHOICE, log entry 64. -/
def failTopo (s : State) (k : Nat) : State :=
  updCSet s k (fun c => { c with err := c.err || c.pend, pend := false, request := none, accepted := none, others := [] })

/-- Install the accepted table (R402): GEN goes on by 1, PEND clears, and every field holds the new generation. -/
def installTable (s : State) (k : Nat) : State :=
  let c := getCSet s k
  match c.accepted with
  | none => s
  | some t =>
    let g := (c.gen + 1) % 2 ^ 32
    let s1 := updCSet s k (fun x => { x with gen := g, pend := false, table := some t, accepted := none, request := none, others := [], period := 0 })
    (setBits 48 s1.presentFields.toNat).foldl (fun u f => updField u f (fun a => { a with gens := smSet a.gens k g })) s1

/-- TOPO_ACCEPT (R402) of set argument 0, with the requests of other modules that have reached the circuit switch: the table is accepted
once every module of GROUP has made the identical request, and fails when one differs. DESIGN CHOICE, log entry 64. -/
def execTopoAccept (s : State) : Host.Outcome State Fault Refusal :=
  event (fun s =>
    let k := argAt s 0
    let me := s.fleetId % 16
    let s1 := updCSet s k (fun c => { c with others := (requestsOf 16 (s.arg.drop 1)).foldl (fun m e => smSet m e.1 e.2) c.others })
    let c := getCSet s1 k
    match c.request with
    | none => s1
    | some r =>
      let need := (tableGroup r.words).filter (· != me)
      if c.accepted.isSome then s1
      else if need.any (fun m => (smFind c.others m).any (fun o => o != (c.conduits, r.words))) then failTopo s1 k
      else if need.all (fun m => smFind c.others m == some (c.conduits, r.words)) then
        let s2 := updCSet s1 k (fun x => { x with accepted := some r })
        if c.table.isNone then schedule s2 s2.tile.id [(.topoInstall, [k])] else s2
      else s1) s

/-- TOPO_INSTALL (R402) of set argument 0. -/
def execTopoInstall (s : State) : Host.Outcome State Fault Refusal := event (fun s => installTable s (argAt s 0)) s

/-- TOPO_REQUEST_TIMEOUT (R402) of set argument 0: a request that is still unmatched 100 µs after the first one fails. -/
def execTopoRequestTimeout (s : State) : Host.Outcome State Fault Refusal :=
  event (fun s => if (getCSet s (argAt s 0)).accepted.isSome then s else failTopo s (argAt s 0)) s

/- Chunks that leave -/

/-- The oldest complete chunk of a send queue (R406), and the queue without it. -/
def headChunk (l : List Chunk) : Option (Chunk × List Chunk) := takeFirst (·.complete) l

/-- The set of this module that a conduit belongs to (R400). -/
def setOfConduit (s : State) (c : Nat) : Option Nat :=
  (List.range 8).find? (fun k => (getCSet s k).en && (getCSet s k).conduits.testBit c)

/-- Transmission time of `n` tokens over `lam` wavelengths, in ns (R25, R406). -/
def chunkNs (lam n : Nat) : Nat := (8 * n + 14 * lam - 1) / (14 * lam)

/-- Credit left at a receiver for a port (R407). DESIGN CHOICE, log entry 64. -/
def creditLeft (u : Conduit) (d port : Nat) : Nat := smGet 4096 u.credit (d * 64 + port)

/-- May a chunk to `d` start at time `t` of the period (R406)? -/
def mayStart (s : State) (c d t : Nat) (h : Chunk) : Bool :=
  let u := getConduit s c
  match setOfConduit s c with
  | none => false
  | some k =>
    let w := tableWords (getCSet s k).table
    let n := h.toks.length
    decide (partnerNow s k = some d ∧ 0 < u.txActive ∧ tableGuardNs w ≤ t ∧ u.clock ≤ t ∧
      t + chunkNs u.txActive n + 200 ≤ tableGuardNs w + tableSlotNs w ∧ n ≤ creditLeft u d h.port)

/-- The end of the guard of the period in progress of a conduit's set, in ns (R405). -/
def guardEnd (s : State) (c : Nat) : Nat := ((setOfConduit s c).map (fun k => tableGuardNs (tableWords (getCSet s k).table))).getD 0

/-- The time of the period at which a chunk is tried (R406): the argument, or, where a marker or a credit comes at a time that no argument gives, a free
time; never before the guard's end or the end of the chunk before it. DESIGN CHOICE, log entry 64. -/
def tryTime (s : State) (c : Nat) : Nat :=
  let u := getConduit s c
  match s.arg[2]? with
  | some t => Nat.max t (Nat.max u.clock (guardEnd s c))
  | none => Nat.max (u.clock + (Config.freeWord s.freeCtr).toNat) (guardEnd s c)

/-- CHUNK_START (R406) of conduit argument 0 toward module argument 1 at time argument 2 of the period: the head chunk of the queue goes out
when it can; the next one follows when its last token has left. -/
def execChunkStart (s : State) : Host.Outcome State Fault Refusal :=
  event (fun s0 =>
    let c := argAt s0 0
    let d := argAt s0 1
    let t := tryTime s0 c
    let s := { s0 with freeCtr := if s0.arg.length ≤ 2 then s0.freeCtr + 1 else s0.freeCtr }
    let u := getConduit s c
    match headChunk (smGet [] u.sendQ d) with
    | none => s
    | some (h, rest) =>
      if !mayStart s c d t h then updConduit s c (fun a => { a with clock := t })
      else
        let n := h.toks.length
        let s1 := updConduit s c (fun a => { a with clock := t + chunkNs a.txActive n
                                                    sendQ := smSet a.sendQ d rest, sent := a.sent ++ [(d, h)]
                                                    credit := smSet a.credit (d * 64 + h.port) (creditLeft a d h.port - n) })
        if (headChunk rest).isSome then schedule s1 s1.tile.id [(.chunkStart, [c, d, t + chunkNs u.txActive n])] else s1) s

/-- SLOT_PERIOD_START (R402, R405) of set argument 0: the accepted table is installed at the end of the period, or the next period begins;
the queues of the new partner may go out. -/
def execSlotPeriodStart (s : State) : Host.Outcome State Fault Refusal :=
  event (fun s =>
    let k := argAt s 0
    let c := getCSet s k
    match c.table with
    | none => s
    | some t =>
      let s0 := (setBits 4 c.conduits).foldl (fun u i => updConduit u i (fun a => { a with clock := 0 })) s
      let s1 := if c.accepted.isSome then installTable s0 k
        else updCSet s0 k (fun x => { x with period := (x.period + 1) % Nat.max 1 (tableSlots t.words) })
      match partnerNow s1 k with
      | none => s1
      | some d =>
        let cs := (setBits 4 c.conduits).filter (fun i => s1.presentConduits.getLsbD i && (headChunk (smGet [] (getConduit s1 i).sendQ d)).isSome)
        schedule s1 s1.tile.id (cs.map (fun i => (.chunkStart, [i, d, guardEnd s1 i])))) s

/-- CREDIT_RETURN (R407): argument 3 tokens of credit for port argument 2 of conduit argument 0 come back from module argument 1. -/
def execCreditReturn (s : State) : Host.Outcome State Fault Refusal :=
  event (fun s =>
    let c := argAt s 0
    let d := argAt s 1
    let port := argAt s 2
    let s1 := updConduit s c (fun u => { u with credit := smSet u.credit (d * 64 + port) (Nat.min 4096 (creditLeft u d port + argAt s 3)) })
    if (headChunk (smGet [] (getConduit s1 c).sendQ d)).isSome then schedule s1 s1.tile.id [(.chunkStart, [c, d])] else s1) s

/- Chunks that arrive -/

/-- The tokens that the arguments of CHUNK_DELIVER bring: payload, kind (0 data, 1 marker, 2 ERR, 3 configuration), LEVEL, CSUB, CARG and
residue each. -/
def tokensOf : Nat → List Nat → List Token
  | 0, _ => []
  | n + 1, l => match l with
    | p :: k :: lv :: cs :: ca :: r :: rest =>
      { payload := BitVec.ofNat 64 p, kind := (match k with | 0 => .data | 1 => .marker | 2 => .err | _ => .config), level := lv % 8, csub := cs,
        carg := ca, res := r } :: tokensOf n rest
    | _ => []

/-- The edge tile and the switch input of a port of a conduit (R21, R400, R407). -/
def portTile (c port : Nat) : Nat × Nat :=
  let (f, e) := conduitPlace c
  let i := port % 32
  (tileIn f (if e = 1 then 31 else 0) i, 4 * (port / 32) + e)

/-- The chunk to deliver next: the oldest one of a port whose weir has room (R407). -/
def nextChunk (s : State) (c : Nat) : List Nat → List Chunk → Option (Chunk × List Chunk)
  | _, [] => none
  | seen, h :: r =>
    let (t, p) := portTile c h.port
    if !seen.contains h.port && ((getTile s t).weir p).room then some (h, r)
    else (nextChunk s c (h.port :: seen) r).map (fun q => (q.1, h :: q.2))

/-- Put the first token of a received chunk into the weir of its edge tile, its ROUTE rewritten (R385, R407). -/
def deliverToken (s : State) (c : Nat) : Option State :=
  let u := getConduit s c
  match nextChunk s c [] u.rx with
  | none => none
  | some (h, rest) =>
    let (t, p) := portTile c h.port
    match h.toks with
    | [] => some (updConduit s c (fun a => { a with rx := rest }))
    | k :: ks =>
      let s1 := portSend s t p { k with route := (getTile s t).routeId }
      let put := if ks.isEmpty then rest else
        let i := u.rx.findIdx (· == h)
        setAt u.rx i { h with toks := ks }
      some (updConduit s1 c (fun a => { a with rx := put }))

/-- CHUNK_DELIVER (R407) of conduit argument 0: a chunk of module argument 1 for port argument 2 is received, when arguments name one; then
the conduit hands a token to the die-edge weir. DESIGN CHOICE, log entry 64. -/
def execChunkDeliver (s : State) : Host.Outcome State Fault Refusal :=
  event (fun s =>
    let c := argAt s 0
    let toks := tokensOf 4096 (s.arg.drop 3)
    let s1 := if toks.isEmpty then s else
      updConduit s c (fun u => { u with rx := u.rx ++ [{ toks := toks, src := argAt s 1 % 16, port := argAt s 2 % 64, complete := true }] })
    let s2 := (deliverToken s1 c).getD s1
    if (getConduit s2 c).rx.isEmpty then s2 else schedule s2 s2.tile.id [(.chunkDeliver, [c])]) s

end Sys2Proof.Machine
end

