-- ==== Sys2Proof/Machine/HostLink.lean ====
section
/-! DEFINITION. The host link (R409 to R428): Rill reads and writes, the control page with its watches, the loader and the module table,
attestation, and power-on. -/
namespace Sys2Proof.Machine

/- Accesses of a function -/

/-- A request of R409: 1 to 256 bytes within one 4 KiB page, on a trained port. DESIGN CHOICE, log entry 65. -/
def rillOk (s : State) (port addr len : Nat) : Bool :=
  decide (1 ≤ len ∧ len ≤ 256 ∧ addr % 4096 + len ≤ 4096 ∧ port < 4) && s.rillTrained.getLsbD port

/-- What an address names for a function (R409). -/
inductive HostPlace where
  | memory
  | window (f q : Nat)
  | page (off : Nat)
  | device
  | record (i : Nat)
  | store (u : Nat)
  | nothing
  deriving DecidableEq, Repr

/-- The place of an address: `vf` is 512 for the management function (R409, R426), which reaches the device blocks, the lifetime record and the firmware
store, and no memory; the manual gives the latter two no address (DESIGN CHOICE, log entry 65). A launch window of another function or of an absent field is
nothing. -/
def hostPlace (s : State) (vf addr : Nat) : HostPlace :=
  if 512 ≤ vf then
    if 0xFFFFFE0000000000 ≤ addr ∧ addr ≤ 0xFFFFFEFFFFFFFFFF then .device
    else if 0x0300000000000000 ≤ addr ∧ addr < 0x0300000001000000 ∧ addr % 8 = 0 then .record ((addr - 0x0300000000000000) / 8)
    else if 0x0400000000000000 ≤ addr ∧ addr < 0x0400000000000000 + 8 * 77 ∧ addr % 8 = 0 then .store ((addr - 0x0400000000000000) / 8)
    else .nothing
  else if addr < 2 ^ 56 then (if (getVf s vf).en then .memory else .nothing)
  else if 0x0100000000000000 ≤ addr ∧ addr < 0x0100000000000000 + 48 * 64 * 65536 then
    let n := (addr - 0x0100000000000000) / 65536
    let f := n / 64
    let q := n % 64
    if 56 ≤ q || !fieldPresent s f || bitsOf (readLqCtl s f q) 8 0 != vf then .nothing else .window f q
  else if 0x0200000000000000 ≤ addr ∧ addr < 0x0200000000001000 then .page (addr % 4096)
  else .nothing

/-- The field whose translation root serves the functions of a partition: its lowest one, every field having the same root (R34, R410). -/
def hostField (s : State) (vf : Nat) : Nat := (partFields s (getVf s vf).part).headD 0

/-- Translate for a function at user privilege (R410); the state keeps what the walk did (R40). -/
def hostTranslate (s : State) (vf : Nat) (va : Word) (k : AccKind) : Except XErr Nat × State :=
  translatePart s (getVf s vf).part (getField s (hostField s vf)).xlateRoot va k .user

/-- An access of a function at the home of `n` bytes, which lie in at most five lines: dirty copies are recalled (R97, R410). -/
def hostHome (s : State) (pa n : Nat) (dirty : Bool) : State :=
  ((List.range 5).filter (fun j => decide ((pa / 64 + j) * 64 < pa + n))).foldl (fun u j => atHome u (.mem ((pa / 64 + j) * 64)) dirty) s

/-- A message to the host. -/
def tellHost (s : State) (m : HostMsg) : State := { s with hostOut := s.hostOut ++ [m] }

/-- An access of a function that failed (R410). -/
def hostFault (s : State) (port vf sub : Nat) : State :=
  tellHost (updVf s vf (fun v => { v with faults := v.faults + 1 })) (.fault port vf sub)

/-- Doubleword `i` of a function's control page (R412). -/
def pageWord (s : State) (vf i : Nat) : Word :=
  let v := getVf s vf
  if i < 64 then
    let w := smGet {} v.watches (i / 4)
    match i % 4 with
    | 0 => w.addr
    | 1 => w.target
    | 2 => at_ 8 w.vector ||| at_ 2 (if w.err then 1 else 0) ||| at_ 1 (if w.fired then 1 else 0) ||| at_ 0 (if w.arm then 1 else 0)
    | _ => 0
  else if i < 72 then smGet 0 v.loadReq (i - 64)
  else if i = 96 then v.faults
  else 0

/-- Byte `k` of a doubleword. -/
def byteOf (w : Word) (k : Nat) : Byte := BitVec.ofNat 8 (bitsOf w (8 * k + 7) (8 * k))

/-- The doublewords that a stretch of bytes touches: number, first byte, and the bytes that fall into it. -/
def dwordsOf (addr : Nat) (bytes : List Byte) : List (Nat × Nat × List Byte) :=
  (List.range ((addr % 8 + bytes.length + 7) / 8)).map (fun j =>
    let lo := addr / 8 * 8 + 8 * j
    let from_ := Nat.max lo addr
    (lo / 8, from_ - lo, (bytes.drop (from_ - addr)).take (lo + 8 - from_)))

/-- A doubleword with some of its bytes replaced. -/
def mergeBytes (w : Word) (k : Nat) (bs : List Byte) : Word := putBits w (8 * k) (8 * bs.length) (numOf bs)

/-- Read doublewords of the device window for management. -/
def devBytes (s : State) (addr : Nat) : Nat → List Byte × State
  | 0 => ([], s)
  | n + 1 =>
    let r := devRead s (BitVec.ofNat 64 addr)
    let t := devBytes r.2 (addr + 8) n
    (bytesOf 8 r.1.toNat ++ t.1, t.2)

/-- `n` bytes that the manual leaves open. DESIGN CHOICE, log entry 9. -/
def freeBytes (s : State) (n : Nat) : List Byte × State :=
  ((List.range n).map (fun i => Config.freeByte s.freeCtr i), { s with freeCtr := s.freeCtr + 1 })

/-- Doubleword `i` of the lifetime record as management reads it (R391, R426): the counts in the order of R391, then the lists, each after its length.
DESIGN CHOICE, log entry 65. -/
def lifetimeWord (l : Lifetime) (i : Nat) : Word :=
  let lists := [l.scoreChanges.length] ++ l.scoreChanges.flatMap (fun e => [e.1, e.2]) ++ [l.quarantines.length] ++ l.quarantines ++
    [l.failures.length] ++ l.failures
  BitVec.ofNat 64 (if i < 65536 then smGet 0 l.tileCorr i
    else if i < 65568 then smGet 0 l.cistCorr (i - 65536)
    else if i < 65600 then smGet 0 l.condCorr (i - 65568)
    else if i < 67136 then (smGet [] l.temperature ((i - 65600) / 32)).getD ((i - 65600) % 32) 0
    else if i < 68672 then (smGet [] l.droop ((i - 67136) / 32)).getD ((i - 67136) % 32) 0
    else if i < 70208 then smGet 0 l.retrains (i - 68672)
    else lists.getD (i - 70208) 0)

/-- The image that the firmware store holds for a unit: 0 the root of trust, then the fields, the cisterns and the conduits (R426, R427).
DESIGN CHOICE, log entry 65. -/
def storedImage (s : State) (u : Nat) : Nat := smGet (if 1 ≤ u ∧ u ≤ 48 then 1 else 0) s.firmStore u

/-- The answer to a read (R409, R410, R412). A launch window has no readable state, and a poisoned line gives bytes that the manual leaves
open (DESIGN CHOICE, log entry 9). DESIGN CHOICE, log entry 65. -/
def rillRead (s : State) (port vf addr len : Nat) : State :=
  match hostPlace s vf addr with
  | .nothing => tellHost s (.unsupported port vf)
  | .memory =>
    let s1 := (hostTranslate s vf (BitVec.ofNat 64 addr) .read).2
    (match (hostTranslate s vf (BitVec.ofNat 64 addr) .read).1 with
     | .error e => hostFault s1 port vf e.sub
     | .ok pa =>
       if (List.range len).any (fun i => poisoned s1 (pa + i)) then let r := freeBytes s1 len; tellHost r.2 (.data port vf r.1)
       else tellHost (hostHome s1 pa len false) (.data port vf (readBytes s1 pa len)))
  | .window _ _ => let r := freeBytes s len; tellHost r.2 (.data port vf r.1)
  | .page off => tellHost s (.data port vf ((List.range len).map (fun i => byteOf (pageWord s vf ((off + i) / 8)) ((off + i) % 8))))
  | .device =>
    if 0xFFFFFEFFFFFFF000 ≤ addr then tellHost s (.data port vf ((List.range len).map (fun i => describeByte s (addr % 4096 + i))))
    else if addr % 8 ≠ 0 ∨ len % 8 ≠ 0 then tellHost s (.unsupported port vf)
    else let r := devBytes s addr (len / 8); tellHost r.2 (.data port vf r.1)
  | .record i =>
    if len % 8 ≠ 0 then tellHost s (.unsupported port vf)
    else tellHost s (.data port vf ((List.range (len / 8)).flatMap (fun k => bytesOf 8 (lifetimeWord s.lifetime (i + k)).toNat)))
  | .store u =>
    if len % 8 ≠ 0 then tellHost s (.unsupported port vf)
    else tellHost s (.data port vf ((List.range (len / 8)).flatMap (fun k => bytesOf 8 (storedImage s (u + k)))))

/- Writes -/

/-- Is a slot of a launch window free (R154): it is not complete, and its record does not wait in the queue? -/
def slotFree (s : State) (f q k : Nat) : Bool :=
  let w := smGet [] (smGet [] (getField s f).windows q) k
  !((List.range 32).all (fun i => w.any (fun e => e.1 == i))) && !((queueOf s f q).any (fun r => r.slot == some k))

/-- Must a write of `len` bytes be held (R154, R377, R409, R419): its queue or function is disabled, a slot it touches is not free, or an
earlier loader request of the function is unfinished? -/
def rillHeld (s : State) (vf addr len : Nat) : Bool :=
  match hostPlace s vf addr with
  | .window f q =>
    !(getVf s vf).en || !bitOf (readLqCtl s f q) 32 ||
      (List.range ((addr % 256 + len + 255) / 256)).any (fun j => !slotFree s f q ((addr % 65536 / 256 + j) % 256))
  | .page off => (getVf s vf).loadBusy && decide (off < 0x240) && decide (0x200 < off + len)
  | _ => false

/-- A doubleword of a launch window is written (R154). Bytes of it that no write has reached are zero (DESIGN CHOICE, log entry 27). -/
def writeSlot (s : State) (f q i k : Nat) (bs : List Byte) : State :=
  let slot := i / 32 % 256
  updField s f (fun u =>
    let w := smGet [] u.windows q
    let l := smGet [] w slot
    { u with windows := smSet u.windows q (smSet w slot (smSet l (i % 32) (mergeBytes (smGet 0 l (i % 32)) k bs))) })

/-- A doubleword of the control page is written (R412, R413, R419). -/
def writePage (s : State) (port vf i k : Nat) (bs : List Byte) : State :=
  let w := mergeBytes (pageWord s vf i) k bs
  if i < 64 then
    let n := i / 4
    match i % 4 with
    | 0 => updVf s vf (fun v => { v with watches := smSet v.watches n { smGet {} v.watches n with addr := w } })
    | 1 => updVf s vf (fun v => { v with watches := smSet v.watches n { smGet {} v.watches n with target := w } })
    | 2 =>
      let m := mergeBytes 0 k bs
      let s1 := updVf s vf (fun v =>
        let x := smGet {} v.watches n
        let y := { x with vector := bitsOf w 23 8, err := x.err && !bitOf m 2, fired := x.fired && !bitOf m 1, arm := bitOf w 0, port := port }
        { v with watches := smSet v.watches n y })
      if bitOf w 0 then schedule s1 s1.tile.id [(.watchArm, [vf, n])] else s1
    | _ => s
  else if i < 72 then
    let s1 := updVf s vf (fun v => { v with loadReq := smSet v.loadReq (i - 64) w })
    if i = 71 then schedule (updVf s1 vf (fun v => { v with loadBusy := true })) s1.tile.id [(.loadreqSubmit, [vf])] else s1
  else if i = 96 then updVf s vf (fun v => { v with faults := 0 })
  else s

/-- A store of management to a device register: FLEET_ID, which only management sets, or any other (R400, R426).
DESIGN CHOICE, log entry 65. -/
def mgmtWrite (s : State) (a v : Word) : State :=
  if devBlock a = (255, 0x60040) then { s with fleetId := bitsOf v 3 0 } else devWrite s a v

/-- Write global memory for a function (R83, R410). -/
def hostStore (s : State) (pa : Nat) (bs : List Byte) : State :=
  let full := (List.range 5).filter (fun j => let l := pa / 64 * 64 + 64 * j; decide (pa ≤ l ∧ l + 64 ≤ pa + bs.length))
  full.foldl (fun u j => clearPoison u (pa / 64 * 64 + 64 * j)) (writeBytes (hostHome s pa bs.length true) pa bs)

/-- The effect of a write that is accepted (R409, R410, R412). DESIGN CHOICE, log entry 65. -/
def rillWrite (s : State) (port vf addr : Nat) (bs : List Byte) : State :=
  let done := fun (u : State) => tellHost u (.ok port vf)
  match hostPlace s vf addr with
  | .nothing => tellHost s (.unsupported port vf)
  | .memory =>
    let s1 := (hostTranslate s vf (BitVec.ofNat 64 addr) .write).2
    (match (hostTranslate s vf (BitVec.ofNat 64 addr) .write).1 with
     | .error e => hostFault s1 port vf e.sub
     | .ok pa => done (hostStore s1 pa bs))
  | .window f q =>
    done (schedule ((dwordsOf (addr % 65536) bs).foldl (fun u e => writeSlot u f q e.1 e.2.1 e.2.2) s) s.tile.id [(.launchSlotEnter, [f, q])])
  | .page off => done ((dwordsOf off bs).foldl (fun u e => writePage u port vf e.1 e.2.1 e.2.2) s)
  | .device =>
    if 0xFFFFFEFFFFFFF000 ≤ addr ∨ addr % 8 ≠ 0 ∨ bs.length % 8 ≠ 0 then tellHost s (.unsupported port vf)
    else done ((dwordsOf addr bs).foldl (fun u e => mgmtWrite u (BitVec.ofNat 64 (8 * e.1)) (BitVec.ofNat 64 (numOf e.2.2))) s)
  | .record _ => tellHost s (.unsupported port vf)
  | .store u =>
    if bs.length % 8 ≠ 0 then tellHost s (.unsupported port vf)
    else done { s with firmStore := ((dwordsOf (8 * u) bs).filter (fun e => e.1 < 77)).foldl (fun m e => smSet m e.1 (numOf e.2.2)) s.firmStore }

/-- Must a request wait at its port (R409)? -/
def RillReq.waits (s : State) (q : RillReq) : Bool := q.bytes.isSome && rillHeld s q.vf q.addr q.len

/-- Answer a request that is accepted (R409). -/
def rillServe (s : State) (q : RillReq) : State :=
  match q.bytes with
  | none => rillRead s q.port q.vf q.addr q.len
  | some bs => rillWrite s q.port q.vf q.addr bs

/-- Do two requests belong to one agent, a function on a port, whose order is that of arrival (R410)? -/
def RillReq.sameAgent (a b : RillReq) : Bool := a.port == b.port && a.vf == b.vf

/-- Serve waiting requests in arrival order: one is accepted once every earlier one of its function and port has been and nothing holds it
(R409, R410). The second list keeps those that wait on. -/
def serveRills : List RillReq → List RillReq → State → State
  | [], kept, s => { s with rillQ := kept }
  | q :: r, kept, s => if kept.any q.sameAgent || q.waits s then serveRills r (kept ++ [q]) s else serveRills r kept (rillServe s q)

/-- A request arrives, or those that wait are tried again; while any waits, RILL_WRITE comes again. -/
def rillTake (s : State) (q : List RillReq) : State :=
  let s1 := serveRills (s.rillQ ++ q) [] s
  if s1.rillQ.isEmpty then s1 else scheduleAt s1 s1.tile.id .rillWrite []

/-- RILL_READ (R409, R410): a read of argument 3 bytes at address argument 2 by function argument 1 (512 for management) on port argument 0. -/
def execRillRead (s : State) : Host.Outcome State Fault Refusal :=
  event (fun s =>
    if rillOk s (argAt s 0) (argAt s 2) (argAt s 3) then rillTake s [{ port := argAt s 0, vf := argAt s 1, addr := argAt s 2, len := argAt s 3 }] else s) s

/-- RILL_WRITE (R409, R410, R411): argument 3 bytes, which follow it, at address argument 2 by function argument 1 on port argument 0. Each
write is performed when it is accepted, so a slot enters its queue after every earlier write of its port. With no argument, the requests that wait are tried
again. -/
def execRillWrite (s : State) : Host.Outcome State Fault Refusal :=
  event (fun s =>
    let len := argAt s 3
    let bs := (List.range len).map (fun i => BitVec.ofNat 8 (argAt s (4 + i)))
    if s.arg.isEmpty then rillTake s []
    else if rillOk s (argAt s 0) (argAt s 2) len then
      rillTake s [{ port := argAt s 0, vf := argAt s 1, addr := argAt s 2, len := len, bytes := some bs }]
    else s) s

/- Watches -/

/-- WATCH_ARM (R413) of watch argument 1 of function argument 0. -/
def execWatchArm (s : State) : Host.Outcome State Fault Refusal :=
  event (fun s =>
    if (smGet {} (getVf s (argAt s 0)).watches (argAt s 1)).arm then schedule s s.tile.id [(.watchFire, [argAt s 0, argAt s 1])] else s) s

/-- A watch ends with one interrupt message (R413). -/
def fireWatch (s : State) (vf n : Nat) (w : Watch) (err : Bool) (value : Word) : State :=
  tellHost (updVf s vf (fun v => { v with watches := smSet v.watches n { w with arm := false, err := w.err || err, fired := w.fired || !err } }))
    (.interrupt w.port vf w.vector value)

/-- WATCH_FIRE (R413) of watch argument 1 of function argument 0: the watched doubleword is read on path C; when it reaches TARGET, or its
read faults, one message goes out. The watch of a disabled function waits (R377; DESIGN CHOICE, log entry 65). -/
def execWatchFire (s : State) : Host.Outcome State Fault Refusal :=
  event (fun s =>
    let vf := argAt s 0
    let n := argAt s 1
    let w := smGet {} (getVf s vf).watches n
    if !w.arm then s
    else if !(getVf s vf).en then again s .watchFire
    else if w.addr.toNat % 8 ≠ 0 ∨ 2 ^ 56 ≤ w.addr.toNat then fireWatch s vf n w true 0
    else
      let s1 := (hostTranslate s vf w.addr .read).2
      match (hostTranslate s vf w.addr .read).1 with
      | .error _ => fireWatch s1 vf n w true 0
      | .ok pa =>
        let v := readD s1 pa
        let s2 := hostHome s1 pa 8 false
        if w.target.toNat ≤ v.toNat then fireWatch s2 vf n w false v else again s2 .watchFire) s

/- The loader -/

/-- The doubleword at a byte offset of a loader request (R419). -/
def reqD (j : LoadJob) (off : Nat) : Word := j.words.getD (off / 8) 0
/-- OP of a loader request. -/
def reqOp (j : LoadJob) : Nat := bitsOf (reqD j 0) 3 0
/-- The step that serves a loader request. -/
def jobStep (j : LoadJob) : Instr := if reqOp j = 3 then .moduleUnload else .moduleLoad

/-- LOADREQ_SUBMIT (R419) of function argument 0: the request joins those of its partition, in arrival order. A request of a disabled
function waits (R377). DESIGN CHOICE, log entry 65. -/
def execLoadreqSubmit (s : State) : Host.Outcome State Fault Refusal :=
  event (fun s =>
    let vf := argAt s 0
    let v := getVf s vf
    if !v.loadBusy then s
    else if !v.en then again s .loadreqSubmit
    else
      let j : LoadJob := { vf := vf, words := (List.range 8).map (smGet 0 v.loadReq) }
      let first := (getPart s v.part).loads.isEmpty
      let s1 := updPart s v.part (fun p => { p with loads := p.loads ++ [j] })
      if first then schedule s1 s1.tile.id [(jobStep j, [v.part])] else s1) s

/-- The request in progress of a partition. -/
def jobOf (s : State) (p : Nat) : Option LoadJob := (getPart s p).loads.head?

/-- Change the request in progress. -/
def updJob (s : State) (p : Nat) (g : LoadJob → LoadJob) : State :=
  updPart s p (fun q => { q with loads := match q.loads with
    | [] => []
    | j :: r => g j :: r })

/-- The field through which the firmware of a partition reads and writes. -/
def jobField (s : State) (p : Nat) : Nat := (partFields s p).headD 0

/-- Write the result record and add 1 to COUNTER, and go on to the next request (R417 to R420). A write that faults is skipped and counted
(R382). -/
def endJob (s : State) (p : Nat) (j : LoadJob) (code detail : Nat) : State :=
  let f := jobField s p
  let gen := bitsOf ((moduleEntry s f j.index).headD 0) 63 32
  let res := reqD j 0x20
  let s1 := if res.toNat % 16 ≠ 0 then countSupFault s f
    else match partWriteWords s f res .user [at_ 32 detail ||| at_ 8 j.index ||| at_ 0 code, BitVec.ofNat 64 gen] with
      | .ok u => u
      | .error _ => countSupFault s f
  let cnt := reqD j 0x18
  let s2 := if cnt = 0 then s1 else match partIncrement s1 f cnt .user with
    | .ok u => u
    | .error _ => countSupFault s1 f
  let s3 := updVf (updPart s2 p (fun q => { q with loads := q.loads.drop 1 })) j.vf (fun v => { v with loadBusy := false })
  match jobOf s3 p with
  | none => s3
  | some n => schedule s3 s3.tile.id [(jobStep n, [p])]

/-- Is a request turned away before anything is done (R414, R420)? The code. DESIGN CHOICE, log entry 65. -/
def jobRefused (s : State) (p : Nat) (j : LoadJob) : Option Nat :=
  let c := reqD j 0
  let bad := reqOp j = 0 ∨ 4 ≤ reqOp j ∨ bitsOf c 15 5 ≠ 0 ∨ bitsOf c 63 28 ≠ 0 ∨ bitsOf c 27 16 = 4095 ∨ (j.words.drop 5).any (· != 0) ∨
    (reqOp j ≠ 2 ∧ reqD j 0x10 ≠ 0) ∨ (reqD j 0x18).toNat % 8 ≠ 0 ∨ (reqD j 0x20).toNat % 16 ≠ 0
  if (partFields s p).any (fun f => !bitOf (getField s f).modBase 0) then some 7
  else if bad then some 2 else none

/-- Go on with what a step of the loader gave; the state is kept where it failed (R40). -/
def andThen {ε α β : Type} (r : Except ε α × State) (k : α → State → Except ε β × State) : Except ε β × State :=
  match r.1 with
  | .error e => (.error e, r.2)
  | .ok a => k a r.2

/-- The home address of a byte that a request names, at user privilege (R410). What a sealed tile would discard is answered as beyond its scratch
(DEDUCED, log entry 36). -/
def jobHome (s : State) (f : Nat) (va : Word) (k : AccKind) : Except XErr Nat × State :=
  match regionOf va with
  | .error e => (.error e, s)
  | .ok .global | .ok .code | .ok (.owner _) => translatePart s ((partOfField s f).getD 64) (getField s f).xlateRoot va k .user
  | .ok (.place rank off) =>
    let p := (partOfField s f).getD 64
    let u := (rankEntry s p rank).tile
    if tileCount s p ≤ rank then (.error { prot := false, sub := 4 }, s)
    else if scratchSize (getTile s u) ≤ off || (gone s (.scratch u off)).isSome then (.error { prot := false, sub := 5 }, s)
    else (.ok (scratchKey u off), s)
  | .ok _ => (.error { prot := true, sub := 4 }, s)

/-- Read bytes that a request names, at their homes (R80, R97); a poisoned one gives the request a fault (R83; DESIGN CHOICE, log entry 65). -/
def jobBytes (s : State) (f : Nat) (va : Word) : Nat → Except XErr (List Byte) × State
  | 0 => (.ok [], s)
  | n + 1 =>
    andThen (jobHome s f va .read) (fun a s1 =>
      if poisoned s1 a then (.error { prot := false, sub := 5 }, s1)
      else andThen (jobBytes (homeRead s1 a) f (va + 1) n) (fun l s2 => (.ok (readByte s1 a :: l), s2)))

/-- Write bytes that a request names, at their homes (R80, R97). -/
def jobStore (s : State) (f : Nat) (va : Word) : List Byte → Except XErr Unit × State
  | [] => (.ok (), s)
  | b :: r => andThen (jobHome s f va .write) (fun a s1 => jobStore (writeByte (homeWrite s1 a) a b) f (va + 1) r)

/-- Must a request wait for a tile whose scratch it names, since that tile's network interface takes nothing now (R143, R369)? -/
def jobHeld (s : State) (f : Nat) (j : LoadJob) : Bool :=
  partHeld s f (reqD j 8) || partHeld s f (reqD j 0x18) || partHeld s f (reqD j 0x20)

/-- The doublewords that bytes hold. -/
def wordsOf : Nat → List Byte → List Word
  | 0, _ => []
  | n + 1, l => BitVec.ofNat 64 (numOf (l.take 8)) :: wordsOf n (l.drop 8)

/- The header and the class masks -/

/-- `n` bytes of the segment that a request loads, from SEGSRC or from the translated module (R421, R422). -/
def segBytes (s : State) (f : Nat) (j : LoadJob) (i n : Nat) : Except XErr (List Byte) × State :=
  if reqOp j = 2 then (.ok ((List.range n).map (fun k => Config.zogTranslate j.graph j.run (64 + i + k))), s)
  else jobBytes s f (imgD j.header 2 + BitVec.ofNat 64 i) n

/-- Doublewords of a table in the segment. -/
def segWords (s : State) (f : Nat) (j : LoadJob) (off n : Nat) : Except XErr (List Word) × State :=
  let r := segBytes s f j off (8 * n)
  (r.1.map (wordsOf n), r.2)

/-- Is a signature-class table sorted by offset with no offset twice, and its reserved bits zero (R415)? -/
def sigSorted : List Word → Bool
  | [] => true
  | [w] => bitsOf w 63 44 == 0
  | a :: b :: r => bitsOf a 63 44 == 0 && decide (bitsOf a 31 0 < bitsOf b 31 0) && sigSorted (b :: r)

/-- Entries of a register-need summary: kind, class, mask, and whether the entry breaks its layout (R415). -/
def needEntries : List Word → List (Nat × Nat × Word × Bool)
  | a :: m :: r =>
    let k := bitsOf a 45 44
    let bad := bitsOf a 63 46 != 0 || (k == 0 && bitsOf a 43 32 != 0) || (k != 0 && bitsOf a 31 0 != 0) || bitOf m 0 || bitOf m 30 || bitsOf m 63 32 != 0
    (k, bitsOf a 43 32, m, bad) :: needEntries r
  | _ => []

/-- The offset at which a header breaks its layout by its own words (R414, R421). -/
def loadHeaderBad (h : List Word) : Option Nat :=
  let size := (imgD h 1).toNat
  let out := fun (w : Word) (n : Nat) => decide (size < bitsOf w 31 0 + n * bitsOf w 63 32)
  if bitsOf (imgD h 0) 15 0 ≠ 1 ∨ bitsOf (imgD h 0) 63 32 ≠ 0 then some 0
  else if size % 64 ≠ 0 ∨ 2 ^ 32 < size then some 8
  else if out (imgD h 3) 8 then some 0x18
  else if out (imgD h 4) 16 then some 0x20
  else if 65536 < (imgD h 6).toNat then some 0x30
  else none

/-- Do the class masks of R425 refuse a module? The class. -/
def classRefused (q : Partition) : List (Nat × Nat × Word × Bool) → Option Nat
  | [] => none
  | (k, c, m, _) :: r =>
    match smFind q.classMask c with
    | none => classRefused q r
    | some g =>
      if k = 0 then classRefused q r
      else if (k ≠ 2 ∧ m &&& ~~~g ≠ 0) ∨ (k ≠ 1 ∧ g &&& ~~~m ≠ 0) then some c
      else classRefused q r

/-- Register the classes that a module lists (R425). -/
def addClasses (q : Partition) (i : Nat) (es : List (Nat × Nat × Word × Bool)) : Partition :=
  es.foldl (fun u e => if e.1 = 0 then u else
    { u with classMask := (if (smFind u.classMask e.2.1).isSome then u.classMask else smSet u.classMask e.2.1 e.2.2.1)
             classRefs := smSet u.classRefs e.2.1 (insertNat i (smGet [] u.classRefs e.2.1)) }) q

/-- Release the classes of an entry: a mask that no module lists any longer is unset (R418, R425). -/
def dropClasses (q : Partition) (i : Nat) : Partition :=
  let refs := (q.classRefs.map (fun e => (e.1, e.2.filter (· ≠ i)))).filter (fun e => !e.2.isEmpty)
  { q with classRefs := refs, classMask := q.classMask.filter (fun e => refs.any (fun r => r.1 == e.1)) }

/-- The need summary of the module that a request loads. -/
def needOf (s : State) (f : Nat) (j : LoadJob) : Except XErr (List (Nat × Nat × Word × Bool)) × State :=
  let w := imgD j.header 4
  let r := segWords s f j (bitsOf w 31 0) (2 * bitsOf w 63 32)
  (r.1.map needEntries, r.2)

/-- The signature table of the module that a request loads. -/
def sigOf (s : State) (f : Nat) (j : LoadJob) : Except XErr (List Word) × State :=
  let w := imgD j.header 3
  segWords s f j (bitsOf w 31 0) (bitsOf w 63 32)

/- ZOG -/

/-- The offset of the first fault of a ZOG container, given its header and its graph (R422). -/
def zogBad (len : Nat) (h : List Byte) (g : List Byte) : Option Nat :=
  let d := numOf (h.take 8)
  if d / 2 ^ 16 % 2 ^ 16 ≠ 0 ∨ Config.zogVersion < d % 2 ^ 16 ∨ len ≠ 128 + d / 2 ^ 32 then some 0
  else if numOf ((h.drop 8).take 64) ≠ (Config.sha3 g).toNat then some 8
  else ((List.range 56).find? (fun i => h.getD (72 + i) 0 ≠ 0)).map (· + 72)

/-- The measurement of the firmware that translates for a field (R422, R426). -/
def translator (s : State) (f : Nat) : BitVec 512 := Config.firmwareMeasurement (1 + f + 128 * (getField s f).firmware)

/-- Translate a graph (R422): the cache gives the translation that the same firmware made of it before; otherwise it is made, and kept there. Two
translations may give different roundings (R423), so each has a number of its own (DESIGN CHOICE, log entry 12). -/
def translateZog (s : State) (p f : Nat) (g : List Byte) : (List Byte × Nat) × State :=
  match (getPart s p).zogCache.find? (fun e => e.digest == Config.sha3 g && e.measure == translator s f) with
  | some e => ((e.graph, e.run), s)
  | none =>
    let e : ZogEntry := { digest := Config.sha3 g, measure := translator s f, graph := g, run := s.freeCtr }
    ((g, s.freeCtr), updPart { s with freeCtr := s.freeCtr + 1 } p (fun q => { q with zogCache := e :: q.zogCache }))

/-- What the first stage of a load finds: a code and a detail, or the job with its header; and the state. -/
abbrev Headed := Except (Nat × Nat) LoadJob × State

/-- A fault of a request's read gives FAULT (R420). -/
def orFault {α : Type} (r : Except XErr α × State) : Except (Nat × Nat) α × State := (r.1.mapError (fun _ => (7, 0)), r.2)

/-- Read the header of a native module, or the container of a ZOG load (R417, R421, R422). -/
def readHeader (s : State) (p f : Nat) (j : LoadJob) : Headed :=
  let src := reqD j 8
  let len := (reqD j 0x10).toNat
  if reqOp j = 2 then
    if len < 128 then (.error (3, 0), s)
    else andThen (orFault (jobBytes s f src 128)) (fun h s1 => andThen (orFault (jobBytes s1 f (src + 128) (len - 128))) (fun g s2 =>
      match zogBad len h g with
      | some o => (.error (3, o), s2)
      | none =>
        let z := translateZog s2 p f g
        (.ok { j with graph := z.1.1, run := z.1.2, header := wordsOf 8 ((List.range 64).map (Config.zogTranslate z.1.1 z.1.2)) }, z.2)))
  else andThen (orFault (jobBytes s f src 64)) (fun h s1 => (.ok { j with header := wordsOf 8 h }, s1))

/-- The index that a load takes (R417): the one requested, or with ANY the lowest EMPTY one below 4,095; none when there is none. -/
def freeIndex (s : State) (f : Nat) (j : LoadJob) : Option Nat :=
  let free := fun (i : Nat) => moduleState (moduleEntry s f i) == 0
  let want := bitsOf (reqD j 0) 27 16
  if bitOf (reqD j 0) 4 then (List.range 4095).find? free else if free want then some want else none

/-- Step 1 of R417: check the header and the classes, and take an index. DESIGN CHOICE, log entry 65. -/
def checkLoad (s : State) (p f : Nat) (j0 : LoadJob) : Headed :=
  andThen (readHeader s p f j0) (fun j s1 =>
    match loadHeaderBad j.header with
    | some o => (.error (3, o), s1)
    | none => andThen (orFault (sigOf s1 f j)) (fun sig s2 =>
      if !sigSorted sig then (.error (3, 0x18), s2)
      else andThen (orFault (needOf s2 f j)) (fun need s3 =>
        if need.any (·.2.2.2) || !noRepeats ((need.filter (·.1 != 0)).map (·.2.1)) then (.error (3, 0x20), s3)
        else match classRefused (getPart s3 p) need with
          | some c => (.error (5, c), s3)
          | none => match freeIndex s3 f j with
            | none => (.error (4, 0), s3)
            | some i => let e := moduleRead s3 f i; (.ok { j with index := i, old := e.1 }, e.2))))

/- Mapping and copying -/

/-- Take a page for the loader: of those that the firmware took for the request, the first one that the partition owns. -/
def takePage (s : State) (part : Nat) (pool : List Nat) : Option (Nat × List Nat) :=
  takeFirst (fun a => a % 4096 == 0 && (cisternOf s a).isSome && ownerOf s a == part) pool

/-- Map the page of a code address with X = 1, R = 1, W = 0 and S = 0 (R417), adding tables and a page from the pool where none is. -/
def mapFrom (s : State) (part : Nat) (va : Word) : Nat → Nat → List Nat → Option (Nat × List Nat × State)
  | 0, _, _ => none
  | l + 1, table, pool =>
    let ea := table + 8 * walkIndex va (l + 1)
    let pte := readD s ea
    if bitOf pte 0 && bitOf pte 1 then mapFrom s part va l (pteAddrOf pte) pool
    else if bitOf pte 0 then
      let leaf := (pte ||| 0x14#64) &&& ~~~0x28#64
      let e : TlbEntry := { log2 := leafLog2 (l + 1) pte, pte := leaf }
      some (leafPa e va / 4096 * 4096, pool, writeD s ea leaf)
    else match takePage s part pool with
      | none => none
      | some (a, rest) =>
        if l = 0 then some (a, rest, writeD s ea (at_ 12 (a / 4096) ||| 0x15#64))
        else mapFrom (writeD (clearRange s a (a + 4096)) ea (at_ 12 (a / 4096) ||| 3#64)) part va l a rest

/-- Map a page and fill it with the bytes of the segment from `off` up. -/
def loadPage (s : State) (p f : Nat) (j : LoadJob) (off : Nat) (pool : List Nat) : Except (Option XErr) (List Nat) × State :=
  let n := Nat.min 4096 ((imgD j.header 1).toNat - off)
  let r := segBytes s f j off n
  andThen (r.1.mapError some, r.2) (fun bs s1 =>
    match mapFrom s1 p (slotBase j.index + BitVec.ofNat 64 off) 4 (bitsOf (getField s1 f).xlateRoot 49 21 * 2 ^ 21) pool with
    | none => (.error none, s1)
    | some (pa, rest, s2) => (.ok rest, writeBytes ((List.range 64).foldl (fun u k => homeWrite u (pa + 64 * k)) s2) pa bs))

/-- Copy the pages of the segment (step 2 of R417). DESIGN CHOICE, log entry 65. -/
def loadPages (s : State) (p f : Nat) (j : LoadJob) (off : Nat) (pool : List Nat) : Nat → Except (Option XErr) (List Nat) × State
  | 0 => (.ok pool, s)
  | n + 1 => andThen (loadPage s p f j off pool) (fun rest s1 => loadPages s1 p f j (off + 4096) rest n)

/-- The bytes of a data section with ENTRY.MODULE of a launch record at byte `o` set to the module's index (R151, R228, R230). -/
def relModule (idx : Nat) (bs : List Byte) (o : Nat) : List Byte :=
  if o + 256 ≤ bs.length then
    let hi := (bs.getD (o + 0x49) 0).toNat / 16 * 16 + idx / 256 % 16
    setAt (setAt bs (o + 0x48) (BitVec.ofNat 8 idx)) (o + 0x49) (BitVec.ofNat 8 hi)
  else bs

/-- Copy the data sections (step 2 of R417, R421): triples of source, destination and length up to a zero length. The loader completes the launch records
in them through REL_MOD (R228, R230); where they lie is the tools' (DESIGN CHOICE, log entry 81). -/
def loadData (s : State) (f : Nat) (j : LoadJob) (va : Word) : Nat → Except XErr Unit × State
  | 0 => (.ok (), s)
  | n + 1 =>
    andThen (jobBytes s f va 24) (fun l s1 =>
      let w := wordsOf 3 l
      if imgD w 2 = 0 then (.ok (), s1)
      else andThen (jobBytes s1 f (imgD w 0) (imgD w 2).toNat) (fun bs s2 =>
        andThen (jobStore s2 f (imgD w 1) ((Config.launchRecords j.header (imgD w 1)).foldl (relModule j.index) bs)) (fun _ s3 =>
          loadData s3 f j (va + 24) n)))

/-- Store the sections of a translated module (step 2 of R417, R422). -/
def loadSections (s : State) (f : Nat) (j : LoadJob) : List (Word × List Byte) → Except XErr Unit × State
  | [] => (.ok (), s)
  | (va, bs) :: r => andThen (jobStore s f va ((Config.launchRecords j.header va).foldl (relModule j.index) bs)) (fun _ s1 => loadSections s1 f j r)

/-- Write doublewords of a module-table entry, by the firmware (R414). -/
def putEntry (s : State) (f i : Nat) (ws : List Word) : State :=
  match moduleVa s f i with
  | none => s
  | some va => match partWriteWords s f va .supervisor ws with
    | .ok u => u
    | .error _ => countSupFault s f

/-- Store STATE of an entry (R414, R417, R418), with the version and the GEN given. -/
def putState (s : State) (f i st ver gen : Nat) : State := putEntry s f i [at_ 32 gen ||| at_ 16 ver ||| at_ 0 st]

/-- A load fails after its entry was taken: the table stands as before the request (R420). -/
def failJob (s : State) (p : Nat) (j : LoadJob) (code detail : Nat) : State :=
  endJob (putEntry s (jobField s p) j.index j.old) p j code detail

/-- The first stage of a load (R417, step 1). -/
def loadCheck (s : State) (p : Nat) (j : LoadJob) : State :=
  let f := jobField s p
  let want := { j with index := bitsOf (reqD j 0) 27 16 }
  match jobRefused s p j with
  | some c => endJob s p want c 0
  | none =>
    let r := checkLoad s p f j
    match r.1 with
    | .error (c, d) => endJob r.2 p want c d
    | .ok k => putState (updJob r.2 p (fun _ => { k with stage := k.stage + 1 })) f k.index 1 (bitsOf (imgD k.header 0) 31 16) (bitsOf (imgD k.old 0) 63 32)

/-- The second stage of a load (R417, step 2): none while the firmware has not taken enough pages. -/
def loadCopy (s : State) (p : Nat) (j : LoadJob) : Option State :=
  let f := jobField s p
  let r := loadPages s p f j 0 j.pages (((imgD j.header 1).toNat + 4095) / 4096)
  match r.1 with
  | .error none => none
  | .error (some _) => some (failJob r.2 p j 7 0)
  | .ok _ =>
    let d := if reqOp j = 2 then loadSections r.2 f j (Config.zogSections j.graph j.run) else loadData r.2 f j (imgD j.header 7) (2 ^ 32)
    match d.1 with
    | .error _ => some (failJob d.2 p j 7 0)
    | .ok _ => some (updJob d.2 p (fun a => { a with stage := a.stage + 1 }))

/-- The fourth stage of a load (R417, step 4): the entry is written and goes LIVE, and its classes are registered (R425). -/
def loadLive (s : State) (p : Nat) (j : LoadJob) : State :=
  let f := jobField s p
  let h := j.header
  let s1 := match moduleVa s f j.index with
    | none => s
    | some va => match partWriteWords s f (va + 8) .supervisor [imgD h 1, imgD h 3, imgD h 4, imgD h 5, imgD h 6, 0, 0] with
      | .ok u => u
      | .error _ => countSupFault s f
  let s2 := putState s1 f j.index 2 (bitsOf (imgD h 0) 31 16) ((bitsOf (imgD j.old 0) 63 32 + 1) % 2 ^ 32)
  let r := needOf s2 f j
  updJob (match r.1 with
    | .ok es => updPart r.2 p (fun q => addClasses q j.index es)
    | .error _ => r.2) p (fun a => { a with stage := a.stage + 1 })

/-- One stage of a load (R417). The stages are its steps 1 to 4 and 5. A copy that needs more pages than the firmware has taken for it goes
on when it is given more; a request that names the scratch of a tile which takes nothing now waits (R143). -/
def loadStage (s : State) (p : Nat) (j : LoadJob) : State :=
  let next := fun (u : State) => if (jobOf u p).isSome then schedule u u.tile.id [(.moduleLoad, [p])] else u
  if jobHeld s (jobField s p) j then next s
  else match j.stage with
  | 0 => next (loadCheck s p j)
  | 1 => (match loadCopy s p j with
    | none => s
    | some u => next u)
  | 2 => next (updJob (fenceLines (dropLeaves s p (slotBase j.index).toNat (2 ^ 32)) (tileIn (jobField s p) 0 0) (slotBase j.index).toNat (2 ^ 32) 3) p
      (fun a => { a with stage := a.stage + 1 }))
  | 3 => next (loadLive s p j)
  | _ => endJob s p j 1 0

/-- MODULE_LOAD (R414 to R417, R419 to R422, R425) of partition argument 0: the next stage of its request in progress. The arguments that
follow are the physical pages that the firmware takes for it. -/
def execModuleLoad (s : State) : Host.Outcome State Fault Refusal :=
  event (fun s =>
    let p := argAt s 0
    match jobOf s p with
    | none => s
    | some j =>
      if reqOp j = 3 then s
      else if (getField s (jobField s p)).updating.isSome then again s .moduleLoad
      else
        let s1 := updJob s p (fun a => { a with pages := a.pages ++ s.arg.drop 1 })
        loadStage s1 p { j with pages := j.pages ++ s.arg.drop 1 }) s

/- Unloading -/

/-- Does an address lie in a configuration image of a module, one of at most 1,024 tile images that its image table names (R347, R414)?
DEDUCED, log entry 91. -/
def inImages (s : State) (f : Nat) (e : List Word) (va : Word) : Bool :=
  (List.range (e.getD 5 0).toNat).any (fun k => match partReadD s f (e.getD 4 0 + BitVec.ofNat 64 (8 * k)) with
    | .ok (b, _) => decide (b.toNat ≤ va.toNat ∧ va.toNat < b.toNat + 2 ^ 19 ∧ (va.toNat - b.toNat) % 512 = 0)
    | .error _ => false)

/-- Was the image of a plane loaded from one of the images of module `i`, whose entry is `e` (R416)? -/
def fromModule (s : State) (f : Nat) (e : List Word) (i : Nat) : Option ImageSource → Bool
  | none => false
  | some (.table m) => m == i
  | some (.address va) => inImages s f e va

/-- Is a module referenced by a tile of its partition (R416): the tile has touched its slot, or its set of touched slots is full, or its active or shadow
configuration was loaded from one of its images? -/
def moduleReferenced (s : State) (p i : Nat) : Bool :=
  (allTiles s).any (fun t =>
    let u := getTile s t
    partOfTile s t == some p && (u.touchFull || decide (16 ≤ u.touch.length) || u.touch.contains i || fromModule s (fieldOf t) (moduleEntry s (fieldOf t) i) i u.activeImg ||
      fromModule s (fieldOf t) (moduleEntry s (fieldOf t) i) i u.shadowImg))

/-- MODULE_UNLOAD (R418) of partition argument 0: the entry becomes RETIRING. -/
def execModuleUnload (s : State) : Host.Outcome State Fault Refusal :=
  event (fun s =>
    let p := argAt s 0
    match jobOf s p with
    | none => s
    | some j0 =>
      if reqOp j0 ≠ 3 ∨ j0.stage ≠ 0 then s
      else
        let f := jobField s p
        let j := { j0 with index := bitsOf (reqD j0 0) 27 16 }
        match jobRefused s p j with
        | some c => endJob s p j c 0
        | none =>
          let e := moduleEntry s f j.index
          let s0 := (moduleRead s f j.index).2
          if moduleState e ≠ 2 then endJob s0 p j 6 0
          else
            let s1 := putState s0 f j.index 3 (bitsOf (imgD e 0) 31 16) (bitsOf (imgD e 0) 63 32)
            schedule (updJob s1 p (fun _ => { j with stage := 1, old := e })) s1.tile.id [(.unloadRelease, [p])]) s

/-- Unmap a slot (R418): its 4 GiB are four entries of level 3. DESIGN CHOICE, log entry 65. -/
def unmapSlot (s : State) (f i : Nat) : State :=
  let va := slotBase i
  let l4 := readD s (bitsOf (getField s f).xlateRoot 49 21 * 2 ^ 21 + 8 * walkIndex va 4)
  if bitOf l4 0 && bitOf l4 1 then
    (List.range 4).foldl (fun u k => writeD u (pteAddrOf l4 + 8 * (walkIndex va 3 + k)) 0) s
  else s

/-- UNLOAD_RELEASE (R418, R425) of partition argument 0: once no tile references the module, its slot is unmapped and its entry empty. -/
def execUnloadRelease (s : State) : Host.Outcome State Fault Refusal :=
  event (fun s =>
    let p := argAt s 0
    match jobOf s p with
    | none => s
    | some j =>
      if reqOp j ≠ 3 ∨ j.stage ≠ 1 then s
      else if moduleReferenced s p j.index then again s .unloadRelease
      else
        let f := jobField s p
        let s1 := dropLeaves (unmapSlot s f j.index) p (slotBase j.index).toNat (2 ^ 32)
        let s2 := putState s1 f j.index 0 0 (bitsOf (imgD j.old 0) 63 32)
        endJob (updPart s2 p (fun q => dropClasses q j.index)) p j 1 0) s

/- Attestation and power-on -/

/-- The eight doublewords of a measurement. -/
def measureWords (unit image : Nat) : List Word :=
  let m := Config.firmwareMeasurement (unit + 128 * image)
  (List.range 8).map (fun i => m.extractLsb' (64 * i) 64)

/-- The measurements in unit order (R427): the root of trust, the fields, the cisterns, the conduits. -/
def allMeasurements (s : State) : List Word :=
  measureWords 0 (smGet 0 s.firmRun 0) ++
  (setBits 48 s.presentFields.toNat).flatMap (fun f => measureWords (1 + f) (getField s f).firmware) ++
  (setBits 24 s.presentCisterns.toNat).flatMap (fun c => measureWords (49 + c) (smGet 0 s.firmRun (49 + c))) ++
  (setBits 4 s.presentConduits.toNat).flatMap (fun c => measureWords (73 + c) (smGet 0 s.firmRun (73 + c)))

/-- ATTESTATION_REQUEST (R427) with the eight doublewords of the nonce. -/
def execAttestationRequest (s : State) : Host.Outcome State Fault Refusal :=
  event (fun s =>
    let nonce := (List.range 8).map (fun i => BitVec.ofNat 64 (argAt s i))
    let body := nonce ++ [BitVec.ofNat 64 (s.fleetId % 16)] ++ (List.range 32).map (describeWord s) ++ [BitVec.ofNat 64 Config.zogVersion] ++ allMeasurements s
    tellHost s (.report (body ++ Config.signature body))) s

/-- POWER_ON (R24, R25, R426): the module comes up as after reset, each unit with the image that the firmware store holds for it; a unit whose firmware fails
its check is absent, and the failure is recorded. Where the root of trust's own image fails, no image is started (DEDUCED, log entry 69). What memory holds is
open (DESIGN CHOICE, log entry 9); the flash, the firmware store, the fleet identifier and the capacities of the parts stay. DESIGN CHOICE, log entry 65. -/
def execPowerOn (s : State) : Host.Outcome State Fault Refusal :=
  event (fun s =>
    let root := Config.firmwareVerifies 76 (storedImage s 0)
    let bad := fun (u : Nat) => !root || !Config.firmwareVerifies (u - 1) (storedImage s u)
    let fs := ((List.range 48).filter s.presentFields.getLsbD).filter (fun f => bad (1 + f))
    let cs := ((List.range 24).filter s.presentCisterns.getLsbD).filter (fun c => bad (49 + c))
    let ds := ((List.range 4).filter s.presentConduits.getLsbD).filter (fun d => bad (73 + d))
    let mask := fun (l : List Nat) => l.foldl (fun a i => a + 2 ^ i) 0
    let up : State := { State.reset with
      presentFields := s.presentFields
      presentCisterns := s.presentCisterns &&& ~~~BitVec.ofNat 24 (mask cs)
      presentConduits := s.presentConduits &&& ~~~BitVec.ofNat 4 (mask ds)
      rillTrained := s.rillTrained, capacityGB := s.capacityGB, hbmChannels := s.hbmChannels, fleetId := s.fleetId, firmStore := s.firmStore
      firmRun := (0 :: (List.range 28).map (· + 49)).foldl (fun m u => smSet m u (storedImage s u)) []
      conduits := s.conduits.map (fun e => (e.1, { lambda := e.2.lambda, lambdaRx := e.2.lambdaRx }))
      fields := (List.range 48).foldl (fun m f => smSet m f { firmware := storedImage s (1 + f), bypass := (getField s f).bypass }) []
      lifetime := { s.lifetime with failures := s.lifetime.failures ++ (if root then [] else [76]) ++ cs.map (· + 48) ++ ds.map (· + 72) }
      freeCtr := s.freeCtr }
    havocRange (fs.foldl failField up) 0 (2 ^ 53)) s

end Sys2Proof.Machine
end

