-- ==== Sys2Proof/Machine/Hardware.lean ====
section
/-! DEFINITION. What happens around an instruction: the order of events at an instruction boundary (R366), the fetch (R45, R74, R195, R216),
the parks that stand before an instruction (R135, R137, R327, R363), the turns of the schedule (DESIGN CHOICE, log entry 3), and the dirty bits of
R372. The instructions themselves are a parameter, which the step gives. -/
namespace Sys2Proof.Machine

/-- The meanings of the instructions, as the step hands them over. -/
abbrev Meaning := Instr → State → Host.Outcome State Fault Refusal

/- Fetching an instruction -/

/-- What fetching a whole instruction finds (R195): its parcels, or the address whose line or translation is missing or may not be
fetched. -/
inductive Gathered where
  | parcels (w x y : Parcel)
  | line (va : Word)
  | xlate (va : Word)
  | bad (va : Word) (e : XErr)

/-- One parcel at an address of the current tile, handed on, or what stands in its way. -/
def withParcel (s : State) (va : Word) (k : Parcel → Gathered) : Gathered :=
  match fetchAt s s.tile.id va s.tile.mode with
  | .bits b off => k (b.extractLsb' (8 * off) 32)
  | .line => .line va
  | .xlate => .xlate va
  | .bad e => .bad va e

/-- The instruction at the pc: its first parcel says how many follow (R195). -/
def gather (s : State) : Gathered :=
  withParcel s s.tile.pc (fun w =>
    match lengthOf w with
    | 1 => .parcels w 0 0
    | 2 => withParcel s (s.tile.pc + 4) (fun x => .parcels w x 0)
    | _ => withParcel s (s.tile.pc + 4) (fun x => withParcel s (s.tile.pc + 8) (fun y => .parcels w x y)))

/-- The thread waits for the fetch of its instruction (R45, R68, R74). -/
def fetchWait (s : State) (va : Word) (xlate : Bool) : State := stopStep s (fetchStop s va xlate)

/-- A fetch that finds its line demands it as well: where the thread's last fetch demanded another, sequential prefetches follow (R71). -/
def fetchHit (s : State) (len : Nat) : State :=
  let last := (s.tile.pc.toNat + 4 * len - 1) / 64
  if s.tile.lastLine = some last then s
  else demandFetched s false (if s.tile.pc.toNat / 64 = last then s.tile.pc else BitVec.ofNat 64 (64 * last))

/-- The class that a rejected encoding raises (R216). -/
def Reject.cls : Reject → Nat
  | .major => 1 | .minor => 2 | .reserved => 3 | .operand _ => 4 | .raw _ => 5 | .switchWord => 6 | .short => 2

/-- An encoding that is not an instruction raises ILLEGAL. A raw field out of its values is checked after the stream bindings that the
instruction names (R216), which its meaning tests first; while a trap is served either kills the tile (R361). DEDUCED, log entry 48. -/
def rejectStep (ex : Meaning) (s : State) (r : Reject) : State :=
  let five := takeTrap s { cause := .illegal, cls := Reject.cls r }
  match r with
  | .raw i =>
    if bitsOf s.tile.trapCause 3 0 ≠ 0 then five
    else (match ex i s with
     | .next u => if bitsOf u.tile.trapCause 3 0 = Cause.illegal.code ∧ bitsOf u.tile.trapCause 11 8 = 4 then u else five
     | _ => five)
  | _ => five

/-- Decode and execute, after the park that the P bit asks for (R136, R195). DEDUCED, log entry 48. -/
def runParcels (ex : Meaning) (s : State) (w x y : Parcel) : Host.Outcome State Fault Refusal :=
  if parkBit w && !s.tile.longBuf.isEmpty then .next (parkStep s)
  else match decode w x y with
    | .ok i => ex i s
    | .error r => .next (rejectStep ex s r)

/-- A turn of a thread that stands while an entry of its handler table is PENDING: HSET has counted its cycles (R327, R138).
DEDUCED, log entry 62. -/
def pendingStep (s : State) : State :=
  let cs := (List.range 64).filter s.tile.htPending
  schedule { onTile s (fun t => { t with wait := some .dep, waitPoint := false }) with time := s.time + 1 } s.tile.id (cs.map (fun c => (.hsetPendingClear, [c])))

/-- What the thread does when no event of R366 comes before its instruction: a trap whose park waits is taken when it can be (R361), a park for a handler
selection goes on (R136), an IDLE waits, a swap that raised STRAY is made again (R163), an entry of
the handler table that is PENDING stalls it (R327), a replay parks (R137, R363), and then the instruction at the pc is fetched, decoded and executed.
DEDUCED, log entry 61. DEDUCED, log entry 62. -/
def threadBody (ex : Meaning) (s : State) : Host.Outcome State Fault Refusal :=
  let t := s.tile
  if let some i := t.pendTrap then .next (takeTrap s i)
  else if t.selPark && !t.longBuf.isEmpty then .next (selParkStep s)
  else if t.run = .idling then .next (waitStep s .idle true [])
  else if swapOwed s then event swapAgain s
  else if (List.range 64).any t.htPending then .next (pendingStep s)
  else if t.parkNext && !t.longBuf.isEmpty then .next (parkStep s)
  else
    let s1 := if t.parkNext then onTile s (fun u => { u with parkNext := false }) else s
    match gather s1 with
    | .parcels w x y => runParcels ex (fetchHit s1 (lengthOf w)) w x y
    | .line va => .next (fetchWait s1 va false)
    | .xlate va => .next (fetchWait s1 va true)
    | .bad va e => .next (takeTrap s1 (faultTrap (fetchFault false va e) false))

/- The instruction boundary -/

/-- Did the instruction raise a trap or kill the tile, or does it park on the way to a trap? -/
def trapped (s r : State) : Bool :=
  (bitsOf s.tile.trapCause 3 0 == 0 && bitsOf r.tile.trapCause 3 0 != 0) || r.tile.run == .killed || (r.tile.wait == some .park && !r.tile.longBuf.isEmpty)

/-- Does the thread of a tile take turns? -/
def Tile.threadActive (t : Tile) : Bool := (t.run == .running || t.run == .idling) && !t.cutMarked

/-- Have a tile's sequencers left the schedule: has it been killed, or stopped by a cut? -/
def Tile.still (t : Tile) : Bool := t.cutMarked || t.run == .killed

/-- A turn of a tile whose thread takes none: it idles with no active configuration and after EXIT (R138); a killed tile and one that a cut has stopped
count nothing. -/
def idleTurn (t : Tile) : Tile := if t.still then t else t.countCycle false (some 17)

/-- One turn of the current tile's thread, with the events of an instruction boundary in the order of R366: a kill, a pre-emption stop, the
trap of the instruction, the switch's ILLEGAL, handler selection, and then the instruction. DEDUCED, log entry 48. -/
def threadTurn (ex : Meaning) (s : State) : Host.Outcome State Fault Refusal :=
  let t := s.tile
  if !t.threadActive then event (fun u => onTile u idleTurn) s
  else if t.cancelled && t.cutOf.isNone && t.killPoint then event (fun u => endTile u t.id) s
  else match stopForCut s with
    | some r => .next r
    | none => match threadBody ex s with
      | .next r =>
        if trapped s r then .next r
        else match raiseSwitch s with
          | some u => .next u
          | none => .next ((selectStep s).getD r)
      | o => o

/-- One turn of the current tile's switch (R69, R329, R334); it stops at its next step when its task is cancelled (R342), and stands still once a cut has
begun (R369). -/
def switchCycle (ex : Meaning) (s : State) : Host.Outcome State Fault Refusal :=
  if s.tile.still || s.tile.cutOf.isSome then event id s
  else if s.tile.cancelled && s.tile.sw.active then event swCancel s
  else match switchTurn s with
    | (s1, none) => event id s1
    | (s1, some i) => ex i s1

/- The schedule -/

/-- The state that an outcome reaches, changed. -/
def onNext (o : Host.Outcome State Fault Refusal) (g : State → State) : Host.Outcome State Fault Refusal :=
  match o with
  | .next s => .next (g s)
  | x => x

/-- The thread of tile `t` stays in the schedule. -/
def keepThread (t : Nat) (s : State) : State := if (getTile s t).still then s else addTurn s (.thread t)

/-- The switch of tile `t` stays in the schedule. -/
def keepSwitch (t : Nat) (s : State) : State := if (getTile s t).still then s else addTurn s (.switch t)

/-- Is a row of the opcode table a step of the hardware, which has no encoding? DESIGN CHOICE, log entry 3. -/
def isHardwareStep (i : Instr) : Bool := (encode 0 i).isEmpty

/-- One entry of the schedule is performed. DESIGN CHOICE, log entry 3. -/
def performTurn (ex : Meaning) (s : State) : Turn → Host.Outcome State Fault Refusal
  | .thread t => onNext (threadTurn ex (focus s t)) (keepThread t)
  | .switch t => onNext (switchCycle ex (focus s t)) (keepSwitch t)
  | .event t i args => if isHardwareStep i then ex i { focus s t with arg := args } else .refused .notAnEvent

/-- The entry whose turn it is, and the schedule without it; with nothing scheduled, the current tile's thread has its turn.
DESIGN CHOICE, log entry 3. -/
def nextTurn (s : State) : Turn × State :=
  match s.agenda with
  | [] => (.thread s.tile.id, s)
  | e :: r => (e, { s with agenda := r })

/- Dirty bits -/

/-- Do two states of a tile agree on a register group of R372? -/
def sameGroup (a b : Tile) : Nat → Bool
  | 0 => a.x == b.x && a.intr.map (·.bank) == b.intr.map (·.bank) && a.trapBank == b.trapBank
  | 1 => a.v == b.v && a.m == b.m && a.la == b.la
  | 2 => a.pc == b.pc && a.counters == b.counters && a.loops == b.loops && a.coreStatus == b.coreStatus && a.fmt == b.fmt && a.scale == b.scale &&
      a.htPc == b.htPc && a.htCtl == b.htCtl && a.trapCause == b.trapCause && a.trapPc == b.trapPc && a.trapVec == b.trapVec && a.touch == b.touch &&
      a.touchFull == b.touchFull && a.bankToken == b.bankToken && a.bankSucc == b.bankSucc && a.tileSplit == b.tileSplit && a.cfgTag == b.cfgTag && a.qlock == b.qlock &&
      [a.xfaultVa, a.xfaultInfo, a.classInfo, a.strayInfo, a.cwaitGen, a.replayPc, a.residueInfo, a.topoInfo, a.passPc, a.fetchCtl, a.inboxInfo,
        a.tokenCfg, a.qrecCtl, a.optSend, a.corrCnt, a.discardCnt] ==
      [b.xfaultVa, b.xfaultInfo, b.classInfo, b.strayInfo, b.cwaitGen, b.replayPc, b.residueInfo, b.topoInfo, b.passPc, b.fetchCtl, b.inboxInfo,
        b.tokenCfg, b.qrecCtl, b.optSend, b.corrCnt, b.discardCnt]
  | 3 => a.inbox == b.inbox && a.report == b.report && a.sendQ == b.sendQ && a.barRec == b.barRec
  | 4 => a.streams == b.streams && a.outSeq == b.outSeq
  | 5 => a.sw == b.sw && a.swIn == b.swIn && a.coreIn == b.coreIn && a.coreOut == b.coreOut && a.bq == b.bq && a.emq == b.emq &&
      a.chan == b.chan && a.carried == b.carried
  | 6 => a.sub == b.sub
  | _ => a.replay == b.replay && a.longBuf == b.longBuf && a.passed == b.passed && a.copies == b.copies && a.ports == b.ports && a.weirs == b.weirs && a.cutFlags == b.cutFlags

/-- Set the dirty bits of the register groups in which a tile has changed (R372); a step that cleared or set them itself, as one that gives the tile
another task does, has the last word. -/
def markGroups (a b : Tile) : Tile :=
  if a.launch ≠ b.launch ∨ a.dirtyGroups ≠ b.dirtyGroups then b
  else { b with dirtyGroups := (List.range 8).filter (fun g => b.dirtyGroups.contains g || !sameGroup a b g) }

/-- Set the dirty bits of every tile that a step changed (R372). -/
def markDirty (s r : State) : State :=
  { r with
    tile := markGroups (getTile s r.tile.id) r.tile
    others := r.others.map (fun e => (e.1, markGroups (getTile s e.1) e.2)) }

/-- A whole step: the turn of the next entry of the schedule, with the dirty bits that it sets. -/
def wholeStep (ex : Meaning) (s : State) : Host.Outcome State Fault Refusal :=
  let (t, s1) := nextTurn s
  onNext (performTurn ex s1 t) (markDirty s)

/- Placing one instruction -/

/-- The instruction's bytes where a fetch at `va` finds them: the line at a physical line address that holds what falls into it. -/
def primedLine (va : Word) (bytes : List Byte) (line : Nat) : ILine :=
  let base := va.toNat % 2 ^ 50
  let lo := 64 * line
  { pa := line
    bytes := BitVec.ofNat 512 (numOf ((List.range 64).map (fun k => if base ≤ lo + k then bytes.getD (lo + k - base) 0 else 0))) }

/-- A leaf that lets the page of an address be fetched, at the physical address with the same low 50 bits. -/
def primedLeaf (part : Nat) (va : Word) : TlbEntry :=
  { vaBase := va.toNat / 4096 * 4096, log2 := 12, pte := at_ 12 (va.toNat / 4096 % 2 ^ 38) ||| 0x55#64, part := part }

/-- Put bytes where the current tile fetches at `va`: translation is enabled in its field, and its translation buffer and its first-level cache hold
them. DESIGN CHOICE, log entry 7. -/
def primeFetch (s : State) (va : Word) (bytes : List Byte) : State :=
  let line := va.toNat % 2 ^ 50 / 64
  let part := partNo s s.tile.id
  onTile (updField s (fieldOf s.tile.id) (fun f => { f with xlateRoot := f.xlateRoot ||| 1 })) (fun t => { t with
    tlb := [primedLeaf part va, primedLeaf part (va + 64)] ++ t.tlb
    icache := [primedLine va bytes line, primedLine va bytes (line + 1)] ++ t.icache })

/-- Let the thread of the current tile run the instruction with these bytes next. DESIGN CHOICE, log entry 7. -/
def placeThread (s : State) (bytes : List Byte) : State :=
  let ready := onTile s (fun t => { t with
    run := .running, wait := none, waitPoint := false, parkNext := false, selPark := false, pendTrap := none, fetchMiss := none, cutOf := none, cutMarked := false
    lastLine := some (t.pc.toNat / 64) })
  { primeFetch ready s.tile.pc bytes with agenda := [] }

/-- Let the switch of the current tile run the word with these bytes next, as the first word of the longest program.
DESIGN CHOICE, log entry 7. -/
def placeSwitch (s : State) (bytes : List Byte) : State :=
  let va := s.tile.pc &&& ~~~7#64
  { primeFetch (onTile s (fun t => { t with sw := { base := va, len := 65536, st := .running }, swMiss := none, cutOf := none, cutMarked := false })) va bytes with
      agenda := [.switch s.tile.id] }

end Sys2Proof.Machine
end

