-- ==== Sys2Proof/Machine/Dispatch.lean ====
section
/-! DEFINITION. One arm for each instruction: a direct call of its meaning. -/
namespace Sys2Proof.Machine

def exec (i : Instr) (s : State) : Host.Outcome State Fault Refusal :=
  match i with
  | .add d a b => Sys2Proof.Machine.execAdd d a b s
  | .sub d a b => Sys2Proof.Machine.execSub d a b s
  | .mul d a b => Sys2Proof.Machine.execMul d a b s
  | .mulh d a b => Sys2Proof.Machine.execMulh d a b s
  | .mulhu d a b => Sys2Proof.Machine.execMulhu d a b s
  | .div d a b => Sys2Proof.Machine.execDiv d a b s
  | .divu d a b => Sys2Proof.Machine.execDivu d a b s
  | .rem d a b => Sys2Proof.Machine.execRem d a b s
  | .remu d a b => Sys2Proof.Machine.execRemu d a b s
  | .and d a b => Sys2Proof.Machine.execAnd d a b s
  | .or d a b => Sys2Proof.Machine.execOr d a b s
  | .xor d a b => Sys2Proof.Machine.execXor d a b s
  | .andn d a b => Sys2Proof.Machine.execAndn d a b s
  | .orn d a b => Sys2Proof.Machine.execOrn d a b s
  | .xnor d a b => Sys2Proof.Machine.execXnor d a b s
  | .shl d a b => Sys2Proof.Machine.execShl d a b s
  | .shr d a b => Sys2Proof.Machine.execShr d a b s
  | .sar d a b => Sys2Proof.Machine.execSar d a b s
  | .rol d a b => Sys2Proof.Machine.execRol d a b s
  | .min d a b => Sys2Proof.Machine.execMin d a b s
  | .max d a b => Sys2Proof.Machine.execMax d a b s
  | .minu d a b => Sys2Proof.Machine.execMinu d a b s
  | .maxu d a b => Sys2Proof.Machine.execMaxu d a b s
  | .seq d a b => Sys2Proof.Machine.execSeq d a b s
  | .sne d a b => Sys2Proof.Machine.execSne d a b s
  | .slt d a b => Sys2Proof.Machine.execSlt d a b s
  | .sltu d a b => Sys2Proof.Machine.execSltu d a b s
  | .sel d a b => Sys2Proof.Machine.execSel d a b s
  | .clz d a => Sys2Proof.Machine.execClz d a s
  | .ctz d a => Sys2Proof.Machine.execCtz d a s
  | .popc d a => Sys2Proof.Machine.execPopc d a s
  | .brev d a => Sys2Proof.Machine.execBrev d a s
  | .bswap d a => Sys2Proof.Machine.execBswap d a s
  | .addImm d a imm => Sys2Proof.Machine.execAddImm d a imm s
  | .mulImm d a imm => Sys2Proof.Machine.execMulImm d a imm s
  | .andImm d a imm => Sys2Proof.Machine.execAndImm d a imm s
  | .orImm d a imm => Sys2Proof.Machine.execOrImm d a imm s
  | .xorImm d a imm => Sys2Proof.Machine.execXorImm d a imm s
  | .seqImm d a imm => Sys2Proof.Machine.execSeqImm d a imm s
  | .sneImm d a imm => Sys2Proof.Machine.execSneImm d a imm s
  | .sltImm d a imm => Sys2Proof.Machine.execSltImm d a imm s
  | .sltuImm d a imm => Sys2Proof.Machine.execSltuImm d a imm s
  | .shlImm d a n => Sys2Proof.Machine.execShlImm d a n s
  | .shrImm d a n => Sys2Proof.Machine.execShrImm d a n s
  | .sarImm d a n => Sys2Proof.Machine.execSarImm d a n s
  | .rolImm d a n => Sys2Proof.Machine.execRolImm d a n s
  | .sext d a w => Sys2Proof.Machine.execSext d a w s
  | .zext d a w => Sys2Proof.Machine.execZext d a w s
  | .extr d a o l => Sys2Proof.Machine.execExtr d a o l s
  | .insr d a o l => Sys2Proof.Machine.execInsr d a o l s
  | .li d imm => Sys2Proof.Machine.execLi d imm s
  | .addpc d imm => Sys2Proof.Machine.execAddpc d imm s
  | .beq a b d => Sys2Proof.Machine.execBeq a b d s
  | .bne a b d => Sys2Proof.Machine.execBne a b d s
  | .blt a b d => Sys2Proof.Machine.execBlt a b d s
  | .bge a b d => Sys2Proof.Machine.execBge a b d s
  | .bltu a b d => Sys2Proof.Machine.execBltu a b d s
  | .bgeu a b d => Sys2Proof.Machine.execBgeu a b d s
  | .bz t imm => Sys2Proof.Machine.execBz t imm s
  | .bnz t imm => Sys2Proof.Machine.execBnz t imm s
  | .jmp d => Sys2Proof.Machine.execJmp d s
  | .call d => Sys2Proof.Machine.execCall d s
  | .callr a c => Sys2Proof.Machine.execCallr a c s
  | .loop a d => Sys2Proof.Machine.execLoop a d s
  | .ldb d a imm => Sys2Proof.Machine.execLdb d a imm s
  | .ldbu d a imm => Sys2Proof.Machine.execLdbu d a imm s
  | .ldh d a imm => Sys2Proof.Machine.execLdh d a imm s
  | .ldhu d a imm => Sys2Proof.Machine.execLdhu d a imm s
  | .ldw d a imm => Sys2Proof.Machine.execLdw d a imm s
  | .ldwu d a imm => Sys2Proof.Machine.execLdwu d a imm s
  | .ldd d a imm => Sys2Proof.Machine.execLdd d a imm s
  | .stb d a imm => Sys2Proof.Machine.execStb d a imm s
  | .sth d a imm => Sys2Proof.Machine.execSth d a imm s
  | .stw d a imm => Sys2Proof.Machine.execStw d a imm s
  | .std d a imm => Sys2Proof.Machine.execStd d a imm s
  | .vld d a m o => Sys2Proof.Machine.execVld d a m o s
  | .vst d a m o => Sys2Proof.Machine.execVst d a m o s
  | .vlds d a m b => Sys2Proof.Machine.execVlds d a m b s
  | .vsts d a m b => Sys2Proof.Machine.execVsts d a m b s
  | .vldx d a m b => Sys2Proof.Machine.execVldx d a m b s
  | .vstx d a m b => Sys2Proof.Machine.execVstx d a m b s
  | .amoSwap d a b => Sys2Proof.Machine.execAmoSwap d a b s
  | .amoAdd d a b => Sys2Proof.Machine.execAmoAdd d a b s
  | .amoAnd d a b => Sys2Proof.Machine.execAmoAnd d a b s
  | .amoOr d a b => Sys2Proof.Machine.execAmoOr d a b s
  | .amoXor d a b => Sys2Proof.Machine.execAmoXor d a b s
  | .amoMin d a b => Sys2Proof.Machine.execAmoMin d a b s
  | .amoMax d a b => Sys2Proof.Machine.execAmoMax d a b s
  | .amoMinu d a b => Sys2Proof.Machine.execAmoMinu d a b s
  | .amoMaxu d a b => Sys2Proof.Machine.execAmoMaxu d a b s
  | .amoFadd d a b => Sys2Proof.Machine.execAmoFadd d a b s
  | .cas d a b => Sys2Proof.Machine.execCas d a b s
  | .redAdd a b => Sys2Proof.Machine.execRedAdd a b s
  | .redAnd a b => Sys2Proof.Machine.execRedAnd a b s
  | .redOr a b => Sys2Proof.Machine.execRedOr a b s
  | .redXor a b => Sys2Proof.Machine.execRedXor a b s
  | .redMin a b => Sys2Proof.Machine.execRedMin a b s
  | .redMax a b => Sys2Proof.Machine.execRedMax a b s
  | .redMinu a b => Sys2Proof.Machine.execRedMinu a b s
  | .redMaxu a b => Sys2Proof.Machine.execRedMaxu a b s
  | .redFadd a b => Sys2Proof.Machine.execRedFadd a b s
  | .redfAdd f a b => Sys2Proof.Machine.execRedfAdd f a b s
  | .redfAnd f a b => Sys2Proof.Machine.execRedfAnd f a b s
  | .redfOr f a b => Sys2Proof.Machine.execRedfOr f a b s
  | .redfXor f a b => Sys2Proof.Machine.execRedfXor f a b s
  | .redfMin f a b => Sys2Proof.Machine.execRedfMin f a b s
  | .redfMax f a b => Sys2Proof.Machine.execRedfMax f a b s
  | .redfMinu f a b => Sys2Proof.Machine.execRedfMinu f a b s
  | .redfMaxu f a b => Sys2Proof.Machine.execRedfMaxu f a b s
  | .redfFadd f a b => Sys2Proof.Machine.execRedfFadd f a b s
  | .xfence s2 t => Sys2Proof.Machine.execXfence s2 t s
  | .waitge a b => Sys2Proof.Machine.execWaitge a b s
  | .waitne a b => Sys2Proof.Machine.execWaitne a b s
  | .barinit a b => Sys2Proof.Machine.execBarinit a b s
  | .bararv a => Sys2Proof.Machine.execBararv a s
  | .barwt a b => Sys2Proof.Machine.execBarwt a b s
  | .copy a => Sys2Proof.Machine.execCopy a s
  | .copys a => Sys2Proof.Machine.execCopys a s
  | .copyg a => Sys2Proof.Machine.execCopyg a s
  | .ipref l a b => Sys2Proof.Machine.execIpref l a b s
  | .dpref a => Sys2Proof.Machine.execDpref a s
  | .cflush a => Sys2Proof.Machine.execCflush a s
  | .cinv a => Sys2Proof.Machine.execCinv a s
  | .sbind n a f s2 c r => Sys2Proof.Machine.execSbind n a f s2 c r s
  | .sbindv n a f s2 c r => Sys2Proof.Machine.execSbindv n a f s2 c r s
  | .sdrain v n => Sys2Proof.Machine.execSdrain v n s
  | .sstat v n d => Sys2Proof.Machine.execSstat v n d s
  | .eos v n l => Sys2Proof.Machine.execEos v n l s
  | .vadd d a b m r => Sys2Proof.Machine.execVadd d a b m r s
  | .vsub d a b m r => Sys2Proof.Machine.execVsub d a b m r s
  | .vmul d a b m r => Sys2Proof.Machine.execVmul d a b m r s
  | .vdiv d a b m r => Sys2Proof.Machine.execVdiv d a b m r s
  | .vfma d a b c m r => Sys2Proof.Machine.execVfma d a b c m r s
  | .vfms d a b c m r => Sys2Proof.Machine.execVfms d a b c m r s
  | .vfnma d a b c m r => Sys2Proof.Machine.execVfnma d a b c m r s
  | .vsqrt d a m r => Sys2Proof.Machine.execVsqrt d a m r s
  | .vmin d a b m => Sys2Proof.Machine.execVmin d a b m s
  | .vmax d a b m => Sys2Proof.Machine.execVmax d a b m s
  | .vabs d a m => Sys2Proof.Machine.execVabs d a m s
  | .vneg d a m => Sys2Proof.Machine.execVneg d a m s
  | .vcpys d a b m => Sys2Proof.Machine.execVcpys d a b m s
  | .vcmpEq d a b m => Sys2Proof.Machine.execVcmpEq d a b m s
  | .vcmpNe d a b m => Sys2Proof.Machine.execVcmpNe d a b m s
  | .vcmpLt d a b m => Sys2Proof.Machine.execVcmpLt d a b m s
  | .vcmpLe d a b m => Sys2Proof.Machine.execVcmpLe d a b m s
  | .vcmpUn d a b m => Sys2Proof.Machine.execVcmpUn d a b m s
  | .vcmpOrd d a b m => Sys2Proof.Machine.execVcmpOrd d a b m s
  | .vclass d a m => Sys2Proof.Machine.execVclass d a m s
  | .vcvti d a m r t u => Sys2Proof.Machine.execVcvti d a m r t u s
  | .vcvtf d a m r t u => Sys2Proof.Machine.execVcvtf d a m r t u s
  | .vrndp d a m r => Sys2Proof.Machine.execVrndp d a m r s
  | .vredf d a m r => Sys2Proof.Machine.execVredf d a m r s
  | .vscan d a m r t => Sys2Proof.Machine.execVscan d a m r t s
  | .viadd d a b m w => Sys2Proof.Machine.execViadd d a b m w s
  | .visub d a b m w => Sys2Proof.Machine.execVisub d a b m w s
  | .vimul d a b m w => Sys2Proof.Machine.execVimul d a b m w s
  | .vimulh d a b m w => Sys2Proof.Machine.execVimulh d a b m w s
  | .vand d a b m w => Sys2Proof.Machine.execVand d a b m w s
  | .vor d a b m w => Sys2Proof.Machine.execVor d a b m w s
  | .vxor d a b m w => Sys2Proof.Machine.execVxor d a b m w s
  | .vshl d a b m w => Sys2Proof.Machine.execVshl d a b m w s
  | .vshr d a b m w => Sys2Proof.Machine.execVshr d a b m w s
  | .vsar d a b m w => Sys2Proof.Machine.execVsar d a b m w s
  | .vimin d a b m w => Sys2Proof.Machine.execVimin d a b m w s
  | .vimax d a b m w => Sys2Proof.Machine.execVimax d a b m w s
  | .vicmpEq d a b m w => Sys2Proof.Machine.execVicmpEq d a b m w s
  | .vicmpNe d a b m w => Sys2Proof.Machine.execVicmpNe d a b m w s
  | .vicmpLt d a b m w => Sys2Proof.Machine.execVicmpLt d a b m w s
  | .vicmpGe d a b m w => Sys2Proof.Machine.execVicmpGe d a b m w s
  | .vicmpLtu d a b m w => Sys2Proof.Machine.execVicmpLtu d a b m w s
  | .vicmpGeu d a b m w => Sys2Proof.Machine.execVicmpGeu d a b m w s
  | .vsel d a b m w => Sys2Proof.Machine.execVsel d a b m w s
  | .vperm d a b m w => Sys2Proof.Machine.execVperm d a b m w s
  | .vslide d a u n m w => Sys2Proof.Machine.execVslide d a u n m w s
  | .vcomp d a m w => Sys2Proof.Machine.execVcomp d a m w s
  | .vexpd d a m w => Sys2Proof.Machine.execVexpd d a m w s
  | .vredx a m => Sys2Proof.Machine.execVredx a m s
  | .mand d a b => Sys2Proof.Machine.execMand d a b s
  | .mor d a b => Sys2Proof.Machine.execMor d a b s
  | .mxor d a b => Sys2Proof.Machine.execMxor d a b s
  | .mnot d a => Sys2Proof.Machine.execMnot d a s
  | .vmovx s2 v l => Sys2Proof.Machine.execVmovx s2 v l s
  | .vmovv s2 v l => Sys2Proof.Machine.execVmovv s2 v l s
  | .vbcast s2 v => Sys2Proof.Machine.execVbcast s2 v s
  | .laadd s2 => Sys2Proof.Machine.execLaadd s2 s
  | .lard s2 r => Sys2Proof.Machine.execLard s2 r s
  | .mpopc s2 v => Sys2Proof.Machine.execMpopc s2 v s
  | .mfirst s2 v => Sys2Proof.Machine.execMfirst s2 v s
  | .mform a b r s2 => Sys2Proof.Machine.execMform a b r s2 s
  | .mldb a b s2 => Sys2Proof.Machine.execMldb a b s2 s
  | .mma a b s2 => Sys2Proof.Machine.execMma a b s2 s
  | .mzero g => Sys2Proof.Machine.execMzero g s
  | .mwin a g => Sys2Proof.Machine.execMwin a g s
  | .mdrn a b r g => Sys2Proof.Machine.execMdrn a b r g s
  | .mstat d => Sys2Proof.Machine.execMstat d s
  | .qsel d a b => Sys2Proof.Machine.execQsel d a b s
  | .qfilt d a b => Sys2Proof.Machine.execQfilt d a b s
  | .qpeek d a => Sys2Proof.Machine.execQpeek d a s
  | .qtry d a => Sys2Proof.Machine.execQtry d a s
  | .qend d l => Sys2Proof.Machine.execQend d l s
  | .qlvl d a => Sys2Proof.Machine.execQlvl d a s
  | .bqpush a => Sys2Proof.Machine.execBqpush a s
  | .msg a b c u h => Sys2Proof.Machine.execMsg a b c u h s
  | .jmpr a => Sys2Proof.Machine.execJmpr a s
  | .trap c => Sys2Proof.Machine.execTrap c s
  | .hset a b c => Sys2Proof.Machine.execHset a b c s
  | .hmask a b => Sys2Proof.Machine.execHmask a b s
  | .spawn a => Sys2Proof.Machine.execSpawn a s
  | .cancel a => Sys2Proof.Machine.execCancel a s
  | .cwait a => Sys2Proof.Machine.execCwait a s
  | .cfgld a => Sys2Proof.Machine.execCfgld a s
  | .cfgdrn d => Sys2Proof.Machine.execCfgdrn d s
  | .bankpass a b => Sys2Proof.Machine.execBankpass a b s
  | .tlbinv a b => Sys2Proof.Machine.execTlbinv a b s
  | .ifence a b c => Sys2Proof.Machine.execIfence a b c s
  | .toporeq a b => Sys2Proof.Machine.execToporeq a b s
  | .topogen d b => Sys2Proof.Machine.execTopogen d b s
  | .preempt a => Sys2Proof.Machine.execPreempt a s
  | .resume a => Sys2Proof.Machine.execResume a s
  | .fmtset b c => Sys2Proof.Machine.execFmtset b c s
  | .ownset a b => Sys2Proof.Machine.execOwnset a b s
  | .rankset a b => Sys2Proof.Machine.execRankset a b s
  | .crr d n => Sys2Proof.Machine.execCrr d n s
  | .crw a n => Sys2Proof.Machine.execCrw a n s
  | .crs a n => Sys2Proof.Machine.execCrs a n s
  | .crc a n => Sys2Proof.Machine.execCrc a n s
  | .addImm32 d a imm => Sys2Proof.Machine.execAddImm32 d a imm s
  | .andImm32 d a imm => Sys2Proof.Machine.execAndImm32 d a imm s
  | .orImm32 d a imm => Sys2Proof.Machine.execOrImm32 d a imm s
  | .xorImm32 d a imm => Sys2Proof.Machine.execXorImm32 d a imm s
  | .liImm32 d imm => Sys2Proof.Machine.execLiImm32 d imm s
  | .lddImm32 d a imm => Sys2Proof.Machine.execLddImm32 d a imm s
  | .stdImm32 d a imm => Sys2Proof.Machine.execStdImm32 d a imm s
  | .liw d imm => Sys2Proof.Machine.execLiw d imm s
  | .brl imm => Sys2Proof.Machine.execBrl imm s
  | .calll imm => Sys2Proof.Machine.execCalll imm s
  | .addpcLong d imm => Sys2Proof.Machine.execAddpcLong d imm s
  | .route sel mc => Sys2Proof.Machine.execRoute sel mc s
  | .routen sel mc n => Sys2Proof.Machine.execRouten sel mc n s
  | .sjmp sel mc t => Sys2Proof.Machine.execSjmp sel mc t s
  | .sbnz sel mc t p => Sys2Proof.Machine.execSbnz sel mc t p s
  | .sbq sel mc t => Sys2Proof.Machine.execSbq sel mc t s
  | .swaitm sel mc p l => Sys2Proof.Machine.execSwaitm sel mc p l s
  | .smcast sel n => Sys2Proof.Machine.execSmcast sel n s
  | .fence => Sys2Proof.Machine.execFence s
  | .laz => Sys2Proof.Machine.execLaz s
  | .msync => Sys2Proof.Machine.execMsync s
  | .ret => Sys2Proof.Machine.execRet s
  | .tret => Sys2Proof.Machine.execTret s
  | .exit => Sys2Proof.Machine.execExit s
  | .idle => Sys2Proof.Machine.execIdle s
  | .hret => Sys2Proof.Machine.execHret s
  | .cfgswp => Sys2Proof.Machine.execCfgswp s
  | .snop => Sys2Proof.Machine.execSnop s
  | .shalt => Sys2Proof.Machine.execShalt s
  | .handlerSelect => Sys2Proof.Machine.execHandlerSelect s
  | .hsetPendingClear => Sys2Proof.Machine.execHsetPendingClear s
  | .messageArrival => Sys2Proof.Machine.execMessageArrival s
  | .msgInject => Sys2Proof.Machine.execMsgInject s
  | .longResultReturn => Sys2Proof.Machine.execLongResultReturn s
  | .parkCommit => Sys2Proof.Machine.execParkCommit s
  | .loopEndCheck => Sys2Proof.Machine.execLoopEndCheck s
  | .residueArbitration => Sys2Proof.Machine.execResidueArbitration s
  | .coreOutputDepart => Sys2Proof.Machine.execCoreOutputDepart s
  | .recordClose => Sys2Proof.Machine.execRecordClose s
  | .routenCountEnd => Sys2Proof.Machine.execRoutenCountEnd s
  | .smcastWindowEnd => Sys2Proof.Machine.execSmcastWindowEnd s
  | .switchWordFetch => Sys2Proof.Machine.execSwitchWordFetch s
  | .switchIllegalRaise => Sys2Proof.Machine.execSwitchIllegalRaise s
  | .switchFetchFaultRaise => Sys2Proof.Machine.execSwitchFetchFaultRaise s
  | .fetchFill => Sys2Proof.Machine.execFetchFill s
  | .sequentialPrefetch => Sys2Proof.Machine.execSequentialPrefetch s
  | .iprefFill => Sys2Proof.Machine.execIprefFill s
  | .walkStart => Sys2Proof.Machine.execWalkStart s
  | .walkComplete => Sys2Proof.Machine.execWalkComplete s
  | .rankTableFill => Sys2Proof.Machine.execRankTableFill s
  | .placeWindowAccess => Sys2Proof.Machine.execPlaceWindowAccess s
  | .atomicApply => Sys2Proof.Machine.execAtomicApply s
  | .lineRecall => Sys2Proof.Machine.execLineRecall s
  | .barrierArrival => Sys2Proof.Machine.execBarrierArrival s
  | .redfForward => Sys2Proof.Machine.execRedfForward s
  | .waitWake => Sys2Proof.Machine.execWaitWake s
  | .cisternRequest => Sys2Proof.Machine.execCisternRequest s
  | .cisternFill => Sys2Proof.Machine.execCisternFill s
  | .hbmRefresh => Sys2Proof.Machine.execHbmRefresh s
  | .patrolScrub => Sys2Proof.Machine.execPatrolScrub s
  | .streamElementFetch => Sys2Proof.Machine.execStreamElementFetch s
  | .streamElementPerform => Sys2Proof.Machine.execStreamElementPerform s
  | .streamBankRetry => Sys2Proof.Machine.execStreamBankRetry s
  | .streamResume => Sys2Proof.Machine.execStreamResume s
  | .copyRequestArrival => Sys2Proof.Machine.execCopyRequestArrival s
  | .spoutSector => Sys2Proof.Machine.execSpoutSector s
  | .copyCounterAddition => Sys2Proof.Machine.execCopyCounterAddition s
  | .copyPieceResume => Sys2Proof.Machine.execCopyPieceResume s
  | .streamPortSourceElement => Sys2Proof.Machine.execStreamPortSourceElement s
  | .streamPortSinkToken => Sys2Proof.Machine.execStreamPortSinkToken s
  | .streamPortResume => Sys2Proof.Machine.execStreamPortResume s
  | .rimOutputToken => Sys2Proof.Machine.execRimOutputToken s
  | .weirIngress => Sys2Proof.Machine.execWeirIngress s
  | .spillRingDrain => Sys2Proof.Machine.execSpillRingDrain s
  | .tileRetire => Sys2Proof.Machine.execTileRetire s
  | .launchSlotEnter => Sys2Proof.Machine.execLaunchSlotEnter s
  | .dependenceSatisfied => Sys2Proof.Machine.execDependenceSatisfied s
  | .headAging => Sys2Proof.Machine.execHeadAging s
  | .lsSelection => Sys2Proof.Machine.execLsSelection s
  | .holdGrant => Sys2Proof.Machine.execHoldGrant s
  | .placementSwap => Sys2Proof.Machine.execPlacementSwap s
  | .followSwap => Sys2Proof.Machine.execFollowSwap s
  | .launchComplete => Sys2Proof.Machine.execLaunchComplete s
  | .scopeEnd => Sys2Proof.Machine.execScopeEnd s
  | .cancelKill => Sys2Proof.Machine.execCancelKill s
  | .cutStop => Sys2Proof.Machine.execCutStop s
  | .cutMarkerArrival => Sys2Proof.Machine.execCutMarkerArrival s
  | .tileSave => Sys2Proof.Machine.execTileSave s
  | .cutComplete => Sys2Proof.Machine.execCutComplete s
  | .resumeComplete => Sys2Proof.Machine.execResumeComplete s
  | .fieldReset => Sys2Proof.Machine.execFieldReset s
  | .incTableUpdate => Sys2Proof.Machine.execIncTableUpdate s
  | .fieldResetComplete => Sys2Proof.Machine.execFieldResetComplete s
  | .tileKill => Sys2Proof.Machine.execTileKill s
  | .scoreDecay => Sys2Proof.Machine.execScoreDecay s
  | .quarantine => Sys2Proof.Machine.execQuarantine s
  | .engineCommandStart => Sys2Proof.Machine.execEngineCommandStart s
  | .engineCommandFinish => Sys2Proof.Machine.execEngineCommandFinish s
  | .stagingElement => Sys2Proof.Machine.execStagingElement s
  | .drainWritePerform => Sys2Proof.Machine.execDrainWritePerform s
  | .mrValueReady => Sys2Proof.Machine.execMrValueReady s
  | .collectiveNodeCombine => Sys2Proof.Machine.execCollectiveNodeCombine s
  | .collectivePairCombine => Sys2Proof.Machine.execCollectivePairCombine s
  | .collectiveResend => Sys2Proof.Machine.execCollectiveResend s
  | .collectiveFleetTimeout => Sys2Proof.Machine.execCollectiveFleetTimeout s
  | .collectiveRerun => Sys2Proof.Machine.execCollectiveRerun s
  | .topoAccept => Sys2Proof.Machine.execTopoAccept s
  | .topoInstall => Sys2Proof.Machine.execTopoInstall s
  | .topoRequestTimeout => Sys2Proof.Machine.execTopoRequestTimeout s
  | .slotPeriodStart => Sys2Proof.Machine.execSlotPeriodStart s
  | .chunkStart => Sys2Proof.Machine.execChunkStart s
  | .chunkDeliver => Sys2Proof.Machine.execChunkDeliver s
  | .creditReturn => Sys2Proof.Machine.execCreditReturn s
  | .rillRead => Sys2Proof.Machine.execRillRead s
  | .rillWrite => Sys2Proof.Machine.execRillWrite s
  | .watchArm => Sys2Proof.Machine.execWatchArm s
  | .watchFire => Sys2Proof.Machine.execWatchFire s
  | .loadreqSubmit => Sys2Proof.Machine.execLoadreqSubmit s
  | .moduleLoad => Sys2Proof.Machine.execModuleLoad s
  | .moduleUnload => Sys2Proof.Machine.execModuleUnload s
  | .unloadRelease => Sys2Proof.Machine.execUnloadRelease s
  | .attestationRequest => Sys2Proof.Machine.execAttestationRequest s
  | .powerOn => Sys2Proof.Machine.execPowerOn s
  | .firmwareUpdate => Sys2Proof.Machine.execFirmwareUpdate s
  | .hbmRetrain => Sys2Proof.Machine.execHbmRetrain s
  | .wavelengthRecalibrate => Sys2Proof.Machine.execWavelengthRecalibrate s
  | .clockStep => Sys2Proof.Machine.execClockStep s
  | .lifetimeRecordUpdate => Sys2Proof.Machine.execLifetimeRecordUpdate s
  | .tileSplitWrite => Sys2Proof.Machine.execTileSplitWrite s
  | .clusterPoolWrite => Sys2Proof.Machine.execClusterPoolWrite s
  | .loopCtlWrite => Sys2Proof.Machine.execLoopCtlWrite s
  | .replayCtlWrite => Sys2Proof.Machine.execReplayCtlWrite s
  | .tokenCfgWrite => Sys2Proof.Machine.execTokenCfgWrite s
  | .optSendWrite => Sys2Proof.Machine.execOptSendWrite s
  | .formatStateChange => Sys2Proof.Machine.execFormatStateChange s
  | .bankTokenWrite => Sys2Proof.Machine.execBankTokenWrite s
  | .stripeCtlWrite => Sys2Proof.Machine.execStripeCtlWrite s
  | .partFieldsWrite => Sys2Proof.Machine.execPartFieldsWrite s
  | .windowWrite => Sys2Proof.Machine.execWindowWrite s
  | .vfCtlWrite => Sys2Proof.Machine.execVfCtlWrite s
  | .lqCtlWrite => Sys2Proof.Machine.execLqCtlWrite s
  | .csetCtlWrite => Sys2Proof.Machine.execCsetCtlWrite s
  | .deviceRegisterWrite => Sys2Proof.Machine.execDeviceRegisterWrite s
  | .matrixFaultResume => Sys2Proof.Machine.execMatrixFaultResume s
  | .killedTileErrOutput => Sys2Proof.Machine.execKilledTileErrOutput s
  | .staticLinkFailure => Sys2Proof.Machine.execStaticLinkFailure s

end Sys2Proof.Machine
end

