-- ==== Sys2Proof/Machine/Step.lean ====
section
/-! DEFINITION. The step of the machine, and the placing of one instruction where the next step fetches it. -/
namespace Sys2Proof.Machine

/-- One step: the turn of the next entry of the schedule (DESIGN CHOICE, log entry 3). -/
def step (s : State) : Host.Outcome State Fault Refusal := wholeStep exec s

/-- `s` with the instruction of bits `w` where the next step fetches it, and with that step the current tile's own: its thread, or its
switch for a switch word (DESIGN CHOICE, log entry 7). -/
def State.withFetchWord (s : State) (nbits w : Nat) : State :=
  if isSwitchRow nbits w then placeSwitch s (bytesOf 8 w) else placeThread s (parcelBytes (tableParcels nbits w))

end Sys2Proof.Machine
end

