-- ==== Sys2Proof/Certificates/Slice0/Obligations.lean ====
section
/-! DEFINITION. The statements for the provers, with the vocabulary in which they are written. -/

section

open Sys2Proof Sys2Proof.Machine

/- Vocabulary -/

/-- The operands of an instruction are ready: every source has a value that may be taken, every destination has room, and no check of
them traps (R131 to R133). Reading the operands changes nothing yet. -/
def Sys2Proof.Machine.Ready (srcs dsts : List Opnd) (s : State) : Prop := checkOperands srcs dsts s = .ok ((), s)

/-- The value that a scalar source gives in a state. -/
def Sys2Proof.Machine.valueOf (s : State) (c : BitVec 6) : Word := (s.tile.valueX c).1

/-- The state after a scalar source has been taken. -/
def Sys2Proof.Machine.taken (s : State) (c : BitVec 6) : State := onTile s (fun t => (popSrc t (.x c)).setFlags (s.tile.valueX c).2)

/-- The state after a result has been given to a scalar destination. -/
def Sys2Proof.Machine.given (s : State) (c : BitVec 6) (w : Word) : State := schedule (onTile s (fun t => t.giveX c w)) s.tile.id (giveSteps (.x c))

/-- The state after an instruction of `len` parcels, begun in `s`, has had the effect `u` without a taken transfer: the pc passes the
instruction or goes back to the start of a hardware loop (R251), and the cycle is counted (R138). -/
def Sys2Proof.Machine.finished (s : State) (len : Nat) (u : State) : State := { u with tile := u.tile.complete s.tile len false, time := s.time + 1 }

/-- The same after a taken transfer, which the effect `u` has put into the pc. -/
def Sys2Proof.Machine.transferred (s u : State) : State := { u with tile := u.tile.complete s.tile 1 true, time := s.time + 1 }

/-- A long operation can be issued: no closed window stands in the way of its request, the walker has room for the translations that it misses, no
check raises a fault at the instruction, and the long-result buffer has one of its 16 entries free (R43, R134, R379). -/
def Sys2Proof.Machine.Issuable (s : State) (op : LongOp) : Prop :=
  windowClosed s s.tile.id op = false ∧ opStalls s op = false ∧
    (match (perform s s.tile.id s.tile.mode op).res with | .fault f => !raisedAtIssue f | _ => true) = true ∧ s.tile.longBuf.length < 16

/-- The state after a long operation has been issued: its home has performed it, and an entry of the long-result buffer awaits its
return; no register is written before a park (R134, R135). -/
def Sys2Proof.Machine.issued (s : State) (op : LongOp) (dst : LongDst) : State :=
  let p := perform s s.tile.id s.tile.mode op
  let u := onTile p.st (fun t =>
    { t with longBuf := t.longBuf ++ [{ op := p.op, dst := dst, pc := s.tile.pc, mode := s.tile.mode, res := p.res }] })
  schedule u u.tile.id [(.longResultReturn, [s.tile.longBuf.length])]

/-- A first source of mr makes a long operation for a register (R232): the other source `v` and the old value of the destination are read at
issue, and the result that the value m of mr will give satisfies `R`. -/
def Sys2Proof.Machine.ReadsMr (i : Instr) (d : BitVec 6) (s u : State) (v : Word) (R : Word → Word → Prop) : Prop :=
  let op := LongOp.mr i v (s.tile.xGet d.toNat) s.tile.sub.issued
  d.toNat < 32 → Issuable u op → exec i s = .next (finished s 1 (issued u op (.x d.toNat))) ∧
    ∀ m, R m (aluOf i m v (s.tile.xGet d.toNat))

/-- An instruction with two scalar sources and a scalar destination gives `f` of their values, read in the field order ra, rb; `f` has the
old value of rd as well. No dispute over the result stands (R386). -/
def Sys2Proof.Machine.TwoSources (i : BitVec 6 → BitVec 6 → BitVec 6 → Instr) (f : Word → Word → Word → Word) : Prop :=
  (∀ (s : State) (d a b : BitVec 6), a ≠ 48#6 → s.tile.dispute = none → Ready [.x a, .x b] [.x d] s →
    exec (i d a b) s = .next (finished s 1 (given (taken (taken s a) b) d (f (s.tile.xGet d.toNat) (valueOf s a) (valueOf (taken s a) b))))) ∧
  (∀ (s : State) (d b : BitVec 6), Ready [.x b] [] s →
    ReadsMr (i d 48#6 b) d s (taken s b) (valueOf s b) (fun m r => r = f (s.tile.xGet d.toNat) m (valueOf s b)))

/-- An instruction of `len` parcels with one scalar source gives `f` of its value and of the old value of rd; those of one parcel read mr. -/
def Sys2Proof.Machine.OneSource (len : Nat) (i : BitVec 6 → BitVec 6 → Instr) (f : Word → Word → Word) : Prop :=
  (∀ (s : State) (d a : BitVec 6), a ≠ 48#6 → s.tile.dispute = none → Ready [.x a] [.x d] s →
    exec (i d a) s = .next (finished s len (given (taken s a) d (f (s.tile.xGet d.toNat) (valueOf s a))))) ∧
  (len = 1 → ∀ (s : State) (d : BitVec 6), ∃ v, ReadsMr (i d 48#6) d s s v (fun m r => r = f (s.tile.xGet d.toNat) m))

/-- The number that bits 5:0 of a doubleword hold. -/
def Sys2Proof.Machine.amount (b : Word) : Nat := (b.extractLsb' 0 6).toNat

/- Scalar instructions -/

/-- The two-source operations of R234, on every operand form: each function is written as the rule's table has it. Multiplication and division (R235): the high halves are those of the 128-bit product; division by zero and the signed overflow
have the results that the rule gives them. -/
def Obligations.TwoSourceResults : Prop :=
  TwoSources .add (fun _ a b => a + b) ∧
  TwoSources .sub (fun _ a b => a - b) ∧
  TwoSources .and (fun _ a b => a &&& b) ∧
  TwoSources .or (fun _ a b => a ||| b) ∧
  TwoSources .xor (fun _ a b => a ^^^ b) ∧
  TwoSources .andn (fun _ a b => a &&& ~~~b) ∧
  TwoSources .orn (fun _ a b => a ||| ~~~b) ∧
  TwoSources .xnor (fun _ a b => ~~~(a ^^^ b)) ∧
  TwoSources .shl (fun _ a b => a * BitVec.ofNat 64 (2 ^ amount b)) ∧
  TwoSources .shr (fun _ a b => BitVec.ofNat 64 (a.toNat / 2 ^ amount b)) ∧
  TwoSources .sar (fun _ a b => BitVec.ofInt 64 (a.toInt / 2 ^ amount b)) ∧
  TwoSources .rol (fun _ a b => (a * BitVec.ofNat 64 (2 ^ amount b)) ||| BitVec.ofNat 64 (a.toNat / 2 ^ (64 - amount b))) ∧
  TwoSources .min (fun _ a b => if a.slt b then a else b) ∧
  TwoSources .max (fun _ a b => if a.slt b then b else a) ∧
  TwoSources .minu (fun _ a b => if a.ult b then a else b) ∧
  TwoSources .maxu (fun _ a b => if a.ult b then b else a) ∧
  TwoSources .seq (fun _ a b => if a = b then 1 else 0) ∧
  TwoSources .sne (fun _ a b => if a = b then 0 else 1) ∧
  TwoSources .slt (fun _ a b => if a.slt b then 1 else 0) ∧
  TwoSources .sltu (fun _ a b => if a.ult b then 1 else 0) ∧
  TwoSources .mul (fun _ a b => a * b) ∧
  TwoSources .mulh (fun _ a b => (a.signExtend 128 * b.signExtend 128).extractLsb' 64 64) ∧
  TwoSources .mulhu (fun _ a b => (a.zeroExtend 128 * b.zeroExtend 128).extractLsb' 64 64) ∧
  TwoSources .div (fun _ a b => if b = 0 then BitVec.allOnes 64 else a.sdiv b) ∧
  TwoSources .rem (fun _ a b => if b = 0 then a else a.srem b) ∧
  TwoSources .divu (fun _ a b => if b = 0 then BitVec.allOnes 64 else a.udiv b) ∧
  TwoSources .remu (fun _ a b => if b = 0 then a else a.umod b)

/-- `n` is the number of zero bits that stand before the first one bit, counting as `bit` numbers them; 64 when there is none (R236). -/
def Sys2Proof.Machine.ZerosBefore (bit : Nat → Bool) (n : Nat) : Prop := n ≤ 64 ∧ (∀ k, k < n → bit k = false) ∧ (n < 64 → bit n = true)

/-- An instruction with one scalar source gives a result that stands to the source as `R` says. -/
def Sys2Proof.Machine.OneSourceSuch (i : BitVec 6 → BitVec 6 → Instr) (R : Word → Word → Prop) : Prop :=
  (∀ (s : State) (d a : BitVec 6), a ≠ 48#6 → s.tile.dispute = none → Ready [.x a] [.x d] s →
    ∃ r, R (valueOf s a) r ∧ exec (i d a) s = .next (finished s 1 (given (taken s a) d r))) ∧
  (∀ (s : State) (d : BitVec 6), ∃ v, ReadsMr (i d 48#6) d s s v R)

/-- The unary operations of R236, bit by bit. -/
def Obligations.UnaryResults : Prop :=
  OneSourceSuch .clz (fun a r => ZerosBefore (fun k => a.getLsbD (63 - k)) r.toNat) ∧
  OneSourceSuch .ctz (fun a r => ZerosBefore (fun k => a.getLsbD k) r.toNat) ∧
  OneSourceSuch .popc (fun a r => r.toNat = ((List.range 64).filter (fun k => a.getLsbD k)).length) ∧
  OneSourceSuch .brev (fun a r => ∀ k, k < 64 → r.getLsbD k = a.getLsbD (63 - k)) ∧
  OneSourceSuch .bswap (fun a r => ∀ k, k < 8 → r.extractLsb' (8 * k) 8 = a.extractLsb' (8 * (7 - k)) 8)

/-- The width that a length field names: 0 stands for 64 (R242). -/
def Sys2Proof.Machine.widthOf (l : BitVec 6) : Nat := if l = 0 then 64 else l.toNat

/-- SEL, whose condition is the old value of rd (R237), the extensions (R241) and the bitfields, bit by bit (R242). -/
def Obligations.SelectExtendResults : Prop :=
  TwoSources .sel (fun old a b => if old = 0 then b else a) ∧
  (∀ w : BitVec 6, 0 < w.toNat → OneSourceSuch (.sext · · w) (fun a r => ∀ k, k < 64 → r.getLsbD k = a.getLsbD (min k (w.toNat - 1)))) ∧
  (∀ w : BitVec 6, OneSourceSuch (.zext · · w) (fun a r => ∀ k, r.getLsbD k = (decide (k < w.toNat) && a.getLsbD k))) ∧
  (∀ o l : BitVec 6, OneSourceSuch (.extr · · o l) (fun a r => ∀ k, r.getLsbD k = (decide (k < widthOf l) && a.getLsbD (o.toNat + k)))) ∧
  (∀ (o l : BitVec 6) (s : State) (d a : BitVec 6), o.toNat + widthOf l ≤ 64 → d.toNat < 32 → a ≠ 48#6 → s.tile.dispute = none →
    Ready [.x a] [.x d] s → ∃ r : Word, exec (.insr d a o l) s = .next (finished s 1 (given (taken s a) d r)) ∧
      ∀ k, k < 64 → r.getLsbD k =
        if o.toNat ≤ k ∧ k < o.toNat + widthOf l then (valueOf s a).getLsbD (k - o.toNat) else (s.tile.xGet d.toNat).getLsbD k) ∧
  (∀ (o l : BitVec 6) (s : State) (d : BitVec 6), o.toNat + widthOf l ≤ 64 → ∃ v, ReadsMr (.insr d 48#6 o l) d s s v (fun m r => ∀ k, k < 64 →
    r.getLsbD k = if o.toNat ≤ k ∧ k < o.toNat + widthOf l then m.getLsbD (k - o.toNat) else (s.tile.xGet d.toNat).getLsbD k))

/-- An instruction of `len` parcels gives a constant of the instruction and its address to its destination. -/
def Sys2Proof.Machine.Constant (len : Nat) (i : BitVec 6 → Instr) (c : Word → Word) : Prop :=
  ∀ (s : State) (d : BitVec 6), Ready [] [.x d] s → exec (i d) s = .next (finished s len (given s d (c s.tile.pc)))

/-- The immediate forms: 13 bits sign-extended (R238), shift amounts (R239), 32 bits sign-extended in two parcels (R240). Constants and addresses (R243); the address is that of the instruction's first parcel (R196). -/
def Obligations.ImmediateConstantResults : Prop :=
  (∀ i : BitVec 13,
    OneSource 1 (.addImm · · i) (fun _ a => a + i.signExtend 64) ∧
    OneSource 1 (.mulImm · · i) (fun _ a => a * i.signExtend 64) ∧
    OneSource 1 (.andImm · · i) (fun _ a => a &&& i.signExtend 64) ∧
    OneSource 1 (.orImm · · i) (fun _ a => a ||| i.signExtend 64) ∧
    OneSource 1 (.xorImm · · i) (fun _ a => a ^^^ i.signExtend 64) ∧
    OneSource 1 (.seqImm · · i) (fun _ a => if a = i.signExtend 64 then 1 else 0) ∧
    OneSource 1 (.sneImm · · i) (fun _ a => if a = i.signExtend 64 then 0 else 1) ∧
    OneSource 1 (.sltImm · · i) (fun _ a => if a.slt (i.signExtend 64) then 1 else 0) ∧
    OneSource 1 (.sltuImm · · i) (fun _ a => if a.ult (i.signExtend 64) then 1 else 0)) ∧
  (∀ n : BitVec 6,
    OneSource 1 (.shlImm · · n) (fun _ a => a * BitVec.ofNat 64 (2 ^ n.toNat)) ∧
    OneSource 1 (.shrImm · · n) (fun _ a => BitVec.ofNat 64 (a.toNat / 2 ^ n.toNat)) ∧
    OneSource 1 (.sarImm · · n) (fun _ a => BitVec.ofInt 64 (a.toInt / 2 ^ n.toNat)) ∧
    OneSource 1 (.rolImm · · n) (fun _ a => (a * BitVec.ofNat 64 (2 ^ n.toNat)) ||| BitVec.ofNat 64 (a.toNat / 2 ^ (64 - n.toNat)))) ∧
  (∀ i : BitVec 32,
    OneSource 2 (.addImm32 · · i) (fun _ a => a + i.signExtend 64) ∧
    OneSource 2 (.andImm32 · · i) (fun _ a => a &&& i.signExtend 64) ∧
    OneSource 2 (.orImm32 · · i) (fun _ a => a ||| i.signExtend 64) ∧
    OneSource 2 (.xorImm32 · · i) (fun _ a => a ^^^ i.signExtend 64)) ∧
  (∀ i : BitVec 19, Constant 1 (.li · i) (fun _ => i.signExtend 64) ∧ Constant 1 (.addpc · i) (fun pc => pc + i.signExtend 64 * 4)) ∧
  (∀ i : BitVec 32, Constant 2 (.liImm32 · i) (fun _ => i.signExtend 64)) ∧
  (∀ i : BitVec 64, Constant 3 (.liw · i) (fun _ => i) ∧ Constant 3 (.addpcLong · i) (fun pc => pc + i))

/- Operand forms -/

/-- A scalar register as an operand (R197): it is always ready, gives its value, and x0 gives 0; as a destination it takes the result, x0
discards it, and no later commit of an earlier long operation overwrites it (R135). A port as an operand (R130 to R132, R314): a source waits while the core-input queue is empty, gives the payload of a data token whose
residue agrees, and takes that token alone; a destination appends a data token with the result, its residue and the tile's ROUTE to the
core-output buffer of at most four tokens, which waits while it is full or locked by a record. -/
def Obligations.ScalarOperands : Prop :=
  (∀ (s : State) (c : BitVec 6), c.toNat < 32 →
    valueOf s c = (if c.toNat = 0 then 0 else vget s.tile.x c.toNat 0) ∧ taken s c = s) ∧
  (∀ (s : State) (srcs dsts : List (BitVec 6)), (∀ c ∈ srcs ++ dsts, c.toNat < 32) → Ready (srcs.map .x) (dsts.map .x) s) ∧
  (∀ (s : State) (c : BitVec 6) (w : Word), c.toNat < 32 →
    given s c w = { s with tile := s.tile.writeX c.toNat w } ∧
    (∀ n, n < 32 → (given s c w).tile.xGet n = if n = c.toNat ∧ n ≠ 0 then w else s.tile.xGet n) ∧
    (given s c w).tile.longBuf = s.tile.longBuf.map (fun e => if e.dst = .x c.toNat then { e with dst := .none } else e)) ∧
  (∀ (s : State) (c : BitVec 6) (k : Token) (r : List Token), 32 ≤ c.toNat → c.toNat < 40 → vget s.tile.coreIn (c.toNat - 32) [] = k :: r →
    k.kind = .data → k.res = residueOf k.payload →
    Ready [.x c] [] s ∧ valueOf s c = k.payload ∧
    taken s c = onTile s (fun t => { t with coreIn := vset t.coreIn (c.toNat - 32) r })) ∧
  (∀ (s : State) (c : BitVec 6), 32 ≤ c.toNat → c.toNat < 40 → vget s.tile.coreIn (c.toNat - 32) [] = [] →
    checkOperands [.x c] [] s = .error (.wait .empty true [] none)) ∧
  (∀ (s : State) (c : BitVec 6) (k : Token) (r : List Token), 32 ≤ c.toNat → c.toNat < 40 → vget s.tile.coreIn (c.toNat - 32) [] = k :: r →
    k.kind = .marker → checkOperands [.x c] [] s = .error (.trap { cause := .portErr, port := c.toNat - 32, mark := true })) ∧
  (∀ (s : State) (c : BitVec 6) (w : Word), 32 ≤ c.toNat → c.toNat < 40 → bitOf s.tile.tokenCfg 16 = false →
    isSendPort s.tile.id (c.toNat - 32) = false →
    given s c w = scheduleAt (onTile s (fun t => { t with coreOut := vset t.coreOut (c.toNat - 32) (vget t.coreOut (c.toNat - 32) [] ++
      [{ payload := w, res := residueOf w, route := bitsOf (t.cfgTag.zeroExtend 64) 11 0, dest := bitsOf t.optSend 35 32 }]) }))
      s.tile.id .coreOutputDepart [c.toNat - 32]) ∧
  (∀ (s : State) (c : BitVec 6), 32 ≤ c.toNat → c.toNat < 40 → isSendPort s.tile.id (c.toNat - 32) = false →
    (Ready [] [.x c] s ↔ (vget s.tile.coreOut (c.toNat - 32) []).length < 4 ∧ (s.tile.lock (c.toNat - 32)).testBit 15 = false))

/- Branches, jumps, calls and loops -/

/-- A compare-and-branch goes to its target when its condition holds, with the loop entries that the target leaves popped, and otherwise
to the next instruction (R244, R251); its operands are taken either way. -/
def Sys2Proof.Machine.CompareBranch (i : BitVec 6 → BitVec 6 → BitVec 13 → Instr) (cond : Word → Word → Bool) : Prop :=
  ∀ (s : State) (a b : BitVec 6) (d : BitVec 13), Ready [.x a, .x b] [] s →
    exec (i a b d) s = .next
      (if cond (valueOf s a) (valueOf (taken s a) b) then
        transferred s (onTile (taken (taken s a) b) (fun t => t.jumpTo (s.tile.pc + d.signExtend 64 * 4)))
       else finished s 1 (taken (taken s a) b))

/-- A test-and-branch (R245). -/
def Sys2Proof.Machine.TestBranch (i : BitVec 6 → BitVec 19 → Instr) (cond : Word → Bool) : Prop :=
  ∀ (s : State) (a : BitVec 6) (d : BitVec 19), Ready [.x a] [] s →
    exec (i a d) s = .next
      (if cond (valueOf s a) then transferred s (onTile (taken s a) (fun t => t.jumpTo (s.tile.pc + d.signExtend 64 * 4)))
       else finished s 1 (taken s a))

/-- The branches (R244, R245).
Each compare-and-branch and test-and-branch takes its operands, goes to its target when its condition holds, with the loop entries that the target leaves
popped, and otherwise to the next instruction. -/
def Obligations.BranchResults : Prop :=
  CompareBranch .beq (fun a b => decide (a = b)) ∧
  CompareBranch .bne (fun a b => decide (a ≠ b)) ∧
  CompareBranch .blt (fun a b => a.slt b) ∧
  CompareBranch .bge (fun a b => !a.slt b) ∧
  CompareBranch .bltu (fun a b => a.ult b) ∧
  CompareBranch .bgeu (fun a b => !a.ult b) ∧
  TestBranch .bz (fun a => decide (a = 0)) ∧
  TestBranch .bnz (fun a => decide (a ≠ 0))

/-- The state in which a call goes on once its slot has been checked: a call into another slot has read the entry of the module table (R40, R247). -/
def Sys2Proof.Machine.slotSeen (s : State) (target : Word) : State := if slotOf s.tile.pc = slotOf target then s else slotRead s.tile target s

/-- The state in which a class check begins: the entry of the target's slot has been read (R248). -/
def Sys2Proof.Machine.classSeen (s : State) (target : Word) : State := slotRead (slotSeen s target).tile target (slotSeen s target)

/-- The state in which a CALLR takes its source: the reads of its checks are done. -/
def Sys2Proof.Machine.callSeen (s : State) (c : BitVec 12) (target : Word) : State := if c = 4095#12 then slotSeen s target else classSeen s target

/-- Jumps, calls and RET (R246 to R248): where the pc goes, the link register, the call level and the loop entries; a misaligned JMPR, RET
or CALLR raises ALIGN, and a call into a slot whose entry is retiring or empty, or whose target does not carry the class, raises CLASS; a CALLR whose
class table has not been fetched waits for it, or raises the fault of its fetch. The slot check goes by the state of the module-table entry of the
target's slot (R247, R249). The order in which the table is searched (log entry 82), that an entry which cannot be read counts as empty, with REASON 3 (log
entry 51), and the order of RET's pop, its exit check and the lowered level (log entry 60) are the model's. -/
def Obligations.JumpCallResults : Prop :=
  (∀ (s : State) (d : BitVec 25), exec (.jmp d) s = .next (transferred s (onTile s (fun t => t.jumpTo (s.tile.pc + d.signExtend 64 * 4))))) ∧
  (∀ (s : State) (i : BitVec 64), exec (.brl i) s = .next (transferred s (onTile s (fun t => t.jumpTo (s.tile.pc + i))))) ∧
  (∀ (s : State) (a : BitVec 6), Ready [.x a] [] s → exec (.jmpr a) s =
    if (valueOf s a).toNat % 4 = 0 then .next (transferred s (onTile (taken s a) (fun t => t.jumpTo (valueOf s a))))
    else .next (takeTrap s { cause := .align })) ∧
  (∀ s : State, exec .ret s =
    if (s.tile.xGet 31).toNat % 4 = 0 then
      .next (transferred s (onTile s (fun t => { t with pc := s.tile.xGet 31, loops := t.loops.return (s.tile.xGet 31) })))
    else .next (takeTrap s { cause := .align })) ∧
  (∀ (s : State) (d : BitVec 25), let u := s.tile.pc + d.signExtend 64 * 4
    slotCheck s s.tile u = none →
    exec (.call d) s = .next (transferred s (onTile (slotSeen s u) (fun t => t.callTo u (s.tile.pc + 4))))) ∧
  (∀ (s : State) (i : BitVec 64), slotCheck s s.tile (s.tile.pc + i) = none →
    exec (.calll i) s = .next (transferred s (onTile (slotSeen s (s.tile.pc + i)) (fun t => t.callTo (s.tile.pc + i) (s.tile.pc + 12))))) ∧
  (∀ (s : State) (a : BitVec 6) (c : BitVec 12), let u := valueOf s a
    Ready [.x a] [] s → u.toNat % 4 = 0 → slotCheck s s.tile u = none →
    (c = 4095#12 ∨ classTag (classSeen s u) u = .tag (some c.toNat)) →
    exec (.callr a c) s = .next (transferred s (onTile (taken (callSeen s c u) a) (fun t => t.callTo u (t.pc + 4))))) ∧
  (∀ (s : State) (d : BitVec 25) (r : Nat), slotCheck s s.tile (s.tile.pc + d.signExtend 64 * 4) = some r →
    exec (.call d) s = .next (takeTrap s { cause := .cls, va := some (s.tile.pc + d.signExtend 64 * 4), info := some (.cls, at_ 32 r) })) ∧
  (∀ (s : State) (i : BitVec 64) (r : Nat), slotCheck s s.tile (s.tile.pc + i) = some r →
    exec (.calll i) s = .next (takeTrap s { cause := .cls, va := some (s.tile.pc + i), info := some (.cls, at_ 32 r) })) ∧
  (∀ (s : State) (a : BitVec 6) (c : BitVec 12), Ready [.x a] [] s → (valueOf s a).toNat % 4 ≠ 0 →
    exec (.callr a c) s = .next (takeTrap s { cause := .align })) ∧
  (∀ (s : State) (a : BitVec 6) (c : BitVec 12) (r : Nat), Ready [.x a] [] s → (valueOf s a).toNat % 4 = 0 →
    slotCheck s s.tile (valueOf s a) = some r →
    exec (.callr a c) s = .next (takeTrap s { cause := .cls, va := some (valueOf s a), info := some (.cls, at_ 32 r) })) ∧
  (∀ (s : State) (a : BitVec 6) (c : BitVec 12), let u := valueOf s a
    Ready [.x a] [] s → u.toNat % 4 = 0 → slotCheck s s.tile u = none → c ≠ 4095#12 → classTag (classSeen s u) u = .tag none →
    exec (.callr a c) s = .next (takeTrap s { cause := .cls, va := some u, info := some (.cls, at_ 32 1 ||| at_ 0 c.toNat) })) ∧
  (∀ (s : State) (a : BitVec 6) (c : BitVec 12) (k : Nat), let u := valueOf s a
    Ready [.x a] [] s → u.toNat % 4 = 0 → slotCheck s s.tile u = none → c ≠ 4095#12 → classTag (classSeen s u) u = .tag (some k) → k ≠ c.toNat →
    exec (.callr a c) s = .next (takeTrap s { cause := .cls, va := some u, info := some (.cls, at_ 16 k ||| at_ 0 c.toNat) })) ∧
  (∀ (s : State) (a : BitVec 6) (c : BitVec 12), let u := valueOf s a
    Ready [.x a] [] s → u.toNat % 4 = 0 → slotCheck s s.tile u = none → c ≠ 4095#12 → classTag (classSeen s u) u = .empty →
    exec (.callr a c) s = .next (takeTrap s { cause := .cls, va := some u, info := some (.cls, at_ 32 3) })) ∧
  (∀ (s : State) (a : BitVec 6) (c : BitVec 12) (lo hi : Nat) (x : Stop), let u := valueOf s a
    Ready [.x a] [] s → u.toNat % 4 = 0 → slotCheck s s.tile u = none → c ≠ 4095#12 → classTag (classSeen s u) u = .blocked lo hi x →
    exec (.callr a c) s = .next (stopStep s (keepSearch (classSeen s u) u lo hi x))) ∧
  (∀ (s : State) (u : Word), slotOf u = none ∨ slotOf u = slotOf s.tile.pc → slotCheck s s.tile u = none) ∧
  (∀ (s : State) (u : Word) (i : Nat), slotOf u = some i → slotOf s.tile.pc ≠ some i →
    let e := moduleRead s (fieldOf s.tile.id) i
    slotRead s.tile u s = e.2 ∧
    slotCheck s s.tile u =
      (if (e.1.headD 0).extractLsb' 0 2 = 2#2 then none else if (e.1.headD 0).extractLsb' 0 2 = 3#2 then some 2 else some 3))

/-- The hardware loop (R250, R251): LOOP pushes an entry or, with a count of 0, passes the body; a fifth entry raises ILLEGAL with class
5; after the last instruction of the body of the active entry, the count falls and the pc goes back, or the entry is popped. -/
def Obligations.LoopResults : Prop :=
  (∀ (s : State) (a : BitVec 6) (d : BitVec 13), Ready [.x a] [] s → s.tile.loops.depth ≠ 4 →
    exec (.loop a d) s =
      if valueOf s a = 0 then .next (transferred s (onTile (taken s a) (fun t => { t with pc := s.tile.pc + d.zeroExtend 64 * 4 + 4 })))
      else .next (finished s 1 (onTile (taken s a) (fun t => { t with loops :=
        { t.loops with
          entries := vset t.loops.entries t.loops.depth
            { start := s.tile.pc + 4, len := d.toNat, count := valueOf s a, level := t.loops.level }
          depth := t.loops.depth + 1 } })))) ∧
  (∀ (s : State) (a : BitVec 6) (d : BitVec 13), Ready [.x a] [] s → s.tile.loops.depth = 4 →
    exec (.loop a d) s = .next (takeTrap s { cause := .illegal, cls := 5 })) ∧
  (∀ (s : State) (a : Nat) (e : LoopEntry), s.arg = [a] → 0 < s.tile.loops.depth → s.tile.loops.top = e → e.level = s.tile.loops.level →
    BitVec.ofNat 64 a = e.start - 4 + BitVec.ofNat 64 (e.len * 4) →
    ∃ t, exec .loopEndCheck s = .next t ∧
      (1 < e.count.toNat → t.tile.pc = e.start ∧ t.tile.loops.depth = s.tile.loops.depth ∧
        vget t.tile.loops.entries (s.tile.loops.depth - 1) e = (if s.tile.loops.depth ≤ 4 then { e with count := e.count - 1 } else e)) ∧
      (e.count.toNat ≤ 1 → t.tile.pc = s.tile.pc ∧ t.tile.loops.depth = s.tile.loops.depth - 1))

/- Loads and stores -/

/-- The byte of the tile's own scratch that an address of the local scratch window names (R32). -/
def Sys2Proof.Machine.localOff (va : Word) : Nat := va.toNat - 0xFFFFFFFFFFF00000

/-- An aligned access of `size` bytes inside the tile's own scratch, through the local scratch window (R32, R53). -/
def Sys2Proof.Machine.InScratch (s : State) (va : Word) (size : Nat) : Prop :=
  0xFFFFFFFFFFF00000 ≤ va.toNat ∧ va.toNat % size = 0 ∧ localOff va < s.tile.tileSplit * 65536

/-- The home address of that byte. -/
def Sys2Proof.Machine.homeOf (s : State) (va : Word) : Nat := scratchKey s.tile.id (localOff va)

/-- No network interface holds an earlier access of the current tile's thread: a short access waits for its place behind one (log entry 24, the model's
choice). -/
def Sys2Proof.Machine.Unheld (s : State) : Prop := heldBehind s s.tile.id = none

/-- A load of `size` bytes from the local scratch window: a short operation, which gives the bytes, little-endian and extended as the
instruction says, to any scalar destination. -/
def Sys2Proof.Machine.LocalLoad (len size : Nat) (sgn : Bool) (i : BitVec 6 → BitVec 6 → Instr) (off : Word) : Prop :=
  ∀ (s : State) (d a : BitVec 6), Unheld s → Ready [.x a] [.x d] s → InScratch s (valueOf s a + off) size →
    poisoned s (homeOf s (valueOf s a + off)) = false →
    exec (i d a) s = .next (finished s len (given (taken s a) d
      (let n := BitVec.ofNat (8 * size) (readNum s (homeOf s (valueOf s a + off)) size)
       if sgn then n.signExtend 64 else n.zeroExtend 64)))

/-- A store of `size` bytes through the local scratch window: the bytes change, little-endian, and the granule is dirty; every other byte of
memory, every register and every flag is as the taking of the operands left it. -/
def Sys2Proof.Machine.LocalStore (len size : Nat) (i : BitVec 6 → BitVec 6 → Instr) (off : Word) : Prop :=
  ∀ (s : State) (d a : BitVec 6), Inv s → Unheld s → Ready [.x a, .x d] [] s → InScratch s (valueOf s a + off) size →
    ∃ t, exec (i d a) s = .next t ∧
      t = finished s len (markScratch (writeNum (taken (taken s a) d) (homeOf s (valueOf s a + off)) size
        ((valueOf (taken s a) d).toNat % 2 ^ (8 * size))) s.tile.id (localOff (valueOf s a + off)) size) ∧
      readNum t (homeOf s (valueOf s a + off)) size = (valueOf (taken s a) d).toNat % 2 ^ (8 * size) ∧
      (∀ b, b < homeOf s (valueOf s a + off) ∨ homeOf s (valueOf s a + off) + size ≤ b → readByte t b = readByte s b) ∧
      (a.toNat < 32 → d.toNat < 32 → t.tile.x = s.tile.x ∧ t.tile.coreStatus = s.tile.coreStatus ∧ t.tile.longBuf = s.tile.longBuf)

/-- Loads through the local scratch window (R275, R276, R32, R3). Stores through the local scratch window (R275, R276, R32, R3, R372). While a network
interface holds an earlier access of the thread, a short one waits with its operands where they were (log entry 24, the model's choice). -/
def Obligations.LocalAccessResults : Prop :=
  (∀ o : BitVec 13,
    LocalLoad 1 1 true (.ldb · · o) (o.signExtend 64) ∧ LocalLoad 1 1 false (.ldbu · · o) (o.signExtend 64) ∧
    LocalLoad 1 2 true (.ldh · · o) (o.signExtend 64) ∧ LocalLoad 1 2 false (.ldhu · · o) (o.signExtend 64) ∧
    LocalLoad 1 4 true (.ldw · · o) (o.signExtend 64) ∧ LocalLoad 1 4 false (.ldwu · · o) (o.signExtend 64) ∧
    LocalLoad 1 8 false (.ldd · · o) (o.signExtend 64)) ∧
  (∀ o : BitVec 32, LocalLoad 2 8 false (.lddImm32 · · o) (o.signExtend 64)) ∧
  (∀ o : BitVec 13,
    LocalStore 1 1 (.stb · · o) (o.signExtend 64) ∧ LocalStore 1 2 (.sth · · o) (o.signExtend 64) ∧
    LocalStore 1 4 (.stw · · o) (o.signExtend 64) ∧ LocalStore 1 8 (.std · · o) (o.signExtend 64)) ∧
  (∀ o : BitVec 32, LocalStore 2 8 (.stdImm32 · · o) (o.signExtend 64)) ∧
  (∀ (s : State) (d a : BitVec 6) (o : BitVec 13), ¬ Unheld s → Ready [.x a] [.x d] s → InScratch s (valueOf s a + o.signExtend 64) 8 →
    poisoned s (homeOf s (valueOf s a + o.signExtend 64)) = false → exec (.ldd d a o) s = .next (waitStep s .fence false []))

/-- A load from anywhere but the local scratch window is a long operation; its destination is a register. -/
def Sys2Proof.Machine.LongLoad (len size : Nat) (sgn : Bool) (i : BitVec 6 → BitVec 6 → Instr) (off : Word) : Prop :=
  ∀ (s : State) (d a : BitVec 6), Ready [.x a] [] s → isLocal (valueOf s a + off) = false → d.toNat < 32 →
    Issuable (taken s a) (.load size sgn (valueOf s a + off)) →
    exec (i d a) s = .next (finished s len (issued (taken s a) (.load size sgn (valueOf s a + off)) (.x d.toNat)))

/-- A store to anywhere but the local scratch window is a long operation. -/
def Sys2Proof.Machine.LongStore (len size : Nat) (i : BitVec 6 → BitVec 6 → Instr) (off : Word) : Prop :=
  ∀ (s : State) (d a : BitVec 6), Ready [.x a, .x d] [] s → isLocal (valueOf s a + off) = false →
    Issuable (taken (taken s a) d) (.store size (valueOf s a + off) (valueOf (taken s a) d)) →
    exec (i d a) s = .next (finished s len
      (issued (taken (taken s a) d) (.store size (valueOf s a + off) (valueOf (taken s a) d)) .none))

/-- What a load and a store do at the home of the address that they resolve to (R30, R39, R41, R134): a load of memory or of a tile's scratch
returns the bytes there, little-endian and extended, and leaves every byte as the translation left it; a store replaces them and no other;
a load that fails its checks reports the fault and changes nothing, but for the bits that the walker sets where the leaf permits the access and its
address alone is refused (R40; log entry 33, the model's reading).
That the home performs the operation at issue is the model's choice of moment (DESIGN CHOICE, log entry 4). -/
def Obligations.AccessAtHome : Prop :=
  (∀ (s u : State) (t pa : Nat) (tg : Target) (m : Mode) (size : Nat) (sgn : Bool) (va : Word),
    resolve s t m { kind := .read } va size = .ok (tg, u) → heldBehind s t = none → targetKey tg = some pa → blockOf u t va tg false = .free →
    poisoned u pa = false → (perform s t m (.load size sgn va)).res = .word (extend size sgn (readNum u pa size)) ∧
    ∀ b, readByte (perform s t m (.load size sgn va)).st b = readByte u b) ∧
  (∀ (s u : State) (t pa : Nat) (tg : Target) (m : Mode) (size : Nat) (va d : Word), Inv u →
    resolve s t m { kind := .write } va size = .ok (tg, u) → heldBehind s t = none → targetKey tg = some pa → blockOf u t va tg false = .free →
    (perform s t m (.store size va d)).res = .ack ∧
    readNum (perform s t m (.store size va d)).st pa size = d.toNat % 2 ^ (8 * size) ∧
    ∀ b, b < pa ∨ pa + size ≤ b → readByte (perform s t m (.store size va d)).st b = readByte u b) ∧
  (∀ (s : State) (t : Nat) (m : Mode) (size : Nat) (sgn : Bool) (va : Word) (e : Bool × XErr),
    resolve s t m { kind := .read } va size = .error e →
    (perform s t m (.load size sgn va)).res = .fault (accessFault .read va e) ∧
      (perform s t m (.load size sgn va)).st = afterFault s t m .read va e ∧
      ((¬ (e.2.prot = true ∧ e.2.sub = 5) ∧ ¬ (e.2.prot = false ∧ e.2.sub = 8)) → (perform s t m (.load size sgn va)).st = s))

/-- The eight addresses that a vector load or store names. -/
def Sys2Proof.Machine.lanesAt (g : Nat → Word) : List Word := [g 0, g 1, g 2, g 3, g 4, g 5, g 6, g 7]

/-- A vector load whose active lanes are not all in the local scratch window is issued with the lanes of its mask to be written. -/
def Sys2Proof.Machine.VectorLoad (i : Instr) (d : BitVec 5) (m : BitVec 3) (srcs : List Opnd) (s u : State) (vas : List Word) : Prop :=
  Ready srcs [] s → (LongOp.vload vas (u.tile.mGet m.toNat)).short = false → Issuable u (.vload vas (u.tile.mGet m.toNat)) →
    exec i s = .next (finished s 1 (issued u (.vload vas (u.tile.mGet m.toNat)) (.v d.toNat (laneMask (u.tile.mGet m.toNat)))))

/-- A vector store likewise. -/
def Sys2Proof.Machine.VectorStore (i : Instr) (m : BitVec 3) (srcs : List Opnd) (s u : State) (vas : List Word) (v : BitVec 512) : Prop :=
  Ready srcs [] s → (LongOp.vstore vas (u.tile.mGet m.toNat) (lanes v)).short = false →
    Issuable u (.vstore vas (u.tile.mGet m.toNat) (lanes v)) →
    exec i s = .next (finished s 1 (issued u (.vstore vas (u.tile.mGet m.toNat) (lanes v)) .none))

/-- The active lanes of a vector access lie in the tile's own scratch, aligned, and none of their lines holds an uncorrectable error. -/
def Sys2Proof.Machine.LanesInScratch (u : State) (mask : Word) (vas : List Word) : Prop :=
  ∀ j, j < 8 → bitOf mask j = true → InScratch u (vas.getD j 0) 8 ∧ poisoned u (homeOf u (vas.getD j 0)) = false

/-- The doubleword at an address of the local scratch window. -/
def Sys2Proof.Machine.localWord (s : State) (va : Word) : Word := BitVec.ofNat 64 (readNum s (homeOf s va) 8)

/-- The state after that doubleword has been replaced: its eight bytes and the mark of its granule (R372). -/
def Sys2Proof.Machine.localUpdate (s : State) (va w : Word) : State := markScratch (writeNum s (homeOf s va) 8 w.toNat) s.tile.id (localOff va) 8

/-- A vector load through the local scratch window alone gives the lanes at once: an active lane the doubleword at its address, an inactive
lane what the register held (R278). -/
def Sys2Proof.Machine.LocalVectorLoad (i : Instr) (d : BitVec 5) (m : BitVec 3) (srcs : List Opnd) (s u : State) (vas : List Word) : Prop :=
  Ready srcs [] s → Unheld u → LanesInScratch u (u.tile.mGet m.toNat) vas → d.toNat < 16 →
    ∃ t, exec i s = .next t ∧ ∀ j, j < 8 →
      lane (t.tile.vGet d.toNat) j = if bitOf (u.tile.mGet m.toNat) j then localWord u (vas.getD j 0) else lane (s.tile.vGet d.toNat) j

/-- A vector store through the local scratch window alone writes the active lanes at once, in rising order (R278). -/
def Sys2Proof.Machine.LocalVectorStore (i : Instr) (m : BitVec 3) (srcs : List Opnd) (s u : State) (vas : List Word) (v : BitVec 512) : Prop :=
  Ready srcs [] s → Unheld u → LanesInScratch u (u.tile.mGet m.toNat) vas →
    exec i s = .next (finished s 1 ((List.range 8).foldl
      (fun w j => if bitOf (u.tile.mGet m.toNat) j then localUpdate w (vas.getD j 0) (lane v j) else w) u))

/-- The value of a vector source. -/
def Sys2Proof.Machine.vectorOf (s : State) (c : BitVec 5) : BitVec 512 := (s.tile.valueV c).1

/-- The state after a vector source has been taken. -/
def Sys2Proof.Machine.takenV (s : State) (c : BitVec 5) : State := onTile s (fun t => (popSrc t (.v c)).setFlags (s.tile.valueV c).2)

/-- Vector loads and stores (R277, R278, R205): the lane addresses of each form, what a load and a store do whose active lanes all lie in the tile's own
scratch, and the issue of any other. That an access with lanes on both sides is long as a whole (log entry 49), and that its home performs a long one at its
issue (log entry 4), are the model's choices. -/
def Obligations.VectorAccess : Prop :=
  (∀ (s : State) (d : BitVec 5) (a : BitVec 6) (m : BitVec 3) (o : BitVec 8),
    let g := lanesAt (fun j => valueOf s a + o.signExtend 64 * 64 + BitVec.ofNat 64 (8 * j))
    VectorLoad (.vld d a m o) d m [.x a] s (taken s a) g ∧ LocalVectorLoad (.vld d a m o) d m [.x a] s (taken s a) g) ∧
  (∀ (s : State) (d : BitVec 5) (a : BitVec 6) (m : BitVec 3) (o : BitVec 8),
    let u := takenV (taken s a) d
    let g := lanesAt (fun j => valueOf s a + o.signExtend 64 * 64 + BitVec.ofNat 64 (8 * j))
    VectorStore (.vst d a m o) m [.x a, .v d] s u g (vectorOf (taken s a) d) ∧
    LocalVectorStore (.vst d a m o) m [.x a, .v d] s u g (vectorOf (taken s a) d)) ∧
  (∀ (s : State) (d : BitVec 5) (a b : BitVec 6) (m : BitVec 3),
    let g := lanesAt (fun j => valueOf s a + BitVec.ofNat 64 j * valueOf (taken s a) b)
    VectorLoad (.vlds d a m b) d m [.x a, .x b] s (taken (taken s a) b) g ∧
    LocalVectorLoad (.vlds d a m b) d m [.x a, .x b] s (taken (taken s a) b) g) ∧
  (∀ (s : State) (d : BitVec 5) (a b : BitVec 6) (m : BitVec 3),
    let u := takenV (taken (taken s a) b) d
    let g := lanesAt (fun j => valueOf s a + BitVec.ofNat 64 j * valueOf (taken s a) b)
    VectorStore (.vsts d a m b) m [.x a, .x b, .v d] s u g (vectorOf (taken (taken s a) b) d) ∧
    LocalVectorStore (.vsts d a m b) m [.x a, .x b, .v d] s u g (vectorOf (taken (taken s a) b) d)) ∧
  (∀ (s : State) (d : BitVec 5) (a : BitVec 6) (b : BitVec 5) (m : BitVec 3),
    let g := lanesAt (fun j => valueOf s a + lane (vectorOf (taken s a) b) j)
    VectorLoad (.vldx d a m b) d m [.x a, .v b] s (takenV (taken s a) b) g ∧
    LocalVectorLoad (.vldx d a m b) d m [.x a, .v b] s (takenV (taken s a) b) g) ∧
  (∀ (s : State) (d : BitVec 5) (a : BitVec 6) (b : BitVec 5) (m : BitVec 3),
    let u := takenV (takenV (taken s a) b) d
    let g := lanesAt (fun j => valueOf s a + lane (vectorOf (taken s a) b) j)
    VectorStore (.vstx d a m b) m [.x a, .v b, .v d] s u g (vectorOf (takenV (taken s a) b) d) ∧
    LocalVectorStore (.vstx d a m b) m [.x a, .v b, .v d] s u g (vectorOf (takenV (taken s a) b) d))

/-- Results of long operations (R134, R135): a returned result changes no register; a park waits while a result is outstanding, and otherwise
commits every result in issue order, so that of two results for one register the later issued stays, and frees the buffer.
That the operation has been performed when it returns is the model's choice of moment (DESIGN CHOICE, log entry 4). -/
def Obligations.LongResultCommit : Prop :=
  (∀ (s : State) (k : Nat) (e : LongEntry), s.arg = [k] → s.tile.longBuf[k]? = some e → e.returned = false → e.res ≠ .pending →
    ∃ t, exec .longResultReturn s = .next t ∧ t.tile.x = s.tile.x ∧ t.tile.v = s.tile.v ∧
      t.tile.longBuf = s.tile.longBuf.set k { e with returned := true }) ∧
  (∀ s : State, s.tile.wait = some .park → s.tile.longBuf ≠ [] → (∀ e ∈ s.tile.longBuf, e.returned = true ∧ e.res ≠ .poison ∧ e.failed = false) →
    ∃ t, exec .parkCommit s = .next t ∧ t.tile.longBuf = [] ∧ t.tile.wait = none ∧
      t.tile.x = (s.tile.longBuf.foldl Tile.commitEntry s.tile).x ∧ t.tile.v = (s.tile.longBuf.foldl Tile.commitEntry s.tile).v ∧
      ∀ l e w n, s.tile.longBuf = l ++ [e] → e.dst = .x n → e.res = .word w → 0 < n → n < 32 → t.tile.xGet n = w) ∧
  (∀ s : State, s.tile.wait = some .park → (∃ e ∈ s.tile.longBuf, e.returned = false) →
    ∃ t, exec .parkCommit s = .next t ∧ t.tile.longBuf = s.tile.longBuf ∧ t.tile.x = s.tile.x ∧ t.tile.pc = s.tile.pc)

/- Atomics, barriers, waits and fences -/

/-- An AMO through the local scratch window: the word becomes `f` of its old value and the operand, and any destination receives the old
value. -/
def Sys2Proof.Machine.LocalAmo (i : BitVec 6 → BitVec 6 → BitVec 6 → Instr) (f : Word → Word → Word) : Prop :=
  ∀ (s : State) (d a b : BitVec 6), Unheld s → Ready [.x a, .x b] [.x d] s → InScratch s (valueOf s a) 8 →
    poisoned s (homeOf s (valueOf s a)) = false → exec (i d a b) s = .next (finished s 1 (given
      (localUpdate (taken (taken s a) b) (valueOf s a) (f (localWord s (valueOf s a)) (valueOf (taken s a) b))) d (localWord s (valueOf s a))))

/-- A RED through the local scratch window: the same update, with no result. -/
def Sys2Proof.Machine.LocalRed (i : BitVec 6 → BitVec 6 → Instr) (f : Word → Word → Word) : Prop :=
  ∀ (s : State) (a b : BitVec 6), Unheld s → Ready [.x a, .x b] [] s → InScratch s (valueOf s a) 8 → poisoned s (homeOf s (valueOf s a)) = false →
    exec (i a b) s = .next (finished s 1
      (localUpdate (taken (taken s a) b) (valueOf s a) (f (localWord s (valueOf s a)) (valueOf (taken s a) b))))

/-- Short atomics (R274, R279, R284): AMO, CAS, RED, BARINIT and BARARV through the local scratch window. A BARARV also writes its entry of
the barrier record, with the phase that the word had (R344). -/
def Obligations.LocalAtomicResults : Prop :=
  LocalAmo .amoSwap (fun _ b => b) ∧ LocalAmo .amoAdd (fun o b => o + b) ∧ LocalAmo .amoAnd (fun o b => o &&& b) ∧
  LocalAmo .amoOr (fun o b => o ||| b) ∧ LocalAmo .amoXor (fun o b => o ^^^ b) ∧
  LocalAmo .amoMin (fun o b => if b.slt o then b else o) ∧ LocalAmo .amoMax (fun o b => if o.slt b then b else o) ∧
  LocalAmo .amoMinu (fun o b => if b.ult o then b else o) ∧ LocalAmo .amoMaxu (fun o b => if o.ult b then b else o) ∧
  LocalAmo .amoFadd (fun o b => (addT64 0 o b).1) ∧
  LocalRed .redAdd (fun o b => o + b) ∧ LocalRed .redAnd (fun o b => o &&& b) ∧ LocalRed .redOr (fun o b => o ||| b) ∧
  LocalRed .redXor (fun o b => o ^^^ b) ∧ LocalRed .redMin (fun o b => if b.slt o then b else o) ∧
  LocalRed .redMax (fun o b => if o.slt b then b else o) ∧ LocalRed .redMinu (fun o b => if b.ult o then b else o) ∧
  LocalRed .redMaxu (fun o b => if o.ult b then b else o) ∧ LocalRed .redFadd (fun o b => (addT64 0 o b).1) ∧
  (∀ (s : State) (d a b : BitVec 6), d.toNat < 32 → Unheld s → Ready [.x a, .x b] [.x d] s → InScratch s (valueOf s a) 8 →
    poisoned s (homeOf s (valueOf s a)) = false →
    exec (.cas d a b) s = .next (finished s 1 (given
      (if localWord s (valueOf s a) = s.tile.xGet d.toNat then localUpdate (taken (taken s a) b) (valueOf s a) (valueOf (taken s a) b)
       else taken (taken s a) b) d (localWord s (valueOf s a))))) ∧
  (∀ (s : State) (a b : BitVec 6), Unheld s → Ready [.x a, .x b] [] s → InScratch s (valueOf s a) 8 → poisoned s (homeOf s (valueOf s a)) = false →
    exec (.barinit a b) s = .next (finished s 1
      (localUpdate (taken (taken s a) b) (valueOf s a) (barinitWord (localWord s (valueOf s a)) (valueOf (taken s a) b))))) ∧
  (∀ (s : State) (a : BitVec 6), Unheld s → Ready [.x a] [] s → InScratch s (valueOf s a) 8 → poisoned s (homeOf s (valueOf s a)) = false →
    exec (.bararv a) s = .next (finished s 1
      (onTile (localUpdate (taken s a) (valueOf s a) (arrive (localWord s (valueOf s a)) false)) (fun t =>
        { t with barRec := barRecord t.barRec (valueOf s a) (bitsOf (localWord s (valueOf s a)) 63 32) }))))

/-- A long AMO is issued with its destination, a register. -/
def Sys2Proof.Machine.LongAmo (i : BitVec 6 → BitVec 6 → BitVec 6 → Instr) (o : AtomOp) : Prop :=
  ∀ (s : State) (d a b : BitVec 6), Ready [.x a, .x b] [] s → isLocal (valueOf s a) = false → d.toNat < 32 →
    Issuable (taken (taken s a) b) (.amo o (valueOf s a) (valueOf (taken s a) b)) →
    exec (i d a b) s = .next (finished s 1 (issued (taken (taken s a) b) (.amo o (valueOf s a) (valueOf (taken s a) b)) (.x d.toNat)))

/-- A long RED holds an entry with no destination. -/
def Sys2Proof.Machine.LongRed (i : BitVec 6 → BitVec 6 → Instr) (o : AtomOp) : Prop :=
  ∀ (s : State) (a b : BitVec 6), Ready [.x a, .x b] [] s → isLocal (valueOf s a) = false →
    Issuable (taken (taken s a) b) (.red o (valueOf s a) (valueOf (taken s a) b)) →
    exec (i a b) s = .next (finished s 1 (issued (taken (taken s a) b) (.red o (valueOf s a) (valueOf (taken s a) b)) .none))

/-- A forward address that passes the checks at issue (R280). -/
def Sys2Proof.Machine.forwardOk (s : State) (fwd : Word) : Bool :=
  decide (fwd.toNat % 16 = 0) && (match regionOf fwd with
    | .ok (.place rank _) => decide (rank < tileCount s (partNo s s.tile.id))
    | .ok (.localScr _) => true
    | _ => false)

/-- A REDF always holds an entry; its forward address is the third source (R280). -/
def Sys2Proof.Machine.Forwarding (i : BitVec 6 → BitVec 6 → BitVec 6 → Instr) (o : AtomOp) : Prop :=
  ∀ (s : State) (f a b : BitVec 6), Ready [.x a, .x b, .x f] [] s →
    let u := taken (taken (taken s a) b) f
    let op := LongOp.redf o (valueOf s a) (valueOf (taken s a) b) (valueOf (taken (taken s a) b) f) none
    forwardOk u (valueOf (taken (taken s a) b) f) = true → (isLocal (valueOf s a) = true → InScratch u (valueOf s a) 8) → Issuable u op →
    exec (i f a b) s = .next (finished s 1 (issued u op .none))

/-- Long loads and stores (R134, R275, R276). A load from elsewhere than the local scratch window to a port or a stream raises
ILLEGAL with class 4. Long atomics (R134, R279, R280, R284): how AMO, CAS, RED, REDF, BARINIT and BARARV are issued, and what the forward address of a REDF
raises: ALIGN, or XLATE with sub-code RESWIN or PLACE_RANK.
A long operation is performed when it is issued, and its result returns later: the moment is the model's choice (DESIGN CHOICE, log entry 4). -/
def Obligations.LongOperationIssue : Prop :=
  (∀ o : BitVec 13,
    LongLoad 1 1 true (.ldb · · o) (o.signExtend 64) ∧ LongLoad 1 1 false (.ldbu · · o) (o.signExtend 64) ∧
    LongLoad 1 2 true (.ldh · · o) (o.signExtend 64) ∧ LongLoad 1 2 false (.ldhu · · o) (o.signExtend 64) ∧
    LongLoad 1 4 true (.ldw · · o) (o.signExtend 64) ∧ LongLoad 1 4 false (.ldwu · · o) (o.signExtend 64) ∧
    LongLoad 1 8 false (.ldd · · o) (o.signExtend 64) ∧
    LongStore 1 1 (.stb · · o) (o.signExtend 64) ∧ LongStore 1 2 (.sth · · o) (o.signExtend 64) ∧
    LongStore 1 4 (.stw · · o) (o.signExtend 64) ∧ LongStore 1 8 (.std · · o) (o.signExtend 64)) ∧
  (∀ o : BitVec 32, LongLoad 2 8 false (.lddImm32 · · o) (o.signExtend 64) ∧ LongStore 2 8 (.stdImm32 · · o) (o.signExtend 64)) ∧
  (∀ (s : State) (d a : BitVec 6) (o : BitVec 13), Ready [.x a] [] s → isLocal (valueOf s a + o.signExtend 64) = false → 32 ≤ d.toNat →
    exec (.ldd d a o) s = .next (takeTrap s { cause := .illegal, cls := 4 })) ∧
  LongAmo .amoSwap .swap ∧ LongAmo .amoAdd .add ∧ LongAmo .amoAnd .and ∧ LongAmo .amoOr .or ∧ LongAmo .amoXor .xor ∧
  LongAmo .amoMin .min ∧ LongAmo .amoMax .max ∧ LongAmo .amoMinu .minu ∧ LongAmo .amoMaxu .maxu ∧ LongAmo .amoFadd .fadd ∧
  LongRed .redAdd .add ∧ LongRed .redAnd .and ∧ LongRed .redOr .or ∧ LongRed .redXor .xor ∧ LongRed .redMin .min ∧
  LongRed .redMax .max ∧ LongRed .redMinu .minu ∧ LongRed .redMaxu .maxu ∧ LongRed .redFadd .fadd ∧
  Forwarding .redfAdd .add ∧ Forwarding .redfAnd .and ∧ Forwarding .redfOr .or ∧ Forwarding .redfXor .xor ∧ Forwarding .redfMin .min ∧
  Forwarding .redfMax .max ∧ Forwarding .redfMinu .minu ∧ Forwarding .redfMaxu .maxu ∧ Forwarding .redfFadd .fadd ∧
  (∀ (s : State) (d a b : BitVec 6), d.toNat < 32 → Ready [.x a, .x b] [] s → isLocal (valueOf s a) = false →
    Issuable (taken (taken s a) b) (.cas (valueOf s a) (s.tile.xGet d.toNat) (valueOf (taken s a) b)) →
    exec (.cas d a b) s = .next (finished s 1
      (issued (taken (taken s a) b) (.cas (valueOf s a) (s.tile.xGet d.toNat) (valueOf (taken s a) b)) (.x d.toNat)))) ∧
  (∀ (s : State) (a b : BitVec 6), Ready [.x a, .x b] [] s → isLocal (valueOf s a) = false →
    Issuable (taken (taken s a) b) (.barinit (valueOf s a) (valueOf (taken s a) b)) →
    exec (.barinit a b) s = .next (finished s 1 (issued (taken (taken s a) b) (.barinit (valueOf s a) (valueOf (taken s a) b)) .none))) ∧
  (∀ (s : State) (a : BitVec 6), Ready [.x a] [] s → isLocal (valueOf s a) = false → Issuable (taken s a) (.bararv (valueOf s a)) →
    exec (.bararv a) s = .next (finished s 1 (issued (taken s a) (.bararv (valueOf s a)) .none))) ∧
  (∀ (s : State) (f a b : BitVec 6), Ready [.x a, .x b, .x f] [] s →
    let fwd := valueOf (taken (taken s a) b) f
    (fwd.toNat % 16 ≠ 0 → exec (.redfAdd f a b) s = .next (takeTrap s { cause := .align })) ∧
    (fwd.toNat % 16 = 0 → fwd.toNat < 2 ^ 55 →
      exec (.redfAdd f a b) s = .next (takeTrap s (faultTrap (mkFault 0 0 0 .atomic fwd { prot := false, sub := 1 }) false))) ∧
    (∀ r o, fwd.toNat % 16 = 0 → regionOf fwd = .ok (.place r o) → tileCount s (partNo s s.tile.id) ≤ r →
      exec (.redfAdd f a b) s = .next (takeTrap s (faultTrap (mkFault 0 0 0 .atomic fwd { prot := false, sub := 4 }) false))))

/-- What an atomic update does at its owner (R106, R279): `g` gives the new word, if one is written, and `r` the answer. -/
def Sys2Proof.Machine.UpdateAtOwner (op : Word → LongOp) (g : Word → Option Word) (r : Word → LongRes) : Prop :=
  ∀ (s u : State) (t pa : Nat) (tg : Target) (m : Mode) (va : Word), Inv u →
    resolve s t m { kind := .atomic, noDevice := true, ownerAtomic := true } va 8 = .ok (tg, u) → heldBehind s t = none → targetKey tg = some pa →
    blockOf u t va tg true = .free → poisoned u pa = false →
    let old := BitVec.ofNat 64 (readNum u pa 8)
    let p := perform s t m (op va)
    p.res = r old ∧ BitVec.ofNat 64 (readNum p.st pa 8) = (g old).getD old ∧ ∀ b, b < pa ∨ pa + 8 ≤ b → readByte p.st b = readByte u b

/-- The field of a barrier word between two bits. -/
def Sys2Proof.Machine.field (w : Word) (hi lo : Nat) : Nat := w.toNat / 2 ^ lo % 2 ^ (hi - lo + 1)

/-- One barrier arrival, as R109 computes it, field by field, on every word; at the word's owner an arrival is this one update, and so is the
arrival made for a cancelled member, with cancelled = 1. -/
def Obligations.BarrierArrival : Prop :=
  (∀ (w : Word) (cancelled : Bool),
    let e := min (field w 15 0) 0x7FFF
    let n := field w 30 16 + 1
    let v := arrive w cancelled
    field v 63 32 = (if n ≥ e then (field w 63 32 + 1) % 2 ^ 32 else field w 63 32) ∧
    field v 30 16 = (if n ≥ e then 0 else n) ∧
    field v 31 31 = (if cancelled then 1 else field w 31 31) ∧
    field v 15 0 = field w 15 0) ∧
  UpdateAtOwner (fun va => .bararv va) (fun old => some (arrive old false)) .word ∧
  (∀ ph : Nat, UpdateAtOwner (fun va => .cancelMark va ph)
    (fun old => some (if field old 63 32 = ph then old ||| 0x80000000#64 else arrive old true)) (fun _ => .ack))

/-- Atomic updates at their owner (R106, R279): AMO and CAS answer the old value, RED an acknowledgement; the word becomes the function of
the old value and the operand; a CAS that fails writes nothing; no other byte changes. BARINIT keeps the phase and clears CANCEL and COUNT (R284); the update at a kill marks a word that has not passed the member's phase, and
otherwise arrives with CANCEL (R344). -/
def Obligations.AtomicAndBarrierAtOwner : Prop :=
  (∀ (o : AtomOp) (b : Word), UpdateAtOwner (fun va => .amo o va b) (fun old => some (atomF o old b)) .word) ∧
  (∀ (o : AtomOp) (b : Word), UpdateAtOwner (fun va => .red o va b) (fun old => some (atomF o old b)) (fun _ => .ack)) ∧
  (∀ e n : Word, UpdateAtOwner (fun va => .cas va e n) (fun old => if old = e then some n else none) .word) ∧
  (∀ n : Word, UpdateAtOwner (fun va => .barinit va n) (fun old => some (barinitWord old n)) (fun _ => .ack)) ∧
  UpdateAtOwner (fun va => .bararv va) (fun old => some (arrive old false)) .word ∧
  (∀ w n : Word, let v := barinitWord w n
    field v 63 32 = field w 63 32 ∧ field v 31 31 = 0 ∧ field v 30 16 = 0 ∧ field v 15 0 = min n.toNat 0xFFFF) ∧
  (∀ (w : Word) (ph : Nat), (field w 63 32 = ph → cancelMarkWord w ph = w ||| 0x80000000#64) ∧
    (field w 63 32 ≠ ph → cancelMarkWord w ph = arrive w true))

/-- A wait begins, or begins again with the operands that it kept (R283): the address, the value, and the state that a wait would leave. -/
def Sys2Proof.Machine.WaitBegins (s : State) (a b : BitVec 6) (va v : Word) (kept : State) : Prop :=
  (∃ w, s.tile.waitOps.find? (fun w => w.ctx == s.tile.ctx && w.pc == s.tile.pc) = some w ∧ va = w.a ∧ v = w.v ∧ kept = s) ∨
  (s.tile.waitOps.find? (fun w => w.ctx == s.tile.ctx && w.pc == s.tile.pc) = none ∧ Ready [.x a, .x b] [] s ∧
    va = valueOf s a ∧ v = valueOf (taken s a) b ∧
    kept = onTile (taken (taken s a) b) (fun t =>
      { t with waitOps := { ctx := t.ctx, pc := t.pc, a := va, v := v } :: t.waitOps.filter (fun w => w.ctx != t.ctx) }))

/-- The word of a wait can be read: its address passes the checks of an access of its kind outside the device window, its translation is at
hand or the walker has room for it (R43), nothing stands in the way at its home, and the word is `w`; `u` is the state after the read, with what
the caches on its way have kept of it (R56). -/
def Sys2Proof.Machine.WaitReads (k : AccKind) (s : State) (va w : Word) (u : State) : Prop :=
  windowClosed s s.tile.id (.load 8 false va) = false ∧ walkStalls s s.tile.id va k s.tile.mode = false ∧ Unheld s ∧
    ∃ tg pa v, resolve s s.tile.id s.tile.mode { kind := k, noDevice := true } va 8 = .ok (tg, v) ∧ targetKey tg = some pa ∧
      blockOf v s.tile.id va tg false = .free ∧ poisoned v pa = false ∧ w = BitVec.ofNat 64 (readNum v pa 8) ∧
      u = cacheTouch (readAt v tg 8).2 s.tile.id va tg false

/-- A wait completes when the word that it reads satisfies its condition, writes nothing, and otherwise blocks at the same pc with its
operands kept, at a point where a handler may be selected; the store that wakes it makes its thread read again (DEDUCED, log entry 50). -/
def Sys2Proof.Machine.Waits (k : AccKind) (i : BitVec 6 → BitVec 6 → Instr) (cond : Word → Word → Bool) : Prop :=
  ∀ (s : State) (a b : BitVec 6) (va v w : Word) (kept u : State), WaitBegins s a b va v kept → WaitReads k kept va w u →
    exec (i a b) s = .next (if cond w v then finished s 1 u else waitStep u .wait true [(.waitWake, [])])

/-- The source half of a fence is complete for a class (R99): C, S, Y, M and K are 0 to 4. -/
def Sys2Proof.Machine.SourceDone (s : State) (c : Nat) : Prop :=
  match c with
  | 0 => ∀ e ∈ s.tile.longBuf, e.res = .pending → ∃ p i j k, e.op = .mr p i j k
  | 1 => (∀ e ∈ s.tile.streams, e.2.out = true → e.2.fault = none ∧ e.2.held = []) ∧ s.tile.sinkBusy = none
  | 2 => ∀ e ∈ s.tile.ownCopies, e.2.arrived = true ∧ e.2.lead = none ∧ e.2.pieces = []
  | 3 => s.tile.sub.held = none ∧ s.tile.sub.queue = [] ∧ s.tile.sub.drains = []
  | _ => True

/-- The state in which a fence looks at its classes: one that awaits class S has marked, as it began, the tokens on their way to its tile's
ports, and awaits no token that is written later (R430). -/
def Sys2Proof.Machine.fenceBegun (s : State) (c : Nat) : State := if c = 1 then onTile s Tile.beginFence else s

/-- WAITGE and WAITNE (R111, R283), BARWT, which needs R and W (R110, R273, R284), and what a wait that blocks leaves. XFENCE and FENCE (R99, R100, R282): they complete when the source half is complete; the destination half of S discards what input streams
fetched ahead; FENCE also invalidates the clean lines of the tile's cache, and those that its accesses have placed in the pool, and no other line; a fence waits for what is outstanding, and raises
the fault that an output stream holds. A long access whose answer was a fault is not awaited (DESIGN CHOICE, log entry 88). -/
def Obligations.WaitFenceResults : Prop :=
  Waits .read .waitge (fun w v => decide (v.toNat ≤ w.toNat)) ∧
  Waits .read .waitne (fun w v => decide (w ≠ v)) ∧
  Waits .atomic .barwt (fun w v => decide ((field w 63 32 + 2 ^ 32 - field v 31 0) % 2 ^ 32 < 2 ^ 31)) ∧
  (∀ s : State, let t := waitStep s .wait true [(.waitWake, [])]
    t.tile.pc = s.tile.pc ∧ t.tile.x = s.tile.x ∧ t.mem = s.mem ∧ t.tile.wait = some .wait ∧ t.tile.waitPoint = true) ∧
  (∀ s : State, s.tile.wait = some .wait → ∃ t, exec .waitWake s = .next t ∧ t.agenda = (addTurn s (.thread s.tile.id)).agenda ∧
    t.tile = s.tile ∧ t.mem = s.mem) ∧
  (∀ (s : State) (a b : BitVec 6), a.toNat ≤ 4 → b.toNat ≤ 4 → SourceDone (fenceBegun s a.toNat) a.toNat →
    exec (.xfence a b) s = .next (finished s 1
      (if b = 1#6 then onTile (fenceBegun s a.toNat) (fun t => t.refetch (fun _ => true)) else fenceBegun s a.toNat))) ∧
  (∀ s : State, (∀ c, c ≤ 4 → SourceDone (fenceBegun s 1) c) →
    exec .fence s = .next (finished s 1 (dropClean (onTile (fenceBegun s 1) (fun t => t.refetch (fun _ => true)))))) ∧
  (∀ t : Tile, t.wait ≠ some .fence → (t.beginFence.sinkBusy = none ↔
    ∀ e ∈ t.ports, e.2.idle = false → bitOf (e.2.active.getD 0 0) 1 = true → e.2.toRim = [] ∧ vget t.coreOut e.1 [] = [])) ∧
  (∀ t : Tile, t.wait = some .fence → t.beginFence = t) ∧
  (∀ (s : State) (d : DLine), (d ∈ (dropClean s).tile.dcache ↔ d ∈ s.tile.dcache ∧ d.dirty = true) ∧
    ∀ c, d ∈ (getCluster (dropClean s) c).poolLines ↔
      d ∈ (getCluster s c).poolLines ∧ (c = clusterOf s.tile.id → d.dirty = true ∨ d.placer ≠ s.tile.id)) ∧
  (∀ s : State, (dropClean s).mem = s.mem ∧ (dropClean s).others = s.others ∧ (dropClean s).tile.x = s.tile.x ∧
    (dropClean s).tile.coreStatus = s.tile.coreStatus) ∧
  (∀ (s : State) (b : BitVec 6) (e : LongEntry), e ∈ s.tile.longBuf → e.res = .pending → e.op.isAccess = true →
    ∃ evs, exec (.xfence 0#6 b) s = .next (waitStep s .fence false evs)) ∧
  (∀ (s : State) (b : BitVec 6), s.tile.streams = [] → (fenceBegun s 1).tile.sinkBusy ≠ none →
    ∃ evs, exec (.xfence 1#6 b) s = .next (waitStep (fenceBegun s 1) .fence false evs)) ∧
  (∀ (s : State) (b : BitVec 6) (e : Nat × Binding) (f : MemFault), s.tile.streams = [e] → e.2.out = true → e.2.fault = some f →
    exec (.xfence 1#6 b) s = .next (takeTrap s (faultTrap f false)))

/- T64 arithmetic -/

/-- The integer that `n · 2^e` is in units of 2^b. -/
def Sys2Proof.Machine.inUnits (b : Int) (n : Nat) (e : Int) : Int := n * 2 ^ (e - b).toNat

/-- Rounding (R174, R175): unless it overflows, the rounded value of a nonzero `n · 2^e` has the sign given and lies within the bound of its
mode, where 2^u is the unit in the last place of the value's binade or of the subnormals: half of it for RNE and RNA; toward zero, up or
down for RTZ, RUP and RDN. A value that T64 can represent rounds to itself and sets no flag, in every mode (R171, R175). -/
def Obligations.Rounding : Prop :=
  (∀ (mode : Nat) (neg : Bool) (n : Nat) (e : Int), mode ≤ 4 → n ≠ 0 → (roundT64 mode neg n e).2 &&& fOF = 0 →
    ∃ m q, viewT64 (roundT64 mode neg n e).1 = .fin neg m q ∧ -32812 ≤ q ∧
      let u : Int := max (e + (Nat.log2 n : Int) - 46) (-32812)
      let b := min e (-32812)
      let v := inUnits b n e
      let w := inUnits b m q
      let h : Int := 2 ^ (u - b).toNat
      (mode = 0 ∨ mode = 4 → 2 * (v - w) ≤ h ∧ 2 * (w - v) ≤ h) ∧
      (mode = 1 ∨ (mode = 2 ∧ neg = true) ∨ (mode = 3 ∧ neg = false) → w ≤ v ∧ v < w + h) ∧
      ((mode = 2 ∧ neg = false) ∨ (mode = 3 ∧ neg = true) → v ≤ w ∧ w < v + h)) ∧
  (∀ (mode : Nat) (neg : Bool) (n : Nat) (e : Int), n < 2 ^ 47 → -32812 ≤ e → (Nat.log2 n : Int) + e < 32768 →
    (roundT64 mode neg n e).2 = 0 ∧
    ∃ m q, viewT64 (roundT64 mode neg n e).1 = .fin neg m q ∧ -32812 ≤ q ∧ inUnits (-32812) m q = inUnits (-32812) n e)

/- Vector instructions -/

/-- The state after several vector sources have been taken in field order. -/
def Sys2Proof.Machine.takenVs (s : State) : List (BitVec 5) → State
  | [] => s
  | c :: r => takenVs (takenV s c) r

/-- The values that they give. -/
def Sys2Proof.Machine.vectorsOf (s : State) : List (BitVec 5) → List (BitVec 512)
  | [] => []
  | c :: r => vectorOf s c :: vectorsOf (takenV s c) r

/-- The results of the elements that a mask leaves active: of `n` elements, none for an inactive one. -/
def Sys2Proof.Machine.activeOnly {α : Type} (n : Nat) (mask : Word) (g : Nat → α) : List (Option α) :=
  (List.range n).map (fun i => if bitOf mask i then some (g i) else none)

/-- The flags that the active elements set. -/
def Sys2Proof.Machine.flagsOf {α : Type} (l : List (Option (α × Flags))) : Flags := l.foldl (fun a e => a ||| (e.map (·.2)).getD 0) 0

/-- The state after elements have been given to a vector destination. -/
def Sys2Proof.Machine.elementsGiven (s : State) (d : BitVec 5) (w : Nat) (l : List (Option Nat)) : State :=
  schedule (onTile s (fun t => t.giveElems d w l)) s.tile.id (giveSteps (.v d))

/-- The state after a whole vector has been given to a vector destination. -/
def Sys2Proof.Machine.vectorGiven (s : State) (d : BitVec 5) (v : BitVec 512) : State :=
  schedule (onTile s (fun t => t.giveV d v)) s.tile.id (giveSteps (.v d))

/-- An element-wise instruction: each active element of the destination receives `g` of the elements of the sources, whose flags are set; an
inactive element is given nothing. `g` is applied to the rounding mode, the sources and the element's number. No dispute over the result
stands (R386). -/
def Sys2Proof.Machine.Elementwise (len w : Nat) (srcs : List (BitVec 5)) (d : BitVec 5) (m r : BitVec 3) (i : Instr)
    (g : Nat → List (BitVec 512) → Nat → Nat × Flags) : Prop :=
  ∀ s : State, s.tile.dispute = none → Ready (srcs.map .v) [.v d] s →
    let u := takenVs s srcs
    let l := activeOnly (512 / w) (u.tile.mGet m.toNat) (g (roundingMode u.tile r) (vectorsOf s srcs))
    exec i s = .next (finished s len (elementsGiven (setFlags u (flagsOf l)) d w (l.map (fun e => e.map (·.1)))))

/-- A T64 lane operation with one source. -/
def Sys2Proof.Machine.Lanes1 (i : BitVec 5 → BitVec 5 → BitVec 3 → BitVec 3 → Instr) (g : Nat → Word → Word × Flags) : Prop :=
  ∀ (d a : BitVec 5) (m r : BitVec 3), Elementwise 2 64 [a] d m r (i d a m r) (fun q vs j =>
    ((g q (lane (vs.getD 0 0) j)).1.toNat, (g q (lane (vs.getD 0 0) j)).2))

/-- A T64 lane operation with two sources. -/
def Sys2Proof.Machine.Lanes2 (i : BitVec 5 → BitVec 5 → BitVec 5 → BitVec 3 → BitVec 3 → Instr) (g : Nat → Word → Word → Word × Flags) : Prop :=
  ∀ (d a b : BitVec 5) (m r : BitVec 3), Elementwise 2 64 [a, b] d m r (i d a b m r) (fun q vs j =>
    let y := g q (lane (vs.getD 0 0) j) (lane (vs.getD 1 0) j)
    (y.1.toNat, y.2))

/-- A T64 lane operation with three sources. -/
def Sys2Proof.Machine.Lanes3 (i : BitVec 5 → BitVec 5 → BitVec 5 → BitVec 5 → BitVec 3 → BitVec 3 → Instr) (g : Nat → Word → Word → Word → Word × Flags) : Prop :=
  ∀ (d a b c : BitVec 5) (m r : BitVec 3), Elementwise 2 64 [a, b, c] d m r (i d a b c m r) (fun q vs j =>
    let y := g q (lane (vs.getD 0 0) j) (lane (vs.getD 1 0) j) (lane (vs.getD 2 0) j)
    (y.1.toNat, y.2))

/-- The signed integer that a finite number is in units of 2^w. -/
def Sys2Proof.Machine.unitsOf (neg : Bool) (n : Nat) (e w : Int) : Int := (if neg then -1 else 1) * inUnits w n e

/-- One finite or infinite number lies below another. -/
def Sys2Proof.Machine.Below (a b : Num) : Prop :=
  match a, b with
  | .fin s n e, .fin t m d => unitsOf s n e (min e d) < unitsOf t m d (min e d)
  | .inf true, .inf false => True
  | .inf true, .fin _ _ _ => True
  | .fin _ _ _, .inf false => True
  | _, _ => False

/-- The sum of two finite numbers, rounded once: of their exact sum where it is not zero, else a zero with the sign of two zeros of one sign,
and otherwise minus zero in RDN alone (R173, R175). -/
def Sys2Proof.Machine.SumRounded (q : Nat) (s : Bool) (n : Nat) (e : Int) (t : Bool) (m : Nat) (d : Int) (r : Word × Flags) : Prop :=
  let v := unitsOf s n e (min e d) + unitsOf t m d (min e d)
  (v ≠ 0 → r = roundT64 q (decide (v < 0)) v.natAbs (min e d)) ∧
  (v = 0 → r = (zeroT64 (if n = 0 ∧ m = 0 ∧ s = t then s else q == 3), 0))

/-- `m` is `n · 2^e` rounded to an integer in a mode (R174): the nearest one, a tie to even or away from zero, or the next one in the mode's
direction. -/
def Sys2Proof.Machine.NearestInteger (q : Nat) (neg : Bool) (n : Nat) (e : Int) (m : Nat) : Prop :=
  let v := inUnits (min e 0) n e
  let w := inUnits (min e 0) m 0
  let h : Int := 2 ^ (-(min e 0)).toNat
  (q = 0 ∨ q = 4 → 2 * (v - w) ≤ h ∧ 2 * (w - v) ≤ h) ∧
  (q = 0 → v ≠ w → 2 * (v - w) = h ∨ 2 * (w - v) = h → m % 2 = 0) ∧ (q = 4 → v ≠ w → 2 * (v - w) ≠ h) ∧
  (q = 1 ∨ (q = 2 ∧ neg = true) ∨ (q = 3 ∧ neg = false) → w ≤ v ∧ v < w + h) ∧
  ((q = 2 ∧ neg = false) ∨ (q = 3 ∧ neg = true) → v ≤ w ∧ w < v + h)

/-- The results of the T64 lane operations on finite and infinite operands (R257, R258, R260 to R262): sums, products and fused sums are the
exact value rounded once; a quotient or a root is the rounding of the exact value or of a number strictly between the same two neighbours on a
grid finer than any T64 value's; minima and maxima, classes, conversions and integer values as the rules have them. -/
def Sys2Proof.Machine.LaneValues : Prop :=
  (∀ (q : Nat) (a b : Word) (s t : Bool) (n m : Nat) (e d : Int), viewT64 a = .fin s n e → viewT64 b = .fin t m d →
    SumRounded q s n e t m d (addT64 q a b) ∧ SumRounded q s n e (!t) m d (subT64 q a b) ∧
    mulT64 q a b = roundT64 q (s != t) (n * m) (e + d) ∧
    (m ≠ 0 → ∃ k, divT64 q a b = roundT64 q (s != t) k (e - d - 101) ∧ (k % 2 = 0 → k * m = n * 2 ^ 101) ∧
      (k % 2 = 1 → (k - 1) * m < n * 2 ^ 101 ∧ n * 2 ^ 101 < (k + 1) * m)) ∧
    (∀ (c : Word) (u : Bool) (l : Nat) (f : Int) (np nc : Bool), viewT64 c = .fin u l f →
      SumRounded q ((s != t) != np) (n * m) (e + d) (u != nc) l f (fmaT64 q np nc a b c))) ∧
  (∀ (q : Nat) (a : Word) (n : Nat) (e : Int), viewT64 a = .fin false n e → n ≠ 0 → ∃ (k : Nat) (c : Int),
    sqrtT64 q a = roundT64 q false k c ∧ 2 * c ≤ e ∧ 2 ^ 50 ≤ k ∧ (k % 2 = 0 → k * k = n * 2 ^ (e - 2 * c).toNat) ∧
      (k % 2 = 1 → (k - 1) * (k - 1) < n * 2 ^ (e - 2 * c).toNat ∧ n * 2 ^ (e - 2 * c).toNat < (k + 1) * (k + 1))) ∧
  (∀ (a b : Word), isNaN a = false → isNaN b = false →
    (Below (viewT64 a) (viewT64 b) → minMaxT64 false a b = (normT64 a, 0) ∧ minMaxT64 true a b = (normT64 b, 0)) ∧
    (Below (viewT64 b) (viewT64 a) → minMaxT64 false a b = (normT64 b, 0) ∧ minMaxT64 true a b = (normT64 a, 0)) ∧
    (¬ Below (viewT64 a) (viewT64 b) → ¬ Below (viewT64 b) (viewT64 a) → a.getLsbD 63 = true → b.getLsbD 63 = false →
      minMaxT64 false a b = (normT64 a, 0) ∧ minMaxT64 true a b = (normT64 b, 0))) ∧
  (∀ (a : Word) (s : Bool) (n : Nat) (e : Int), viewT64 a = .fin s n e → ∃ (m : Nat) (d : Int), viewT64 (normT64 a) = .fin s m d ∧
    inUnits (-32812) m d = inUnits (-32812) n e ∧ (2 ^ 46 ≤ m ∨ d = -32812)) ∧
  (∀ s : Bool, normT64 (infT64 s) = infT64 s) ∧
  (∀ (g : Bool) (x : Word) (k : Nat), k < 64 →
    (setSign g x).getLsbD k = if k = 63 then g else (normT64 (x &&& 0x7FFFFFFFFFFFFFFF#64)).getLsbD k) ∧
  (∀ (a : Word) (s : Bool) (n : Nat) (e : Int), viewT64 a = .fin s n e → classT64 a =
    if n = 0 then (if s then 8 else 0x10) else if n * 2 ^ (e + 32812).toNat < 2 ^ 46 then (if s then 4 else 0x20) else if s then 2 else 0x40) ∧
  (∀ (a : Word), (∀ s, viewT64 a = .inf s → classT64 a = if s then 1 else 0x80) ∧
    (∀ s, viewT64 a = .nan s → classT64 a = if s then 0x100 else 0x200)) ∧
  (∀ (q w : Nat) (u : Bool) (a : Word) (s : Bool), 0 < w → w ≤ 64 →
    let lo : Int := if u then 0 else -2 ^ (w - 1)
    let hi : Int := if u then 2 ^ w - 1 else 2 ^ (w - 1) - 1
    (viewT64 a = .inf s → cvtiT64 q w u a = (BitVec.ofInt 64 (if s then lo else hi), fNV)) ∧
    (∀ (n : Nat) (e : Int), viewT64 a = .fin s n e → q ≤ 4 → ∃ m, NearestInteger q s n e m ∧
      let y : Int := (if s then -1 else 1) * m
      (y < lo → cvtiT64 q w u a = (BitVec.ofInt 64 lo, fNV)) ∧ (hi < y → cvtiT64 q w u a = (BitVec.ofInt 64 hi, fNV)) ∧
      (lo ≤ y → y ≤ hi → cvtiT64 q w u a = (BitVec.ofInt 64 y, if inUnits (min e 0) m 0 = inUnits (min e 0) n e then 0 else fNX)))) ∧
  (∀ (q : Nat) (a : Word) (s : Bool) (n : Nat) (e : Int), viewT64 a = .fin s n e → q ≤ 4 → ∃ m, NearestInteger q s n e m ∧
    (rndpT64 q a).1 = (roundT64 q s m 0).1 ∧ (rndpT64 q a).2 = (if inUnits (min e 0) m 0 = inUnits (min e 0) n e then 0 else fNX)) ∧
  (∀ (q : Nat) (s : Bool), rndpT64 q (infT64 s) = (infT64 s, 0))

/-- T64 lane arithmetic (R257, R258, R260 to R262): each operation on its active lanes, with the rounding field of the instruction, and the
flags of those lanes alone; and the values of those operations on finite and infinite lanes. -/
def Obligations.T64LaneResults : Prop :=
  LaneValues ∧
  Lanes2 .vadd addT64 ∧ Lanes2 .vsub subT64 ∧ Lanes2 .vmul mulT64 ∧ Lanes2 .vdiv divT64 ∧
  Lanes3 .vfma (fun q => fmaT64 q false false) ∧ Lanes3 .vfms (fun q => fmaT64 q false true) ∧ Lanes3 .vfnma (fun q => fmaT64 q true false) ∧
  Lanes1 .vsqrt sqrtT64 ∧
  Lanes2 (fun d a b m _ => .vmin d a b m) (fun _ => minMaxT64 false) ∧ Lanes2 (fun d a b m _ => .vmax d a b m) (fun _ => minMaxT64 true) ∧
  Lanes1 (fun d a m _ => .vabs d a m) (fun _ x => (setSign false x, 0)) ∧
  Lanes1 (fun d a m _ => .vneg d a m) (fun _ x => (setSign (!x.getLsbD 63) x, 0)) ∧
  Lanes2 (fun d a b m _ => .vcpys d a b m) (fun _ x y => (setSign (y.getLsbD 63) x, 0)) ∧
  Lanes1 (fun d a m _ => .vclass d a m) (fun _ x => (classT64 x, 0)) ∧
  (∀ (t : BitVec 3) (u : BitVec 1), t.toNat ≠ 0 →
    Lanes1 (fun d a m r => .vcvti d a m r t u) (fun q => cvtiT64 q (8 * 2 ^ (t.toNat - 1)) (u == 1#1)) ∧
    Lanes1 (fun d a m r => .vcvtf d a m r t u) (fun q x =>
      let v : Int := if u = 1#1 then ((x.toNat % 2 ^ (8 * 2 ^ (t.toNat - 1)) : Nat) : Int)
        else signedOf (8 * 2 ^ (t.toNat - 1)) (x.toNat % 2 ^ (8 * 2 ^ (t.toNat - 1)))
      roundT64 q (decide (v < 0)) v.natAbs 0)) ∧
  Lanes1 .vrndp rndpT64

/-- NaN operands and invalid operations (R173, R257, R258, R261, R262): the first NaN operand comes out quiet, NV marks a signalling one, and the
invalid forms give the canonical NaN with NV; in a fused form 0 · ∞ raises NV beside a NaN addend as well. -/
def Obligations.InvalidOperations : Prop :=
  (∀ (q : Nat) (a b : Word), isNaN a = true → ∀ g ∈ [addT64, subT64, mulT64, divT64], (g q a b).1 = a ||| 0x200000000000#64 ∧
    (g q a b).2 = (if isSNaN a || isSNaN b then fNV else 0)) ∧
  (∀ (q : Nat) (a b : Word), isNaN a = false → isNaN b = true → ∀ g ∈ [addT64, subT64, mulT64, divT64], (g q a b).1 = b ||| 0x200000000000#64 ∧
    (g q a b).2 = (if isSNaN b then fNV else 0)) ∧
  (∀ (big : Bool) (a b : Word),
    (isNaN a = true → minMaxT64 big a b = (a ||| 0x200000000000#64, if isSNaN a || isSNaN b then fNV else 0)) ∧
    (isNaN a = false → isNaN b = true → minMaxT64 big a b = (b ||| 0x200000000000#64, if isSNaN b then fNV else 0))) ∧
  (∀ (q : Nat) (a : Word), isNaN a = true → sqrtT64 q a = (a ||| 0x200000000000#64, if isSNaN a then fNV else 0) ∧
    rndpT64 q a = (a ||| 0x200000000000#64, if isSNaN a then fNV else 0) ∧ ∀ (w : Nat) (u : Bool), cvtiT64 q w u a = (0, fNV)) ∧
  (∀ (q : Nat) (np nc : Bool) (a b c : Word),
    (isNaN a = true → fmaT64 q np nc a b c = (a ||| 0x200000000000#64, if isSNaN a || isSNaN b || isSNaN c then fNV else 0)) ∧
    (isNaN a = false → isNaN b = true → fmaT64 q np nc a b c = (b ||| 0x200000000000#64, if isSNaN b || isSNaN c then fNV else 0)) ∧
    (∀ (s t : Bool) (n m : Nat) (e d : Int), viewT64 a = .fin s n e → viewT64 b = .fin t m d → isNaN c = true →
      fmaT64 q np nc a b c = (c ||| 0x200000000000#64, if isSNaN c then fNV else 0))) ∧
  (∀ (q : Nat) (np nc s t : Bool) (e : Int) (a b c : Word),
    (viewT64 a = .fin s 0 e ∧ viewT64 b = .inf t) ∨ (viewT64 a = .inf t ∧ viewT64 b = .fin s 0 e) →
    (isNaN c = true → fmaT64 q np nc a b c = (c ||| 0x200000000000#64, fNV)) ∧ (isNaN c = false → fmaT64 q np nc a b c = (canonNaN, fNV))) ∧
  (∀ (q : Nat) (np nc s t : Bool), fmaT64 q np nc (infT64 s) (infT64 t) (infT64 (!((s != t) != (np != nc)))) = (canonNaN, fNV)) ∧
  (∀ q : Nat, addT64 q (infT64 false) (infT64 true) = (canonNaN, fNV) ∧ subT64 q (infT64 true) (infT64 true) = (canonNaN, fNV)) ∧
  (∀ (q : Nat) (s t : Bool), mulT64 q (zeroT64 s) (infT64 t) = (canonNaN, fNV) ∧ mulT64 q (infT64 t) (zeroT64 s) = (canonNaN, fNV) ∧
    divT64 q (zeroT64 s) (zeroT64 t) = (canonNaN, fNV) ∧ divT64 q (infT64 s) (infT64 t) = (canonNaN, fNV)) ∧
  (∀ (q : Nat) (a : Word) (s t : Bool) (n : Nat) (e : Int), viewT64 a = .fin s n e → n ≠ 0 → divT64 q a (zeroT64 t) = (infT64 (s != t), fDZ)) ∧
  (∀ (q : Nat) (a : Word) (n : Nat) (e : Int), viewT64 a = .fin true n e → n ≠ 0 → sqrtT64 q a = (canonNaN, fNV)) ∧
  (∀ q : Nat, sqrtT64 q (infT64 true) = (canonNaN, fNV) ∧ sqrtT64 q (zeroT64 true) = (zeroT64 true, 0))

/-- A compare into a mask: the bit of an active element is the relation, that of an inactive one stays, and the bits past the last element
are cleared; a write of m0 is discarded (R198). -/
def Sys2Proof.Machine.MaskCompare (len w : Nat) (i : BitVec 5 → BitVec 5 → BitVec 5 → BitVec 3 → Instr) (g : BitVec 512 → BitVec 512 → Nat → Bool × Flags) : Prop :=
  ∀ (s : State) (d a b : BitVec 5) (m : BitVec 3), Ready [.v a, .v b] [] s →
    let u := takenV (takenV s a) b
    let rel := g (vectorOf s a) (vectorOf (takenV s a) b)
    ∃ v : Word, exec (i d a b m) s = .next (finished s len (onTile (setFlags u (flagsOf (activeOnly (512 / w) (u.tile.mGet m.toNat) rel)))
        (fun t => t.mSet d.toNat v))) ∧
      ∀ k, k < 64 → v.getLsbD k =
        if k < 512 / w then (if bitOf (u.tile.mGet m.toNat) k then (rel k).1 else (u.tile.mGet d.toNat).getLsbD k) else false

/-- VCMP (R259) and VICMP (R266). A compare of T64 lanes holds as the order of their values has it, with zeros equal; a NaN is unordered, and sets NV where
it is signalling or the relation is LT or LE. -/
def Obligations.MaskCompareResults : Prop :=
  (∀ a b : Word, isNaN a = false → isNaN b = false →
    let x := viewT64 a
    let y := viewT64 b
    (∀ c, (cmpT64 c a b).2 = 0) ∧
    ((cmpT64 .eq a b).1 = true ↔ ¬ Below x y ∧ ¬ Below y x) ∧ ((cmpT64 .ne a b).1 = true ↔ Below x y ∨ Below y x) ∧
    ((cmpT64 .lt a b).1 = true ↔ Below x y) ∧ ((cmpT64 .le a b).1 = true ↔ ¬ Below y x) ∧
    (cmpT64 .un a b).1 = false ∧ (cmpT64 .ord a b).1 = true) ∧
  (∀ a b : Word, isNaN a = true ∨ isNaN b = true →
    (cmpT64 .eq a b).1 = false ∧ (cmpT64 .ne a b).1 = true ∧ (cmpT64 .lt a b).1 = false ∧ (cmpT64 .le a b).1 = false ∧
    (cmpT64 .un a b).1 = true ∧ (cmpT64 .ord a b).1 = false ∧ (cmpT64 .lt a b).2 = fNV ∧ (cmpT64 .le a b).2 = fNV ∧
    ∀ c, c ≠ .lt → c ≠ .le → (cmpT64 c a b).2 = if isSNaN a || isSNaN b then fNV else 0) ∧
  MaskCompare 2 64 .vcmpEq (fun x y j => cmpT64 .eq (lane x j) (lane y j)) ∧
  MaskCompare 2 64 .vcmpNe (fun x y j => cmpT64 .ne (lane x j) (lane y j)) ∧
  MaskCompare 2 64 .vcmpLt (fun x y j => cmpT64 .lt (lane x j) (lane y j)) ∧
  MaskCompare 2 64 .vcmpLe (fun x y j => cmpT64 .le (lane x j) (lane y j)) ∧
  MaskCompare 2 64 .vcmpUn (fun x y j => cmpT64 .un (lane x j) (lane y j)) ∧
  MaskCompare 2 64 .vcmpOrd (fun x y j => cmpT64 .ord (lane x j) (lane y j)) ∧
  (∀ w : BitVec 2,
    let n := 8 * 2 ^ w.toNat
    MaskCompare 1 n (.vicmpEq · · · · w) (fun x y j => (decide (elem n x j = elem n y j), 0)) ∧
    MaskCompare 1 n (.vicmpNe · · · · w) (fun x y j => (decide (elem n x j ≠ elem n y j), 0)) ∧
    MaskCompare 1 n (.vicmpLt · · · · w) (fun x y j => (decide (signedOf n (elem n x j) < signedOf n (elem n y j)), 0)) ∧
    MaskCompare 1 n (.vicmpGe · · · · w) (fun x y j => (decide (signedOf n (elem n y j) ≤ signedOf n (elem n x j)), 0)) ∧
    MaskCompare 1 n (.vicmpLtu · · · · w) (fun x y j => (decide (elem n x j < elem n y j), 0)) ∧
    MaskCompare 1 n (.vicmpGeu · · · · w) (fun x y j => (decide (elem n y j ≤ elem n x j), 0)))

/-- An integer operation on each active element of two sources, modulo 2^w. -/
def Sys2Proof.Machine.IntLanes (i : BitVec 5 → BitVec 5 → BitVec 5 → BitVec 3 → BitVec 2 → Instr) (g : Nat → Nat → Nat → Nat) : Prop :=
  ∀ (d a b : BitVec 5) (m : BitVec 3) (w : BitVec 2), Elementwise 1 (8 * 2 ^ w.toNat) [a, b] d m 0 (i d a b m w) (fun _ vs j =>
    let n := 8 * 2 ^ w.toNat
    (g n (elem n (vs.getD 0 0) j) (elem n (vs.getD 1 0) j) % 2 ^ n, 0))

/-- The residue of an integer modulo 2^n. -/
def Sys2Proof.Machine.residue (n : Nat) (v : Int) : Nat := (v % ((2 ^ n : Nat) : Int)).toNat

/-- Integer lanes (R265). -/
def Obligations.IntegerLaneResults : Prop :=
  IntLanes .viadd (fun _ x y => x + y) ∧
  IntLanes .visub (fun n x y => residue n ((x : Int) - y)) ∧
  IntLanes .vimul (fun _ x y => x * y) ∧
  IntLanes .vimulh (fun n x y => residue n (signedOf n x * signedOf n y / ((2 ^ n : Nat) : Int))) ∧
  IntLanes .vand (fun _ x y => x &&& y) ∧ IntLanes .vor (fun _ x y => x ||| y) ∧ IntLanes .vxor (fun _ x y => x ^^^ y) ∧
  IntLanes .vshl (fun n x y => x * 2 ^ (y % n)) ∧
  IntLanes .vshr (fun n x y => x / 2 ^ (y % n)) ∧
  IntLanes .vsar (fun n x y => residue n (signedOf n x / ((2 ^ (y % n) : Nat) : Int))) ∧
  IntLanes .vimin (fun n x y => if signedOf n y < signedOf n x then y else x) ∧
  IntLanes .vimax (fun n x y => if signedOf n x < signedOf n y then y else x)

/-- Elements given to a vector register (R253): an active element has the given value, every other element of the register stays, and so do
every other vector register, the scalar registers, the masks and memory; a vk destination takes one whole vector with zero bits where no
element is given (R254). -/
def Obligations.MergedElements : Prop :=
  (∀ (s : State) (d : BitVec 5) (w : BitVec 2) (l : List (Option Nat)) (u : State), d.toNat < 16 → l.length = 512 / (8 * 2 ^ w.toNat) →
    u = elementsGiven s d (8 * 2 ^ w.toNat) l →
    (∀ i, i < l.length → elem (8 * 2 ^ w.toNat) (u.tile.vGet d.toNat) i =
      match l.getD i none with
      | some e => e % 2 ^ (8 * 2 ^ w.toNat)
      | none => elem (8 * 2 ^ w.toNat) (s.tile.vGet d.toNat) i) ∧
    (∀ k, k ≠ d.toNat → u.tile.vGet k = s.tile.vGet k) ∧ u.tile.x = s.tile.x ∧ u.tile.m = s.tile.m ∧ u.tile.la = s.tile.la ∧
      u.tile.coreStatus = s.tile.coreStatus ∧ u.mem = s.mem ∧ u.others = s.others) ∧
  (∀ (s : State) (d : BitVec 5) (w : Nat) (l : List (Option Nat)), 16 ≤ d.toNat →
    elementsGiven s d w l = vectorGiven s d (ofElems w ((l.zipIdx).map (fun p => p.1.getD (elem w 0 p.2)))))

/-- A node of the tree of R193: the rounded sum of two present inputs, with its flags; one present input in its normal encoding; or none. -/
def Sys2Proof.Machine.treeNode (q : Nat) (a b : Option Word × Flags) : Option Word × Flags :=
  match a.1, b.1 with
  | some x, some y => (some (addT64 q x y).1, a.2 ||| b.2 ||| (addT64 q x y).2)
  | some x, none => (some (normT64 x), a.2 ||| b.2)
  | none, some y => (some (normT64 y), a.2 ||| b.2)
  | none, none => (none, a.2 ||| b.2)

/-- The running sum that stands before lane `i` of a scan: the result of the last active lane below it (R194). -/
def Sys2Proof.Machine.sumBefore (l : List (Option Word)) (i : Nat) : Option Word := (l.take i).reverse.findSome? id

/-- Reductions and scans in lanes (R193, R194, R263, R264): the rounded tree into lane 0 with +0 in the others, the rounded running sums, and
the running integer sums modulo 2^w over the active elements. -/
def Obligations.ReduceScanResults : Prop :=
  (∀ (q : Nat) (a b c d e f g h : Option Word),
    let n := fun (x : Option Word) => (x, (0 : Flags))
    let y := treeNode q
    let r := y (y (y (n a) (n b)) (y (n c) (n d))) (y (y (n e) (n f)) (y (n g) (n h)))
    treeT64 q [a, b, c, d, e, f, g, h] = (r.1.getD 0, r.2)) ∧
  (∀ (q : Nat) (l : List (Option Word)),
    let r := (scanT64 q none l).1
    r.length = l.length ∧
    (∀ i, i < l.length → r.getD i none = (l.getD i none).map (fun x => match sumBefore r i with
      | some p => (addT64 q p x).1
      | none => normT64 x)) ∧
    (scanT64 q none l).2 = (List.range l.length).foldl (fun fl i => fl ||| (match l.getD i none, sumBefore r i with
      | some x, some p => (addT64 q p x).2
      | _, _ => 0)) 0) ∧
  (∀ (s : State) (d a : BitVec 5) (m r : BitVec 3), s.tile.dispute = none → Ready [.v a] [.v d] s →
    let u := takenV s a
    let q := treeT64 (roundingMode u.tile r) (activeOnly 8 (u.tile.mGet m.toNat) (lane (vectorOf s a)))
    ∃ v, exec (.vredf d a m r) s = .next (finished s 2 (vectorGiven (setFlags u q.2) d v)) ∧
      lane v 0 = q.1 ∧ ∀ j, 0 < j → j < 8 → lane v j = 0) ∧
  (∀ (s : State) (d a : BitVec 5) (m r : BitVec 3), Ready [.v a] [.v d] s →
    let u := takenV s a
    let q := scanT64 (roundingMode u.tile r) none (activeOnly 8 (u.tile.mGet m.toNat) (lane (vectorOf s a)))
    exec (.vscan d a m r 0#3) s = .next (finished s 2 (elementsGiven (setFlags u q.2) d 64 (q.1.map (fun e => e.map (·.toNat)))))) ∧
  (∀ (s : State) (d a : BitVec 5) (m r t : BitVec 3), t ≠ 0#3 → Ready [.v a] [.v d] s →
    let u := takenV s a
    let w := 8 * 2 ^ (t.toNat - 1)
    ∃ l : List (Option Nat), exec (.vscan d a m r t) s = .next (finished s 2 (elementsGiven u d w l)) ∧ l.length = 512 / w ∧
      ∀ i, i < 512 / w → l.getD i none =
        if bitOf (u.tile.mGet m.toNat) i then
          some ((((List.range (i + 1)).filter (fun k => bitOf (u.tile.mGet m.toNat) k)).foldl (fun n k => n + elem w (vectorOf s a) k) 0) % 2 ^ w)
        else none)

/-- The state after a T64 value has been added to la. -/
def Sys2Proof.Machine.laAdded (s : State) (w : Word) : State := setFlags (onTile s (fun t => { t with la := (laAdd s.tile.la w).1 })) (laAdd s.tile.la w).2

/-- The long accumulator (R191, R192, R270): what LAZ, LAADD, VREDX and LARD do, that a finite value whose bits lie at 2^-300 or above is added
exactly and sets no flag, and that finite additions change nothing once an exception state is held. -/
def Obligations.LongAccumulatorResults : Prop :=
  (∀ s : State, exec .laz s = .next (finished s 1 (onTile s (fun t => { t with la := { l := 0, sticky := false, exc := .none } })))) ∧
  (∀ (s : State) (a : BitVec 6), s.tile.dispute = none → Ready [.x a] [] s → exec (.laadd a) s = .next (finished s 1 (laAdded (taken s a) (valueOf s a)))) ∧
  (∀ (s : State) (a : BitVec 5) (m : BitVec 3), s.tile.dispute = none → Ready [.v a] [] s → exec (.vredx a m) s = .next (finished s 1
    ((((List.range 8).filter (fun j => bitOf (s.tile.mGet m.toNat) j)).map (lane (vectorOf s a))).foldl laAdded (takenV s a)))) ∧
  (∀ (s : State) (d : BitVec 6) (r : BitVec 3), Ready [] [.x d] s →
    let q := laRound (roundingMode s.tile r) s.tile.la
    exec (.lard d r) s = .next (finished s 1 (given (setFlags s q.2) d q.1))) ∧
  (∀ (a : LongAcc) (x : Word) (g : Bool) (n : Nat) (e : Int), viewT64 x = .fin g n e → a.exc = .none → -300 ≤ e →
    let v : Int := a.l + (if g then -1 else 1) * (n * 2 ^ (e + 300).toNat)
    v.natAbs < 2 ^ 639 → laAdd a x = ({ a with l := v }, 0)) ∧
  (∀ (a : LongAcc) (x : Word) (g : Bool) (n : Nat) (e : Int), viewT64 x = .fin g n e → a.exc ≠ .none → laAdd a x = (a, 0))

/-- Moving elements (R267 to R269). VSEL and VCOMP write every element; VPERM, VSLIDE and VEXPD give the active elements alone. Mask instructions (R271): all 64 bits; m0 reads as all ones and discards what is written (R198). -/
def Obligations.MoveMaskResults : Prop :=
  (∀ (s : State) (d a b : BitVec 5) (m : BitVec 3) (w : BitVec 2), Ready [.v a, .v b] [.v d] s →
    let n := 8 * 2 ^ w.toNat
    let u := takenV (takenV s a) b
    ∃ v, exec (.vsel d a b m w) s = .next (finished s 1 (vectorGiven u d v)) ∧ ∀ i, i < 512 / n →
      elem n v i = if bitOf (u.tile.mGet m.toNat) i then elem n (vectorOf s a) i else elem n (vectorOf (takenV s a) b) i) ∧
  (∀ (d a b : BitVec 5) (m : BitVec 3) (w : BitVec 2),
    let n := 8 * 2 ^ w.toNat
    Elementwise 1 n [a, b] d m 0 (.vperm d a b m w) (fun _ vs i =>
      (elem n (vs.getD 0 0) (elem n (vs.getD 1 0) i % (512 / n)), 0))) ∧
  (∀ (d a : BitVec 5) (k : BitVec 4) (m : BitVec 3) (w : BitVec 2),
    let n := 8 * 2 ^ w.toNat
    Elementwise 1 n [a] d m 0 (.vslide d a 0#1 k m w) (fun _ vs i =>
      (if k.toNat ≤ i then elem n (vs.getD 0 0) (i - k.toNat) else 0, 0)) ∧
    Elementwise 1 n [a] d m 0 (.vslide d a 1#1 k m w) (fun _ vs i =>
      (if i + k.toNat < 512 / n then elem n (vs.getD 0 0) (i + k.toNat) else 0, 0))) ∧
  (∀ (s : State) (d a : BitVec 5) (m : BitVec 3) (w : BitVec 2), Ready [.v a] [.v d] s →
    let n := 8 * 2 ^ w.toNat
    let u := takenV s a
    ∃ v, exec (.vcomp d a m w) s = .next (finished s 1 (vectorGiven u d v)) ∧ ∀ i, i < 512 / n →
      elem n v i = (((List.range (512 / n)).filter (fun k => bitOf (u.tile.mGet m.toNat) k)).map (elem n (vectorOf s a))).getD i 0) ∧
  (∀ (s : State) (d a : BitVec 5) (m : BitVec 3) (w : BitVec 2), Ready [.v a] [.v d] s →
    let n := 8 * 2 ^ w.toNat
    let u := takenV s a
    exec (.vexpd d a m w) s = .next (finished s 1 (elementsGiven u d n (activeOnly (512 / n) (u.tile.mGet m.toNat) (fun i =>
      elem n (vectorOf s a) ((List.range i).filter (fun k => bitOf (u.tile.mGet m.toNat) k)).length))))) ∧
  (∀ (s : State) (d : BitVec 6) (v : BitVec 5) (l : BitVec 3), Ready [.v v] [.x d] s →
    exec (.vmovx d v l) s = .next (finished s 1 (given (takenV s v) d (lane (vectorOf s v) l.toNat)))) ∧
  (∀ (s : State) (a : BitVec 6) (v : BitVec 5) (l : BitVec 3), Ready [.x a] [] s →
    exec (.vmovv a v l) s = .next (finished s 1
      (elementsGiven (taken s a) v 64 ((List.range 8).map (fun j => if j = l.toNat then some (valueOf s a).toNat else none))))) ∧
  (∀ (s : State) (a : BitVec 6) (v : BitVec 5), Ready [.x a] [.v v] s →
    ∃ y, exec (.vbcast a v) s = .next (finished s 1 (vectorGiven (taken s a) v y)) ∧ ∀ j, j < 8 → lane y j = valueOf s a) ∧
  (∀ (s : State) (d a b : BitVec 5),
    exec (.mand d a b) s = .next (finished s 1 (onTile s (fun t => t.mSet d.toNat (s.tile.mGet a.toNat &&& s.tile.mGet b.toNat)))) ∧
    exec (.mor d a b) s = .next (finished s 1 (onTile s (fun t => t.mSet d.toNat (s.tile.mGet a.toNat ||| s.tile.mGet b.toNat)))) ∧
    exec (.mxor d a b) s = .next (finished s 1 (onTile s (fun t => t.mSet d.toNat (s.tile.mGet a.toNat ^^^ s.tile.mGet b.toNat))))) ∧
  (∀ (s : State) (d a : BitVec 5), exec (.mnot d a) s = .next (finished s 1 (onTile s (fun t => t.mSet d.toNat (~~~(s.tile.mGet a.toNat)))))) ∧
  (∀ (s : State) (d : BitVec 6) (v : BitVec 5), Ready [] [.x d] s →
    ∃ n k : Word, exec (.mpopc d v) s = .next (finished s 1 (given s d n)) ∧ exec (.mfirst d v) s = .next (finished s 1 (given s d k)) ∧
      n.toNat = ((List.range 64).filter (fun j => (s.tile.mGet v.toNat).getLsbD j)).length ∧
      ZerosBefore (fun j => (s.tile.mGet v.toNat).getLsbD j) k.toNat) ∧
  (∀ (t : Tile) (w : Word), t.mGet 0 = BitVec.allOnes 64 ∧ t.mSet 0 w = t ∧
    ∀ k n, 0 < k → k < 8 → 0 < n → n < 8 → (t.mSet k w).mGet n = if n = k then w else t.mGet n)

/- Streams -/

/-- A descriptor of `n` doublewords may be read at an address: aligned, inside the tile's own scratch through the local window, in no
poisoned line (R439); and no earlier access of the thread waits at a network interface (R92, R118). -/
def Sys2Proof.Machine.DescriptorAt (s : State) (va : Word) (align n : Nat) : Prop :=
  Unheld s ∧ va.toNat % align = 0 ∧ isLocal va = true ∧ va.toNat % 2 ^ 20 + 8 * n ≤ s.tile.tileSplit * 65536 ∧
    ∀ i, i < n → poisoned s (scratchKey s.tile.id (va.toNat % 2 ^ 20 + 8 * i)) = false

/-- Its doublewords. -/
def Sys2Proof.Machine.descriptorOf (s : State) (va : Word) (n : Nat) : List Word :=
  (List.range n).map (fun i => readD s (scratchKey s.tile.id (va.toNat % 2 ^ 20 + 8 * i)))

/-- A stream register can be bound again or unbound: it is unbound, an input, or an output with nothing held and no fault, and no queued
matrix command names it (R286, R290). -/
def Sys2Proof.Machine.StreamIdle (s : State) (r : Nat) : Prop :=
  (∀ b, s.tile.stream r = some b → b.fault = none ∧ (b.out = true → b.held = [])) ∧ stagingBusy s.tile r = false

/-- SBIND and SBINDV bind their register: the pattern of the descriptor, position (0, 0, 0), the direction, the format and scale named, the
tile's CFG_TAG, the format's storage width, the thread's privilege, and a count of 0. -/
def Sys2Proof.Machine.Binds (vec : Bool) (i : BitVec 3 → BitVec 6 → BitVec 4 → BitVec 4 → BitVec 1 → BitVec 1 → Instr) : Prop :=
  ∀ (s : State) (n : BitVec 3) (a : BitVec 6) (f sc : BitVec 4) (c dir : BitVec 1) (p : Pattern), Ready [.x a] [] s →
    let u := taken s a
    let r := n.toNat + (if vec then 8 else 0)
    let fmt := vget u.tile.fmt f.toNat 0
    StreamIdle u r → DescriptorAt u (valueOf s a) 16 8 → patternOf (descriptorOf u (valueOf s a) 8) (fmtPacked fmt) = some p →
    (p.stage = true → vec = true ∧ dir = 0#1 ∧ c = 0#1 ∧ isInt64 fmt = false) →
    patternAligned p (if fmtPacked fmt then 1 else fmtBytes fmt) = true →
    ∃ t, exec (i n a f sc c dir) s = .next t ∧
      t.tile.stream r = some { pat := p, out := dir == 1#1, fmtN := f.toNat, scaleN := if c = 1#1 then some sc.toNat else none,
                               tag := u.tile.cfgTag, width := storeBits (fmtBits fmt), mode := u.tile.mode } ∧
      (∀ k, k ≠ r → t.tile.stream k = u.tile.stream k) ∧ t.tile.x = u.tile.x ∧ t.tile.v = u.tile.v ∧ t.tile.m = u.tile.m ∧
      t.tile.coreStatus = u.tile.coreStatus ∧ t.mem = u.mem ∧ t.others = u.others

/-- Stream instructions (R286, R290 to R292): binding, draining, the status word, and the end of an instance of a dimension; elements that the plane
engine has staged from a binding outlive it (DESIGN CHOICE, log entry 92). The positions that EOS and the elements of a pattern step through (R287, R292). -/
def Obligations.StreamResults : Prop :=
  Binds false .sbind ∧ Binds true .sbindv ∧
  (∀ (s : State) (v : BitVec 1) (n : BitVec 3), StreamIdle s (n.toNat + (if v = 1#1 then 8 else 0)) →
    exec (.sdrain v n) s = .next (finished s 1
      (onTile s (fun t => { t with streams := smErase t.streams (n.toNat + (if v = 1#1 then 8 else 0)),
                                   sub := t.sub.unbind (n.toNat + (if v = 1#1 then 8 else 0)) })))) ∧
  (∀ (u : SubTile) (r : Nat), ∃ k, u.unbind r = { u with kept := k } ∧ u.kept ≤ k) ∧
  (∀ (s : State) (v : BitVec 1) (n : BitVec 3) (d : BitVec 6), Ready [] [.x d] s →
    s.tile.stream (n.toNat + (if v = 1#1 then 8 else 0)) = none → exec (.sstat v n d) s = .next (finished s 1 (given s d 0))) ∧
  (∀ (s : State) (v : BitVec 1) (n : BitVec 3) (d : BitVec 6) (b : Binding), Ready [] [.x d] s →
    s.tile.stream (n.toNat + (if v = 1#1 then 8 else 0)) = some b → b.fault = none → b.fmtN < 16 → (∀ k, b.scaleN = some k → k < 16) →
    ∃ w, exec (.sstat v n d) s = .next (finished s 1 (given s d w)) ∧ field w 63 32 = b.count % 2 ^ 32 ∧ field w 31 16 = 0 ∧
      field w 15 12 = b.fmtN ∧ field w 11 8 = b.scaleN.getD 0 ∧ field w 7 7 = (if b.scaleN.isSome then 1 else 0) ∧
      field w 5 5 = (if b.pos.done then 1 else 0) ∧ field w 4 4 = (if b.pat.stage then 1 else 0) ∧
      field w 3 3 = (if b.out then 1 else 0) ∧ field w 2 2 = 1 ∧ field w 1 0 = 0 ∧
      (b.out = true → field w 6 6 = 0) ∧
      (b.out = false → b.pat.stage = false → field w 6 6 = (if ((b.ahead.head?).bind (·.fault)).isSome then 1 else 0))) ∧
  (∀ (s : State) (v : BitVec 1) (n l : BitVec 3) (b : Binding), s.tile.stream (n.toNat + (if v = 1#1 then 8 else 0)) = some b →
    b.out = true → b.pat.stage = false → b.fault = none →
    exec (.eos v n l) s = .next (finished s 1
      (onTile s (fun t => t.updStream (n.toNat + (if v = 1#1 then 8 else 0)) (fun c => { c with pos := eosPos c.pat l.toNat c.pos }))))) ∧
  (∀ (s : State) (v : BitVec 1) (n l : BitVec 3), s.tile.stream (n.toNat + (if v = 1#1 then 8 else 0)) = none →
    exec (.eos v n l) s = .next (takeTrap s { cause := .illegal, cls := 4 })) ∧
  (∀ (p : Pattern) (q : Pos) (l : Nat), q.done = true → eosPos p l q = q ∧ stepPos p q = q) ∧
  (∀ (p : Pattern) (q : Pos) (l : Nat), q.done = false → l = 7 ∨ p.dims ≤ l → eosPos p l q = { q with done := true }) ∧
  (∀ (p : Pattern) (q : Pos), q.done = false → 1 < p.dims → q.i0 = 0 → eosPos p 1 q = q) ∧
  (∀ (p : Pattern) (q : Pos), q.done = false → 1 < p.dims → q.i0 ≠ 0 → q.i1 + 1 < p.c1 → eosPos p 1 q = { q with i0 := 0, i1 := q.i1 + 1 }) ∧
  (∀ (p : Pattern) (q : Pos), q.done = false → q.i0 + 1 < p.c0 → stepPos p q = { q with i0 := q.i0 + 1 }) ∧
  (∀ (p : Pattern) (q : Pos), q.done = false → p.c0 ≤ q.i0 + 1 → p.dims = 1 → stepPos p q = { q with done := true }) ∧
  (∀ (p : Pattern) (q : Pos), q.done = false → p.c0 ≤ q.i0 + 1 → 1 < p.dims → q.i1 + 1 < p.c1 →
    stepPos p q = { q with i0 := 0, i1 := q.i1 + 1 }) ∧
  (∀ (p : Pattern) (q : Pos) (w : Nat), 8 ≤ w → elemAddr p w q =
    (p.base + BitVec.ofNat 64 q.i0 * p.s0 + BitVec.ofNat 64 q.i1 * p.s1 + BitVec.ofNat 64 q.i2 * p.s2, 0))

/- Ports -/

/-- The port of an operand code from 32 to 39. -/
def Sys2Proof.Machine.portNo (c : BitVec 6) : Nat := c.toNat - 32

/-- One token has moved from a core-input queue to a core-output buffer, unchanged but for the destination that a send takes from OPT_SEND
(R404); no other queue, no register and no byte of memory has changed. -/
def Sys2Proof.Machine.TokenMoved (s t : State) (i o : Nat) (k : Token) (rest : List Token) : Prop :=
  vget t.tile.coreIn i [] = rest ∧ (∀ p, p ≠ i → vget t.tile.coreIn p [] = vget s.tile.coreIn p []) ∧
  vget t.tile.coreOut o [] = vget s.tile.coreOut o [] ++ [if isSendPort s.tile.id o then { k with dest := bitsOf s.tile.optSend 35 32 } else k] ∧
  (∀ p, p ≠ o → vget t.tile.coreOut p [] = vget s.tile.coreOut p []) ∧ t.tile.x = s.tile.x ∧ t.tile.v = s.tile.v ∧
  t.tile.coreStatus = s.tile.coreStatus ∧ t.mem = s.mem

/-- The input that QSEL takes from (R317): that of the record in progress; else the only one with a token; else the one that RR prefers. -/
def Sys2Proof.Machine.qselInput (t : Tile) (o a b : Nat) : Nat :=
  if t.locked o then lockSrc (t.lock o)
  else if (vget t.coreIn (min a b) []) ≠ [] ∧ ((vget t.coreIn (max a b) []) = [] ∨ (t.lock o).testBit 13 = false) then min a b
  else max a b

/-- QSEL and QFILT (R317, R318; DEDUCED, log entry 41): which token they move and where to, when the output has room and no other record holds it; QSEL waits while
another record holds the output, be it a third input's, and turns its preference when it opens a record; QFILT goes on with its own record in progress, and neither
reads nor takes its second operand then. The record lock of an output (R319): how a token that passes opens a record, counts in it, or closes it. QPEEK, QTRY, QLVL, QEND and BQPUSH (R320 to R323). -/
def Obligations.QueueResults : Prop :=
  (∀ (s : State) (d a b : BitVec 6) (k : Token) (rest : List Token),
    32 ≤ d.toNat → d.toNat < 40 → 32 ≤ a.toNat → a.toNat < 40 → 32 ≤ b.toNat → b.toNat < 40 → a ≠ b →
    (s.tile.locked (portNo d) = true → (s.tile.lock (portNo d)).testBit 14 = false ∧
      (lockSrc (s.tile.lock (portNo d)) = portNo a ∨ lockSrc (s.tile.lock (portNo d)) = portNo b)) →
    vget s.tile.coreIn (qselInput s.tile (portNo d) (portNo a) (portNo b)) [] = k :: rest →
    sendTrap s (portNo d) = none → (vget s.tile.coreOut (portNo d) []).length < 4 →
    ∃ t, exec (.qsel d a b) s = .next t ∧ TokenMoved s t (qselInput s.tile (portNo d) (portNo a) (portNo b)) (portNo d) k rest ∧
      (t.tile.lock (portNo d)).testBit 13 =
        (if s.tile.locked (portNo d) then (s.tile.lock (portNo d)).testBit 13 else !(s.tile.lock (portNo d)).testBit 13)) ∧
  (∀ (s : State) (d a b : BitVec 6), 32 ≤ d.toNat → d.toNat < 40 → 32 ≤ a.toNat → a.toNat < 40 → 32 ≤ b.toNat → b.toNat < 40 →
    s.tile.locked (portNo d) = true → (s.tile.lock (portNo d)).testBit 14 = true ∨
      (lockSrc (s.tile.lock (portNo d)) ≠ portNo a ∧ lockSrc (s.tile.lock (portNo d)) ≠ portNo b) →
    exec (.qsel d a b) s = .next (waitStep s .full true [])) ∧
  (∀ (s : State) (d a b : BitVec 6) (k : Token) (rest : List Token) (o : Nat), 32 ≤ d.toNat → d.toNat < 40 → 32 ≤ a.toNat → a.toNat < 40 →
    s.tile.streamBad false (.x b) = false → s.tile.widthBad (.x b) = false →
    (let mine := fun (p : Nat) => s.tile.locked p = true ∧ (s.tile.lock p).testBit 14 = true ∧ lockSrc (s.tile.lock p) = portNo a
     (mine (portNo d) ∧ o = portNo d) ∨ (¬ mine (portNo d) ∧ mine (clockwise (portNo d)) ∧ o = clockwise (portNo d))) →
    vget s.tile.coreIn (portNo a) [] = k :: rest → sendTrap s o = none → (vget s.tile.coreOut o []).length < 4 →
    ∃ t, exec (.qfilt d a b) s = .next t ∧ TokenMoved s t (portNo a) o k rest) ∧
  (∀ (s : State) (d a b : BitVec 6) (k : Token) (rest : List Token) (o : Nat), 32 ≤ d.toNat → d.toNat < 40 → 32 ≤ a.toNat → a.toNat < 40 →
    b.toNat < 32 → (∀ p, p = portNo d ∨ p = clockwise (portNo d) →
      s.tile.locked p = true → (s.tile.lock p).testBit 14 = false ∨ lockSrc (s.tile.lock p) ≠ portNo a) →
    vget s.tile.coreIn (portNo a) [] = k :: rest → o = (if valueOf s b ≠ 0 then portNo d else clockwise (portNo d)) → s.tile.locked o = true →
    exec (.qfilt d a b) s = .next (waitStep s .full true [])) ∧
  (∀ (s : State) (d a b : BitVec 6) (k : Token) (rest : List Token) (o : Nat),
    32 ≤ d.toNat → d.toNat < 40 → 32 ≤ a.toNat → a.toNat < 40 → b.toNat < 32 →
    (∀ p, p = portNo d ∨ p = clockwise (portNo d) → s.tile.locked p = false) →
    vget s.tile.coreIn (portNo a) [] = k :: rest → o = (if valueOf s b ≠ 0 then portNo d else clockwise (portNo d)) →
    sendTrap s o = none → (vget s.tile.coreOut o []).length < 4 →
    ∃ t, exec (.qfilt d a b) s = .next t ∧ TokenMoved s t (portNo a) o k rest) ∧
  (∀ p, p < 8 → clockwise p / 4 = p / 4 ∧ clockwise p % 4 = (p % 4 + 1) % 4) ∧
  (∀ (t : Tile) (p i : Nat) (filt : Bool) (k : Token), p < 8 → i < 8 →
    let e := t.lock p
    let f := (t.passRecord p i filt k).lock p
    let len := field t.qrecCtl 7 0
    (e.testBit 15 = false → len = 0 → k.kind = .marker → f = e) ∧
    (e.testBit 15 = false → len = 1 → f = e) ∧
    (e.testBit 15 = false → len ≠ 1 → (len = 0 → k.kind ≠ .marker) →
      f.testBit 15 = true ∧ f.testBit 14 = filt ∧ f.testBit 13 = e.testBit 13 ∧ f / 1024 % 8 = i ∧ f % 256 = len - 1) ∧
    (e.testBit 15 = true → e % 256 = 0 → k.kind ≠ .marker → f = e) ∧
    (e.testBit 15 = true → e % 256 = 0 → k.kind = .marker → f.testBit 15 = false ∧ f.testBit 13 = e.testBit 13) ∧
    (e.testBit 15 = true → e % 256 = 1 → f.testBit 15 = false ∧ f % 256 = 0) ∧
    (e.testBit 15 = true → 1 < e % 256 → f = e - 1) ∧
    (∀ q, q < 8 → q ≠ p → (t.passRecord p i filt k).lock q = t.lock q)) ∧
  (∀ (s : State) (d a : BitVec 6), 32 ≤ a.toNat → a.toNat < 40 → Ready [.x a] [.x d] s →
    exec (.qpeek d a) s = .next (finished s 1 (given s d (valueOf s a)))) ∧
  (∀ (s : State) (d a : BitVec 6), 32 ≤ a.toNat → a.toNat < 40 → Ready [] [.x d] s → vget s.tile.coreIn (portNo a) [] = [] →
    exec (.qtry d a) s = .next (finished s 1 (given s d 0))) ∧
  (∀ (s : State) (d a : BitVec 6) (k : Token) (r : List Token), 32 ≤ a.toNat → a.toNat < 40 → Ready [] [.x d] s →
    vget s.tile.coreIn (portNo a) [] = k :: r → r.length < 4 → k.level < 8 →
    ∃ w, exec (.qtry d a) s = .next (finished s 1 (given s d w)) ∧ field w 63 11 = 0 ∧ field w 10 8 = r.length + 1 ∧ field w 7 7 = 1 ∧
      field w 6 5 = (match k.kind with | .data => 0 | .marker => 1 | .err => 2 | .config => 3) ∧ field w 4 2 = k.level ∧ field w 1 0 = 0) ∧
  (∀ (s : State) (d a : BitVec 6) (k : Token) (r : List Token), 32 ≤ a.toNat → a.toNat < 40 → Ready [] [.x d] s →
    vget s.tile.coreIn (portNo a) [] = k :: r →
    (k.kind = .data → exec (.qlvl d a) s = .next (finished s 1 (given s d 0))) ∧
    (k.kind = .marker → k.payload.toNat % 255 = k.res → exec (.qlvl d a) s = .next (finished s 1
      (given (onTile s (fun t => { t with coreIn := vset t.coreIn (portNo a) r })) d (BitVec.ofNat 64 k.level)))) ∧
    (k.kind = .config → k.payload.toNat % 255 = k.res → exec (.qlvl d a) s = .next (finished s 1
      (given (onTile s (fun t => { t with coreIn := vset t.coreIn (portNo a) r })) d 8))) ∧
    (k.kind = .marker ∨ k.kind = .config → k.payload.toNat % 255 ≠ k.res →
      ∃ i, exec (.qlvl d a) s = .next (takeTrap s { cause := .residue, info := some i })) ∧
    (k.kind = .err → exec (.qlvl d a) s = .next (takeTrap s { cause := .portErr, port := portNo a, eat := some (portNo a) }))) ∧
  (∀ (s : State) (d : BitVec 6) (l : BitVec 3), 32 ≤ d.toNat → d.toNat < 40 → sendTrap s (portNo d) = none →
    s.tile.locked (portNo d) = false → (vget s.tile.coreOut (portNo d) []).length < 4 →
    ∃ t k, exec (.qend d l) s = .next t ∧ k.kind = .marker ∧ k.level = l.toNat ∧
      vget t.tile.coreOut (portNo d) [] = vget s.tile.coreOut (portNo d) [] ++ [k] ∧
      (∀ p, p ≠ portNo d → vget t.tile.coreOut p [] = vget s.tile.coreOut p []) ∧ t.tile.coreIn = s.tile.coreIn ∧ t.tile.x = s.tile.x ∧ t.mem = s.mem) ∧
  (∀ (s : State) (a : BitVec 6), Ready [.x a] [.x 50] s →
    exec (.bqpush a) s = .next (finished s 1 (onTile (taken s a) (fun t => { t with bq := t.bq ++ [decide (valueOf s a ≠ 0)] }))))

/- Messages and handlers -/

/-- MSG (R324, R325): the message enters the NI send queue with its header and the payload that the scratch holds; what its operands
raise, in the order in which they are checked: ILLEGAL with class 5, ALIGN, LOCAL_RANGE, PLACE_RANK and WINDOW; and that it waits for room in the send queue,
where a handler may be selected. It is checked against the copy of the rank's entry that the network interface holds (DESIGN CHOICE, log entry 26; the order
is DEDUCED, log entry 56). -/
def Obligations.MessageSend : Prop :=
  (∀ (s : State) (a b c : BitVec 6) (x : BitVec 1) (h : BitVec 6), Ready [.x a, .x b, .x c] [] s →
    let u := taken (taken (taken s a) b) c
    let dest := (valueOf s a).toNat
    let p := valueOf (taken s a) b
    let n := (valueOf (taken (taken s a) b) c).toNat
    n ≤ 63 → DescriptorAt u p 8 n → p.toNat % 2 ^ 20 < u.tile.tileSplit * 65536 → dest < tileCount u (partNo u u.tile.id) →
    routeClosed u u.tile.id (rankSeen u u.tile.id (partNo u u.tile.id) dest).tile = false → sendUsed u.tile.sendQ + n + 1 ≤ 128 →
    rankOf u u.tile.id < 2 ^ 16 →
    ∃ (t : State) (hd : Word), exec (.msg a b c x h) s = .next t ∧
      t.tile.sendQ = u.tile.sendQ ++
        [{ dest := dest, field := fieldOf u.tile.id, part := partNo u u.tile.id, words := hd :: descriptorOf u p n }] ∧
      field hd 47 32 = rankOf u u.tile.id ∧ field hd 31 16 = n + 1 ∧ field hd 14 14 = x.toNat ∧
      field hd 13 13 = (if txrOf u.tile then 1 else 0) ∧ field hd 5 0 = h.toNat ∧
      t.tile.x = u.tile.x ∧ t.tile.inbox = u.tile.inbox ∧ t.mem = u.mem) ∧
  (∀ (s : State) (a b c : BitVec 6) (x : BitVec 1) (h : BitVec 6), Ready [.x a, .x b, .x c] [] s →
    let u := taken (taken (taken s a) b) c
    let dest := (valueOf s a).toNat
    let p := valueOf (taken s a) b
    let n := (valueOf (taken (taken s a) b) c).toNat
    let inScratch := isLocal p = true ∧ p.toNat % 2 ^ 20 < u.tile.tileSplit * 65536 ∧ p.toNat % 2 ^ 20 + 8 * n ≤ u.tile.tileSplit * 65536
    (63 < n → exec (.msg a b c x h) s = .next (takeTrap s { cause := .illegal, cls := 5 })) ∧
    (n ≤ 63 → p.toNat % 8 ≠ 0 → exec (.msg a b c x h) s = .next (takeTrap s { cause := .align })) ∧
    (n ≤ 63 → p.toNat % 8 = 0 → ¬ inScratch → exec (.msg a b c x h) s =
      .next (takeTrap s { cause := .xlate, fault := some { cause := .xlate, va := p, info := mkInfo 0 0 0 .read { prot := false, sub := 6 } } })) ∧
    (n ≤ 63 → p.toNat % 8 = 0 → inScratch → tileCount u (partNo u u.tile.id) ≤ dest → exec (.msg a b c x h) s =
      .next (takeTrap s { cause := .xlate, fault := some { cause := .xlate, va := valueOf s a, info := mkInfo 0 0 0 .write { prot := false, sub := 4 } } })) ∧
    (n ≤ 63 → p.toNat % 8 = 0 → inScratch → dest < tileCount u (partNo u u.tile.id) →
      routeClosed u u.tile.id (rankSeen u u.tile.id (partNo u u.tile.id) dest).tile = true →
      exec (.msg a b c x h) s = .next (takeTrap s { cause := .window })) ∧
    (n ≤ 63 → p.toNat % 8 = 0 → inScratch → dest < tileCount u (partNo u u.tile.id) →
      routeClosed u u.tile.id (rankSeen u u.tile.id (partNo u u.tile.id) dest).tile = false → 128 < sendUsed u.tile.sendQ + n + 1 →
      exec (.msg a b c x h) s = .next (waitStep s .full true [(.msgInject, [])])))

/-- HSET and HMASK (R140, R327, R328): the fields of the handler-table entry, which HSET leaves PENDING until HSET_PENDING_CLEAR (DEDUCED, log entry 62), the cycles of that
wait being counted (R138; DESIGN CHOICE, log entry 5). A handler starts and ends (R128, R139, R141, R252, R326): at a point of selection with nothing outstanding, the highest-priority runnable
channel starts with the thread's pc, x24 to x31 and loops put aside and x24 to x31 zero; HRET brings them back and drops the handler's message;
HRET outside a handler raises ILLEGAL with class 2. -/
def Obligations.HandlerResults : Prop :=
  (∀ (s : State) (a b c : BitVec 6), Ready [.x a, .x b, .x c] [] s →
    let u := taken (taken (taken s a) b) c
    let ch := (valueOf s a).toNat
    let e := valueOf (taken s a) b
    let w := valueOf (taken (taken s a) b) c
    ch ≤ 63 → w &&& ~~~0xA3#64 = 0 → (ch = 0 → bitOf w 7 = true) → e.toNat % 4 = 0 →
    exec (.hset a b c) s = .next (finished s 1 (schedule (onTile u (fun t =>
      ({ t with htCtl := vset t.htCtl ch (w ||| 0x40#64), htPc := vset t.htPc ch e } : Tile).count (if t.intr.isSome then 16 else 9) 2))
        u.tile.id [(.hsetPendingClear, [ch])]))) ∧
  (∀ (s : State) (a b : BitVec 6), Ready [.x a, .x b] [] s →
    let u := taken (taken s a) b
    let ch := (valueOf s a).toNat
    let v := (valueOf (taken s a) b).toNat
    ch ≤ 63 → v ≤ 1 →
    exec (.hmask a b) s = .next (finished s 1 (onTile u (fun t => { t with htCtl := vset t.htCtl ch (putBits (vget t.htCtl ch 0) 5 1 v) })))) ∧
  (∀ (s : State) (ch : Nat), s.arg = [ch] → s.tile.htPending ch = true → s.tile.htValid ch = true → ch < 64 →
    ∃ t, exec .hsetPendingClear s = .next t ∧ t.tile.htPending ch = false ∧ t.tile.htValid ch = true ∧ t.tile.inbox = s.tile.inbox ∧
      ∀ k, k ≠ ch → vget t.tile.htCtl k 0 = vget s.tile.htCtl k 0) ∧
  (∀ (s : State) (c : Nat) (m : InMsg), s.tile.selectPoint = true → s.tile.report = none → s.tile.selectable = some c →
    s.tile.inbox.find? (fun q => q.chan == c) = some m → s.tile.longBuf = [] → s.tile.run = .running →
    ∃ t h, exec .handlerSelect s = .next t ∧ t.tile.intr = some h ∧ h.pc = s.tile.pc ∧ h.bank = s.tile.upper ∧ h.loops = s.tile.loops ∧
      h.chan = c ∧ t.tile.pc = vget s.tile.htPc c 0 ∧ (∀ n, 24 ≤ n → n < 32 → t.tile.xGet n = 0) ∧
      (∀ n, n < 24 → t.tile.xGet n = s.tile.xGet n) ∧ t.tile.loops.depth = 0 ∧ t.mem = s.mem ∧
      ((∀ q ∈ s.tile.inbox, q.sel = false) → t.tile.inbox.find? (·.sel) = some { m with sel := true } ∧
        t.tile.inbox.filter (fun q => !q.sel) = s.tile.inbox.erase m)) ∧
  (∀ (t : Tile) (c : Nat), t.selectable = some c → c < 64 ∧ t.htValid c = true ∧ t.htPending c = false ∧ t.htMask c = false ∧
    (∃ m ∈ t.inbox, m.chan = c) ∧ ∀ k, k < 64 → t.htRun k = true → t.htMask k = false → t.htPrio k ≤ t.htPrio c ∧ (t.htPrio k = t.htPrio c → c ≤ k)) ∧
  (∀ (s : State) (h : Interrupted), s.tile.intr = some h → h.report = false → bitsOf s.tile.trapCause 3 0 = 0 → s.tile.longBuf = [] →
    (s.tile.endHandler h).select = none →
    exec .hret s = .next (transferred s { s with tile := s.tile.endHandler h })) ∧
  (∀ (t : Tile) (h : Interrupted), let u := t.endHandler h
    u.pc = h.pc ∧ u.loops = h.loops ∧ u.intr = none ∧ (∀ n, n < 24 → u.xGet n = t.xGet n) ∧
      (h.report = false → u.inbox = t.inbox.filter (fun m => !m.sel) ∧ u.report = t.report) ∧ (h.report = true → u.inbox = t.inbox ∧ u.report = none) ∧
      ∀ n, n < 8 → u.xGet (24 + n) = vget h.bank n 0) ∧
  (∀ s : State, s.tile.intr = none → exec .hret s = .next (takeTrap s { cause := .illegal, cls := 2 }))

/- The plane engine -/

/-- The state after a command has been queued for the plane engine: it stands at the end of the tile's queue, ISSUED counts it, and the `n`
elements that it takes are promised by the binding of its staging register (R297, R309). -/
def Sys2Proof.Machine.queued (s : State) (c : MCmd) (names : Option Nat) (n : Nat) : State :=
  let u := onTile s (fun t =>
    let v := { t with sub := { t.sub with queue := t.sub.queue ++ [c], issued := t.sub.issued + 1 } }
    match names with
    | some r => v.updStream r (fun b => { b with promised := b.promised + n })
    | none => v)
  schedule u u.tile.id (engineSteps u.tile.id)

/-- The staging register that selector `sel` names is bound as a staging input, in a format of the width it was bound with (R287, R297). -/
def Sys2Proof.Machine.StagingInput (s : State) (sel : BitVec 3) (b : Binding) : Prop :=
  s.tile.stream (8 + sel.toNat) = some b ∧ b.out = false ∧ b.pat.stage = true ∧ storeBits (fmtBits (vget s.tile.fmt b.fmtN 0)) = b.width

/-- The staging register that selector `sel` names is bound as a staging input of whose pattern `n` further elements are promised to no command
(R297, R301). -/
def Sys2Proof.Machine.Stageable (s : State) (sel : BitVec 3) (n : Nat) (b : Binding) : Prop :=
  s.tile.stream (8 + sel.toNat) = some b ∧ b.out = false ∧ b.pat.stage = true ∧ b.promised + n ≤ patternSize b.pat

/-- The commands of the plane engine (R297, R302 to R309): what each puts into the queue from its operands, MSYNC, and the word of MSTAT; a full queue is waited for before any operand is
taken. What finishing a command does (R299, R302 to R307): it leaves the queue, an MDRN when its writes are performed (R310), FINISHED counts it, and it has
its effect on the forms, the B store, the accumulators or the drain writes. -/
def Obligations.EngineCommandResults : Prop :=
  (∀ (s : State) (a b : BitVec 6) (r sel : BitVec 3) (c : Binding), Ready [.x a, .x b] [] s →
    let u := taken (taken s a) b
    let f := valueOf s a
    let bias := (valueOf (taken s a) b).toInt
    s.tile.sub.queue.length < 8 → StagingInput s sel c → Stageable u sel 0 c →
    (f = 0 → bias = 0 → exec (.mform a b r sel) s = .next (finished s 1 (queued u
      (.form sel.toNat { exactForm (vget u.tile.fmt c.fmtN 0) (txrOf u.tile) with rm := roundingMode u.tile r }) (some (8 + sel.toNat)) 0))) ∧
    (field f 63 13 = 0 → field f 7 6 = 0 → 1 ≤ field f 5 0 → field f 5 0 ≤ 48 → field f 12 8 ≤ 16 → -524288 ≤ bias → bias < 524288 →
      exec (.mform a b r sel) s = .next (finished s 1 (queued u
        (.form sel.toNat { p := field f 5 0, q := field f 12 8, b := bias, rm := roundingMode u.tile r }) (some (8 + sel.toNat)) 0)))) ∧
  (∀ (s : State) (a b : BitVec 6) (sel : BitVec 3) (c : Binding), Ready [.x a, .x b] [] s →
    let u := taken (taken s a) b
    let k := field (valueOf s a) 7 0
    let n := field (valueOf s a) 15 8
    let tr := valueOf (taken s a) b
    field (valueOf s a) 63 16 = 0 → 1 ≤ k → k ≤ 128 → 1 ≤ n → n ≤ 128 → tr.toNat ≤ 1 → s.tile.sub.queue.length < 8 →
    StagingInput s sel c → Stageable u sel (k * n) c → exec (.mldb a b sel) s = .next (finished s 1
      (queued u (.ldb sel.toNat k n (decide (tr = 1)) (u.tile.convOf (8 + sel.toNat))) (some (8 + sel.toNat)) (k * n)))) ∧
  (∀ (s : State) (a b : BitVec 6) (sel : BitVec 3) (c : Binding), Ready [.x a, .x b] [] s →
    let u := taken (taken s a) b
    let m := field (valueOf s a) 5 0
    let k := field (valueOf s a) 15 8
    let base := (valueOf (taken s a) b).toNat
    field (valueOf s a) 63 16 = 0 → field (valueOf s a) 7 6 = 0 → 1 ≤ m → m ≤ 32 → 1 ≤ k → k ≤ 128 → base < 32 → base + m ≤ 32 →
    s.tile.sub.queue.length < 8 → StagingInput s sel c → Stageable u sel (m * k) c →
    exec (.mma a b sel) s = .next (finished s 1
      (queued u (.mma sel.toNat m k base (u.tile.convOf (8 + sel.toNat))) (some (8 + sel.toNat)) (m * k)))) ∧
  (∀ (s : State) (g : BitVec 3), s.tile.sub.queue.length < 8 →
    exec (.mzero g) s = .next (finished s 1 (queued s (.zero g.toNat) none 0))) ∧
  (∀ (s : State) (a : BitVec 6) (g : BitVec 3), Ready [.x a] [] s → s.tile.sub.queue.length < 8 → field (valueOf s a) 63 33 = 0 →
    exec (.mwin a g) s = .next (finished s 1 (queued (taken s a)
      (.win g.toNat ((valueOf s a).extractLsb' 0 32).toInt ((valueOf s a).getLsbD 32)) none 0))) ∧
  (∀ (s : State) (a b : BitVec 6) (r g : BitVec 3), Ready [.x a, .x b] [] s →
    let u := taken (taken s a) b
    let d := valueOf s a
    let f := valueOf (taken s a) b
    let stride := (f.extractLsb' 0 32).toInt
    let nc := field f 39 32
    s.tile.sub.queue.length < 8 → field f 63 40 = 0 → 1 ≤ nc → nc ≤ 128 → d.toNat % 8 = 0 → stride % 8 = 0 →
    extentErr u u.tile.id (some ((d.toNat : Int) + min 0 (3 * stride), (d.toNat : Int) + max 0 (3 * stride) + 8 * nc - 1)) = none →
    exec (.mdrn a b r g) s = .next (finished s 1 (queued u (.drn g.toNat d stride nc (roundingMode u.tile r) u.tile.mode) none 0))) ∧
  (∀ (s : State) (g : BitVec 3), 8 ≤ s.tile.sub.queue.length → exec (.mzero g) s = .next (waitStep s .full true (engineSteps s.tile.id))) ∧
  (∀ (s : State) (a b : BitVec 6) (r g : BitVec 3), Ready [.x a, .x b] [] s → 8 ≤ s.tile.sub.queue.length →
    exec (.mdrn a b r g) s = .next (waitStep s .full true (engineSteps s.tile.id))) ∧
  (∀ s : State, SourceDone s 3 → exec .msync s = .next (finished s 1 s)) ∧
  (∀ (s : State) (d : BitVec 6), Ready [] [.x d] s → s.tile.sub.queue.length ≤ 8 →
    ∃ w, exec (.mstat d) s = .next (finished s 1 (given s d w)) ∧ field w 63 32 = s.tile.sub.issued % 2 ^ 32 ∧ field w 31 6 = 0 ∧
      field w 5 5 = (if s.tile.sub.held.isSome then 1 else 0) ∧ field w 4 4 = (if s.tile.sub.started then 1 else 0) ∧
      field w 3 0 = s.tile.sub.queue.length) ∧
  (∀ (s : State) (c : MCmd) (rest : List MCmd), s.tile.sub.started = true → s.tile.sub.discard = false → s.tile.dispute = none →
    s.tile.sub.waiting = c :: rest →
    let staged := fun (n : Nat) => ((s.tile.sub.staged[n]?).map (·.elem)).getD {}
    ∃ t, exec .engineCommandFinish s = .next t ∧ t.tile.sub.finished = s.tile.sub.finished + 1 ∧
      t.tile.sub.waiting = rest ∧ t.tile.sub.started = false ∧ t.tile.sub.staged = s.tile.sub.staged.drop c.need ∧
      t.tile.x = s.tile.x ∧ t.tile.v = s.tile.v ∧ t.mem = s.mem ∧
      ((∀ g d st nc rm md, c ≠ .drn g d st nc rm md) → t.tile.sub.queue = s.tile.sub.queue.take s.tile.sub.draining ++ rest ∧
        t.tile.sub.drains = s.tile.sub.drains) ∧
      (∀ k f, c = .form k f → smFind t.tile.sub.forms (8 + k) = some f ∧ t.tile.sub.acc = s.tile.sub.acc ∧ t.tile.sub.b = s.tile.sub.b) ∧
      (∀ k m n v, c = .ldb k m n false v → 1 ≤ m → m ≤ 128 → 1 ≤ n → n ≤ 128 → m * n ≤ s.tile.sub.staged.length → t.tile.sub.acc = s.tile.sub.acc ∧
        (s.tile.sub.staged[0]?).map (·.p) = some t.tile.sub.pB ∧ ∀ i j, i < 128 → j < 128 → smGet {} t.tile.sub.b (i * 128 + j) = (if i < m ∧ j < n then staged (i * n + j) else {})) ∧
      (∀ k m n v, c = .ldb k m n true v → 1 ≤ m → m ≤ 128 → 1 ≤ n → n ≤ 128 → m * n ≤ s.tile.sub.staged.length → t.tile.sub.acc = s.tile.sub.acc ∧
        (s.tile.sub.staged[0]?).map (·.p) = some t.tile.sub.pB ∧ ∀ i j, i < 128 → j < 128 → smGet {} t.tile.sub.b (i * 128 + j) = (if i < m ∧ j < n then staged (j * m + i) else {})) ∧
      (∀ g, c = .zero g → t.tile.sub.b = s.tile.sub.b ∧ ∀ i j, j < 128 →
        t.tile.sub.accAt i j = (if i / 4 = g then {} else s.tile.sub.accAt i j)) ∧
      (∀ g w p, c = .win g w p → t.tile.sub.b = s.tile.sub.b ∧ ∀ i j, j < 128 →
        t.tile.sub.accAt i j = (if i / 4 = g then ((s.tile.sub.accAt i j).window w p).1 else s.tile.sub.accAt i j)) ∧
      (∀ k m n base v, c = .mma k m n base v → m * n ≤ s.tile.sub.staged.length → t.tile.sub.b = s.tile.sub.b ∧ ∀ i j, j < 128 →
        t.tile.sub.accAt i j = (if base ≤ i ∧ i < base + m then ((s.tile.sub.accAt i j).pass ((List.range n).map (fun e =>
          (staged ((i - base) * n + e), smGet {} s.tile.sub.b (e * 128 + j))))).1 else s.tile.sub.accAt i j)) ∧
      (∀ g d st nc rm md, c = .drn g d st nc rm md → t.tile.sub.acc = s.tile.sub.acc ∧ t.tile.sub.queue = s.tile.sub.queue ∧
        t.tile.sub.drains.length = s.tile.sub.drains.length + 4 * nc ∧
        ∀ i j, i < 4 → j < nc → (t.tile.sub.drains[s.tile.sub.drains.length + (i * nc + j)]?).map (·.va) =
          some (d + BitVec.ofInt 64 (i * st) + BitVec.ofNat 64 (8 * j)))) ∧
  (∀ (c : Acc) (neg : Bool) (m : Nat) (e b : Int) (k : Nat), c.wb = some b → b ≤ e →
    (c.a + (if neg then -1 else 1) * (m * 2 ^ (e - b).toNat : Nat)).natAbs < 2 ^ 191 →
    Acc.addAt neg m e (k + 1) c = ({ c with a := c.a + (if neg then -1 else 1) * (m * 2 ^ (e - b).toNat : Nat) }, 0)) ∧
  (∀ (c : Acc) (neg : Bool) (m : Nat) (e b : Int) (k : Nat), c.wb = some b → c.pinned = true → e < b →
    let low := m % 2 ^ (b - e).toNat != 0
    let a := c.a + (if neg then -1 else 1) * (m / 2 ^ (b - e).toNat : Nat)
    (a.natAbs < 2 ^ 191 → Acc.addAt neg m e (k + 1) c = ({ c with a := a, sticky := c.sticky || low }, if low then fWX else 0)) ∧
    (2 ^ 191 ≤ a.natAbs → Acc.addAt neg m e (k + 1) c =
      ({ c with exc := if a < 0 then .negInf else .posInf, sticky := c.sticky || low }, fOF ||| (if low then fWX else 0)))) ∧
  (∀ (s : State) (k upTo : Nat) (e : LongEntry) (i : Instr) (v old : Word), s.arg = [k] → s.tile.longBuf[k]? = some e →
    e.op = .mr i v old upTo → e.res = .pending → upTo ≤ s.tile.sub.finished → (∀ d ∈ s.tile.sub.drains, upTo < d.cmd) →
    ∃ t, exec .mrValueReady s = .next t ∧
      t.tile.longBuf = s.tile.longBuf.set k { e with res := .word (aluOf i (mrWord s.tile.sub) v old) } ∧ t.tile.x = s.tile.x) ∧
  (∀ u : SubTile, let w := mrWord u
    field w 63 32 = u.finished % 2 ^ 32 ∧ field w 31 24 = 0 ∧ field w 7 0 = 0 ∧
    (∀ g, g < 8 → (w.getLsbD (16 + g) = true ↔ ∃ p ∈ u.acc, p.1 / 512 = g ∧ p.2.exc ≠ .none)) ∧
    (∀ g, g < 8 → (w.getLsbD (8 + g) = true ↔ ∃ p ∈ u.acc, p.1 / 512 = g ∧ p.2.sticky = true)))

/- Copies -/

/-- A copy instruction with a legal descriptor, and extents and counter that pass their checks, takes the lowest free copy slot; a descriptor
that breaks its layout raises ILLEGAL with class 8. With no slot free, the instruction waits (R114, R119, R124, R293). -/
def Sys2Proof.Machine.Copies (form : Nat) (i : BitVec 6 → Instr) : Prop :=
  (∀ (s : State) (a : BitVec 6) (k : Nat), Ready [.x a] [] s →
    let u := taken s a
    let d := descriptorOf u (valueOf s a) 10
    k < 32 → smFind s.tile.copies k = none → (∀ j, j < k → smFind s.tile.copies j ≠ none) → DescriptorAt u (valueOf s a) 16 10 →
    copyBad form d = false → (form ≠ 2 → extentErr u u.tile.id (extent d (d.getD 1 0) (d.getD 5 0)) = none) →
    extentErr u u.tile.id (extent d (d.getD 2 0) (d.getD 6 0)) = none → (form = 0 → d.getD 4 0 ≠ 0) →
    ∀ v, checkCounter (d.getD 3 0) u = .ok ((), v) →
    ∃ t c, exec (i a) s = .next t ∧ smFind t.tile.copies k = some c ∧ c.desc = d ∧ c.descVa = valueOf s a ∧ c.mode = u.tile.mode ∧
      c.txr = txrOf u.tile ∧ c.arrived = false ∧ (∀ j, j ≠ k → smFind t.tile.copies j = smFind v.tile.copies j) ∧
      t.tile.x = v.tile.x ∧ t.tile.coreStatus = v.tile.coreStatus ∧ t.mem = v.mem) ∧
  (∀ (s : State) (a : BitVec 6) (k : Nat), Ready [.x a] [] s → k < 32 → smFind s.tile.copies k = none →
    DescriptorAt (taken s a) (valueOf s a) 16 10 → copyBad form (descriptorOf (taken s a) (valueOf s a) 10) = true →
    exec (i a) s = .next (takeTrap s { cause := .illegal, cls := 8 })) ∧
  (∀ (s : State) (a : BitVec 6), Ready [.x a] [] s → (∀ j, j < 32 → smFind s.tile.copies j ≠ none) →
    ∃ evs, exec (i a) s = .next (waitStep s .full true evs))

/-- The copies (R114, R119, R124, R293), and the request's arrival at its spout (R115): a copy from a tile's scratch
is one piece at that tile's spout, and any other is cut by the lead spout, that of COPY_LEAD's cistern. -/
def Obligations.CopyResults : Prop :=
  Copies 0 .copy ∧ Copies 1 .copys ∧ Copies 2 .copyg ∧
  (∀ (s : State) (a : BitVec 6), Ready [.x a] [] s → (∃ k, k < 32 ∧ smFind s.tile.copies k = none) →
    DescriptorAt (taken s a) (valueOf s a) 16 10 →
    (let d := descriptorOf (taken s a) (valueOf s a) 10
     copyBad 0 d = false ∧ d.getD 4 0 = 0 ∧ d.getD 3 0 = 0) →
    exec (.copy a) s = .next (finished s 1 (taken s a))) ∧
  (∀ (s : State) (id : Nat) (c : CopySlot), s.arg = [id] → smFind s.tile.copies id = some c → c.arrived = false →
    requestHeld s s.tile.id (scratchSource s s.tile.id c.desc) = false →
    ∃ t v, exec .copyRequestArrival s = .next t ∧ smFind t.tile.copies id = some v ∧ v.arrived = true ∧ v.desc = c.desc ∧
      (scratchSource s s.tile.id c.desc = none → v.lead = c.lead.map (fun l => { l with spout := nearestCistern s s.tile.id }) ∧ v.pieces = []) ∧
      (∀ u, scratchSource s s.tile.id c.desc = some u → v.lead = c.lead.map (fun l => { l with spout := tileSpout u }) ∧
        (c.lead.isSome = true → v.pieces = [{ num := 0, spout := tileSpout u }])) ∧
      t.mem = s.mem ∧ ∀ j, j ≠ id → smFind t.tile.copies j = smFind s.tile.copies j)

/- Instruction fetch and the caches -/

/-- DPREF, CFLUSH and CINV always complete (R295), once the walker has room for a translation that they miss (R43): a line that they cannot reach
leaves everything as it was, and a line that they reach changes cache state alone. -/
def Sys2Proof.Machine.ActsOnLine (i : BitVec 6 → Instr) : Prop :=
  ∀ (s : State) (a : BitVec 6), Ready [.x a] [] s → walkStalls (taken s a) (taken s a).tile.id (valueOf s a) .read (taken s a).tile.mode = false →
    (quietLine (taken s a) (valueOf s a) = none → exec (i a) s = .next (finished s 1 (taken s a))) ∧
    (∀ line u, quietLine (taken s a) (valueOf s a) = some (line, u) → ∃ t, exec (i a) s = .next t ∧ t.mem = u.mem ∧
      t.tile.x = u.tile.x ∧ t.tile.v = u.tile.v ∧ t.tile.m = u.tile.m ∧ t.tile.coreStatus = u.tile.coreStatus ∧ t.tile.longBuf = u.tile.longBuf)

/-- IPREF (R73, R294), DPREF, CFLUSH and CINV (R295), TLBINV (R51, R352) and IFENCE (R70, R353), which drops the lines of its range: every line that holds
a byte of a page of the range inside the range, and of a range of at most 4,096 pages no other (DESIGN CHOICE, log entry 58). -/
def Obligations.FetchCacheResults : Prop :=
  ActsOnLine .dpref ∧ ActsOnLine .cflush ∧ ActsOnLine .cinv ∧
  (∀ (s : State) (a : BitVec 6) (line : Nat) (u : State), Ready [.x a] [] s → walkStalls (taken s a) (taken s a).tile.id (valueOf s a) .read (taken s a).tile.mode = false →
    quietLine (taken s a) (valueOf s a) = some (line, u) →
    ∃ t, exec (.cinv a) s = .next t ∧ ∀ d ∈ t.tile.dcache, d.line ≠ line) ∧
  (∀ (s : State) (a : BitVec 6) (line : Nat) (u : State), Ready [.x a] [] s → walkStalls (taken s a) (taken s a).tile.id (valueOf s a) .read (taken s a).tile.mode = false →
    quietLine (taken s a) (valueOf s a) = some (line, u) →
    ∃ t, exec (.cflush a) s = .next t ∧ ∀ d ∈ t.tile.dcache, d.line = line → d.dirty = false) ∧
  (∀ (s : State) (l a b : BitVec 6), Ready [.x a, .x b] [] s →
    let u := taken (taken s a) b
    ∃ t, exec (.ipref l a b) s = .next t ∧ t.mem = u.mem ∧ t.tile.x = u.tile.x ∧ t.tile.coreStatus = u.tile.coreStatus ∧
      t.tile.icache = u.tile.icache ∧
      (valueOf (taken s a) b = 0 → t.tile.ipref = u.tile.ipref) ∧
      (valueOf (taken s a) b ≠ 0 → 4 ≤ u.tile.ipref.length → t.tile.ipref = u.tile.ipref) ∧
      (valueOf (taken s a) b ≠ 0 → u.tile.ipref.length < 4 → (valueOf s a).toNat + (valueOf (taken s a) b).toNat ≤ 2 ^ 64 →
        t.tile.ipref = u.tile.ipref ++ [{ next := (valueOf s a).toNat / 64 * 64,
                                          last := (valueOf s a).toNat + (valueOf (taken s a) b).toNat - 1, level := l.toNat }])) ∧
  (∀ (s : State) (a b : BitVec 6), Ready [.x a, .x b] [] s →
    ∃ t, exec (.tlbinv a b) s = .next t ∧ t.mem = s.mem ∧
      ∀ e ∈ t.tile.tlb, e ∈ s.tile.tlb ∧ (e.part = partNo (taken (taken s a) b) s.tile.id → valueOf (taken s a) b ≠ 0 ∧
        ∀ va, (valueOf s a).toNat ≤ va → va < (valueOf s a).toNat + (valueOf (taken s a) b).toNat → va < e.vaBase ∨ e.vaBase + 2 ^ e.log2 ≤ va)) ∧
  (∀ (s : State) (a b : BitVec 6) (c : BitVec 6), Ready [.x a, .x b] [] s →
    ∃ t, exec (.ifence a b c) s = .next t ∧ t.mem = s.mem ∧
      ∀ e ∈ t.tile.icache, e ∈ s.tile.icache ∧
        fenceDrops (taken (taken s a) b) s.tile.id (valueOf s a).toNat (valueOf (taken s a) b).toNat e = false) ∧
  (∀ (s : State) (t lo n : Nat) (e : ILine),
    let pages := (lo + n - 1) / 4096 - lo / 4096 + 1
    let named := ∃ i va w, i < pages ∧ lo ≤ va ∧ va < lo + n ∧ va / 4096 = lo / 4096 + i ∧
      walk s (partNo s t) (getField s (fieldOf t)).xlateRoot (BitVec.ofNat 64 (va / 4096 * 4096)) = .ok w ∧
      (leafPa w (BitVec.ofNat 64 (va / 4096 * 4096)) / 4096 * 4096 + va % 4096) / 64 = e.pa
    (n = 0 → fenceDrops s t lo n e = true) ∧ (n ≠ 0 → named → fenceDrops s t lo n e = true) ∧
    (n ≠ 0 → pages ≤ 4096 → fenceDrops s t lo n e = true → named))

/- Control registers -/

/-- A write of a control register gives it `f` of its old value and the source (R335, R336): it needs a register that some map assigns, a
writer that may write it, a value that keeps the map, and, for a change of TILE_SPLIT, an empty long-result buffer (R58). -/
def Sys2Proof.Machine.WritesControl (i : BitVec 6 → BitVec 12 → Instr) (f : Word → Word → Word) : Prop :=
  (∀ (s : State) (a : BitVec 6) (n : BitVec 12) (acc : CrAccess), Ready [.x a] [] s → crAccess n.toNat = some acc → acc ≠ .fixed →
    crMayWrite s.tile acc = true → crBreaks (taken s a) n.toNat (f (crRead s n.toNat) (valueOf s a)) = false →
    (n = 0x50#12 → s.tile.longBuf = [] ∨ f (crRead s n.toNat) (valueOf s a) = crRead s n.toNat) →
    exec (i a n) s = .next (finished s 1 (crStore (taken s a) n.toNat (f (crRead s n.toNat) (valueOf s a))))) ∧
  (∀ (s : State) (a : BitVec 6) (n : BitVec 12), s.tile.streamBad false (.x a) = false →
    (crAccess n.toNat = none → exec (i a n) s = .next (takeTrap s { cause := .illegal, cls := 5 })) ∧
    (∀ acc, crAccess n.toNat = some acc → crMayWrite s.tile acc = false → exec (i a n) s = .next (takeTrap s { cause := .priv })) ∧
    (crAccess n.toNat = some .fixed → exec (i a n) s = .next (takeTrap s { cause := .illegal, cls := 7 }))) ∧
  (∀ (s : State) (a : BitVec 6) (n : BitVec 12) (acc : CrAccess), Ready [.x a] [] s → crAccess n.toNat = some acc → acc ≠ .fixed →
    crMayWrite s.tile acc = true → crBreaks (taken s a) n.toNat (f (crRead s n.toNat) (valueOf s a)) = true →
    exec (i a n) s = .next (takeTrap s { cause := .illegal, cls := 7 }))

/-- CRR, CRW, CRS and CRC (R217, R335, R336; DEDUCED, log entry 45; the reserved bits of log entry 74, DESIGN CHOICE): the value read, the value written, and the traps PRIV and ILLEGAL with classes 5 and 7; a
legal write of a register gives the value back to a later read, and changes what no other register reads, but for the bank tokens of a
changed split (DEDUCED, log entry 59), the cycle counter that a change of the split or of the pool adds to (DESIGN CHOICE, log entry 5), and the loop entries of a changed depth. -/
def Obligations.ControlRegisterResults : Prop :=
  (∀ (s : State) (d : BitVec 6) (n : BitVec 12), (crAccess n.toNat).isSome = true → Ready [] [.x d] s →
    exec (.crr d n) s = .next (finished s 1 (given s d (crRead s n.toNat)))) ∧
  (∀ (s : State) (d : BitVec 6) (n : BitVec 12), crAccess n.toNat = none → s.tile.streamBad true (.x d) = false →
    exec (.crr d n) s = .next (takeTrap s { cause := .illegal, cls := 5 })) ∧
  WritesControl .crw (fun _ x => x) ∧ WritesControl .crs (fun o x => o ||| x) ∧ WritesControl .crc (fun o x => o &&& ~~~x) ∧
  (∀ (s : State) (n : Nat) (v : Word), crAccess n = some .all ∨ crAccess n = some .sup → n ≠ 0x45 → ¬(0xB0 ≤ n ∧ n ≤ 0xBB) →
    crBreaks s n v = false →
    crRead (crStore s n v) n = v ∧
    ∀ k, k ≠ n → ¬(n = 0x50 ∧ 0x60 ≤ k ∧ k ≤ 0x6F) → ¬((n = 0x50 ∨ n = 0x51) ∧ (k = 0x84 ∨ k = 0x88)) → ¬(n = 0xA8 ∧ 0xB0 ≤ k ∧ k ≤ 0xBB) → crRead (crStore s n v) k = crRead s k) ∧
  (∀ (s : State) (i : Nat) (v : Word), i < s.tile.loops.depth → i < 4 →
    (crBreaks s (0xB0 + i) v = false → crRead (crStore s (0xB0 + i) v) (0xB0 + i) = v) ∧
    (crRead (crStore s (0xB4 + i) v) (0xB4 + i) = v) ∧
    (crBreaks s (0xB8 + i) v = false → crRead (crStore s (0xB8 + i) v) (0xB8 + i) = v)) ∧
  (∀ s : State, crRead s 0x20 = s.tile.coreStatus ∧ crRead s 0x40 = s.tile.xfaultVa ∧ crRead s 0x41 = s.tile.xfaultInfo ∧
    crRead s 0x45 = s.tile.trapCause ∧ crRead s 0x46 = s.tile.trapPc ∧ crRead s 0x47 = s.tile.trapVec ∧
    field (crRead s 0x52) 15 0 = s.tile.cfgTag.toNat ∧ (∀ i, i < 16 → crRead s (0xC0 + i) = vget s.tile.fmt i 0) ∧
    (∀ i, i < 16 → crRead s (0xD0 + i) = vget s.tile.scale i 0) ∧ (∀ c, c < 64 → crRead s (0x100 + 2 * c) = vget s.tile.htPc c 0))

/- Traps -/

/-- Taking a trap (R361, R362): TRAP_PC, the fields of TRAP_CAUSE, supervisor mode, the handler's address, the swap of x24 to x31 with the
trap bank, and that memory and the other registers stay; a trap whose park waits is kept and taken at its end; a trap while one is served kills the tile. TRAP is a trap of its own (R337), whose
TRAP_PC names the next instruction. -/
def Obligations.TrapEntry : Prop :=
  (∀ (s : State) (i : TrapInfo), s.tile.longBuf = [] → field s.tile.trapCause 3 0 = 0 → i.cls < 16 → i.tcode < 64 → i.port < 8 →
    let t := takeTrap s i
    t.tile.trapPc = (if i.next then s.tile.pc + 4 else s.tile.pc) &&& ~~~3#64 ∧ t.tile.pc = s.tile.trapVec ∧ t.tile.mode = .supervisor ∧
    field t.tile.trapCause 3 0 = i.cause.code ∧ field t.tile.trapCause 11 8 = i.cls ∧ field t.tile.trapCause 20 15 = i.tcode ∧
    field t.tile.trapCause 23 21 = i.port ∧ field t.tile.trapCause 24 24 = (if i.mark then 1 else 0) ∧
    field t.tile.trapCause 28 28 = (if i.repl then 1 else 0) ∧ field t.tile.trapCause 29 29 = (if s.tile.mode = .supervisor then 1 else 0) ∧
    field t.tile.trapCause 30 30 = (if s.tile.intr.isSome then 1 else 0) ∧ field t.tile.trapCause 31 31 = 0 ∧
    (∀ n, n < 24 → t.tile.xGet n = s.tile.xGet n) ∧ (∀ n, n < 8 → t.tile.xGet (24 + n) = vget s.tile.trapBank n 0) ∧
    (∀ n, n < 8 → vget t.tile.trapBank n 0 = s.tile.xGet (24 + n)) ∧ t.tile.v = s.tile.v ∧ t.tile.m = s.tile.m ∧
    t.tile.loops = s.tile.loops ∧ t.tile.coreStatus = s.tile.coreStatus ∧ t.mem = s.mem ∧
    (∀ f, i.fault = some f → i.va = none → i.info = none → t.tile.xfaultVa = f.va ∧ t.tile.xfaultInfo = f.info)) ∧
  (∀ (s : State) (i : TrapInfo), s.tile.longBuf = [] → field s.tile.trapCause 3 0 ≠ 0 → takeTrap s i = sealTile s s.tile.id) ∧
  (∀ (s : State) (i : TrapInfo), (∃ e ∈ s.tile.longBuf, e.returned = false) →
    ∃ evs, takeTrap s i = onTile (waitStep s .park false evs) (fun t => { t with pendTrap := some i })) ∧
  (∀ (s : State) (c : BitVec 6), exec (.trap c) s = .next (takeTrap s { cause := .trap, tcode := c.toNat, next := true }))

/-- The return from a trap (R337, R363, R364): TRET in supervisor mode restores the pc, the mode and the upper registers and ends the
serving of the trap; with PASS, the report handler starts in user mode; without a trap it raises ILLEGAL with class 2, and in user mode PRIV. -/
def Obligations.TrapReturn : Prop :=
  (∀ s : State, field s.tile.trapCause 3 0 ≠ 0 → s.tile.mode = .supervisor → field s.tile.trapCause 31 31 = 0 →
    exec .tret s = .next (transferred s (returnTrap s))) ∧
  (∀ s : State, s.tile.replay = [] → let t := returnTrap s
    t.tile.pc = s.tile.trapPc ∧ t.tile.mode = (if field s.tile.trapCause 29 29 = 1 then .supervisor else .user) ∧
    field t.tile.trapCause 3 0 = 0 ∧ (∀ n, n < 24 → t.tile.xGet n = s.tile.xGet n) ∧
    (∀ n, n < 8 → t.tile.xGet (24 + n) = vget s.tile.trapBank n 0) ∧ (∀ n, n < 8 → vget t.tile.trapBank n 0 = s.tile.xGet (24 + n)) ∧
    t.tile.v = s.tile.v ∧ t.tile.m = s.tile.m ∧ t.tile.loops = s.tile.loops ∧ t.tile.coreStatus = s.tile.coreStatus ∧ t.mem = s.mem) ∧
  (∀ s : State, field s.tile.trapCause 3 0 ≠ 0 → s.tile.mode = .supervisor → field s.tile.trapCause 31 31 = 1 →
    field s.tile.trapCause 30 30 = 0 → s.tile.longBuf = [] → s.tile.run = .running →
    ∃ t h, exec .tret s = .next t ∧ t.tile.mode = .user ∧ t.tile.passPc = s.tile.trapPc ∧ field t.tile.trapCause 27 27 = 1 ∧
      field t.tile.trapCause 3 0 = 0 ∧ t.tile.intr = some h ∧ h.report = true ∧ h.chan = 0 ∧ h.pc = s.tile.trapPc ∧
      t.tile.pc = vget s.tile.htPc 0 0 ∧ t.tile.passed = s.tile.replay ∧ t.mem = s.mem) ∧
  (∀ s : State, field s.tile.trapCause 3 0 = 0 → exec .tret s = .next (takeTrap s { cause := .illegal, cls := 2 })) ∧
  (∀ s : State, field s.tile.trapCause 3 0 ≠ 0 → s.tile.mode = .user → exec .tret s = .next (takeTrap s { cause := .priv }))

/- System instructions -/

/-- The low 16 bits of a source that names a scope. -/
def Sys2Proof.Machine.scopeNamed (w : Word) : Nat := field w 15 0

/-- EXIT and IDLE (R149, R311, R338; the wait of EXIT is log entry 89, DESIGN CHOICE), SPAWN (R155, R340), CANCEL (R341), CWAIT (R346) and BANKPASS (R62, R63, R351).
An access to the scope table that faults goes to the field supervisor (R339): SPAWN appends its record, whose SCOPE is looked at again later, and CANCEL and CWAIT
wait (DEDUCED, log entry 18). A source names a scope or a tag by its low 16 bits (DEDUCED, log entry 16). -/
def Obligations.ThreadSystemResults : Prop :=
  (∀ s : State, s.tile.intr = none → s.tile.longBuf = [] → (∀ e ∈ s.tile.streams, e.2.out = true → e.2.fault = none ∧ e.2.held = []) →
    ∃ t, exec .exit s = .next t ∧ t.tile.run = .exited ∧ (∀ e ∈ t.tile.streams, e ∈ s.tile.streams ∧ (e.2.out = true ∨ e.2.pat.stage = true)) ∧
      t.tile.x = s.tile.x ∧ t.mem = s.mem ∧
      (∀ f, s.tile.sub.held = some f →
        (getField t (fieldOf s.tile.id)).supQ = (getField s (fieldOf s.tile.id)).supQ ++ [(f.va, f.info)])) ∧
  (∀ s : State, s.tile.intr = none → s.tile.longBuf = [] →
    exec .idle s = .next (waitStep (onTile s (fun t => { t with run := .idling })) .idle true [])) ∧
  (∀ s : State, s.tile.intr.isSome = true → exec .exit s = .next (takeTrap s { cause := .illegal, cls := 2 }) ∧
    exec .idle s = .next (takeTrap s { cause := .illegal, cls := 2 })) ∧
  (∀ (s : State) (f : Nat) (va w : Word) (v : State), partHeld s f va = false → partReadD s f va = .ok (w, v) → scopeGet s f va = (.ok w, v)) ∧
  (∀ (s : State) (f : Nat) (va : Word) (e : XErr), partHeld s f va = false → partReadD s f va = .error e →
    (scopeGet s f va).1 = .error (some (va, mkInfo 0 0 0 .read e))) ∧
  (∀ (s : State) (f sc : Nat) (w : Word) (v : State), sc ≠ 0 → scopeGet s f (scopeVa s f sc) = (.ok w, v) →
    scopeCheck s f 0 sc = (if field w 16 16 = 0 then .bad else if field w 17 17 = 1 then .cancelled else .runs, v)) ∧
  (∀ (s : State) (a : BitVec 6), Ready [.x a] [] s →
    let u := taken s a
    let r := descriptorOf u (valueOf s a) 32
    let f := fieldOf u.tile.id
    DescriptorAt u (valueOf s a) 256 32 →
    let q := scopeCheck u f u.tile.scope (recScope r)
    let b := match q.1 with | .unread p => supNote q.2 f p | _ => q.2
    let v := noteScope b f (recScope r)
    let record := fun (h : QRec) => (h.words, h.vf, h.slot, h.deps, h.late)
    (q.1 = .bad → exec (.spawn a) s = .next (finished s 1 (completeUnplaced q.2 f r 3 0))) ∧
    (q.1 = .cancelled → exec (.spawn a) s = .next (finished s 1 (suppress q.2 f r))) ∧
    (q.1 = .runs ∨ (∃ p, q.1 = .unread p) →
      (recordBad v f r = none → (queueOf v f (56 + recPrio r)).length < 64 →
        ∃ t late, exec (.spawn a) s = .next t ∧ (∀ p, q.1 = .unread p → late = some u.tile.scope) ∧
          (queueOf t f (56 + recPrio r)).map record =
            (queueOf v f (56 + recPrio r)).map record ++ [(r, (getLaunch b u.tile.launch).vf, none, [], late)] ∧
          t.tile.x = v.tile.x ∧ t.mem = v.mem) ∧
      (∀ off, recordBad v f r = some off → exec (.spawn a) s = .next (finished s 1 (completeUnplaced v f r 3 off))) ∧
      (recordBad v f r = none → 64 ≤ (queueOf v f (56 + recPrio r)).length →
        exec (.spawn a) s = .next (waitStep s .full true [(.lsSelection, [f])])))) ∧
  (∀ (s : State) (a : BitVec 6), Ready [.x a] [] s →
    let f := fieldOf s.tile.id
    let sc := scopeNamed (valueOf s a)
    let own := scopeWalk f s.tile.scope 65536 sc
    (sc = 0 ∨ sc = 0xFFFF → exec (.cancel a) s = .next (takeTrap s { cause := .illegal, cls := 5 })) ∧
    (sc ≠ 0 → sc ≠ 0xFFFF → s.tile.mode = .user →
      (∀ v, own (taken s a) = (.ok false, v) → exec (.cancel a) s = .next (takeTrap s { cause := .illegal, cls := 5 })) ∧
      (∀ p v, own (taken s a) = (.error p, v) → exec (.cancel a) s = .next (waitStep (supNote (own s).2 f p) .scope false []))) ∧
    (∀ u : State, sc ≠ 0 → sc ≠ 0xFFFF →
      (s.tile.mode = .supervisor ∧ u = taken s a) ∨ (s.tile.mode = .user ∧ own (taken s a) = (.ok true, u)) →
      (∀ p v, scopeGet u f (scopeVa u f sc) = (.error p, v) →
        exec (.cancel a) s = .next (waitStep (supNote (scopeGet s f (scopeVa s f sc)).2 f p) .scope false [])) ∧
      (∀ w v, scopeGet u f (scopeVa u f sc) = (.ok w, v) →
        (field w 16 16 = 0 ∨ field w 17 17 = 1 → exec (.cancel a) s = .next (finished s 1 v)) ∧
        (field w 16 16 = 1 → field w 17 17 = 0 →
          (∀ x, cancelScope v f sc = (.ok (), x) →
            exec (.cancel a) s = .next (finished s 1 (if x.tile.cancelled = true then endTile x x.tile.id else x))) ∧
          (∀ p x, cancelScope v f sc = (.error p, x) →
            exec (.cancel a) s = .next (waitStep (supNote (cancelScope s f sc).2 f p) .scope false [])))))) ∧
  (∀ (s : State) (a : BitVec 6) (st : Word), Ready [.x a] [] s →
    let f := fieldOf s.tile.id
    let sc := scopeNamed (valueOf s a)
    let va := scopeVa s f sc
    let first := s.tile.wait ≠ some .wait
    let read := fun (u : State) => if s.tile.wait = some .wait then u else (scopeGet u f va).2
    let kept := fun (u : State) => onTile (scopeGet (read u) f (va + 8)).2 (fun t => { t with cwaitGen := BitVec.ofNat 64 (field st 63 32) })
    sc ≠ 0 → sc ≠ 0xFFFF →
    (first → ∀ p, (scopeGet (taken s a) f va).1 = .error p →
      exec (.cwait a) s = .next (waitStep (supNote (read s) f p) .scope true [])) ∧
    ((first ∧ (scopeGet (taken s a) f va).1 = .ok st) ∨ (¬ first ∧ field st 16 16 = 1 ∧ field st 63 32 = field s.tile.cwaitGen 31 0) →
      (field st 16 16 = 0 → exec (.cwait a) s = .next (finished s 1 (read (taken s a)))) ∧
      (∀ ack, field st 16 16 = 1 → (scopeGet (read (taken s a)) f (va + 8)).1 = .ok ack →
        exec (.cwait a) s = .next (if (field ack 31 0 + 2 ^ 32 - field st 63 32) % 2 ^ 32 < 2 ^ 31 then finished s 1 (kept (taken s a))
          else waitStep (kept s) .wait true [(.waitWake, [])])) ∧
      (∀ p, field st 16 16 = 1 → (scopeGet (read (taken s a)) f (va + 8)).1 = .error p →
        exec (.cwait a) s = .next (waitStep (supNote (kept s) f p) .wait true [])))) ∧
  (∀ (s : State) (a b : BitVec 6), Ready [.x a, .x b] [] s →
    let u := taken (taken s a) b
    let k := (valueOf s a).toNat
    let succ : BitVec 16 := (valueOf (taken s a) b).extractLsb' 0 16
    let rec_ := vget s.tile.bankSucc k 0
    k < s.tile.tileSplit → k ≤ 15 → vget s.tile.bankToken k 0 = s.tile.cfgTag → succ ≠ 0xFFFF#16 → (succ = 0 ∨ rec_ = 0 ∨ succ = rec_) →
    bankBusy u s.tile.id k s.tile.cfgTag = false →
    exec (.bankpass a b) s = .next (finished s 1 (onTile u (fun t =>
      { t with bankToken := vset t.bankToken k (if succ = 0 then rec_ else succ), bankSucc := vset t.bankSucc k 0 }))))

/-- CFGLD, CFGDRN and CFGSWP (R348 to R350; DEDUCED, log entries 39 and 47), TOPOREQ (R354, R401) and TOPOGEN (R355). -/
def Obligations.ConfigurationResults : Prop :=
  (∀ (s : State) (a : BitVec 6), Ready [.x a] [] s → (valueOf s a).toNat % 64 = 0 → Unheld (taken s a) →
    let img := readImage (taken s a).tile.mode (valueOf s a) 64 (taken s a)
    (∀ ws v, img = .ok (ws, v) → imageBad v (taken s a).tile.id ws = false →
      exec (.cfgld a) s = .next (finished s 1 (onTile (moduleRead v (fieldOf (taken s a).tile.id) (imgModule ws)).2 (fun t =>
        { t with shadow := some (tagImage ws t.cfgTag), shadowImg := some (.address (valueOf s a)) })))) ∧
    (∀ ws v, img = .ok (ws, v) → imageBad v (taken s a).tile.id ws = true → exec (.cfgld a) s = .next (takeTrap s { cause := .illegal, cls := 8 })) ∧
    (∀ f, img = .error (.fault f) → exec (.cfgld a) s = .next (takeTrap s (faultTrap f false))) ∧
    (img = .error .poison → exec (.cfgld a) s = .next (sealTile s s.tile.id)) ∧
    (img = .error .err → exec (.cfgld a) s = .next (takeTrap s { cause := .portErr })) ∧
    (img = .error .held → exec (.cfgld a) s = .next (waitStep s .fence false [])) ∧
    (∀ va, img = .error (.walk va) → exec (.cfgld a) s = .next (waitStep (askData s s.tile.id va .read s.tile.mode) .fence false []))) ∧
  (∀ (s : State) (a : BitVec 6), Ready [.x a] [] s → (valueOf s a).toNat % 64 ≠ 0 → exec (.cfgld a) s = .next (takeTrap s { cause := .align })) ∧
  (∀ (s : State) (d : BitVec 6), Ready [] [.x d] s →
    ∃ w, exec (.cfgdrn d) s = .next (finished s 1 (given s d w)) ∧
      field w 26 26 = (if s.tile.sw.st = .halted then 0 else 1) ∧ field w 25 25 = (if s.tile.streams = [] then 0 else 1) ∧
      (∀ i, i < 8 → (w.getLsbD (17 + i) = true ↔ vget s.tile.coreOut i [] ≠ [])) ∧
      (∀ i, i < 8 → (w.getLsbD (9 + i) = true ↔ i ∈ s.tile.carried)) ∧
      (∀ i, i < 8 → (w.getLsbD (1 + i) = true ↔ s.tile.inputHeld i ≠ [])) ∧ field w 63 27 = 0 ∧
      (w.getLsbD 0 = true ↔ field w 63 1 = 0)) ∧
  (∀ (s : State) (ws : List Word) (v : State), s.tile.intr = none → s.tile.longBuf = [] → s.tile.shadow = some ws →
    s.tile.sw.st = .halted → s.tile.streams = [] → (∀ i, i < 8 → vget s.tile.coreOut i [] = []) → s.tile.carried = [] →
    (∀ i, i < 8 → s.tile.inputHeld i = []) →
    let e := moduleRead s (fieldOf s.tile.id) (imgModule ws)
    moduleState e.1 ≠ 3 → preloadBehind s s.tile.id ws = false → activate e.2 s.tile.id ws = .ok v → sealed v s.tile.id = false →
    exec .cfgswp s = .next (transferred s (onTile v (fun t => { t with pc := slotBase (imgModule ws) + BitVec.ofNat 64 (imgEntry ws) }.countHeld
      (if s.tile.tileSplit = imgSplit ws then 0 else splitCycles s s.tile.id (imgSplit ws)))))) ∧
  (∀ (s : State) (ws : List Word), s.tile.intr = none → s.tile.longBuf = [] → s.tile.shadow = some ws →
    s.tile.sw.st = .halted → s.tile.streams = [] → (∀ i, i < 8 → vget s.tile.coreOut i [] = []) → s.tile.carried = [] →
    (∃ i, i < 8 ∧ s.tile.inputHeld i ≠ []) → ∃ w, exec .cfgswp s = .next (takeTrap s { cause := .stray, info := some (.stray, w) })) ∧
  (∀ (s : State), s.tile.intr = none → s.tile.longBuf = [] → s.tile.shadow = none →
    exec .cfgswp s = .next (takeTrap s { cause := .illegal, cls := 8 })) ∧
  (∀ (s : State) (a b : BitVec 6), Ready [.x a, .x b] [] s →
    let u := taken (taken s a) b
    let k := (valueOf (taken s a) b).toNat
    let d := descriptorOf u (valueOf s a) 16
    k ≤ 7 → setGranted u k = true → DescriptorAt u (valueOf s a) 64 16 → topoBad (u.fleetId % 16) d = false →
    ((getCSet u k).pend = false → ∃ t, exec (.toporeq a b) s = .next t ∧ (getCSet t k).pend = true ∧
      (getCSet t k).request = some { words := d } ∧ t.tile.x = u.tile.x ∧ t.mem = u.mem) ∧
    ((getCSet u k).pend = true → exec (.toporeq a b) s = .next (waitStep s .full false [(.topoAccept, [k])]))) ∧
  (∀ (s : State) (d b : BitVec 6), Ready [.x b] [.x d] s →
    let u := taken s b
    let k := (valueOf s b).toNat
    (k ≤ 7 → setGranted u k = true → exec (.topogen d b) s = .next (finished s 1 (given u d
      (BitVec.ofNat 64 (smGet 0 (getField u (fieldOf s.tile.id)).gens k % 2 ^ 32))))) ∧
    (7 < k → exec (.topogen d b) s = .next (takeTrap s { cause := .illegal, cls := 5 })) ∧
    (k ≤ 7 → setGranted u k = false →
      exec (.topogen d b) s = .next (takeTrap s (faultTrap (mkFault 0 0 0 .read (valueOf s b) { prot := true, sub := 5 }) false))))

/-- The supervisor instructions (R356 to R359, R368, R371, R375): their effects in supervisor mode, and PRIV in user mode for operands of legal
form. RANKSET with TRANSIT = 1 waits while a message is on its way to the old tile (DEDUCED, log entry 19); while the scope table cannot be read PREEMPT waits
(DEDUCED, log entry 18); a region is cut as log entry 25 has it (DESIGN CHOICE). -/
def Obligations.SupervisorResults : Prop :=
  (∀ (s : State) (b c : BitVec 6), Ready [.x b] [] s → fmtLegal (valueOf s b) = true →
    (isInt64 (valueOf s b) = true → ∀ e ∈ s.tile.streams, e.2.pat.stage = false ∨ e.2.fmtN ≠ c.toNat) →
    (s.tile.mode = .supervisor → exec (.fmtset b c) s = .next (finished s 1 (onTile (taken s b) (fun t => t.setFmt c.toNat (valueOf s b))))) ∧
    (s.tile.mode = .user → exec (.fmtset b c) s = .next (takeTrap s { cause := .priv }))) ∧
  (∀ (t : Tile) (n k : Nat) (w : Word), n < 16 → k < 16 →
    vget (t.setFmt n w).fmt k 0 = (if k = n then w else vget t.fmt k 0) ∧ (t.setFmt n w).x = t.x ∧ (t.setFmt n w).scale = t.scale) ∧
  (∀ (s : State) (a b : BitVec 6), Ready [.x a, .x b] [] s →
    let u := taken (taken s a) b
    let i := (valueOf s a).toNat
    let d := valueOf (taken s a) b
    let p := partNo u u.tile.id
    i ≤ 255 → field d 63 17 = 0 → field d 15 0 < tileCount u p →
    (s.tile.mode = .supervisor → ∃ t, exec (.ownset a b) s = .next t ∧
      (field d 16 16 = 1 → smFind (getPart t p).ownerWin i = some (field d 15 0)) ∧
      (field d 16 16 = 0 → smFind (getPart t p).ownerWin i = none) ∧
      (∀ k, k ≠ i → smFind (getPart t p).ownerWin k = smFind (getPart u p).ownerWin k) ∧ t.tile.x = u.tile.x ∧ t.mem = u.mem) ∧
    (s.tile.mode = .user → exec (.ownset a b) s = .next (takeTrap s { cause := .priv }))) ∧
  (∀ (s : State) (a b : BitVec 6), Ready [.x a, .x b] [] s →
    let u := taken (taken s a) b
    let r := (valueOf s a).toNat
    let d := valueOf (taken s a) b
    let p := partNo u u.tile.id
    r < tileCount u p → field d 63 17 = 0 → field d 15 8 < 192 → partOfTile u (tileAt (field d 7 0) (field d 15 8)) = some p →
    let underWay := (∃ m ∈ u.net, m.tile = (rankEntry u p r).tile) ∨ ∃ m, NiItem.msg m ∈ (getTile u (rankEntry u p r).tile).ring
    (s.tile.mode = .supervisor → field d 16 16 = 1 → underWay → ∃ t, exec (.rankset a b) s = .next t ∧ t.tile.wait = some .park ∧
      rankEntry t p r = { rankEntry u p r with transit := true }) ∧
    (s.tile.mode = .supervisor → field d 16 16 = 0 ∨ ¬ underWay →
      ∃ t, exec (.rankset a b) s = .next t ∧
        rankEntry t p r = { tile := tileAt (field d 7 0) (field d 15 8), transit := decide (field d 16 16 = 1) } ∧
        (∀ k, k ≠ r → rankEntry t p k = rankEntry u p k) ∧ t.tile.x = u.tile.x ∧ t.mem = u.mem) ∧
    (s.tile.mode = .user → exec (.rankset a b) s = .next (takeTrap s { cause := .priv }))) ∧
  (∀ (s : State) (a : BitVec 6), Ready [.x a] [] s →
    let u := taken s a
    let d := descriptorOf u (valueOf s a) 8
    DescriptorAt u (valueOf s a) 64 8 → preemptBad d = false →
    let f := fieldOf u.tile.id
    let sc := field (d.getD 1 0) 15 0
    let below := fun (v w : State) => subtreeOf f sc (getPart v (partNo v w.tile.id)).scopes v
    (s.tile.mode = .supervisor →
      (∀ p v, scopeCheck u f 0 sc = (.unread p, v) →
        exec (.preempt a) s = .next (waitStep (supNote (scopeCheck s f 0 sc).2 f p) .scope false [])) ∧
      (∀ v, scopeCheck u f 0 sc = (.bad, v) → exec (.preempt a) s = .next (finished s 1 (startCut v d false []))) ∧
      (∀ q v, scopeCheck u f 0 sc = (q, v) → q = .runs ∨ q = .cancelled →
        (∀ scs w, below v u = (.ok scs, w) → exec (.preempt a) s = .next (finished s 1 (startCut w d true scs))) ∧
        (∀ p w, below v u = (.error p, w) → exec (.preempt a) s = .next (waitStep (supNote (below s s).2 f p) .scope false [])))) ∧
    (s.tile.mode = .user → exec (.preempt a) s = .next (takeTrap s { cause := .priv }))) ∧
  (∀ (s : State) (d : List Word) (scs : List Nat),
    let ts := regionTiles s (partNo s s.tile.id) (field (d.getD 1 0) 15 0 :: scs)
    startCut s d false scs = doneWord s s.tile.id (d.getD 3 0) 0 4 ∧
    ((∃ t ∈ ts, (getTile s t).cutOf.isSome = true) → startCut s d true scs = doneWord s s.tile.id (d.getD 3 0) 0 5) ∧
    ((∀ t ∈ ts, (getTile s t).cutOf = none) → (d.getD 4 0).toNat < ts.length → startCut s d true scs = doneWord s s.tile.id (d.getD 3 0) 0 3) ∧
    ((∀ t ∈ ts, (getTile s t).cutOf = none) → ts.length ≤ (d.getD 4 0).toNat →
      ∀ t ∈ ts, (getTile (startCut s d true scs) t).cutOf = some s.nextCut ∧ (getTile (startCut s d true scs) t).cutMarked = false)) ∧
  (∀ (s : State) (a : BitVec 6), Ready [.x a] [] s →
    let img := imageLoads (taken s a).tile.id (valueOf s a) 8 (taken s a)
    (s.tile.mode = .supervisor → (valueOf s a).toNat % 2 ^ 21 = 0 →
      (∀ h v, img = (.ok h, v) → ∃ t c, exec (.resume a) s = .next t ∧ smFind t.cuts v.nextCut = some c ∧ c.resume = true ∧ c.image = valueOf s a ∧
        c.scope = field (h.getD 0 0) 31 16 ∧ c.done = h.getD 2 0 ∧ t.tile.x = v.tile.x ∧ t.mem = v.mem) ∧
      (∀ f v, img = (.error (some f), v) → exec (.resume a) s = .next (takeTrap s (faultTrap f false))) ∧
      (∀ v, img = (.error none, v) → exec (.resume a) s = .next (sealTile s s.tile.id))) ∧
    (s.tile.mode = .supervisor → (valueOf s a).toNat % 2 ^ 21 ≠ 0 → exec (.resume a) s = .next (takeTrap s { cause := .align })) ∧
    (s.tile.mode = .user → exec (.resume a) s = .next (takeTrap s { cause := .priv })))

/- The switch -/

/-- The state after a step of the hardware. -/
def Sys2Proof.Machine.stepped (s u : State) : State := { u with time := s.time + 1 }

/-- A word may make a step (R315, R329): it breaks no check that depends on the tile or the program, every input that a branch names holds a
token, and every branch has room. -/
def Sys2Proof.Machine.Routable (s : State) (i : Instr) : Prop :=
  wordIllegal s.tile i = false ∧ (∀ b ∈ branches (selOf i), s.tile.fifo b.2 ≠ [] ∧ branchRoom s b = true)

/-- The state after the branches of a word have moved their tokens in a cycle counted as SW_MOVE (R329, R333). -/
def Sys2Proof.Machine.routed (s : State) (i : Instr) : State := countSw (moveAll s (branches (selOf i))) 18

/-- The head of an input, which passes the checks of R384 and R385. -/
def Sys2Proof.Machine.SoundHead (s : State) (p : Nat) (k : Token) (r : List Token) : Prop :=
  s.tile.fifo p = k :: r ∧ residueOf k.payload = k.res ∧ k.route = s.tile.routeId

/-- The switch words (R329 to R331): what one cycle of each does when its sources and destinations are ready, where it goes next, and where
its tokens go. A taken branch cancels the switch's sequential prefetches (R71). The branches of an SMCAST that share an input each keep their place in the
window, and a token leaves the input once both have moved it. -/
def Obligations.SwitchResults : Prop :=
  (∀ s : State, exec .snop s = .next (stepped s (swNext (countSw s 18)))) ∧
  (∀ (s : State) (sel : BitVec 30) (mc : BitVec 1), Routable s (.route sel mc) →
    exec (.route sel mc) s = .next (stepped s (swNext (routed s (.route sel mc))))) ∧
  (∀ (s : State) (sel : BitVec 30) (mc : BitVec 1) (n : BitVec 16), Routable s (.routen sel mc n) →
    let left := if s.tile.sw.rem = 0 then n.toNat else s.tile.sw.rem
    let u := onTile (routed s (.routen sel mc n)) (fun t => { t with sw := { t.sw with word := some (.routen sel mc n), rem := left - 1 } })
    exec (.routen sel mc n) s = .next (stepped s (if left ≤ 1 then swNext u else u))) ∧
  (∀ (s : State) (sel : BitVec 30) (mc : BitVec 1) (g : BitVec 16), Routable s (.sjmp sel mc g) →
    exec (.sjmp sel mc g) s = .next (stepped s (swJump (routed s (.sjmp sel mc g)) g.toNat))) ∧
  (∀ (s : State) (pc : Nat), swJump s pc = onTile s (fun t => { t with
    prefetchSw := none, sw := { t.sw with pc := pc, last := t.sw.word, word := none, rem := 0, moved := [] } })) ∧
  (∀ (s : State) (sel : BitVec 30) (mc : BitVec 1) (g : BitVec 16) (i : BitVec 3) (k : Token) (r : List Token),
    Routable s (.sbnz sel mc g i) → SoundHead s i.toNat k r →
    exec (.sbnz sel mc g i) s = .next (stepped s
      (if k.kind = .data ∧ k.payload ≠ 0 then swJump (routed s (.sbnz sel mc g i)) g.toNat else swNext (routed s (.sbnz sel mc g i))))) ∧
  (∀ (s : State) (sel : BitVec 30) (mc : BitVec 1) (g : BitVec 16) (b : Bool) (r : List Bool), Routable s (.sbq sel mc g) → s.tile.bq = b :: r →
    exec (.sbq sel mc g) s = .next (stepped s (
      let u := onTile (routed s (.sbq sel mc g)) (fun t => { t with bq := t.bq.drop 1 })
      if b then swJump u g.toNat else swNext u))) ∧
  (∀ (s : State) (sel : BitVec 30) (mc : BitVec 1) (i l : BitVec 3), wordIllegal s.tile (.swaitm sel mc i l) = false → s.tile.sw.rem = 0 →
    s.tile.emq.length < 8 →
    (∀ k r, (∀ b ∈ branches sel, b.2 ≠ i.toNat) → s.tile.fifo i.toNat = k :: r → residueOf k.payload = k.res → k.kind = .marker →
      l.toNat ≤ k.level →
      exec (.swaitm sel mc i l) s = .next (stepped s (countSw (swNext (onTile s (fun t => { t with emq := t.emq ++ [k.level] }))) 18))) ∧
    (∀ k r, branches sel = [] → s.tile.fifo i.toNat = k :: r → residueOf k.payload ≠ k.res →
      ∃ t, exec (.swaitm sel mc i l) s = .next t ∧ t.tile.sw = s.tile.sw ∧ t.tile.emq = s.tile.emq) ∧
    (∀ k r, (∃ b ∈ branches sel, b.2 = i.toNat) → SoundHead s i.toNat k r → Routable s (.swaitm sel mc i l) →
      exec (.swaitm sel mc i l) s = .next (stepped s (if k.kind = .marker ∧ l.toNat ≤ k.level then
        swNext (onTile (routed s (.swaitm sel mc i l)) (fun t => { t with emq := t.emq ++ [k.level] })) else routed s (.swaitm sel mc i l))))) ∧
  (∀ (s : State) (sel : BitVec 30) (n : BitVec 16) (b : Nat × Nat) (k : Token) (r : List Token), wordIllegal s.tile (.smcast sel n) = false →
    branches sel = [b] → SoundHead s b.2 k r → branchRoom s b = true → (s.tile.sw.moved = [] ∨ s.tile.sw.moved.length = 10) →
    s.tile.sw.movedBy b.1 < n.toNat → 8 ≤ b.1 →
    ∃ t, exec (.smcast sel n) s = .next t ∧ t.tile.fifo b.2 = r ∧ vget t.tile.coreIn b.2 [] = vget s.tile.coreIn b.2 [] ++ [k] ∧
      (n.toNat ≤ s.tile.sw.movedBy b.1 + 1 → t.tile.sw.pc = s.tile.sw.pc + 1 ∧ t.tile.sw.word = none) ∧
      (s.tile.sw.movedBy b.1 + 1 < n.toNat → t.tile.sw.pc = s.tile.sw.pc ∧ t.tile.sw.word = some (.smcast sel n) ∧
        t.tile.sw.movedBy b.1 = s.tile.sw.movedBy b.1 + 1)) ∧
  (∀ (s : State) (sel : BitVec 30) (n : BitVec 16) (o p u q : Nat), wordIllegal s.tile (.smcast sel n) = false →
    branches sel = [(o, p), (8 + p / 4, p)] → p < 8 → o < 8 → farInput s.tile.id o = some (u, q) → q < 8 → crossesField s.tile.id (o % 4) = false →
    s.deadLinks.contains (s.tile.id * 8 + o) = false → sealed s u = false → u ≠ s.tile.id →
    (∀ k ∈ s.tile.fifo p, residueOf k.payload = k.res ∧ k.route = s.tile.routeId) → (s.tile.sw.moved = [] ∨ s.tile.sw.moved.length = 10) →
    let c1 := s.tile.sw.movedBy o
    let c2 := s.tile.sw.movedBy (8 + p / 4)
    let k1 := if c1 < n.toNat ∧ branchRoom s (o, p) = true then ((s.tile.fifo p)[c1 - min c1 c2]?).toList else []
    let k2 := if c2 < n.toNat ∧ branchRoom s (8 + p / 4, p) = true then ((s.tile.fifo p)[c2 - min c1 c2]?).toList else []
    let d1 := c1 + k1.length
    let d2 := c2 + k2.length
    ∃ t, exec (.smcast sel n) s = .next t ∧ t.tile.fifo p = (s.tile.fifo p).drop (min d1 d2 - min c1 c2) ∧
      vget t.tile.coreIn p [] = vget s.tile.coreIn p [] ++ k2 ∧ (getTile t u).fifo q = (getTile s u).fifo q ++ k1 ∧ t.tile.x = s.tile.x ∧ t.mem = s.mem ∧
      (if n.toNat ≤ d1 ∧ n.toNat ≤ d2 then t.tile.sw.pc = s.tile.sw.pc + 1 ∧ t.tile.sw.word = none
       else t.tile.sw.pc = s.tile.sw.pc ∧ t.tile.sw.word = some (.smcast sel n) ∧ t.tile.sw.movedBy o = d1 ∧ t.tile.sw.movedBy (8 + p / 4) = d2)) ∧
  (∀ s : State, ∃ t, exec .shalt s = .next t ∧ t.tile.sw.st = .halted ∧ t.tile.pc = s.tile.pc ∧ t.tile.x = s.tile.x ∧ t.mem = s.mem) ∧
  (∀ (s : State) (p : Nat) (k : Token) (r : List Token), SoundHead s p k r → p < 8 →
    let t := moveAll s [(8 + p / 4, p)]
    t.tile.fifo p = r ∧ vget t.tile.coreIn p [] = vget s.tile.coreIn p [] ++ [k] ∧ (∀ q, q ≠ p → t.tile.fifo q = s.tile.fifo q) ∧
      t.tile.x = s.tile.x ∧ t.tile.pc = s.tile.pc ∧ t.mem = s.mem) ∧
  (∀ (s : State) (p o u q : Nat) (k : Token) (r : List Token), SoundHead s p k r → p < 8 → o < 8 → farInput s.tile.id o = some (u, q) → q < 8 →
    crossesField s.tile.id (o % 4) = false → s.deadLinks.contains (s.tile.id * 8 + o) = false → sealed s u = false → u ≠ s.tile.id →
    let t := moveAll s [(o, p)]
    t.tile.fifo p = r ∧ (getTile t u).fifo q = (getTile s u).fifo q ++ [k] ∧ t.tile.coreIn = s.tile.coreIn ∧ t.mem = s.mem) ∧
  (∀ (s : State) (p : Nat) (k : Token) (r : List Token), s.tile.fifo p = k :: r → residueOf k.payload ≠ k.res → p < 8 →
    ∃ e, e.kind = .err ∧ vget (moveAll s [(8 + p / 4, p)]).tile.coreIn p [] = vget s.tile.coreIn p [] ++ [e]) ∧
  (∀ (s : State) (i : Instr), wordIllegal s.tile i = true → (∃ sel mc, i = .route sel mc) →
    ∃ t, exec i s = .next t ∧ t.tile.sw.st = .illegal ∧ t.tile.swIn = s.tile.swIn ∧ t.tile.coreIn = s.tile.coreIn) ∧
  (∀ (s : State) (sel : BitVec 30) (mc : BitVec 1), wordIllegal s.tile (.route sel mc) = false →
    (∃ b ∈ branches sel, s.tile.fifo b.2 = [] ∨ branchRoom s b = false) →
    ∃ t, exec (.route sel mc) s = .next t ∧ t.tile.sw = s.tile.sw ∧ t.tile.swIn = s.tile.swIn ∧ t.tile.coreIn = s.tile.coreIn)

/- Steps of the hardware: stores to registers, servicing, power -/

/-- The instruction or step answers a next state, of which `P` holds. -/
def Sys2Proof.Machine.Reaches (i : Instr) (s : State) (P : State → Prop) : Prop := ∃ t, exec i s = .next t ∧ P t

/-- A step that stores to a control register does what a write of it does, and a value that breaks the register's map changes nothing. -/
def Sys2Proof.Machine.StoresControl (i : Instr) (n : Nat) : Prop :=
  ∀ (s : State) (v : Nat), s.arg = [v] →
    exec i s = .next (stepped s (if crBreaks s n (BitVec.ofNat 64 v) then s else crStore s n (BitVec.ofNat 64 v)))

/-- Stores to registers as steps of the hardware: the control registers (R58, R62, R67, R184, R252, R313, R363, R436) and the device registers
(R33, R78, R79, R156, R376, R377, R379, R400). A queue whose function belongs to another partition does not stay enabled, and a WINDOW store that enables
nothing is performed whatever else it says (DEDUCED, log entry 83); the records of a field that leaves move with their aging begun anew (DEDUCED, log entry 30). -/
def Obligations.RegisterStoreSteps : Prop :=
  StoresControl .tileSplitWrite 0x50 ∧ StoresControl .clusterPoolWrite 0x51 ∧ StoresControl .loopCtlWrite 0xA8 ∧
  StoresControl .replayCtlWrite 0x48 ∧ StoresControl .tokenCfgWrite 0x99 ∧ StoresControl .optSendWrite 0xA4 ∧
  (∀ (s : State) (n v : Nat), n < 16 →
    (s.arg = [0, n, v] → Reaches .formatStateChange s (fun t => vget t.tile.scale n 0 = BitVec.ofNat 64 v ∧ t.tile.fmt = s.tile.fmt ∧
      t.tile.x = s.tile.x ∧ t.tile.coreStatus = s.tile.coreStatus)) ∧
    (s.arg = [1, n, v] → Reaches .formatStateChange s (fun t =>
      vget t.tile.fmt n 0 = (if fmtLegal (BitVec.ofNat 64 v) then BitVec.ofNat 64 v else vget s.tile.fmt n 0) ∧ t.tile.scale = s.tile.scale ∧
      t.tile.x = s.tile.x)) ∧
    (s.arg = [2, n, v] → v ≤ 1 → Reaches .formatStateChange s (fun t => field t.tile.coreStatus 3 3 = v ∧
      (∀ k, k ≠ 3 → t.tile.coreStatus.getLsbD k = s.tile.coreStatus.getLsbD k) ∧ t.tile.x = s.tile.x))) ∧
  (∀ (s : State) (b v : Nat), s.arg = [b, v] → b < 16 → v < 65536 → Reaches .bankTokenWrite s (fun t =>
    vget t.tile.bankToken b 0 = (if b < s.tile.tileSplit then BitVec.ofNat 16 v else vget s.tile.bankToken b 0) ∧
    ∀ k, k ≠ b → vget t.tile.bankToken k 0 = vget s.tile.bankToken k 0)) ∧
  (∀ (s : State) (j v : Nat), s.arg = [0, j, v] → j < interSize s / 2 ^ 30 → Reaches .stripeCtlWrite s (fun t =>
    field (smGet 0x3E t.stripes j) 5 0 = (if 48 ≤ v % 64 ∧ v % 64 ≤ 61 then 62 else v % 64) ∧
    field (smGet 0x3E t.stripes j) 7 7 = (if field (smGet 0x3E s.stripes j) 5 0 = 62 then v / 128 % 2 else field (smGet 0x3E s.stripes j) 7 7) ∧
    (∀ k, k ≠ j → smGet 0x3E t.stripes k = smGet 0x3E s.stripes k) ∧
    (field (smGet 0x3E t.stripes j) 7 7 = field (smGet 0x3E s.stripes j) 7 7 → t.mem = s.mem ∧ t.undef = s.undef))) ∧
  (∀ (s : State) (c u v : Nat), s.arg = [1, c, u, v] → localUnitExists s c u = true → Reaches .stripeCtlWrite s (fun t =>
    field (smGet 0x3E t.localUnits (c * 4096 + u)) 63 0 = (if 48 ≤ v % 64 ∧ v % 64 ≤ 61 then 62 else v % 64) ∧
    (field (smGet 0x3E s.localUnits (c * 4096 + u)) 5 0 ≠ 63 → t.mem = s.mem ∧ t.undef = s.undef) ∧
    (field (smGet 0x3E s.localUnits (c * 4096 + u)) 5 0 = 63 → v % 64 ≠ 63 → ∀ a, localBase c + u * 2 ^ 24 ≤ a → a < localBase c + (u + 1) * 2 ^ 24 →
      (undefAt t.undef a).isSome = true))) ∧
  (∀ (s : State) (p v : Nat), s.arg = [p, v, 0] → v < 2 ^ 48 →
    ((∃ f, f < 48 ∧ v.testBit f = true ∧ fieldPresent s f = false) → Reaches .partFieldsWrite s (fun t => t.partErr = 1 ∧ t.parts = s.parts)) ∧
    ((∀ f, f < 48 → v.testBit f = true → fieldPresent s f = true ∧ ∀ e ∈ s.parts, e.1 ≠ p → e.2.fields.getLsbD f = false) →
      connected ((List.range 48).filter v.testBit) = true →
      (∀ f, f < 48 → (v.testBit f ≠ (getPart s p).fields.getLsbD f) → fieldBusy s f = false) →
      Reaches .partFieldsWrite s (fun t => (getPart t p).fields = BitVec.ofNat 48 v ∧ t.partErr = s.partErr))) ∧
  (∀ (s : State) (p : Nat) (fs : List Nat) (q : Nat) (r : QRec) (g f : Nat), s.arg = [p, 0, 1, f] → fs = partFields s p → fs.head? = some g →
    g ≠ f → 56 ≤ q → (getField s f).queues = [(q, [r])] → Reaches .partFieldsWrite s (fun t => (getField t f).queues = [] ∧
      (queueOf t g q).map (fun h => (h.words, h.vf, h.deps, h.slot, h.late)) =
        (queueOf s g q).map (fun h => (h.words, h.vf, h.deps, h.slot, h.late)) ++ [(r.words, r.vf, [], none, r.late)] ∧
      (queueOf t g q).getLast?.map (·.aging) = some 0)) ∧
  (∀ (s : State) (w v : Nat), s.arg = [w, v] → v < 2 ^ 64 →
    (v.testBit 16 = false → Reaches .windowWrite s (fun t => smFind t.windows w = some (BitVec.ofNat 64 v &&& 0x3F3F0F3F3F#64) ∧ t.partErr = s.partErr)) ∧
    (v.testBit 16 = true → v / 2 ^ 32 % 64 < v / 2 ^ 24 % 64 → Reaches .windowWrite s (fun t => t.windows = s.windows ∧ t.partErr = 2))) ∧
  (∀ (s : State) (vf v : Nat), s.arg = [vf, v] → v < 2 ^ 64 → Reaches .vfCtlWrite s (fun t =>
    (getVf t vf).en = (decide (v % 64 < 48) && v.testBit 8) ∧ (getVf t vf).part = (if v % 64 < 48 then v % 64 else 0) ∧
    (∀ k, k ≠ vf → getVf t k = getVf s k) ∧
    (∀ f q, f < 48 → q < 56 → s.presentFields.getLsbD f = true → field (readLqCtl s f q) 8 0 = vf → partOfField s f ≠ some (getVf t vf).part →
      field (readLqCtl t f q) 32 32 = 0))) ∧
  (∀ (s : State) (f q v : Nat), s.arg = [f, q, v] → q < 56 → v < 2 ^ 64 → Reaches .lqCtlWrite s (fun t =>
    field (readLqCtl t f q) 8 0 = v % 512 ∧
    field (readLqCtl t f q) 23 16 = (if v / 2 ^ 16 % 256 = 0 then 1 else v / 2 ^ 16 % 256) ∧
    field (readLqCtl t f q) 32 32 = (if v.testBit 32 ∧ partOfField s f = some (getVf s (v % 512)).part then 1 else 0))) ∧
  (∀ (s : State) (k v : Nat), s.arg = [k, v] → v < 2 ^ 64 →
    ((∃ j, j < 8 ∧ j ≠ k ∧ (getCSet s j).en = true ∧ v % 16 &&& (getCSet s j).conduits ≠ 0) → v.testBit 5 = true →
      Reaches .csetCtlWrite s (fun t => t.csets = s.csets)) ∧
    ((∀ j, j < 8 → j ≠ k → (getCSet s j).en = true → v % 16 &&& (getCSet s j).conduits = 0) → Reaches .csetCtlWrite s (fun t =>
      (getCSet t k).conduits = v % 16 ∧ (getCSet t k).en = v.testBit 5 ∧ (getCSet t k).part = v / 2 ^ 16 % 64 ∧
      (getCSet t k).gen = (getCSet s k).gen ∧ (getCSet t k).err = ((getCSet s k).err && !v.testBit 4)))) ∧
  (∀ (s : State) (f v : Nat), f < 48 → v < 2 ^ 64 → s.arg = [0xFFFFFE0000000000 + f * 2 ^ 32 + 0x1028, v] →
    Reaches .deviceRegisterWrite s (fun t => (getField t f).xlateRoot = BitVec.ofNat 64 v &&& 0x0003FFFFFFE00001#64 ∧ t.mem = s.mem ∧ t.tile = s.tile))

/-- Servicing and power (R388, R391, R392, R426 to R428): the lifetime record takes what a count of corrected errors has gained, a firmware update waits for
the placements of its field, which takes no more meanwhile (DEDUCED, log entry 69), a score's decay is recorded, and a quarantine waits until the launches
with a task in the field are saved in their places, which the model's step sees to (log entry 23). What a power-on keeps is log entry 65, and that a step stands
for the errors which the counts come from log entry 64 (both DESIGN CHOICE). -/
def Obligations.ServiceSteps : Prop :=
  (∀ (s : State) (k : Nat), s.arg = [0, k] → (allTiles s).filter (· == k) = [k] → Reaches .lifetimeRecordUpdate s (fun t =>
    let now := (getTile s k).corrCnt.toNat
    let seen := smGet 0 s.lifetime.tileSeen k
    smGet 0 t.lifetime.tileCorr k = smGet 0 s.lifetime.tileCorr k + (if seen ≤ now then now - seen else now) ∧
    smGet 0 t.lifetime.tileSeen k = now ∧ t.lifetime.cistCorr = s.lifetime.cistCorr ∧ t.tile = s.tile ∧ t.mem = s.mem)) ∧
  (∀ (s : State) (c : Nat), s.arg = [1, c] → c < 24 → Reaches .lifetimeRecordUpdate s (fun t =>
    let now := (getCistern s c).corr.toNat
    let seen := smGet 0 s.lifetime.cistSeen c
    smGet 0 t.lifetime.cistCorr c = smGet 0 s.lifetime.cistCorr c + (if seen ≤ now then now - seen else now) ∧
    smGet 0 t.lifetime.cistSeen c = now ∧ t.lifetime.tileCorr = s.lifetime.tileCorr ∧ t.tile = s.tile ∧ t.mem = s.mem)) ∧
  (∀ (s : State) (c n : Nat), s.arg = [2, c, n] → Reaches .lifetimeRecordUpdate s (fun t =>
    smGet 0 t.lifetime.condCorr c = smGet 0 s.lifetime.condCorr c + n ∧ t.tile = s.tile)) ∧
  (∀ (s : State) (n : Nat), s.arg = [5, s.tile.id, n] → Reaches .lifetimeRecordUpdate s (fun t =>
    t.tile = { s.tile with corrCnt := s.tile.corrCnt + BitVec.ofNat 64 n } ∧ t.mem = s.mem)) ∧
  (∀ (s : State) (l : Nat), s.arg = [6, s.tile.id, l] → Reaches .lifetimeRecordUpdate s (fun t =>
    (∀ d ∈ t.tile.dcache, d.line = l → d.dirty = true) ∧ (∀ e ∈ t.tile.icache, e.pa ≠ l) ∧ t.tile.x = s.tile.x ∧ t.mem = s.mem)) ∧
  (∀ (s : State) (f v : Nat), s.arg = [f, v] → (getField s f).updating = none →
    exec .firmwareUpdate s = .next (stepped s (again (updField s f (fun u => { u with updating := some v })) .firmwareUpdate))) ∧
  (∀ (s : State) (f v w : Nat), s.arg = [f, w] → (getField s f).updating = some v → placing s f = true →
    exec .firmwareUpdate s = .next (stepped s (again s .firmwareUpdate))) ∧
  (∀ (s : State) (f v w : Nat), s.arg = [f, w] → (getField s f).updating = some v → placing s f = false → Reaches .firmwareUpdate s (fun t =>
    (getField t f).updating = none ∧
    (Config.firmwareVerifies f v = true → (getField t f).firmware = v ∧ smGet 0 t.firmStore (1 + f) = v ∧
      (∀ p, partOfField s f = some p → (getPart t p).zogCache = []) ∧ t.presentFields = s.presentFields ∧ t.tile = s.tile ∧ t.mem = s.mem) ∧
    (Config.firmwareVerifies f v = false → f < 48 → t.presentFields.getLsbD f = false ∧ t.lifetime.failures = s.lifetime.failures ++ [f]))) ∧
  (∀ (s : State) (c ch : Nat), s.arg = [c, ch] → Reaches .hbmRetrain s (fun t =>
    (ch ∈ (getCistern t c).retraining ↔ ch ∉ (getCistern s c).retraining) ∧ t.mem = s.mem ∧
    (ch ∉ (getCistern s c).retraining → smGet 0 t.lifetime.retrains (c * 64 + ch) = smGet 0 s.lifetime.retrains (c * 64 + ch) + 1))) ∧
  (∀ (s : State) (c d l : Nat), s.arg = [c, d, l] → (getConduit s c).recal = none →
    l < (if d = 0 then (getConduit s c).lambda else (getConduit s c).lambdaRx) →
    Reaches .wavelengthRecalibrate s (fun t => getConduit t c = { getConduit s c with recal := some (decide (d = 0), l) } ∧ t.tile = s.tile)) ∧
  (∀ (s : State) (c d l : Nat) (w : Bool × Nat), s.arg = [c, d, l] → (getConduit s c).recal = some w → Reaches .wavelengthRecalibrate s (fun t =>
    getConduit t c = { getConduit s c with recal := if w = (decide (d = 0), l) then none else some w } ∧ t.tile = s.tile)) ∧
  (∀ (s : State) (f : Nat), s.arg = [f] → Reaches .clockStep s (fun t => (getField t f).clockStep = min 8 ((getField s f).clockStep + 1))) ∧
  (∀ s : State, Reaches .scoreDecay s (fun t =>
    field (suspectOf t s.tile.id) 7 0 = field (suspectOf s s.tile.id) 7 0 - 1 ∧
    field (suspectOf t s.tile.id) 8 8 = field (suspectOf s s.tile.id) 8 8 ∧
    t.lifetime.scoreChanges = s.lifetime.scoreChanges ++
      (if field (suspectOf s s.tile.id) 7 0 = 0 then [] else [(s.tile.id, field (suspectOf s s.tile.id) 7 0 - 1)]))) ∧
  (∀ s : State, field (getField s (fieldOf s.tile.id)).quarCtl 24 24 = 1 →
    field (getField s (fieldOf s.tile.id)).quarCtl 7 0 ≤ field (suspectOf s s.tile.id) 7 0 → field (suspectOf s s.tile.id) 8 8 = 0 →
    let f := fieldOf s.tile.id
    let ids := launchesOn s ((partOfField s f).getD 64) [f]
    Reaches .quarantine s (fun t =>
      (smFind (getField s f).bypass (rowOf s.tile.id) = none → (∀ id ∈ ids, stays s id = true) →
        smFind (getField t f).bypass (rowOf s.tile.id) = some (colOf s.tile.id)) ∧
      (smFind (getField s f).bypass (rowOf s.tile.id) = none → (∃ id ∈ ids, stays s id = false) → t.fields = s.fields) ∧
      (smFind (getField s f).bypass (rowOf s.tile.id) ≠ none → field (suspectOf t s.tile.id) 8 8 = 1))) ∧
  (∀ s : State, Reaches .powerOn s (fun t =>
    t.launches = State.reset.launches ∧ t.windows = State.reset.windows ∧ t.fleetId = s.fleetId ∧ t.lifetime.tileCorr = s.lifetime.tileCorr ∧
    t.firmStore = s.firmStore ∧
    (Config.firmwareVerifies 76 (storedImage s 0) = true →
      (∀ f, f < 48 → s.presentFields.getLsbD f = true → Config.firmwareVerifies f (storedImage s (1 + f)) = true) →
      t.tile = State.reset.tile ∧ t.others = State.reset.others ∧ t.parts = State.reset.parts ∧ t.agenda = State.reset.agenda ∧
      t.presentFields = s.presentFields ∧ (∀ f, f < 48 → (getField t f).firmware = storedImage s (1 + f))) ∧
    (Config.firmwareVerifies 76 (storedImage s 0) = false → 76 ∈ t.lifetime.failures ∧ ∀ f, f < 48 → t.presentFields.getLsbD f = false) ∧
    (∀ f, f < 48 → s.presentFields.getLsbD f = true → Config.firmwareVerifies f (storedImage s (1 + f)) = false →
      t.presentFields.getLsbD f = false ∧ f ∈ t.lifetime.failures))) ∧
  (∀ s : State, Reaches .attestationRequest s (fun t => t.tile = s.tile ∧ t.mem = s.mem ∧ ∃ body : List Word,
    t.hostOut = s.hostOut ++ [.report (body ++ Config.signature body)] ∧
    ∀ i, i < 8 → body.getD i 0 = BitVec.ofNat 64 (s.arg.getD i 0))) ∧
  (∀ s : State, exec .hbmRefresh s = .next (stepped s s)) ∧
  (∀ (s : State) (r : Nat), s.arg = [r] → r < tileCount s (partNo s s.tile.id) → Reaches .rankTableFill s (fun t =>
    rankSeen t s.tile.id (partNo s s.tile.id) r = rankSeen s s.tile.id (partNo s s.tile.id) r ∧ t.tile.x = s.tile.x ∧ t.mem = s.mem))

/- Steps of a tile: fetching, the switch, requests held at an owner, streams, copies, the plane engine -/

/-- A step in whose turn a tile's network interface performs the oldest request that it held back, if it is of the step's kind and its issuer has no
earlier one elsewhere: the request leaves the ring, is performed as at its owner, and its result goes to the issuer's entry (R31, R91, R106, R107,
R109, R369); one that has takes its place behind the latest of those. -/
def Sys2Proof.Machine.PerformsHeld (i : Instr) (sel : LongOp → Bool) : Prop :=
  (∀ (s u : State) (q : OwnerReq) (r : List NiItem), s.tile.ring = .req q :: r → s.tile.cutMarked = false → sel q.op = true →
    u = onTile s (fun t => { t with ring := [] }) →
    let before := latestOf ((heldReqs u q.tile q.launch).filter (fun e => decide (e.1 < q.seq)))
    (before = none →
      let p := performNow u q.tile q.mode q.op
      Reaches i s (fun t => t.mem = p.st.mem ∧ (p.res ≠ .pending → (getTile p.st q.tile).launch = q.launch →
        t.tile.ring = r ++ p.st.tile.ring ∧ ∀ e, (getTile p.st q.tile).longBuf[q.entry]? = some e → e.res = .pending →
          (getTile t q.tile).longBuf = (getTile p.st q.tile).longBuf.set q.entry { e with res := p.res, op := p.op }))) ∧
    (∀ h, before = some h → Reaches i s (fun t => t.mem = s.mem ∧ t.tile.ring = r ∧
      ∀ v, h = .ring v → v ≠ s.tile.id → (getTile t v).ring = (getTile s v).ring ++ [.req q]))) ∧
  (∀ (s : State), s.tile.ring = [] → exec i s = .next (stepped s s)) ∧
  (∀ (s : State) (q : NiItem) (r : List NiItem), s.tile.ring = q :: r → s.tile.cutMarked = true → exec i s = .next (stepped s s))

/-- Fetching, walks and prefetch (R43, R44, R68, R71, R73), the switch's fetch and its traps (R45, R69, R220, R334), the ends of counted
words (R330, R331), the residue arbitration (R386, R387), and held requests. A completed walk sets A in its leaf and fills both translation buffers, and a page
of an IPREF range fills the cache that it names. What the checking units find is an argument of the model's step (DESIGN CHOICE, log entry 21); the order of held
requests is DESIGN CHOICE, log entry 24, and what the walker leaves of a refused access DEDUCED, log entry 33. -/
def Obligations.FetchSwitchSteps : Prop :=
  (∀ (s : State) (m : FetchMiss) (e : TlbEntry), s.tile.fetchMiss = some m → m.fault = none → s.tile.swMiss = none →
    walkPending s s.tile.id false = false → execLeaf s s.tile.id m.va s.tile.mode = some e →
    paErr s (partNo s s.tile.id) (leafPa e m.va) e.level = none → poisoned s (leafPa e m.va) = false →
    let line := leafPa e m.va / 64
    Reaches .fetchFill s (fun t => t.tile.fetchMiss = none ∧
      lineFind t.tile.icache line =
        some ((lineFind s.tile.icache line).getD (supplyBytes s s.tile.id line (supplyLevel s s.tile.id line 1))) ∧
      t.tile.x = s.tile.x ∧ t.tile.pc = s.tile.pc ∧ t.mem = s.mem)) ∧
  (∀ (s : State) (t line : Nat), lineFind (getCluster s (clusterOf t)).l2 line = none → lineFind (getField s (fieldOf t)).l3 line = none →
    supplyLevel s t line 1 = 2 ∧ supplyBytes s t line 2 = BitVec.ofNat 512 (readNum s (line * 64) 64)) ∧
  (∀ (s : State) (t line : Nat) (b : BitVec 512), lineFind (getCluster s (clusterOf t)).l2 line = some b →
    supplyLevel s t line 1 = 0 ∧ supplyBytes s t line 0 = b) ∧
  (∀ (s : State) (f : Nat) (r : WalkReq) (q : List WalkReq), s.arg = [f] → (getField s f).walkQ = r :: q → (getField s f).walks.length < 32 →
    Reaches .walkStart s (fun t => (getField t f).walks = (getField s f).walks ++ (r :: q).filter (fun w => w.page == r.page) ∧
      (getField t f).walkQ = (r :: q).filter (fun w => w.page != r.page) ∧ t.mem = s.mem)) ∧
  (∀ (s : State) (f : Nat) (r : WalkReq) (va : Word) (m : FetchMiss) (x : XErr), s.arg = [f] → (getField s f).walks = [r] → r.tile = s.tile.id →
    r.forSwitch = false → r.kind = 2 → va = BitVec.ofNat 64 (r.page * 4096) → s.tile.fetchMiss = some m → m.va.toNat / 4096 = r.page →
    translateTile (updField s f (fun a => { a with walks := [] })) s.tile.id va .exec r.mode = .error x → Reaches .walkComplete s (fun t => (getField t f).walks = [] ∧
      t.tile.fetchMiss = some { m with fault := some (fetchFault false m.va x) } ∧ t.tile.pc = s.tile.pc ∧
      ((x.prot = true → x.sub ≠ 5) → (x.prot = false → x.sub ≠ 8) → t.mem = s.mem))) ∧
  (∀ (s u : State) (f : Nat) (r : WalkReq) (va : Word) (e w : TlbEntry) (ps : List WalkPtr), s.arg = [f] → (getField s f).walks = [r] →
    r.tile = s.tile.id → r.kind = 2 → va = BitVec.ofNat 64 (r.page * 4096) → u = updField s f (fun a => { a with walks := [] }) → Inv s →
    bufferedLeaf u s.tile.id va .exec r.mode = none → walkOf u (fieldOf s.tile.id) (partNo s s.tile.id) va = .ok (e, ps) →
    permErr e.pte .exec r.mode = none → paErr s (partNo s s.tile.id) (leafPa e va) e.level = none → w = { e with pte := e.pte ||| 0x40#64 } →
    Reaches .walkComplete s (fun t => (getField t f).walks = [] ∧ t.tile.tlb = tlbFill 1 32 s.tile.tlb w ∧
      (getCluster t (clusterOf s.tile.id)).tlb = tlbFill 128 8 (getCluster s (clusterOf s.tile.id)).tlb w ∧
      (e.pte.getLsbD 6 = true → t.mem = s.mem) ∧ readD t e.pteAddr = w.pte ∧
      (∀ a, a < e.pteAddr ∨ e.pteAddr + 8 ≤ a → readByte t a = readByte s a) ∧ t.tile.x = s.tile.x ∧ t.tile.pc = s.tile.pc)) ∧
  (∀ (s : State) (fsw : Bool) (va : Word), s.arg = va.toNat :: (if fsw then [1] else []) →
    (if fsw then s.tile.prefetchSw else s.tile.prefetch) ≠ some va → exec .sequentialPrefetch s = .next (stepped s s)) ∧
  (∀ (s s0 w : State) (fsw : Bool) (va : Word), s.arg = va.toNat :: (if fsw then [1] else []) →
    (if fsw then s.tile.prefetchSw else s.tile.prefetch) = some va →
    s0 = onTile s (fun t => if fsw then { t with prefetchSw := none } else { t with prefetch := none }) →
    w = (match slotOf va with | some i => (moduleRead s0 (fieldOf s.tile.id) i).2 | none => s0) →
    (field s.tile.fetchCtl 7 0 = 0 → exec .sequentialPrefetch s = .next (stepped s w)) ∧
    (field s.tile.fetchCtl 7 0 = 1 → ∀ (u : State) (a pa : Nat), a = va.toNat / 64 * 64 + 64 →
      a < prefetchEnd s0 s.tile.id va → fetchBad w s.tile.id (BitVec.ofNat 64 a) = none →
      walkStalls w s.tile.id (BitVec.ofNat 64 a) .exec s.tile.mode = false →
      translateTile w s.tile.id (BitVec.ofNat 64 a) .exec s.tile.mode = .ok (pa, u) → poisoned u pa = false → u.tile.id = s.tile.id →
      Reaches .sequentialPrefetch s (fun t => lineFind t.tile.icache (pa / 64) =
        some ((lineFind u.tile.icache (pa / 64)).getD (supplyBytes u s.tile.id (pa / 64) (supplyLevel u s.tile.id (pa / 64) 1)))))) ∧
  (∀ (s : State) (r : IprefRange) (q : List IprefRange) (va : Word) (e : TlbEntry), s.tile.ipref = r :: q → r.next < 2 ^ 64 → va = BitVec.ofNat 64 r.next →
    r.next % 64 = 0 → r.next ≤ r.last → r.last < r.next + 64 → 1 ≤ r.level → r.level ≤ 3 → fetchBad s s.tile.id va = none →
    bufferedLeaf s s.tile.id va .exec s.tile.mode = some e → paErr s (partNo s s.tile.id) (leafPa e va) e.level = none → poisoned s (leafPa e va) = false →
    Reaches .iprefFill s (fun t => t.tile.ipref = q ∧ levelHolds t s.tile.id (leafPa e va / 64) r.level = true ∧
      (r.level = 1 → lineFind t.tile.icache (leafPa e va / 64) = some ((lineFind s.tile.icache (leafPa e va / 64)).getD
        (supplyBytes s s.tile.id (leafPa e va / 64) (supplyLevel s s.tile.id (leafPa e va / 64) 1)))) ∧
      vget t.tile.counters 4 0 = vget s.tile.counters 4 0 ∧ t.tile.x = s.tile.x ∧ t.tile.pc = s.tile.pc ∧ t.mem = s.mem)) ∧
  (∀ (s : State) (r : IprefRange) (q : List IprefRange), s.tile.ipref = r :: q →
    walkStalls s s.tile.id (BitVec.ofNat 64 r.next) .exec s.tile.mode = true →
    Reaches .iprefFill s (fun t => t.tile.ipref = s.tile.ipref ∧ t.tile.icache = s.tile.icache ∧ t.tile.x = s.tile.x ∧ t.mem = s.mem)) ∧
  (∀ (s : State) (r : IprefRange) (q : List IprefRange), s.tile.ipref = r :: q → fetchBad s s.tile.id (BitVec.ofNat 64 r.next) ≠ none →
    Reaches .iprefFill s (fun t => t.tile.ipref = (if r.next / 4096 * 4096 + 4096 ≤ r.last then [{ r with next := r.next / 4096 * 4096 + 4096 }] else []) ++ q ∧
      vget t.tile.counters 4 0 = vget s.tile.counters 4 0 + 1 ∧ t.tile.x = s.tile.x ∧ t.mem = s.mem)) ∧
  (∀ (s : State) (b : BitVec 512) (off : Nat) (i : Instr), s.tile.sw.st = .running → s.tile.sw.word = none → s.tile.sw.pc < s.tile.sw.len →
    fetchAt s s.tile.id s.tile.sw.wordVa s.tile.mode = .bits b off → decodeSwitch (b.extractLsb' (8 * off) 64) = .ok i →
    (wordIllegal s.tile i = false → Reaches .switchWordFetch s (fun t => t.tile.sw.word = some i ∧ t.tile.sw.pc = s.tile.sw.pc)) ∧
    (wordIllegal s.tile i = true → Reaches .switchWordFetch s (fun t => t.tile.sw.st = .illegal))) ∧
  (∀ s : State, s.tile.sw.st = .illegal → s.tile.intr = none → field s.tile.trapCause 3 0 = 0 → s.tile.run = .running → s.tile.wait = none →
    s.tile.longBuf = [] → Reaches .switchIllegalRaise s (fun t => field t.tile.trapCause 3 0 = 1 ∧ field t.tile.trapCause 11 8 = 6 ∧
      t.tile.pc = s.tile.trapVec ∧ t.tile.trapPc = s.tile.pc &&& ~~~3#64 ∧ t.tile.mode = .supervisor ∧ t.tile.sw.st = .stopped)) ∧
  (∀ (s : State) (f : MemFault), s.tile.sw.st = .fetchFault f → Reaches .switchFetchFaultRaise s (fun t => t.tile.sw.st = .fetchPassed f ∧ t.tile.x = s.tile.x)) ∧
  (∀ (s : State) (sel : BitVec 30) (mc : BitVec 1) (n : BitVec 16), s.tile.sw.word = some (.routen sel mc n) →
    exec .routenCountEnd s = .next (stepped s (if s.tile.sw.rem = 0 then swNext s else s))) ∧
  (∀ (s : State) (sel : BitVec 30) (n : BitVec 16), s.tile.sw.word = some (.smcast sel n) →
    exec .smcastWindowEnd s = .next (stepped s (if ∀ b ∈ branches sel, n.toNat ≤ s.tile.sw.movedBy b.1 then swNext s else s))) ∧
  (∀ (s : State) (unit pred d third lane b : Nat), s.arg = [unit, pred, d, third, lane] → s.tile.run = .running → d % 255 ≠ pred → pred < 255 → unit < 16 →
    buddyOf s s.tile.id = some b → b ≠ s.tile.id →
    (third ≠ d ∧ third % 255 = pred ∨ third = d → Reaches .residueArbitration s (fun t =>
      field t.tile.residueInfo 31 24 = pred ∧ field t.tile.residueInfo 23 16 = d % 255 ∧ field t.tile.residueInfo 3 0 = unit ∧
      field t.tile.residueInfo 7 4 = (if third = d then 1 else 0) ∧ t.tile.dispute = some { unit := unit, lane := lane, value := third } ∧
      (getField t (fieldOf s.tile.id)).residueCnt = (getField s (fieldOf s.tile.id)).residueCnt + 1 ∧ t.tile.x = s.tile.x ∧ t.tile.pc = s.tile.pc)) ∧
    (third ≠ d → third % 255 ≠ pred → s.tile.longBuf = [] → field s.tile.trapCause 3 0 = 0 → Reaches .residueArbitration s (fun t =>
      field t.tile.trapCause 3 0 = 11 ∧ field t.tile.residueInfo 7 4 = 2 ∧ t.tile.pc = s.tile.trapVec))) ∧
  (∀ (s : State) (unit pred d third lane : Nat), s.arg = [unit, pred, d, third, lane] → s.tile.run = .running → d % 255 ≠ pred →
    buddyOf s s.tile.id = none → s.tile.longBuf = [] → field s.tile.trapCause 3 0 = 0 → Reaches .residueArbitration s (fun t =>
      field t.tile.trapCause 3 0 = 11 ∧ field t.tile.residueInfo 7 4 = 2 ∧ t.tile.pc = s.tile.trapVec)) ∧
  (∀ (s : State) (d a b : BitVec 6) (v : Nat), a ≠ 48#6 → s.tile.dispute = some { unit := 1, value := v } → Ready [.x a, .x b] [.x d] s →
    exec (.mul d a b) s = .next (finished s 1 (given (taken (taken s a) b) d (BitVec.ofNat 64 v)))) ∧
  PerformsHeld .placeWindowAccess LongOp.isAccess ∧ PerformsHeld .barrierArrival LongOp.isArrival ∧ PerformsHeld .redfForward LongOp.isForward ∧
  PerformsHeld .atomicApply (fun o => !o.isAccess && !o.isArrival && !o.isForward)

/-- A step that performs an access of the current tile (R143, R369): while the access stands in a network interface the step does nothing, and when the
access comes to the head there it is performed as if nothing else were held. -/
def Sys2Proof.Machine.TakesTurn (i : Instr) : Prop :=
  (∀ s : State, ownTurn s i = none → deferred s i = true → exec i s = .next (stepped s s)) ∧
  (∀ (s u v : State) (h : Nat), ownTurn s i = some h → u = updTile s h (fun t => { t with ring := [] }) → deferred u i = false → exec i u = .next v →
    Reaches i s (fun t => t.mem = v.mem ∧ t.tile.streams = v.tile.streams ∧ t.tile.ports = v.tile.ports ∧ t.tile.sub = v.tile.sub ∧
      (getTile t h).ring = (getTile s h).ring.drop 1 ++ (getTile v h).ring))

/-- A step of a field's supervisor waits while the field's firmware is being updated (R392). -/
def Sys2Proof.Machine.WaitsForFirmware (i : Instr) : Prop :=
  ∀ s : State, (getField s (fieldOf s.tile.id)).updating ≠ none → exec i s = .next (stepped s (again s i))

/-- The elements of streams (R46, R61, R287), the sectors and additions of copies (R115, R117, R123 to R125), and the steps of the plane engine
(R298, R302, R307, R310). The lead spout cuts a copy into sectors, and the spout of a piece writes one sector in a step; accesses of one tile to one sector
keep their order (R98; log entry 72, the model's choice of what one sector is). An access that a network interface does not take waits there for its place
(R143, R369). The states of resumption and reports are DEDUCED, log entry 57, and what a refused access leaves DEDUCED, log entry 33. -/
def Obligations.StreamCopyEngineSteps : Prop :=
  (∀ (s u : State) (r : Nat) (b : Binding) (tg : Target), s.arg = [r] → s.tile.stream r = some b → b.out = false → b.pat.stage = false →
    s.tile.cutMarked = false → deferred s .streamElementFetch = false →
    b.refused = false → b.fetchPos.done = false → b.ahead.length < 64 → (∀ e ∈ b.ahead, e.fault = none) →
    behindElem s (elemAddr b.pat b.width b.fetchPos).1 s.tile.outSeq = false →
    walkStalls s s.tile.id (elemAddr b.pat b.width b.fetchPos).1 .read b.mode = false →
    reachElem s r b .read (elemAddr b.pat b.width b.fetchPos).1 (max 1 (b.width / 8)) (elemIndex b.pat b.fetchPos) = .ok tg u →
    (readAt u tg (max 1 (b.width / 8))).2.tile.stream r = some b →
    Reaches .streamElementFetch s (fun t => t.tile.stream r = some { b with
      ahead := b.ahead ++ [{ raw := (readAt u tg (max 1 (b.width / 8))).1 / 2 ^ (elemAddr b.pat b.width b.fetchPos).2 % 2 ^ b.width, at_ := b.fetchPos }]
      fetchPos := stepPos b.pat b.fetchPos })) ∧
  (∀ (s : State) (r : Nat) (b : Binding) (f : MemFault), s.arg = [r] → s.tile.stream r = some b → b.out = false → b.pat.stage = false →
    s.tile.cutMarked = false → deferred s .streamElementFetch = false →
    b.refused = false → b.fetchPos.done = false → b.ahead.length < 64 → (∀ e ∈ b.ahead, e.fault = none) →
    behindElem s (elemAddr b.pat b.width b.fetchPos).1 s.tile.outSeq = false →
    walkStalls s s.tile.id (elemAddr b.pat b.width b.fetchPos).1 .read b.mode = false →
    reachElem s r b .read (elemAddr b.pat b.width b.fetchPos).1 (max 1 (b.width / 8)) (elemIndex b.pat b.fetchPos) = .fault f →
    Reaches .streamElementFetch s (fun t => t.tile.stream r = some { b with ahead := b.ahead ++ [{ at_ := b.fetchPos, fault := some f }] } ∧
      t.mem = (elemFaultState s b .read (elemAddr b.pat b.width b.fetchPos).1 (max 1 (b.width / 8))).mem ∧ t.tile.x = s.tile.x)) ∧
  (∀ (s u : State) (r : Nat) (b : Binding) (e : OutElem) (rest : List OutElem) (tg : Target) (pa : Nat), s.arg = [r] → s.tile.stream r = some b →
    deferred s .streamElementPerform = false → b.out = true → b.fault = none → b.refused = false → b.held = e :: rest → behindElem s e.va e.seq = false →
    walkStalls s s.tile.id e.va .write b.mode = false →
    reachElem s r b .write e.va (max 1 (e.width / 8)) e.idx = .ok tg u → targetKey tg = some pa → Inv u → u.tile.stream r = some b →
    8 ≤ e.width → e.width % 8 = 0 → Reaches .streamElementPerform s (fun t =>
      readNum t pa (e.width / 8) = e.raw % 2 ^ e.width ∧ (∀ k, k < pa ∨ pa + e.width / 8 ≤ k → readByte t k = readByte u k))) ∧
  (∀ (s : State) (r : Nat) (b : Binding) (e : OutElem) (rest : List OutElem) (f : MemFault), s.arg = [r] → s.tile.stream r = some b →
    deferred s .streamElementPerform = false → b.out = true → b.fault = none → b.refused = false → b.held = e :: rest → behindElem s e.va e.seq = false →
    walkStalls s s.tile.id e.va .write b.mode = false →
    reachElem s r b .write e.va (max 1 (e.width / 8)) e.idx = .fault f →
    Reaches .streamElementPerform s (fun t => t.tile.stream r = some { b with fault := some f } ∧
      t.mem = (elemFaultState s b .write e.va (max 1 (e.width / 8))).mem)) ∧
  (∀ (s : State) (r : Nat) (b : Binding) (h : Nat), s.arg = [r] → s.tile.stream r = some b → s.tile.cutMarked = false → b.out = false →
    b.pat.stage = false → deferred s .streamElementFetch = false → b.refused = false → b.fetchPos.done = false → b.ahead.length < 64 →
    (∀ e ∈ b.ahead, e.fault = none) → behindElem s (elemAddr b.pat b.width b.fetchPos).1 s.tile.outSeq = false →
    walkStalls s s.tile.id (elemAddr b.pat b.width b.fetchPos).1 .read b.mode = false →
    reachElem s r b .read (elemAddr b.pat b.width b.fetchPos).1 (max 1 (b.width / 8)) (elemIndex b.pat b.fetchPos) = .held h →
    Reaches .streamElementFetch s (fun t => (getTile t h).ring = (getTile s h).ring ++ [.access s.tile.id s.tile.launch .streamElementFetch [r]] ∧
      t.tile.streams = s.tile.streams ∧ t.mem = s.mem)) ∧
  TakesTurn .streamElementFetch ∧ TakesTurn .streamElementPerform ∧ TakesTurn .stagingElement ∧ TakesTurn .drainWritePerform ∧
  (∀ (s : State) (r : Nat) (b : Binding), s.arg = [r] → s.tile.stream r = some b → b.refused = true →
    Reaches .streamBankRetry s (fun t => t.tile.stream r = some { b with refused := false } ∧ t.mem = s.mem)) ∧
  WaitsForFirmware .streamResume ∧ WaitsForFirmware .copyPieceResume ∧ WaitsForFirmware .matrixFaultResume ∧
  (∀ (s : State) (r : Nat) (b : Binding), s.arg = [r] → (getField s (fieldOf s.tile.id)).updating = none → s.tile.stream r = some b →
    Reaches .streamResume s (fun t => t.mem = s.mem ∧
    ∃ c, t.tile.stream r = some c ∧ c.fault = none ∧ (∀ e ∈ c.ahead, e.fault = none ∧ e ∈ b.ahead) ∧ c.pos = b.pos ∧ c.held = b.held ∧
      ∀ e, b.ahead.find? (fun x => x.fault.isSome) = some e → c.fetchPos = e.at_)) ∧
  (∀ (s u : State) (id : Nat) (c : CopySlot) (l : CopyLead) (hs : List Nat) (src : Word), s.arg = [id] → smFind s.tile.copies id = some c →
    c.arrived = true → c.lead = some l → l.fault = none → field (c.desc.getD 0 0) 1 0 < 2 → (∀ p ∈ c.pieces, p.spout < 64 ∨ p.closed = true) →
    src = c.desc.getD 1 0 + (if field (c.desc.getD 0 0) 1 0 = 0 then 0 else BitVec.ofNat 64 l.row * c.desc.getD 5 0) + BitVec.ofNat 64 l.col →
    imagedScratch s id src = false → walkStalls s s.tile.id src .read c.mode = false →
    copyHomes s s.tile.id c.mode (((c.pieces.find? (fun p => !p.closed)).map (fun p => p.idx + p.queue.length)).getD 0) src (sectorDst c.desc l.row l.col).2 =
      (.ok hs, u) →
    exec .spoutSector s = .next (stepped s (cutSector u id c l src hs))) ∧
  (∀ (s w u v : State) (id n : Nat) (c : CopySlot) (p : CopyPiece) (q : CopySector) (rest : List CopySector) (hs bytes : List Nat) (tgs : List Target),
    s.arg = [id, n] → smFind s.tile.copies id = some c → c.arrived = true → c.pieces.find? (fun p => p.num == n) = some p → p.uncounted < 256 →
    p.queue = q :: rest → p.fault = none → p.blocked = true ∨ spoutTurn s p.spout s.tile.id = true → sectorWaits s id c q = false →
    walkStalls s s.tile.id q.dst .write c.mode = false → (q.homes ≠ [] → hs = q.homes ∧ w = s) →
    (q.homes = [] → walkStalls s s.tile.id q.src .read c.mode = false ∧ copyHomes s s.tile.id c.mode p.idx q.src q.n = (.ok hs, w)) →
    homesHeld s s.tile.id p.spout hs = false → readHomes w hs = some (bytes, u) → copyDest u s.tile.id c.mode p.idx q.dst q.n = (.ok tgs, v) →
    (∀ tg ∈ tgs, spoutHeld s s.tile.id p.spout ((targetKey tg).getD 0) = false) → customBad v c tgs = false →
    exec .spoutSector s = .next (stepped s (writeSector v id p tgs bytes))) ∧
  (∀ (s : State) (id : Nat) (p : CopyPiece) (bytes : List Nat) (pa : Nat), Inv s → (∀ x ∈ bytes, x < 256) → bytes ≠ [] →
    let t := writeSector s id p ((List.range bytes.length).map (fun i => .mem (pa + i))) bytes
    (∀ i, i < bytes.length → (readByte t (pa + i)).toNat = bytes.getD i 0) ∧ ∀ a, a < pa ∨ pa + bytes.length ≤ a → readByte t a = readByte s a) ∧
  (∀ (s : State) (id n piece : Nat) (c : CopySlot) (rest : List (Nat × Nat)), s.arg = [id] → smFind s.tile.copies id = some c →
    c.owed = (n, piece) :: rest → c.counterFault = false →
    (c.desc.getD 3 0 = 0 → Reaches .copyCounterAddition s (fun t => t.mem = s.mem ∧ (smFind t.tile.copies id = none ∨
      smFind t.tile.copies id = some { c with owed := rest }))) ∧
    (c.desc.getD 3 0 ≠ 0 → imagedScratch s id (c.desc.getD 3 0) = false →
      let p := performNow s s.tile.id c.mode (.red .add (c.desc.getD 3 0) (BitVec.ofNat 64 n))
      p.res = .ack → smFind p.st.tile.copies id = some c → Reaches .copyCounterAddition s (fun t => t.mem = p.st.mem ∧
        (smFind t.tile.copies id = none ∨ smFind t.tile.copies id = some { c with owed := rest })))) ∧
  (∀ (s : State) (id n piece : Nat) (c : CopySlot) (rest : List (Nat × Nat)), s.arg = [id] → smFind s.tile.copies id = some c →
    c.owed = (n, piece) :: rest → c.counterFault = false → c.desc.getD 3 0 ≠ 0 → imagedScratch s id (c.desc.getD 3 0) = true →
    (id < 32 ∨ copyImage s id ≠ none) → exec .copyCounterAddition s = .next (stepped s (again s .copyCounterAddition))) ∧
  (∀ (s : State) (id : Nat) (c : CopySlot), s.arg = [id] → (getField s (fieldOf s.tile.id)).updating = none → smFind s.tile.copies id = some c →
    Reaches .copyPieceResume s (fun t => t.mem = s.mem ∧
    ∃ d, smFind t.tile.copies id = some d ∧ d.counterFault = false ∧ d.owed = c.owed ∧ d.pieces.length = c.pieces.length ∧
      (∀ p ∈ d.pieces, p.fault = none) ∧ ∀ l, d.lead = some l → l.fault = none)) ∧
  (∀ (s : State) (cl i : Nat), s.arg = [cl] → (∀ k, k < 8 → (getTile s (memberTile cl k)).sub.started = false) → arbiterPick s cl = some i →
    Reaches .engineCommandStart s (fun t => (getTile t (memberTile cl i)).sub.started = true ∧ (getCluster t cl).turn = i ∧ t.mem = s.mem)) ∧
  (∀ (s : State) (cl i : Nat), arbiterPick s cl = some i → (getTile s (memberTile cl i)).sub.ready = true ∧
    (getTile s (memberTile cl i)).cutMarked = false) ∧
  (∀ (s u : State) (r raw : Nat) (conv : Word × Option Word × Bool) (form : PlaneForm) (before : List MCmd) (b : Binding) (tg : Target) (va : Word)
      (v : Word × Flags) (e : PlaneElem × Flags), s.tile.sub.held = none → s.tile.cutMarked = false →
    deferred s .stagingElement = false → s.tile.sub.nextElem = some (r, conv, form, before) → s.tile.stream r = some b → va = (elemAddr b.pat b.width b.pos).1 →
    behindElem s va s.tile.outSeq = false → behindDrain s before va = false → walkStalls s s.tile.id va .read b.mode = false →
    reachElem s r b .read va (max 1 (b.width / 8)) (elemIndex b.pat b.pos) = .ok tg u →
    raw = (readAt u tg (max 1 (b.width / 8))).1 / 2 ^ (elemAddr b.pat b.width b.pos).2 % 2 ^ b.width →
    v = readElem conv.1 conv.2.1 conv.2.2 raw → e = stageElem form ((intFmt conv.1).map (·.2)) v.1 →
    (readAt u tg (max 1 (b.width / 8))).2.tile.sub = s.tile.sub → Reaches .stagingElement s (fun t =>
      t.tile.sub.staged = s.tile.sub.staged ++ [{ elem := e.1, flags := v.2 ||| e.2, p := form.p }] ∧ t.tile.sub.queue = s.tile.sub.queue)) ∧
  (∀ (s u : State) (d : DrainWord) (rest : List DrainWord) (tg : Target) (pa : Nat), s.tile.sub.drains = d :: rest → s.tile.sub.held = none →
    deferred s .drainWritePerform = false → windowClosed s s.tile.id (.store 8 d.va d.w) = false → walkStalls s s.tile.id d.va .write d.mode = false →
    resolve s s.tile.id d.mode { kind := .write, noDevice := true } d.va 8 = .ok (tg, u) → targetKey tg = some pa → Inv u →
    u.tile.sub = s.tile.sub → blockOf u s.tile.id d.va tg false = .free → Reaches .drainWritePerform s (fun t =>
      BitVec.ofNat 64 (readNum t pa 8) = d.w ∧ t.tile.sub = s.tile.sub.dropDrain ∧ ∀ a, a < pa ∨ pa + 8 ≤ a → readByte t a = readByte u a)) ∧
  (∀ (s : State) (d : DrainWord) (rest : List DrainWord) (e : Bool × XErr), s.tile.sub.drains = d :: rest → s.tile.sub.held = none →
    deferred s .drainWritePerform = false → windowClosed s s.tile.id (.store 8 d.va d.w) = false → walkStalls s s.tile.id d.va .write d.mode = false →
    resolve s s.tile.id d.mode { kind := .write, noDevice := true } d.va 8 = .error e → Reaches .drainWritePerform s (fun t =>
      t.tile.sub.held = some { accessFault .write d.va e with loads := true, va := d.va } ∧ t.tile.sub.drains = s.tile.sub.drains ∧
      (s.tile.run = .exited → (d.va, (accessFault .write d.va e).info) ∈ (getField t (fieldOf s.tile.id)).supQ))) ∧
  (∀ (u : SubTile) (d : DrainWord) (rest : List DrainWord), u.drains = d :: rest → u.dropDrain.drains = rest ∧
    ((∃ e ∈ rest, e.cmd = d.cmd) → u.dropDrain.queue = u.queue) ∧ ((∀ e ∈ rest, e.cmd ≠ d.cmd) → u.dropDrain.queue = u.queue.drop 1)) ∧
  (∀ s : State, s.tile.sub.held.isSome = true → (getField s (fieldOf s.tile.id)).updating = none → Reaches .matrixFaultResume s (fun t => t.tile.sub.held = none ∧
    t.tile.sub.queue = s.tile.sub.queue ∧ t.tile.sub.drains = s.tile.sub.drains ∧ t.tile.sub.staged = s.tile.sub.staged ∧ t.mem = s.mem))

/- Steps of the networks, of the cisterns and of their ports -/

/-- Messages and tokens on their way: arrival and injection (R144, R325, R381), core outputs (R314), records (R319), weirs and spill rings
(R18, R88, R89, R384), killed tiles and failed links (R389, R399). A message for a tile
that a cut has stopped, or whose inbox has no room, is held by its network interface (R143, R369); one whose fixed route has a closed edge waits
(R14, R380; log entry 71). A supervisor core sends where a dynamic window or its own partition lets it (R379; DESIGN CHOICE, log entry 87). What the switch
leaves free is DEDUCED, log entry 42, and what a failed link shows DEDUCED, log entry 43. -/
def Obligations.NetworkSteps : Prop :=
  (∀ (s : State) (a b : List OutMsg) (m : OutMsg) (ch : Nat), s.net = a ++ m :: b → (∀ x ∈ a ++ b, x.tile ≠ s.tile.id) → m.tile = s.tile.id →
    messageEdge s m = none → s.tile.ring = [] → ch = field (m.words.headD 0) 5 0 →
    (s.tile.cutMarked = true → Reaches .messageArrival s (fun t => t.net = a ++ b ∧ t.tile = { s.tile with ring := [.msg m] })) ∧
    (s.tile.cutMarked = false → stale (smGet 0 (getField s (fieldOf s.tile.id)).incTable m.field) (field (m.words.headD 0) 63 48) = true →
      Reaches .messageArrival s (fun t => t.net = a ++ b ∧ t.tile = s.tile ∧
        (getField t (fieldOf s.tile.id)).incDrop = (getField s (fieldOf s.tile.id)).incDrop + 1)) ∧
    (s.tile.cutMarked = false → stale (smGet 0 (getField s (fieldOf s.tile.id)).incTable m.field) (field (m.words.headD 0) 63 48) = false →
      s.tile.run = .killed → Reaches .messageArrival s (fun t => t.net = a ++ b ∧ t.tile = s.tile ∧
        (getField t (fieldOf s.tile.id)).sealDrop = (getField s (fieldOf s.tile.id)).sealDrop + 1)) ∧
    (stale (smGet 0 (getField s (fieldOf s.tile.id)).incTable m.field) (field (m.words.headD 0) 63 48) = false → s.tile.run ≠ .killed →
      s.tile.cutMarked = false →
      (s.tile.htValid ch = true ∨ s.tile.htPending ch = true → inboxRoom s.tile.inbox (ch == 0) (8 * m.words.length) = true →
        Reaches .messageArrival s (fun t => t.net = a ++ b ∧ t.tile = { s.tile with inbox := s.tile.inbox ++ [{ chan := ch, redir := false, words := m.words }] })) ∧
      (s.tile.htValid ch = false → s.tile.htPending ch = false → inboxRoom s.tile.inbox true (8 * m.words.length) = true →
        Reaches .messageArrival s (fun t => t.net = a ++ b ∧ t.tile = { s.tile with inbox := s.tile.inbox ++ [{ chan := 0, redir := true, words := m.words }] })) ∧
      (s.tile.htValid ch = true ∨ s.tile.htPending ch = true → inboxRoom s.tile.inbox (ch == 0) (8 * m.words.length) = false →
        Reaches .messageArrival s (fun t => t.net = a ++ b ∧ t.tile = { s.tile with ring := [.msg m] })))) ∧
  (∀ (s : State) (a b : List OutMsg) (m : OutMsg) (f : Nat), s.net = a ++ m :: b → (∀ x ∈ a ++ b, x.tile ≠ s.tile.id) → m.tile = s.tile.id →
    messageEdge s m = some f → s.tile.ring = [] → Reaches .messageArrival s (fun t => t.net = s.net ∧ t.tile = s.tile ∧ t.mem = s.mem)) ∧
  (∀ (s : State) (m : OutMsg) (h : Word) (p : List Word) (rest : List OutMsg), s.arg = [] → s.tile.sendQ = m :: rest → m.words = h :: p → s.tile.longBuf = [] →
    (rankSeen s s.tile.id m.part m.dest).transit = false → Reaches .msgInject s (fun t => t.tile.sendQ = rest ∧ t.tile.x = s.tile.x ∧
      t.tile.inbox = s.tile.inbox ∧ t.mem = s.mem ∧
      t.net = s.net ++ [{ m with
        tile := (rankSeen s s.tile.id m.part m.dest).tile
        mask := routeMask s m.src
        words := putBits h 48 16 (getField s (fieldOf s.tile.id)).inc :: p }])) ∧
  (∀ (s : State) (f u ch : Nat) (ws : List Nat) (m : OutMsg), s.arg = f :: u :: ch :: ws → ch < 64 → ws.length < 64 → fieldPresent s f = true →
    fieldPresent s (fieldOf u) = true → m.tile = u → m.field = f → m.src = u → m.dest = 0 → m.part = 0 → m.sup = true →
    m.words = (at_ 48 (getField s f).inc ||| at_ 32 0xFFFF ||| at_ 16 (ws.length + 1) ||| at_ 0 ch) :: ws.map (BitVec.ofNat 64) →
    (supOpen s m = true → Reaches .msgInject s (fun t => t.net = s.net ++ [{ m with mask := routeMask s u }] ∧ t.tile = s.tile ∧ t.mem = s.mem)) ∧
    (supOpen s m = false → exec .msgInject s = .next (stepped s s))) ∧
  (∀ (s : State) (m : OutMsg), supOpen s m = true ↔ (getField s (fieldOf m.tile)).resetState = 0 ∧ (m.field = fieldOf m.tile ∨
    (getField s m.field).resetState = 0 ∧ ((∃ p, partOfField s m.field = some p ∧ partOfField s (fieldOf m.tile) = some p) ∨
      ∃ e ∈ s.windows, field e.2 16 16 = 1 ∧ field e.2 17 17 = 1 ∧ field e.2 5 0 = m.field ∧ field e.2 13 8 = fieldOf m.tile ∧
        field e.2 29 24 ≤ field (m.words.headD 0) 5 0 ∧ field (m.words.headD 0) 5 0 ≤ field e.2 37 32))) ∧
  (∀ (s : State) (p u q : Nat) (k : Token) (r : List Token), s.arg = [p] → p < 8 → vget s.tile.coreOut p [] = k :: r → farInput s.tile.id p = some (u, q) →
    crossesField s.tile.id (p % 4) = false → sealed s u = false → s.deadLinks.contains (s.tile.id * 8 + p) = false →
    (s.tile.run ≠ .killed → s.tile.cutMarked = false → s.tile.sw.leavesFree p = true → linkRoom s s.tile.id p = true → Reaches .coreOutputDepart s (fun t =>
      vget t.tile.coreOut p [] = r ∧ vget (getTile t u).swIn q [] = vget (getTile s u).swIn q [] ++ [k] ∧ t.mem = s.mem)) ∧
    (s.tile.run = .killed ∨ s.tile.cutMarked = true ∨ s.tile.sw.leavesFree p = false ∨ linkRoom s s.tile.id p = false → Reaches .coreOutputDepart s (fun t => t.tile = s.tile ∧ t.others = s.others))) ∧
  (∀ (s : State) (p : Nat), s.arg = [p] → p < 8 → Reaches .recordClose s (fun t =>
    t.tile.lock p = (if (s.tile.lock p).testBit 15 then s.tile.lock p / 2 ^ 13 % 2 * 2 ^ 13 else s.tile.lock p) ∧
    ∀ q, q < 8 → q ≠ p → t.tile.lock q = s.tile.lock q)) ∧
  (∀ (s : State) (p : Nat) (k : Token) (r : List Token), s.arg = [p] → p < 8 → (s.tile.weir p).inflight = k :: r → (s.tile.weir p).fifo = [] →
    (s.tile.weir p).ring = [] → (s.tile.weir p).ringCap = 0 → s.tile.run ≠ .killed → (vget s.tile.swIn p []).length < 4 → k.isCut = false →
    (∀ f, (neighbour s.tile.id (p % 4) = none → f = fieldOf s.tile.id) → (∀ u, neighbour s.tile.id (p % 4) = some u → f = fieldOf u) →
      (stale (smGet 0 (getField s (fieldOf s.tile.id)).incTable f) k.inc = true → Reaches .weirIngress s (fun t => (t.tile.weir p).inflight = r ∧
        t.tile.swIn = s.tile.swIn ∧ (getField t (fieldOf s.tile.id)).incDrop = (getField s (fieldOf s.tile.id)).incDrop + 1)) ∧
      (stale (smGet 0 (getField s (fieldOf s.tile.id)).incTable f) k.inc = false → residueOf k.payload = k.res → Reaches .weirIngress s (fun t =>
        (t.tile.weir p).inflight = r ∧ (t.tile.weir p).fifo = [] ∧ vget t.tile.swIn p [] = vget s.tile.swIn p [] ++ [{ k with inc := 0 }])) ∧
      (stale (smGet 0 (getField s (fieldOf s.tile.id)).incTable f) k.inc = false → residueOf k.payload ≠ k.res → Reaches .weirIngress s (fun t =>
        (∃ e : Token, vget t.tile.swIn p [] = vget s.tile.swIn p [] ++ [e] ∧ e.kind = .err ∧ e.route = s.tile.routeId) ∧
        (getField t (fieldOf s.tile.id)).routeErr = (getField s (fieldOf s.tile.id)).routeErr + 1)))) ∧
  (∀ (s : State) (p : Nat) (k : Token) (r : List Token), s.arg = [p] → (s.tile.weir p).ring = k :: r → k.isCut = false →
    (s.tile.weir p).fifo.length < 64 →
    Reaches .spillRingDrain s (fun t => (t.tile.weir p).fifo = (s.tile.weir p).fifo ++ [k] ∧ (t.tile.weir p).ring = r ∧
      (t.tile.weir p).inflight = (s.tile.weir p).inflight)) ∧
  (∀ (s : State) (p u q : Nat), s.arg = [p] → p < 8 → s.tile.run = .killed → linkRoom s s.tile.id p = true → farInput s.tile.id p = some (u, q) →
    crossesField s.tile.id (p % 4) = false → sealed s u = false → Reaches .killedTileErrOutput s (fun t =>
      vget (getTile t u).swIn q [] = vget (getTile s u).swIn q [] ++ [errToken s.tile] ∧ (errToken s.tile).kind = .err)) ∧
  (∀ (s : State) (p : Nat), s.arg = [p] → Reaches .staticLinkFailure s (fun t => t.tile = s.tile ∧ t.mem = s.mem ∧
    ∀ k, linkSend t s.tile.id p k = linkSend t s.tile.id p (errToken s.tile)))

/-- The cisterns and their stream ports: the slice and its fills (R80, R81, R84), patrol scrub (R83), the recall of a line (R97, R106), source
and sink ports (R86, R87), the sends of a conduit's edge tiles (R403, R406). No memory is outside the regions of R76.
A source port reads its element ahead of the weir, with the markers that follow it. A request stands at the edge of a field in reset (R380, R438). The steps of
the ports are DEDUCED, log entry 32, those of the cisterns DESIGN CHOICE, log entry 66, and the EMASK bit of an unused dimension DESIGN CHOICE, log entry 78. -/
def Obligations.CisternPortSteps : Prop :=
  (∀ (s : State) (a : Nat), s.arg = [a] → cisternOf s a = none →
    exec .cisternRequest s = .fault .noMemory ∧ exec .cisternFill s = .fault .noMemory ∧ exec .patrolScrub s = .fault .noMemory) ∧
  (∀ (s : State) (l : Nat), s.arg = [l] → cisternOf s (l * 64) = none → exec .lineRecall s = .fault .noMemory) ∧
  (∀ (s : State) (a c o : Nat), s.arg = [a] → cisternOf s a = some (c, o) →
    trafficHeld s (presentFor s s.tile.id) s.tile.id (edgeTile c s.tile.id) = false → Reaches .cisternRequest s (fun t =>
      t.mem = s.mem ∧ t.tile = s.tile ∧ (o / 64 ∈ (getCistern t c).lines.map (·.line) ∨ o / 64 ∈ (getCistern t c).fills))) ∧
  (∀ (s : State) (a c o : Nat), s.arg = [a] → cisternOf s a = some (c, o) →
    trafficHeld s (presentFor s s.tile.id) s.tile.id (edgeTile c s.tile.id) = true →
    exec .cisternRequest s = .next (stepped s (again s .cisternRequest))) ∧
  (∀ (s : State) (a c o : Nat), s.arg = [a] → cisternOf s a = some (c, o) → o / 64 ∈ (getCistern s c).fills → Reaches .cisternFill s (fun t =>
    t.mem = s.mem ∧ t.tile = s.tile ∧ o / 64 ∈ (getCistern t c).lines.map (·.line) ∧ o / 64 ∉ (getCistern t c).fills)) ∧
  (∀ (s : State) (a c o : Nat), cisternOf s a = some (c, o) →
    (s.arg = [a, 1] → Reaches .patrolScrub s (fun t => (getCistern t c).corr = (getCistern s c).corr + 1 ∧ t.mem = s.mem ∧ t.poison = s.poison)) ∧
    (s.arg = [a, 2] → Reaches .patrolScrub s (fun t => poisoned t a = true ∧ t.mem = s.mem))) ∧
  (∀ (s : State) (l c o : Nat), s.arg = [l] → cisternOf s (l * 64) = some (c, o) → Reaches .lineRecall s (fun t => t.mem = s.mem ∧
    (∀ u, l ∉ (getTile t u).dcache.map (·.line)) ∧ (∀ k, l ∉ (getCluster t k).poolLines.map (·.line)) ∧
    (∀ u, l ∉ (getTile t u).ownerLines) ∧ t.tile.x = s.tile.x)) ∧
  (∀ (s : State) (p : Nat) (k : Token) (rest : List Token), s.arg = [p] → deferred s .streamPortSourceElement = false → s.tile.sourceActive p = true →
    (s.tile.rimOut p).cut = false → (s.tile.rimOut p).ahead = k :: rest → RimPort.reads { s.tile.rimOut p with ahead := rest } = false → (s.tile.weir p).room = true → Reaches .streamPortSourceElement s (fun t =>
      (t.tile.weir p).inflight = (s.tile.weir p).inflight ++ [{ k with inc := (getField s (fieldOf s.tile.id)).inc }] ∧
      (t.tile.rimOut p).ahead = rest ∧ (t.tile.rimOut p).pos = (s.tile.rimOut p).pos ∧
      (t.tile.rimOut p).idle = (rest.isEmpty && (s.tile.rimOut p).pos.done) ∧ t.mem = s.mem)) ∧
  (∀ (s u : State) (p w : Nat) (tg : Target) (d : List Word) (n : Nat × State) (e : Word × Flags), s.arg = [p] → s.tile.sourceActive p = true →
    deferred s .streamPortSourceElement = false →
    (s.tile.rimOut p).cut = false → (s.tile.rimOut p).fault = none → (s.tile.rimOut p).ahead = [] → (s.tile.rimOut p).pos.done = false →
    d = (s.tile.rimOut p).active → w = portWidth d → reachPort s s.tile.id p d .read (s.tile.rimOut p).pos = .ok tg u → n = readAt u tg (max 1 (w / 8)) →
    n.2.tile.ports = s.tile.ports → n.2.tile.weirs = s.tile.weirs → n.2.tile.id = s.tile.id → e = readElem (portFmt d) (some (portScale d)) (txrOf s.tile) (n.1 / 2 ^ (elemAddr (portPattern d) w (s.tile.rimOut p).pos).2 % 2 ^ w) →
    Reaches .streamPortSourceElement s (fun t =>
      let route := (portTag d).toNat % 4096
      (t.tile.rimOut p).ahead = { payload := e.1, res := residueOf e.1, route := route } ::
        (markersAfter d (portPattern d) (s.tile.rimOut p).pos).map (fun l => { kind := .marker, level := l, route := route }) ∧
      (t.tile.rimOut p).pos = stepPos (portPattern d) (s.tile.rimOut p).pos ∧ (t.tile.weir p).inflight = (s.tile.weir p).inflight ∧
      t.mem = n.2.mem)) ∧
  (∀ (s : State) (p : Nat) (f : MemFault), s.arg = [p] → s.tile.sourceActive p = true → (s.tile.rimOut p).cut = false → (s.tile.rimOut p).fault = none →
    deferred s .streamPortSourceElement = false →
    (s.tile.rimOut p).ahead = [] → (s.tile.rimOut p).pos.done = false → reachPort s s.tile.id p (s.tile.rimOut p).active .read (s.tile.rimOut p).pos = .fault f →
    Reaches .streamPortSourceElement s (fun t => (t.tile.rimOut p).fault = some f ∧ (t.tile.rimOut p).pos = (s.tile.rimOut p).pos ∧
      (getField t (fieldOf s.tile.id)).supQ = (getField s (fieldOf s.tile.id)).supQ ++ [(f.va, f.info)] ∧
      t.mem = (portFaultState s s.tile.id (s.tile.rimOut p).active .read (s.tile.rimOut p).pos).mem)) ∧
  (∀ (s u : State) (p : Nat), s.arg = [p] → deferred s .streamPortSourceElement = false → s.tile.sourceActive p = true → (s.tile.rimOut p).cut = false →
    (s.tile.rimOut p).fault = none → (s.tile.rimOut p).ahead = [] → (s.tile.rimOut p).pos.done = false →
    reachPort s s.tile.id p (s.tile.rimOut p).active .read (s.tile.rimOut p).pos = .gone u → u.tile.ports = s.tile.ports → u.tile.id = s.tile.id →
    Reaches .streamPortSourceElement s (fun t => ∃ k r, (t.tile.rimOut p).ahead = k :: r ∧ k.kind = .err ∧
      (t.tile.rimOut p).pos = stepPos (portPattern (s.tile.rimOut p).active) (s.tile.rimOut p).pos ∧ t.mem = u.mem)) ∧
  (∀ (s : State) (p h : Nat) (k : Token) (rest : List Token), s.arg = [p] → deferred s .streamPortSinkToken = false →
    (s.tile.rimOut p).toRim = k :: rest → (s.tile.rimOut p).idle = false → bitOf (imgD (s.tile.rimOut p).active 0) 1 = true → (s.tile.rimOut p).cut = false →
    (s.tile.rimOut p).fault = none → residueOf k.payload = k.res → k.kind = .data → (s.tile.rimOut p).pos.done = false →
    reachPort s s.tile.id p (s.tile.rimOut p).active .write (s.tile.rimOut p).pos = .held h →
    Reaches .streamPortSinkToken s (fun t => (getTile t h).ring = (getTile s h).ring ++ [.access s.tile.id s.tile.launch .streamPortSinkToken [p]] ∧
      t.tile.ports = s.tile.ports ∧ t.mem = s.mem)) ∧
  TakesTurn .streamPortSinkToken ∧ WaitsForFirmware .streamPortResume ∧
  (∀ (s u : State) (p w pa : Nat) (tg : Target) (d : List Word) (k : Token) (rest : List Token), s.arg = [p] → d = (s.tile.rimOut p).active →
    deferred s .streamPortSinkToken = false →
    w = portWidth d → (s.tile.rimOut p).toRim = k :: rest → (s.tile.rimOut p).idle = false → bitOf (imgD d 0) 1 = true → (s.tile.rimOut p).cut = false →
    (s.tile.rimOut p).fault = none → residueOf k.payload = k.res → k.kind = .data → (s.tile.rimOut p).pos.done = false →
    reachPort s s.tile.id p d .write (s.tile.rimOut p).pos = .ok tg u → u.tile.ports = s.tile.ports → u.tile.id = s.tile.id → targetKey tg = some pa → Inv u → 8 ≤ w → w % 8 = 0 →
    Reaches .streamPortSinkToken s (fun t => readNum t pa (w / 8) = (writeElem (portFmt d) (some (portScale d)) (txrOf s.tile) k.payload).1 % 2 ^ w ∧
      (∀ a, a < pa ∨ pa + w / 8 ≤ a → readByte t a = readByte u a) ∧ (t.tile.rimOut p).toRim = rest ∧
      (t.tile.rimOut p).pos = stepPos (portPattern d) (s.tile.rimOut p).pos)) ∧
  (∀ (s : State) (p : Nat) (k : Token) (rest : List Token), s.arg = [p] → deferred s .streamPortSinkToken = false →
    (s.tile.rimOut p).toRim = k :: rest → (s.tile.rimOut p).idle = true →
    k.isCut = false → Reaches .streamPortSinkToken s (fun t => (t.tile.rimOut p).toRim = rest ∧ t.mem = s.mem ∧
      let i := 32 * (p / 4) + edgePos s.tile.id (p % 4)
      smGet 0 (getField t (fieldOf s.tile.id)).portOvr i = smGet 0 (getField s (fieldOf s.tile.id)).portOvr i + 1)) ∧
  (∀ (s : State) (p : Nat) (f : MemFault), s.arg = [p] → (s.tile.rimOut p).fault = some f → (getField s (fieldOf s.tile.id)).updating = none → Reaches .streamPortResume s (fun t =>
    t.tile.rimOut p = { s.tile.rimOut p with fault := none, passed := false } ∧ t.mem = s.mem ∧ t.tile.x = s.tile.x)) ∧
  (∀ (s : State) (p c : Nat) (k : Token) (rest : List Token), s.arg = [p] → conduitFacing s.tile.id (p % 4) = some c → (s.tile.rimOut p).toRim = k :: rest →
    residueOf k.payload = k.res → chunkTokens (smGet [] (getConduit s c).sendQ k.dest) < 65536 → Reaches .rimOutputToken s (fun t =>
      (t.tile.rimOut p).toRim = rest ∧ t.mem = s.mem ∧ smGet [] (getConduit t c).sendQ k.dest =
        enqueueSend (smGet [] (getConduit s c).sendQ k.dest) (s.fleetId % 16) (conduitPort s.tile.id p) k)) ∧
  (∀ (s : State) (p c : Nat) (k : Token) (rest : List Token), s.arg = [p] → conduitFacing s.tile.id (p % 4) = some c → (s.tile.rimOut p).toRim = k :: rest →
    65536 ≤ chunkTokens (smGet [] (getConduit s c).sendQ k.dest) → Reaches .rimOutputToken s (fun t => (t.tile.rimOut p).toRim = k :: rest ∧
      (getConduit t c).sendQ = (getConduit s c).sendQ))

/- Steps of the launch sequencers, of a task's end, of cuts, fields and the loader -/

/-- Records and placement: a slot enters its queue (R152, R154), a dependence is read (R157), a head ages (R158), a selection takes the head that has
aged longest, or one of the highest effective priority (R158), a hold places a head (R159, R163), the swaps start its threads (R163). Which scope and tag a
task takes is DESIGN CHOICE, log entry 17; the record whose SCOPE cannot be read is checked later (DEDUCED, log entry 18). The image of a field (DESIGN CHOICE,
log entry 28), the refused reads of a placement (DEDUCED, log entry 36), a STRAY at the swap (DEDUCED, log entry 38) and the passed-over origin (DESIGN CHOICE,
log entry 90) are the model's. -/
def Obligations.PlacementSteps : Prop :=
  (∀ (s : State) (f q k : Nat) (r : List Word), s.arg = [f, q] → k = smGet 0 (getField s f).windowNext q → fullSlot s f q = some r →
    let v := noteScope s f (recScope r)
    let record := fun (h : QRec) => (h.words, h.vf, h.slot, h.deps, h.late)
    let late := if recScope r ≠ 0 ∧ scopeState v f (recScope r) = none then some 0 else none
    (recordBad v f r = none → (queueOf s f q).length < 64 → Reaches .launchSlotEnter s (fun t =>
      (queueOf t f q).map record = (queueOf s f q).map record ++ [(r, field (readLqCtl s f q) 8 0, some k, [], late)] ∧ t.mem = v.mem ∧
      smGet 0 (getField t f).windowNext q = (k + 1) % 256 ∧ smFind (smGet [] (getField t f).windows q) k = none)) ∧
    (recordBad v f r = none → 64 ≤ (queueOf s f q).length → Reaches .launchSlotEnter s (fun t => t.fields = s.fields ∧ t.mem = s.mem)) ∧
    (∀ off, recordBad v f r = some off → Reaches .launchSlotEnter s (fun t => t.mem = (completeUnplaced v f r 3 off).mem ∧
      smGet 0 (getField t f).windowNext q = (k + 1) % 256 ∧ smFind (smGet [] (getField t f).windows q) k = none))) ∧
  (∀ (s u : State) (f q i : Nat) (h : QRec) (rest : List QRec) (w : Word), s.arg = [f, q, i] → queueOf s f q = h :: rest → i < recNdep h.words →
    i ∉ h.deps → partReadD s f (recD h.words (0x68 + 16 * i)) .user = .ok (w, u) →
    ((recD h.words (0x70 + 16 * i)).toNat ≤ w.toNat → Reaches .dependenceSatisfied s (fun t => t.mem = u.mem ∧
      ∃ a, queueOf t f q = a :: rest ∧ a.deps = insertNat i h.deps ∧ a.words = h.words ∧ a.aging = h.aging)) ∧
    (w.toNat < (recD h.words (0x70 + 16 * i)).toNat → Reaches .dependenceSatisfied s (fun t => t.mem = u.mem ∧ t.fields = u.fields))) ∧
  (∀ (s : State) (f q : Nat) (h : QRec) (rest : List QRec), s.arg = [f, q] → queueOf s f q = h :: rest →
    (headMet s f h = true → Reaches .headAging s (fun t => t.mem = s.mem ∧ ∃ a, queueOf t f q = a :: rest ∧ a.aging = h.aging + 1 ∧
      a.words = h.words ∧ a.deps = h.deps)) ∧
    (headMet s f h = false → exec .headAging s = .next (stepped s s))) ∧
  (∀ (s v : State) (f : Nat), s.arg = [f] → v = takeHolds (headReads (stampHeads (dropHeads s f) f) f) f →
    (∀ (u : State) (q : Nat) (h : QRec) (rest : List QRec) (pls : List (List Nat)), takesLaunches s f = true → select v f = (some q, u) →
      queueOf u f q = h :: rest → findPlace u f q h.words = some pls → Reaches .lsSelection s (fun t =>
        t.launches = (place u f q h pls).launches ∧ t.mem = (place u f q h pls).mem ∧ t.others = (place u f q h pls).others ∧
        t.fields = (place u f q h pls).fields)) ∧
    (takesLaunches s f = true → (select v f).1 = none → Reaches .lsSelection s (fun t =>
      t.launches = (select v f).2.launches ∧ t.mem = (select v f).2.mem ∧ t.fields = (select v f).2.fields)) ∧
    (takesLaunches s f = false → Reaches .lsSelection s (fun t => t.launches = s.launches ∧ t.mem = s.mem ∧ t.fields = s.fields))) ∧
  (∀ (v u : State) (f sc q : Nat) (h : QRec) (r : List QRec),
    let eligible := fun (x : Nat) (k : QRec) => headMet u f k = true ∧ k.late = none ∧ scopeLive u f (recScope k.words) = true ∧
      (findPlace u f x k.words).isSome = true
    headWaits v f = true → freeScope v ((partOfField v f).getD 64) f = (some sc, u) → eligible q h →
    ((getField u f).queues = [(q, h :: r)] → isAged h = true → select v f = (some q, u)) ∧
    (∀ (q' : Nat) (h' : QRec) (r' : List QRec), (getField u f).queues = [(q, h :: r), (q', h' :: r')] → eligible q' h' →
      (isAged h = true → isAged h' = true → h.agingStart.getD 0 ≤ h'.agingStart.getD 0 → select v f = (some q, u)) ∧
      (isAged h = true → isAged h' = true → h'.agingStart.getD 0 < h.agingStart.getD 0 → select v f = (some q', u)) ∧
      (isAged h = true → isAged h' = false → select v f = (some q, u)) ∧
      (isAged h = false → isAged h' = false → effPrio h' < effPrio h → (select v f).1 = some q) ∧
      (isAged h = false → isAged h' = false → effPrio h < effPrio h' → (select v f).1 = some q'))) ∧
  (∀ (s : State) (f q : Nat) (h : QRec) (r : List QRec) (ts : List Nat), s.arg = [f, q] → smFind (getField s f).holds q = some ts →
    queueOf s f q = h :: r →
    (takesLaunches s f = true → (∀ x ∈ ts, tileFree s x = true) → claimsFree s ((partOfField s f).getD 64) h.words ts = true → exec .holdGrant s = .next (stepped s
      (place s f q h ((fieldsFrom s ((partOfField s f).getD 64) f (launchFields s ((partOfField s f).getD 64) h.words)).map
        (fun g => ts.filter (fun x => fieldOf x == g)))))) ∧
    ((∃ x ∈ ts, tileFree s x = false) → Reaches .holdGrant s (fun t => t.fields = s.fields ∧ t.launches = s.launches))) ∧
  (∀ (s u : State) (f q : Nat) (h : QRec) (pls : List (List Nat)) (seats : List (Nat × Nat × Nat)) (imgs : List (Nat × List Word)) (scs : List Nat)
      (tags : List (BitVec 16)) (m : List Word × State), m = moduleRead s f (recModule h.words) → moduleState m.1 = 2 →
    seats = (pls.zipIdx).flatMap (fun e => (e.1.zipIdx).map (fun a => (e.2, a.2, a.1))) →
    loadImages s f h.words seats = .ok imgs →
    allocTasks ((partOfField s f).getD 64) f (recScope h.words) [] pls.length (popHead m.2 f q) = (some (scs, tags), u) →
    let t := place s f q h pls
    t.nextLaunch = u.nextLaunch + 1 ∧ ∃ l, smFind t.launches u.nextLaunch = some l ∧ l.words = h.words ∧ l.live = true ∧ l.placed = true ∧
      l.code = 0 ∧ l.scopes = scs ∧ l.tags = tags ∧ l.tiles = pls.flatten ∧ l.swapped = [] ∧ l.vf = h.vf) ∧
  (∀ (s u : State) (id : Nat), s.arg = [id] → (getLaunch s id).live = true → (getLaunch s id).placed = true →
    launchCancelled s (getLaunch s id) = false →
    let l := getLaunch s id
    let late := l.tiles.any (fun x => (getTile s x).launch == id && !l.swapped.contains x && !swapReady s id x)
    (swapTiles id (l.tiles.filter (swapReady s id)) s = .ok u → exec .placementSwap s = .next (stepped s (if late then again u .placementSwap else u))) ∧
    (∀ e, swapTiles id (l.tiles.filter (swapReady s id)) s = .error e → exec .placementSwap s = .next (stepped s (failSwap s id e)))) ∧
  (∀ (s u : State) (id : Nat), s.arg = [id] → (getLaunch s id).live = true → swapReady s id s.tile.id = true →
    launchCancelled s (getLaunch s id) = false → swapTile s id s.tile.id = .ok u → exec .followSwap s = .next (stepped s u)) ∧
  (∀ (s : State) (id t : Nat) (ws : List Word), (getTile s t).shadow = some ws → (getTile s t).inq ≠ 0 →
    (recFollow (getLaunch s id).words = true → swapTile s id t = .error { cause := .stray, loads := false }) ∧
    (recFollow (getLaunch s id).words = false → swapTile s id t = .ok (strayAt s id t (getTile s t) ws))) ∧
  (∀ (s : State) (id : Nat) (ws : List Word), let u := strayAt s id s.tile.id s.tile ws
    u.tile.shadow = s.tile.shadow ∧ u.tile.weirs = s.tile.weirs ∧ u.tile.swIn = s.tile.swIn ∧ u.launches = s.launches ∧
    field u.tile.trapCause 3 0 = 7) ∧
  (∀ (a : Tile) (l : Launch) (id : Nat) (ws : List Word), let t := startTile a l id ws
    (∀ i, i < 8 → t.xGet (1 + i) = recD l.words (0xC0 + 8 * i)) ∧ t.xGet 9 = BitVec.ofNat 64 a.launchIdx ∧
    t.xGet 30 = (if imgD ws 5 = 0 then localVa (imgSplit ws * 65536) else imgD ws 5) ∧
    (∀ n, n < 32 → 10 ≤ n → n ≠ 30 → t.xGet n = 0) ∧ t.pc = slotBase (recModule l.words) + BitVec.ofNat 64 (recOffset l.words) ∧
    t.run = .running ∧ t.mode = .user ∧ t.cfgTag = a.cfgTag ∧ t.scope = a.scope ∧ t.longBuf = [] ∧ (∀ n, n < 16 → t.vGet n = 0) ∧
    ∀ n, 1 ≤ n → n < 8 → t.mGet n = 0)

/-- A run of stores and loads of an image answers `a` and leaves the state `u`. -/
def Sys2Proof.Machine.Runs {α : Type} (m : Img α) (s : State) (a : α) (u : State) : Prop := m.run.run s = (Except.ok a, u)

/-- A run of stores and loads of an image ends at a fault, or with none at an uncorrectable error, in the state `u`. -/
def Sys2Proof.Machine.Fails {α : Type} (m : Img α) (s : State) (f : Option MemFault) (u : State) : Prop := m.run.run s = (Except.error f, u)

/-- The end of tasks: retirement (R149), completion (R62, R167), scopes (R339, R345), kills (R342 to R344, R389), cuts (R368 to R375), those
of a launch that a resize or a quarantine moves among them (R170, R388; log entries 23 and 30, the model's steps). A launch completes once the work that its
task left has ended (R345). A scope that has an unreadable child waits (DEDUCED, log entry 18), the privilege of the completion write is DEDUCED, log entry 36,
and what the manual leaves of images open is DESIGN CHOICE, log entry 25. -/
def Obligations.TaskEndSteps : Prop :=
  (∀ (s : State), mayRetire s.tile = true → s.tile.follow = none → Reaches .tileRetire s (fun t => t.tile.run = .retired ∧ t.tile.launch = 0 ∧
    t.tile.inbox = [] ∧ t.tile.discardCnt = s.tile.discardCnt + BitVec.ofNat 64 s.tile.inbox.length ∧ t.tile.streams = [] ∧ t.tile.touch = [] ∧
    (∀ b, b < 16 → vget t.tile.bankToken b 0 =
      (if vget s.tile.bankToken b 0 = s.tile.cfgTag then 0 else vget s.tile.bankToken b 0)) ∧ t.tile.x = s.tile.x ∧
    (∀ a, (∀ i r, i < 8 → (s.tile.weir i).ringAt = some r → a / 2 ^ 24 ≠ r / 2 ^ 24) → readByte t a = readByte s a))) ∧
  (∀ (s : State) (n : Nat), mayRetire s.tile = true → s.tile.follow = some n → Reaches .tileRetire s (fun t => t.tile.run = .retired ∧
    t.tile.launch = n ∧ t.tile.follow = none ∧
    (∀ a, (∀ i r, i < 8 → (s.tile.weir i).ringAt = some r → a / 2 ^ 24 ≠ r / 2 ^ 24) → readByte t a = readByte s a))) ∧
  (∀ (s : State), s.tile.run = .exited → mayRetire s.tile = false → Reaches .tileRetire s (fun t => t.tile = s.tile ∧ t.mem = s.mem)) ∧
  (∀ (s : State) (id : Nat), s.arg = [id] → (getLaunch s id).live = true → (getLaunch s id).placed = true → launchDone s id = true →
    let l := getLaunch s id
    let f := answerField s l.part l.field
    Reaches .launchComplete s (fun t => (getLaunch t id).live = false ∧
      ((∀ x ∈ l.tiles, (getTile s x).launch = id → ∀ i, i < 8 → ((getTile s x).weir i).ringAt = none) →
        t.mem = (asMember s l.part f (fun u => complete u f l.words l.code l.detail (l.scopes.headD 0) l.tiles.length
          (if l.code = 5 then l.faultVa else 0) (if l.code = 5 then l.faultInfo else 0))).mem))) ∧
  (∀ (s : State) (id : Nat), s.arg = [id] → (getLaunch s id).live = true → (getLaunch s id).placed = true → threadsDone s id = true →
    workLeft s id = true → Reaches .launchComplete s (fun t => t.launches = s.launches ∧ t.mem = s.mem)) ∧
  (∀ (s u v : State) (f code detail sc n : Nat) (r : List Word) (fva fi : Word), recD r 0x60 ≠ 0 → recD r 0x58 ≠ 0 →
    partWriteWords s f (recD r 0x60) .user [at_ 32 detail ||| at_ 16 sc ||| at_ 0 code, BitVec.ofNat 64 n, fva, fi] = .ok u →
    partIncrement u f (recD r 0x58) .user = .ok v → complete s f r code detail sc n fva fi = v) ∧
  (∀ (s u : State) (f : Nat) (va w x : Word), partHeld s f va = false →
    (partReadD s f va = .ok (w, u) → scopeGet s f va = (.ok w, u)) ∧ (partWriteD s f va x = .ok u → scopePut s f va x = (.ok (), u))) ∧
  (∀ (s u : State) (f sc k : Nat) (r : List Nat) (w : Word), childLeft f sc [] s = (false, s) ∧ (scopeGet s f (scopeVa s f k) = (.ok w, u) →
    childLeft f sc (k :: r) s = (if field w 15 0 = sc then (true, u) else childLeft f sc r u))) ∧
  (∀ (s u : State) (p sc f : Nat) (va : Word), s.arg = [p, sc] → f = (partFields s p).headD 0 → sc ∈ (getPart s p).scopes →
    (∀ e ∈ s.launches, e.2.live = true → e.2.part = p → sc ∉ e.2.scopes) → va = scopeVa u f sc →
    (childLeft f sc ((getPart s p).scopes.filter (· ≠ sc)) s = (true, u) → Reaches .scopeEnd s (fun t => t.parts = u.parts ∧ t.mem = u.mem)) ∧
    (∀ (v w x : State) (st : Word), childLeft f sc ((getPart s p).scopes.filter (· ≠ sc)) s = (false, u) → scopeGet u f va = (.ok st, v) →
      scopePut v f va (st &&& ~~~0x10000#64) = (.ok (), w) → scopePut w f (va + 8) (at_ 0 (field st 63 32)) = (.ok (), x) →
      Reaches .scopeEnd s (fun t => sc ∉ (getPart t p).scopes ∧ t.mem = x.mem)) ∧
    (∀ (v : State) (q : Option (Word × Word)), childLeft f sc ((getPart s p).scopes.filter (· ≠ sc)) s = (false, u) → scopeGet u f va = (.error q, v) →
      Reaches .scopeEnd s (fun t => t.parts = v.parts ∧ t.mem = v.mem))) ∧
  (∀ (s : State), s.tile.cancelled = true → s.tile.cutOf = none → s.tile.killPoint = true → s.tile.run ≠ .retired → s.tile.run ≠ .killed →
    s.tile.launch ≠ 0 →
    (s.tile.barRec = [] → Reaches .cancelKill s (fun t => t.tile.run = .exited ∧ t.tile.longBuf = [] ∧ t.tile.streams = [] ∧ t.tile.sendQ = [] ∧
      t.tile.intr = none ∧ t.tile.sw.st = .halted ∧ t.tile.inbox = [] ∧
      t.tile.discardCnt = s.tile.discardCnt + BitVec.ofNat 64 s.tile.inbox.length ∧ t.mem = s.mem)) ∧
    (∀ a ph, s.tile.barRec = [(a, ph)] → Reaches .cancelKill s (fun t =>
      t.mem = (perform s s.tile.id .supervisor (.cancelMark a ph)).st.mem))) ∧
  (∀ (s : State), s.tile.cancelled = true → s.tile.launch ≠ 0 → s.tile.run ≠ .retired → s.tile.run ≠ .killed → s.tile.killPoint = false →
    Reaches .cancelKill s (fun t => t.tile = s.tile ∧ t.mem = s.mem)) ∧
  (∀ (s : State), s.arg = [0] → s.tile.run ≠ .killed → s.tile.barRec = [] → Reaches .tileKill s (fun t => t.tile.run = .killed ∧ t.tile.longBuf = [] ∧
    t.tile.streams = [] ∧ t.tile.sw.st = .halted ∧ t.tile.inbox = [] ∧ t.mem = s.mem ∧ ∀ b, b < 16 → vget t.tile.bankToken b 0 =
      (if vget s.tile.bankToken b 0 = s.tile.cfgTag ∧ s.tile.cfgTag ≠ 0 then 0xFFFF else vget s.tile.bankToken b 0))) ∧
  (∀ (s : State), s.arg = [1] → s.tile.run = .killed → s.tile.launch ≠ 0 → (getLaunch s s.tile.launch).live = true → Reaches .tileKill s (fun t =>
    (getLaunch t s.tile.launch).code = (if (getLaunch s s.tile.launch).code = 0 then 6 else (getLaunch s s.tile.launch).code))) ∧
  (∀ (s : State), s.tile.cutOf.isSome = true → s.tile.cutMarked = false → s.tile.killPoint = true → s.tile.longBuf = [] → Reaches .cutStop s (fun t =>
    t.tile.cutMarked = true ∧ t.tile.x = s.tile.x ∧ t.tile.pc = s.tile.pc ∧ t.mem = s.mem)) ∧
  (∀ (s : State) (q : Nat), s.arg = [q, s.tile.routeId] → s.tile.cutOf.isSome = true → Reaches .cutMarkerArrival s (fun t => q ∈ t.tile.cutFlags ∧
    (∀ k ∈ s.tile.cutFlags, k ∈ t.tile.cutFlags) ∧ { t.tile with cutFlags := s.tile.cutFlags } = s.tile ∧ t.mem = s.mem)) ∧
  (∀ (s : State) (q r : Nat), s.arg = [q, r] → q < 8 → r ≠ s.tile.routeId → s.tile.cutOf.isSome = true → (vget s.tile.swIn q []).length < 4 →
    Reaches .cutMarkerArrival s (fun t => q ∈ t.tile.cutFlags ∧ vget t.tile.swIn q [] = vget s.tile.swIn q [] ++ [errToken s.tile] ∧
      (errToken s.tile).kind = .err ∧ (getField t (fieldOf s.tile.id)).routeErr = (getField s (fieldOf s.tile.id)).routeErr + 1 ∧ t.mem = s.mem)) ∧
  (∀ (s : State) (id : Nat) (c : Cut), s.tile.cutOf = some id → c = smGet {} s.cuts id → s.tile.id ∉ c.saved →
    (readyToSave s s.tile = false → Reaches .tileSave s (fun t => t.tile = s.tile ∧ t.cuts = s.cuts ∧ t.mem = s.mem)) ∧
    (readyToSave s s.tile = true → c.launch ≠ 0 →
      Reaches .tileSave s (fun t => t.mem = s.mem ∧ (smGet {} t.cuts id).saved = insertNat s.tile.id c.saved)) ∧
    (∀ full u, readyToSave s s.tile = true → c.launch = 0 → Runs (saveTile id c s.tile.unstage) (onTile s Tile.unstage) full u →
      Reaches .tileSave s (fun t => t.mem = u.mem ∧ (smGet {} t.cuts id).saved = insertNat s.tile.id (smGet {} u.cuts id).saved ∧
        t.tile = (if full = true then { u.tile with
          dirtyGroups := []
          dirtyGranules := [] } else u.tile))) ∧
    (∀ e u, readyToSave s s.tile = true → c.launch = 0 → Fails (saveTile id c s.tile.unstage) (onTile s Tile.unstage) e u →
      exec .tileSave s = .next (stepped s (imageFailed u id e)))) ∧
  (∀ (s s1 u : State) (id : Nat) (c : Cut) (t : Tile) (seq : Word) (full : Bool), Runs (imageLoad c.asTile (c.image + 8)) s seq s1 →
    full = !(c.incr && t.imageOf == c.image && t.imageOf != 0 && t.seq == seq) →
    Runs (saveRecord c.asTile t (32 * id) (recordVa c.image (c.tiles.findIdx (· == t.id))) (seq + 1) full) s1 () u →
    Runs (saveTile id c t) s full u) ∧
  (∀ (s u : State) (id : Nat) (f : MemFault), imageFailed s id (some f) = abandonCut s id 2 ∧
    imageFailed s id none = abandonCut (sealTile s (smGet {} s.cuts id).asTile) id 2 ∧
    ((smGet {} s.cuts id).tiles = [] → (smGet {} s.cuts id).launch = 0 → u = { s with cuts := smErase s.cuts id } →
      abandonCut s id 2 = doneWord u (smGet {} s.cuts id).asTile (smGet {} s.cuts id).done (smGet {} s.cuts id).saved.length 2)) ∧
  (∀ (s u : State) (id : Nat) (c : Cut), s.arg = [id] → smFind s.cuts id = some c → c.resume = false → c.saved.length = c.tiles.length → c.launch = 0 →
    (Runs (saveHeader id c) s () u → exec .cutComplete s = .next (stepped s (kickAll (doneWord
      { vacateAll u id c with cuts := smErase (vacateAll u id c).cuts id } c.asTile c.done c.tiles.length 1)))) ∧
    (∀ e, Fails (saveHeader id c) s e u → exec .cutComplete s = .next (stepped s (imageFailed u id e)))) ∧
  (∀ (s u : State) (b n code : Nat) (va : Word), sealed s b = false →
    (Runs (imageStore b va (at_ 32 n ||| at_ 0 code)) s () u → doneWord s b va n code = u) ∧
    (∀ f, Fails (imageStore b va (at_ 32 n ||| at_ 0 code)) s (some f) u →
      doneWord s b va n code = countSupFault (supFault u b f) (fieldOf b))) ∧
  (∀ (s : State) (id key x : Nat), (getTile s x).run ≠ .killed → let t := vacate s id key x
    (getTile t x).launch = 0 ∧ (getTile t x).run = .inactive ∧ t.mem = s.mem ∧ ∃ k, smFind t.images key = some k ∧ k.place = x ∧
      k.tile.x = (getTile s x).x ∧ k.tile.v = (getTile s x).v ∧ k.tile.pc = (getTile s x).pc ∧ k.tile.launch = (getTile s x).launch) ∧
  (∀ (s g : State) (id : Nat) (c : Cut), s.arg = [id] → smFind s.cuts id = some c → c.resume = true → g = { s with cuts := smErase s.cuts id } →
    (∀ e u, Fails (resumeRegion c) g (some e) u → exec .resumeComplete s = .next (stepped s (doneWord g c.asTile c.done 0 2))) ∧
    (∀ code u, Runs (resumeRegion c) g (.error code) u → exec .resumeComplete s = .next (stepped s (doneWord u c.asTile c.done 0 code))) ∧
    (∀ ts u, Runs (resumeRegion c) g (.ok ts) u → exec .resumeComplete s = .next (stepped s
      (doneWord (ts.foldl (fun a t => replayAfterCut (releaseTile a t) t) u) c.asTile c.done ts.length 1))) ∧
    (∀ (h map : List Word) (u v : State), Runs (imageLoads c.asTile c.image 8) g h u →
      Runs (imageLoads c.asTile (c.image + 64) (field (imgD h 0) 63 32)) u map v →
      ((∃ x ∈ map, (getTile v (tileAt (field x 7 0) (field x 15 8))).cutOf.isSome = true) → Runs (resumeRegion c) g (.error 5) v) ∧
      ((∀ x ∈ map, (getTile v (tileAt (field x 7 0) (field x 15 8))).cutOf = none) →
        (headerBad v c h map = true → Runs (resumeRegion c) g (.error 2) v) ∧
        (∀ ts w, headerBad v c h map = false → Runs (loadAll c ((List.range (field (imgD h 0) 63 32)).zip map)) v ts w →
          Runs (resumeRegion c) g (.ok ts) w))))

/-- Two states agree in memory, in the partitions, the functions and the fields. -/
def Sys2Proof.Machine.SameLoader (u t : State) : Prop := t.mem = u.mem ∧ t.parts = u.parts ∧ t.vfs = u.vfs ∧ t.fields = u.fields

/-- The reset of a field (R380, R381, R426; DESIGN CHOICE, log entry 22) and the module loader (R414 to R420, R425), with the sections of a translated graph
(R422): it waits for pages, for a tile whose network interface takes nothing now (R143), and for a field whose firmware is being updated (R392). The
order of the loader's checks and where it maps a slot are DESIGN CHOICE, log entry 65; the privilege of its result record is DEDUCED, log entry 36, and what
a field without firmware leaves is DEDUCED, log entry 69. -/
def Obligations.FieldLoaderSteps : Prop :=
  (∀ (s : State) (f : Nat), s.arg = [f] → s.cuts = [] → (getField s f).resetState = 1 → Reaches .fieldReset s (fun t => (getField t f).resetState = 2 ∧
    (getField t f).inc = ((getField s f).inc + 1) % 2 ^ 16 ∧ (getField t f).queues = [] ∧ (getField t f).holds = [] ∧ (getField t f).supQ = [])) ∧
  (∀ (s : State) (f g : Nat), s.arg = [f, g] → Reaches .incTableUpdate s (fun t => smGet 0 (getField t g).incTable f = (getField s f).inc ∧
    t.mem = s.mem ∧ t.tile.x = s.tile.x)) ∧
  (∀ (s : State) (f : Nat), s.arg = [f] → (getField s f).resetState = 2 →
    ((∀ g, g < 48 → fieldPresent s g = true → smGet 0 (getField s g).incTable f = (getField s f).inc) →
      (Config.firmwareVerifies f (getField s f).firmware = true → Reaches .fieldResetComplete s (fun t => (getField t f).resetState = 0 ∧
        t.presentFields = s.presentFields ∧ t.tile = s.tile)) ∧
      (Config.firmwareVerifies f (getField s f).firmware = false → f < 48 → Reaches .fieldResetComplete s (fun t =>
        t.presentFields.getLsbD f = false ∧ t.lifetime.failures = s.lifetime.failures ++ [f]))) ∧
    ((∃ g, g < 48 ∧ fieldPresent s g = true ∧ smGet 0 (getField s g).incTable f ≠ (getField s f).inc) →
      Reaches .fieldResetComplete s (fun t => t.fields = s.fields ∧ t.tile = s.tile))) ∧
  (∀ (s : State) (vf : Nat), s.arg = [vf] → (getVf s vf).loadBusy = true →
    ((getVf s vf).en = true → Reaches .loadreqSubmit s (fun t => t.mem = s.mem ∧ (getPart t (getVf s vf).part).loads =
      (getPart s (getVf s vf).part).loads ++ [{ vf := vf, words := (List.range 8).map (smGet 0 (getVf s vf).loadReq) }])) ∧
    ((getVf s vf).en = false → Reaches .loadreqSubmit s (fun t => t.parts = s.parts))) ∧
  (∀ (s u v : State) (p f code detail : Nat) (j : LoadJob) (gen : Nat), f = jobField s p → gen = field ((moduleEntry s f j.index).headD 0) 63 32 →
    (reqD j 0x20).toNat % 16 = 0 → reqD j 0x18 ≠ 0 →
    partWriteWords s f (reqD j 0x20) .user [at_ 32 detail ||| at_ 8 j.index ||| at_ 0 code, BitVec.ofNat 64 gen] = .ok u →
    partIncrement u f (reqD j 0x18) .user = .ok v → let t := endJob s p j code detail
    t.mem = v.mem ∧ (getVf t j.vf).loadBusy = false ∧ (getPart t p).loads = (getPart v p).loads.drop 1) ∧
  (∀ (s : State) (p : Nat) (j : LoadJob), s.arg = [p] → jobOf s p = some j → reqOp j ≠ 3 →
    let r := updJob s p (fun a => { a with pages := a.pages ++ [] })
    let k := { j with pages := j.pages ++ [] }
    let f := jobField r p
    let want := { k with index := field (reqD k 0) 27 16 }
    let n := ((imgD k.header 1).toNat + 4095) / 4096
    let becomes := fun (u : State) => Reaches .moduleLoad s (SameLoader u)
    ((getField s (jobField s p)).updating.isSome = true → exec .moduleLoad s = .next (stepped s (again s .moduleLoad))) ∧
    ((getField s (jobField s p)).updating = none → jobHeld r f k = true → becomes r) ∧
    ((getField s (jobField s p)).updating = none → jobHeld r f k = false →
      (∀ c, j.stage = 0 → jobRefused r p k = some c → becomes (endJob r p want c 0)) ∧
      (∀ c d u, j.stage = 0 → jobRefused r p k = none → checkLoad r p f k = (.error (c, d), u) → becomes (endJob u p want c d)) ∧
      (∀ m u, j.stage = 0 → jobRefused r p k = none → checkLoad r p f k = (.ok m, u) →
        becomes (putState (updJob u p (fun _ => { m with stage := m.stage + 1 })) f m.index 1 (field (imgD m.header 0) 31 16) (field (imgD m.old 0) 63 32))) ∧
      (∀ u, j.stage = 1 → loadPages r p f k 0 k.pages n = (.error none, u) → becomes r) ∧
      (∀ e u, j.stage = 1 → loadPages r p f k 0 k.pages n = (.error (some e), u) → becomes (failJob u p k 7 0)) ∧
      (∀ (rest : List Nat) (u v : State), j.stage = 1 → loadPages r p f k 0 k.pages n = (.ok rest, u) →
        let copy := if reqOp j = 2 then loadSections u f k (Config.zogSections k.graph k.run) else loadData u f k (imgD k.header 7) (2 ^ 32)
        (∀ e, copy = (.error e, v) → becomes (failJob v p k 7 0)) ∧
        (copy = (.ok (), v) → becomes (updJob v p (fun a => { a with stage := a.stage + 1 })))) ∧
      (∀ rest, j.stage = 2 → (getPart s p).loads = j :: rest → Reaches .moduleLoad s (fun t =>
        (getPart t p).loads = { j with stage := 3 } :: rest ∧ t.mem = s.mem)) ∧
      (j.stage = 3 → becomes (loadLive r p k)) ∧
      (4 ≤ j.stage → exec .moduleLoad s = .next (stepped s (endJob r p k 1 0))))) ∧
  (∀ (s : State) (p f : Nat) (j k : LoadJob) (e : List Word), s.arg = [p] → f = jobField s p → jobOf s p = some j → reqOp j = 3 → j.stage = 0 →
    k = { j with index := field (reqD j 0) 27 16 } → jobRefused s p k = none → e = moduleEntry s f k.index →
    (moduleState e = 2 → Reaches .moduleUnload s (fun t =>
      t.mem = (putState (moduleRead s f k.index).2 f k.index 3 (field (imgD e 0) 31 16) (field (imgD e 0) 63 32)).mem)) ∧
    (moduleState e ≠ 2 → exec .moduleUnload s = .next (stepped s (endJob (moduleRead s f k.index).2 p k 6 0)))) ∧
  (∀ (s : State) (p f : Nat) (j : LoadJob), s.arg = [p] → f = jobField s p → jobOf s p = some j → reqOp j = 3 → j.stage = 1 →
    (moduleReferenced s p j.index = true → Reaches .unloadRelease s (fun t => t.mem = s.mem ∧ t.parts = s.parts)) ∧
    (moduleReferenced s p j.index = false → exec .unloadRelease s = .next (stepped s (endJob (updPart
      (putState (dropLeaves (unmapSlot s f j.index) p (slotBase j.index).toNat (2 ^ 32)) f j.index 0 0 (field (imgD j.old 0) 63 32)) p
      (fun q => dropClasses q j.index)) p j 1 0))))

/- Collectives, the optical circuit switch and the host link -/

/-- Collectives (R394 to R399): a collective starts, or is refused with BADGROUP or BADDESC; a node combines an element and the next node follows; at the root,
node 0, the element is delivered to the destinations of each KIND and the next one begins; at the end COUNTER and STATUS are written. A killed tile or a
silent module stops it, and it is rerun once. The leaves of a fleet group, the placement of a rerun and the end of its tiles are DEDUCED, log entry 29. -/
def Obligations.CollectiveSteps : Prop :=
  (∀ (s : State) (id : Nat), s.arg = [id] → smFind s.colls id = none → (getLaunch s id).live = true → isCollective (getLaunch s id) = true →
    (∀ t ∈ (getLaunch s id).threads, t ∈ (getLaunch s id).swapped) →
    exec .collectiveNodeCombine s = .next (stepped s (startColl s id (getLaunch s id).reruns))) ∧
  (∀ (s : State) (id n : Nat) (l : Launch) (va : Word), l = getLaunch s id → va = recD l.words 0xC0 →
    (∀ e, partReadWords s l.field va .supervisor 8 = .error e → startColl s id n = exitTiles (countSupFault s l.field) id) ∧
    (∀ (d : List Word) (u : State), partReadWords s l.field va .supervisor 8 = .ok (d, u) →
      let c : Coll := { part := l.part, launch := id, descVa := va, words := d, reruns := n }
      (validGroup u l.part l.field (field (dw d 0) 23 12) = none → startColl s id n = endColl u id c 3) ∧
      (∀ b ls, validGroup u l.part l.field (field (dw d 0) 23 12) = some (b, ls) →
        (collBad d ls.length (b 0).2.length l.threads.length = true → startColl s id n = endColl u id c 4) ∧
        (collBad d ls.length (b 0).2.length l.threads.length = false →
          let k := { c with root := (b 0).1, nodes := (b 0).2, leaves := ls }
          let v := writeStatus { u with colls := smSet u.colls id k } l.field k
          k.code = 0 ∧ startColl s id n = schedule v (l.threads.headD v.tile.id) [collStep k id ((b 0).2.length - 1) 0])))) ∧
  (∀ (d : List Word) (leaves nodes tiles : Nat), 0 < leaves → (collBad d leaves nodes tiles = true ↔
    let h := dw d 0
    let n := (dw d 3).toNat
    field h 11 9 ≠ 0 ∨ field h 31 24 ≠ 0 ∨ field h 63 48 ≠ 0 ∨ dw d 6 ≠ 0 ∨ dw d 7 ≠ 0 ∨ 4 < field h 3 0 ∨ 6 < field h 7 4 ∨
    (field h 8 8 = 1 ∧ field h 7 4 ≠ 0) ∨ (field h 3 0 ∈ [1, 2] ∧ leaves ≤ field h 47 32) ∨ n = 0 ∨ 2 ^ 20 < n ∨
    (field h 3 0 = 4 ∧ n % leaves ≠ 0) ∨ tiles < nodes)) ∧
  (∀ (s : State) (p f g : Nat) (e : List Word) (first count : Nat), first = field (e.getD 1 0) 31 0 → count = field (e.getD 1 0) 63 32 →
    (groupEntry s f g = none → validGroup s p f g = none) ∧
    (groupEntry s f g = some e → e.getD 0 0 = 1 → count = 0 ∨ tileCount s p < first + count → validGroup s p f g = none) ∧
    (∀ n m, groupEntry s f g = some e → e.getD 0 0 = 1 → 0 < count → count ≤ 65536 → first + count ≤ tileCount s p →
      groupTree s f (tileCount s p) (n + 1) m g = some (rangeTree ((List.range count).map (first + ·)),
        ((List.range count).map (first + ·)).map (memberLeaf (s.fleetId % 16) m)))) ∧
  (∀ (s : State) (id node e : Nat) (c : Coll) (vs : List (Word × Word)) (i : Instr), s.arg = [id, node, e] → smFind s.colls id = some c → e < c.count →
    (getLaunch s id).code = 0 → (∀ t, nodeTile s id node = some t → sealed s t = false) →
    i = (if c.pair then Instr.collectivePairCombine else Instr.collectiveNodeCombine) →
    (c.kind ∈ [0, 1, 4] → (c.nodes.getD node []).map (childValue s c e) = vs.map some) →
    let r := combineChildren c vs
    let d := if c.kind ∈ [0, 1, 4] ∧ node < c.nodes.length then
      { c with
        outs := smSet c.outs node (smSet (smGet [] c.outs node) e r.1)
        flags := c.flags ||| r.2.toNat / 16 } else c
    let u := { s with colls := smSet s.colls id d }
    (0 < node → exec i s = .next (stepped s (schedule u s.tile.id [(i, [id, node - 1, e])]))) ∧
    (node = 0 → awaitsFleet u d e = true → exec i s = .next (stepped s (again u i))) ∧
    (node = 0 → awaitsFleet u d e = false → deliverElem u d e = none → exec i s = .next (stepped s (stopColl u id d))) ∧
    (∀ v fl, node = 0 → awaitsFleet u d e = false → deliverElem u d e = some (v, fl) →
      let k := { d with flags := d.flags ||| fl.toNat / 16 }
      let w := { v with colls := smSet v.colls id k }
      (e + 1 = c.count → exec i s = .next (stepped s (finishColl w id k))) ∧
      (e + 1 < c.count → exec i s = .next (stepped s (schedule w w.tile.id [(i, [id, c.nodes.length - 1, e + 1])]))))) ∧
  (∀ (s : State) (id node e : Nat) (c : Coll) (i : Instr), s.arg = [id, node, e] → smFind s.colls id = some c → e < c.count →
    (getLaunch s id).code = 0 → i = (if c.pair then Instr.collectivePairCombine else Instr.collectiveNodeCombine) →
    ((∃ t, nodeTile s id node = some t ∧ sealed s t = true) → exec i s = .next (stepped s (stopColl s id c))) ∧
    ((∀ t, nodeTile s id node = some t → sealed s t = false) → c.kind ∈ [0, 1, 4] →
      (∃ h ∈ c.nodes.getD node [], childValue s c e h = none) →
      (∀ h ∈ c.nodes.getD node [], h.1 = true → 2 ^ 20 ≤ h.2 → childValue s c e h ≠ none) → exec i s = .next (stepped s (stopColl s id c)))) ∧
  (∀ (s : State) (c : Coll) (e : Nat),
    (∀ v x, childValue s c e c.root = some (v, x) → rootValue s c e = some (if c.pair then addT64 0 v x else (v, 0))) ∧
    (∀ (w : Word) (fl : Flags) (u : State), rootValue s c e = some (w, fl) →
      (c.kind = 0 → putAll c s (c.leaves.map (fun r => (r, e, w))) = some u → deliverElem s c e = some (u, fl)) ∧
      (c.kind = 1 → putMember s c (c.leaves.getD (field (dw c.words 0) 47 32) 0) e w = some u → deliverElem s c e = some (u, fl)) ∧
      (c.kind = 4 → putMember s c (c.leaves.getD (e / (c.count / c.leaves.length)) 0) (e % (c.count / c.leaves.length)) w = some u →
        deliverElem s c e = some (u, fl))) ∧
    (∀ (w x : Word) (u : State), c.kind = 2 → childValue s c e (true, c.leaves.getD (field (dw c.words 0) 47 32) 0) = some (w, x) →
      putAll c s (c.leaves.map (fun r => (r, e, w))) = some u → deliverElem s c e = some (u, 0)) ∧
    (∀ (ws : List (Word × Word)) (u : State), c.kind = 3 → c.leaves.map (fun r => childValue s c e (true, r)) = ws.map some →
      putAll c s (c.leaves.flatMap (fun r => (ws.zipIdx).map (fun v => (r, v.2 * c.count + e, v.1.1)))) = some u →
      deliverElem s c e = some (u, 0))) ∧
  (∀ (s : State) (c : Coll) (rank e a : Nat) (w : Word), Inv s →
    (2 ^ 20 ≤ rank → putMember s c rank e w = some s) ∧
    (rank < 2 ^ 20 → memberKey s c rank (dw c.words 2).toNat e = none → putMember s c rank e w = none) ∧
    (rank < 2 ^ 20 → memberKey s c rank (dw c.words 2).toNat e = some a → ∃ u, putMember s c rank e w = some u ∧ readD u a = w ∧
      ∀ b, b < a ∨ a + 8 ≤ b → readByte u b = readByte s b)) ∧
  (∀ (s : State) (id : Nat) (c : Coll), dw c.words 4 = 0 → finishColl s id c = endColl s id c 1) ∧
  (∀ (g : Nat → State) (id : Nat) (c : Coll), dw c.words 4 ≠ 0 →
    (∀ k, k < completeMembers c → partIncrement (g k) (getLaunch (g 0) id).field (dw c.words 4) .supervisor = .ok (g (k + 1))) →
    finishColl (g 0) id c = endColl (g (completeMembers c)) id c 1) ∧
  (∀ (c : Coll), (∀ r ∈ c.leaves, r < 2 ^ 20) → field (dw c.words 0) 47 32 < c.leaves.length →
    completeMembers c = (if c.kind = 1 then 1 else c.leaves.length)) ∧
  (∀ (s u : State) (id code : Nat) (c : Coll), partWriteD { s with colls := smErase s.colls id } (getLaunch s id).field (c.descVa + 0x28)
    (at_ 16 (c.flags % 64) ||| at_ 8 c.reruns ||| at_ 0 code) = .ok u →
    endColl s id c code = exitTiles u id ∧
    (code = 2 → overlaps c = false → c.reruns = 0 → stopColl s id c = schedule u u.tile.id [(.collectiveRerun, [id, 1])]) ∧
    (code = 2 → overlaps c = true ∨ c.reruns ≠ 0 → stopColl s id c = killLaunch u id)) ∧
  (∀ (s : State) (id node e : Nat) (c : Coll), s.arg = [id, node, e] → smFind s.colls id = some c →
    (c.pair = true → exec .collectiveNodeCombine s = .next (stepped s s)) ∧ (c.pair = false → exec .collectivePairCombine s = .next (stepped s s))) ∧
  (∀ (s : State) (id node e : Nat) (c : Coll) (v : Word × Word), s.arg = [id, node, e] → smFind s.colls id = some c →
    smFind (smGet [] c.outs node) e = some v → Reaches .collectiveResend s (fun t => t.mem = s.mem ∧ t.tile = s.tile ∧ ∃ d, smFind t.colls id = some d ∧
      smFind (smGet [] d.outs node) e = some v ∧ { d with outs := c.outs } = c)) ∧
  (∀ (s : State) (id : Nat) (c : Coll), s.arg = [id] → smFind s.colls id = some c →
    ((∃ h ∈ c.root :: c.nodes.flatten, h.1 = true ∧ 2 ^ 20 ≤ h.2) → exec .collectiveFleetTimeout s = .next (stepped s (stopColl s id c))) ∧
    ((∀ h ∈ c.root :: c.nodes.flatten, h.1 = false ∨ h.2 < 2 ^ 20) → exec .collectiveFleetTimeout s = .next (stepped s s))) ∧
  (∀ (s : State) (id : Nat) (l : Launch), s.arg = [id, 1] → l = getLaunch s id → l.live = true → isCollective l = true → smFind s.colls id = none →
    l.code = 0 →
    ((∀ t ∈ l.threads, sealed s t = false) → exec .collectiveRerun s = .next (stepped s (startColl s id 1))) ∧
    ((∃ t ∈ l.threads, sealed s t = true) → recFollow l.words = true ∨ (∃ t ∈ l.tiles, (getTile s t).follow.isSome = true) →
      exec .collectiveRerun s = .next (stepped s (killLaunch s id))) ∧
    ((∃ t ∈ l.threads, sealed s t = true) → recFollow l.words = false → (∀ t ∈ l.tiles, (getTile s t).follow = none) →
      (∀ u, placeColl s id = some u → exec .collectiveRerun s = .next (stepped s u) ∧ (getLaunch u id).reruns = 1 ∧ (getLaunch u id).swapped = []) ∧
      (placeColl s id = none → placeLater s l = true → exec .collectiveRerun s = .next (stepped s (again s .collectiveRerun))) ∧
      (placeColl s id = none → placeLater s l = false → exec .collectiveRerun s = .next (stepped s (killLaunch s id)))))

/-- The optical circuit switch and the conduits (R401, R402, R405 to R407). A chunk that a marker or a credit completes at a time that no argument
gives is tried at a free time; when a set has a request that is not matched, and the time of a step, are DESIGN CHOICE, log entry 64. -/
def Obligations.OpticalSteps : Prop :=
  (∀ (s : State) (k : Nat) (r : Topo), s.arg = [k] → (getCSet s k).request = some r → (getCSet s k).accepted = none →
    ((∀ m ∈ tableGroup r.words, m ≠ s.fleetId % 16 → smFind (getCSet s k).others m = some ((getCSet s k).conduits, r.words)) →
      Reaches .topoAccept s (fun t => (getCSet t k).accepted = some r ∧ (getCSet t k).pend = (getCSet s k).pend ∧ (getCSet t k).gen = (getCSet s k).gen)) ∧
    ((∃ m ∈ tableGroup r.words, m ≠ s.fleetId % 16 ∧ ∃ o, smFind (getCSet s k).others m = some o ∧ o ≠ ((getCSet s k).conduits, r.words)) →
      Reaches .topoAccept s (fun t => (getCSet t k).pend = false ∧ (getCSet t k).err = ((getCSet s k).err || (getCSet s k).pend) ∧
        (getCSet t k).gen = (getCSet s k).gen ∧ (getCSet t k).table = (getCSet s k).table))) ∧
  (∀ (s : State) (k : Nat) (a : Topo), s.arg = [k] → (getCSet s k).accepted = some a → Reaches .topoInstall s (fun t =>
    (getCSet t k).gen = ((getCSet s k).gen + 1) % 2 ^ 32 ∧ (getCSet t k).pend = false ∧ (getCSet t k).table = some a ∧ (getCSet t k).period = 0 ∧
    (getCSet t k).accepted = none ∧ ∀ f, f < 48 → s.presentFields.getLsbD f = true → smGet 0 (getField t f).gens k = ((getCSet s k).gen + 1) % 2 ^ 32)) ∧
  (∀ (s : State) (k : Nat), s.arg = [k] →
    ((getCSet s k).accepted = none → Reaches .topoRequestTimeout s (fun t => (getCSet t k).pend = false ∧ (getCSet t k).request = none ∧
      (getCSet t k).err = ((getCSet s k).err || (getCSet s k).pend) ∧ (getCSet t k).gen = (getCSet s k).gen ∧ (getCSet t k).table = (getCSet s k).table)) ∧
    ((getCSet s k).accepted.isSome = true → exec .topoRequestTimeout s = .next (stepped s s))) ∧
  (∀ (s : State) (k : Nat) (w : Topo), s.arg = [k] → (getCSet s k).table = some w →
    ((getCSet s k).accepted = none → Reaches .slotPeriodStart s (fun t => (getCSet t k).table = some w ∧ (getCSet t k).gen = (getCSet s k).gen ∧
      (getCSet t k).period = ((getCSet s k).period + 1) % max 1 (tableSlots w.words) ∧
      ∀ i, i < 4 → (getCSet s k).conduits.testBit i = true → (getConduit t i).clock = 0)) ∧
    (∀ a, (getCSet s k).accepted = some a → Reaches .slotPeriodStart s (fun t => (getCSet t k).table = some a ∧
      (getCSet t k).gen = ((getCSet s k).gen + 1) % 2 ^ 32 ∧ (getCSet t k).period = 0))) ∧
  (∀ (s : State) (c d w x : Nat) (h : Chunk) (rest : List Chunk), headChunk (smGet [] (getConduit s c).sendQ d) = some (h, rest) →
    (s.arg = [c, d, w] ∧ x = max w (max (getConduit s c).clock (guardEnd s c))) ∨
      (s.arg = [c, d] ∧ x = max ((getConduit s c).clock + (Config.freeWord s.freeCtr).toNat) (guardEnd s c)) →
    (mayStart s c d x h = true → Reaches .chunkStart s (fun t => smGet [] (getConduit t c).sendQ d = rest ∧
      (getConduit t c).sent = (getConduit s c).sent ++ [(d, h)] ∧
      (getConduit t c).clock = x + chunkNs (getConduit s c).txActive h.toks.length ∧
      creditLeft (getConduit t c) d h.port = creditLeft (getConduit s c) d h.port - h.toks.length)) ∧
    (mayStart s c d x h = false → Reaches .chunkStart s (fun t => getConduit t c = { getConduit s c with clock := x } ∧ t.mem = s.mem ∧
      t.tile = s.tile))) ∧
  (∀ (s : State) (c d w : Nat) (h : Chunk), mayStart s c d w h = true → ∃ k, setOfConduit s c = some k ∧ partnerNow s k = some d ∧
    0 < (getConduit s c).txActive ∧ (getConduit s c).clock ≤ w ∧
    tableGuardNs (tableWords (getCSet s k).table) ≤ w ∧ h.toks.length ≤ creditLeft (getConduit s c) d h.port ∧
    w + chunkNs (getConduit s c).txActive h.toks.length + 200 ≤
      tableGuardNs (tableWords (getCSet s k).table) + tableSlotNs (tableWords (getCSet s k).table)) ∧
  (∀ (s : State) (c x d port : Nat) (k : Token) (ks : List Token) (p : Nat), s.arg = [c] → (getConduit s c).rx = [{ toks := k :: ks, src := d, port := port, complete := true }] →
    portTile c port = (x, p) → ((getTile s x).weir p).room = true → Reaches .chunkDeliver s (fun t => t.mem = s.mem ∧
      ((getTile t x).weir p).inflight = ((getTile s x).weir p).inflight ++
        [{ k with route := (getTile s x).routeId, inc := (getField s (fieldOf x)).inc }] ∧
      (getConduit t c).rx = (if ks = [] then [] else [{ toks := ks, src := d, port := port, complete := true }]))) ∧
  (∀ (s : State) (c d port n : Nat), s.arg = [c, d, port, n] → Reaches .creditReturn s (fun t => t.mem = s.mem ∧ t.tile = s.tile ∧
    creditLeft (getConduit t c) d port = min 4096 (creditLeft (getConduit s c) d port + n)))

/-- The host link: reads and writes of memory, of launch windows, of the control page and of what management reaches, in the order of their arrival, and watches
(R154, R377, R409, R410, R412, R413, R419, R426). The addresses of management, what a read of a launch window answers and the size of an access are DESIGN
CHOICE, log entry 65. -/
def Obligations.HostLinkSteps : Prop :=
  (∀ (s : State) (port vf addr len : Nat), s.arg = [port, vf, addr, len] → rillOk s port addr len = true → s.rillQ = [] →
    (hostPlace s vf addr = .nothing → Reaches .rillRead s (fun t => t.hostOut = s.hostOut ++ [.unsupported port vf] ∧ t.mem = s.mem)) ∧
    (∀ e u, hostPlace s vf addr = .memory → hostTranslate s vf (BitVec.ofNat 64 addr) .read = (.error e, u) → Reaches .rillRead s (fun t =>
      t.hostOut = u.hostOut ++ [.fault port vf e.sub] ∧ (getVf t vf).faults = (getVf u vf).faults + 1 ∧ t.mem = u.mem)) ∧
    (∀ pa u, hostPlace s vf addr = .memory → hostTranslate s vf (BitVec.ofNat 64 addr) .read = (.ok pa, u) →
      (∀ i, i < len → poisoned u (pa + i) = false) → Reaches .rillRead s (fun t => t.mem = u.mem ∧
        t.hostOut = u.hostOut ++ [.data port vf ((List.range len).map (fun i => readByte u (pa + i)))])) ∧
    (∀ f q, hostPlace s vf addr = .window f q → Reaches .rillRead s (fun t => t.mem = s.mem ∧ t.fields = s.fields ∧
      ∃ l, l.length = len ∧ t.hostOut = s.hostOut ++ [.data port vf l])) ∧
    (∀ off, hostPlace s vf addr = .page off → Reaches .rillRead s (fun t => t.mem = s.mem ∧ t.hostOut = s.hostOut ++ [.data port vf
      ((List.range len).map (fun i => BitVec.ofNat 8 ((pageWord s vf ((off + i) / 8)).toNat / 2 ^ (8 * ((off + i) % 8)))))])) ∧
    (∀ w u, hostPlace s vf addr = .device → addr < 0xFFFFFEFFFFFFF000 → addr % 8 = 0 → len = 8 → devRead s (BitVec.ofNat 64 addr) = (w, u) →
      Reaches .rillRead s (fun t => t.mem = u.mem ∧ t.hostOut = u.hostOut ++ [.data port vf (bytesOf 8 w.toNat)])) ∧
    (∀ i, hostPlace s vf addr = .record i → len = 8 → Reaches .rillRead s (fun t => t.mem = s.mem ∧ t.lifetime = s.lifetime ∧
      t.hostOut = s.hostOut ++ [.data port vf (bytesOf 8 (lifetimeWord s.lifetime i).toNat)])) ∧
    (∀ k, hostPlace s vf addr = .store k → len = 8 → Reaches .rillRead s (fun t => t.mem = s.mem ∧ t.firmStore = s.firmStore ∧
      t.hostOut = s.hostOut ++ [.data port vf (bytesOf 8 (storedImage s k))]))) ∧
  (∀ (s : State) (port vf addr len : Nat) (l : List Nat) (w : Word), s.arg = port :: vf :: addr :: len :: l → l.length = len → (∀ b ∈ l, b < 256) →
    rillOk s port addr len = true → s.rillQ = [] → rillHeld s vf addr len = false → w = BitVec.ofNat 64 (numOf (l.map (BitVec.ofNat 8))) →
    (hostPlace s vf addr = .nothing → Reaches .rillWrite s (fun t => t.hostOut = s.hostOut ++ [.unsupported port vf] ∧ t.mem = s.mem)) ∧
    (∀ (pa : Nat) (u : State), Inv u → hostPlace s vf addr = .memory → hostTranslate s vf (BitVec.ofNat 64 addr) .write = (.ok pa, u) → Reaches .rillWrite s (fun t =>
      (∀ i, i < len → (readByte t (pa + i)).toNat = l.getD i 0) ∧ (∀ a, a < pa ∨ pa + len ≤ a → readByte t a = readByte u a) ∧
      t.hostOut = u.hostOut ++ [.ok port vf])) ∧
    (∀ e u, hostPlace s vf addr = .memory → hostTranslate s vf (BitVec.ofNat 64 addr) .write = (.error e, u) → Reaches .rillWrite s (fun t =>
      t.hostOut = u.hostOut ++ [.fault port vf e.sub] ∧ (getVf t vf).faults = (getVf u vf).faults + 1 ∧ t.mem = u.mem)) ∧
    (∀ f q i, hostPlace s vf addr = .window f q → len = 8 → addr % 65536 = 8 * i → Reaches .rillWrite s (fun t =>
      smFind (smGet [] (smGet [] (getField t f).windows q) (i / 32)) (i % 32) = some w ∧ .event s.tile.id .launchSlotEnter [f, q] ∈ t.agenda ∧
      t.hostOut = s.hostOut ++ [.ok port vf] ∧ t.mem = s.mem)) ∧
    (∀ i, hostPlace s vf addr = .page (8 * i) → len = 8 → Reaches .rillWrite s (fun t => t.mem = s.mem ∧ t.hostOut = s.hostOut ++ [.ok port vf] ∧
      (∀ n, n < 16 → let x := smGet {} (getVf s vf).watches n
        (i = 4 * n → smGet {} (getVf t vf).watches n = { x with addr := w }) ∧ (i = 4 * n + 1 → smGet {} (getVf t vf).watches n = { x with target := w }) ∧
        (i = 4 * n + 2 → smGet {} (getVf t vf).watches n =
          { x with
            vector := field w 23 8
            err := x.err && !bitOf w 2
            fired := x.fired && !bitOf w 1
            arm := bitOf w 0
            port := port } ∧ (bitOf w 0 = true → .event s.tile.id .watchArm [vf, n] ∈ t.agenda))) ∧
      (64 ≤ i → i < 72 → smGet 0 (getVf t vf).loadReq (i - 64) = w ∧
        (i = 71 → (getVf t vf).loadBusy = true ∧ .event s.tile.id .loadreqSubmit [vf] ∈ t.agenda)) ∧
      (i = 96 → (getVf t vf).faults = 0))) ∧
    (hostPlace s vf addr = .device → addr < 0xFFFFFEFFFFFFF000 → addr % 8 = 0 → len = 8 → let u := mgmtWrite s (BitVec.ofNat 64 addr) w
      (devBlock (BitVec.ofNat 64 addr) = (255, 0x60040) → u.fleetId = field w 3 0) ∧
      Reaches .rillWrite s (fun t => t.mem = u.mem ∧ t.fields = u.fields ∧ t.parts = u.parts ∧ t.vfs = u.vfs ∧ t.fleetId = u.fleetId ∧
        t.hostOut = u.hostOut ++ [.ok port vf])) ∧
    (∀ i, hostPlace s vf addr = .record i → Reaches .rillWrite s (fun t => t.lifetime = s.lifetime ∧ t.hostOut = s.hostOut ++ [.unsupported port vf])) ∧
    (∀ k, hostPlace s vf addr = .store k → k < 77 → len = 8 → Reaches .rillWrite s (fun t => smFind t.firmStore k = some w.toNat ∧
      t.hostOut = s.hostOut ++ [.ok port vf] ∧ t.mem = s.mem))) ∧
  (∀ (s : State) (vf addr len : Nat),
    (∀ f q, hostPlace s vf addr = .window f q → (getVf s vf).en = false ∨ bitOf (readLqCtl s f q) 32 = false ∨
      slotFree s f q (addr % 65536 / 256 % 256) = false ∧ 0 < len → rillHeld s vf addr len = true) ∧
    (∀ off, hostPlace s vf addr = .page off → (getVf s vf).loadBusy = true → off < 0x240 → 0x200 < off + len → rillHeld s vf addr len = true) ∧
    (hostPlace s vf addr = .memory → rillHeld s vf addr len = false)) ∧
  (∀ (s : State) (q : RillReq), (s.arg = [q.port, q.vf, q.addr, q.len] ∧ q.bytes = none ∨
      ∃ l, s.arg = q.port :: q.vf :: q.addr :: q.len :: l ∧ l.length = q.len ∧ q.bytes = some (l.map (BitVec.ofNat 8))) →
    rillOk s q.port q.addr q.len = true → let i := if q.bytes = none then Instr.rillRead else Instr.rillWrite
    (s.rillQ = [] → q.bytes ≠ none → rillHeld s q.vf q.addr q.len = true → Reaches i s (fun t =>
      t.rillQ = [q] ∧ t.mem = s.mem ∧ t.hostOut = s.hostOut ∧ t.fields = s.fields ∧ t.vfs = s.vfs)) ∧
    (∀ p : RillReq, s.rillQ = [p] → p.waits s = true → p.port = q.port → p.vf = q.vf → Reaches i s (fun t =>
      t.rillQ = [p, q] ∧ t.mem = s.mem ∧ t.hostOut = s.hostOut ∧ t.fields = s.fields ∧ t.vfs = s.vfs)) ∧
    (∀ p : RillReq, s.rillQ = [p] → p.waits s = true → p.port ≠ q.port ∨ p.vf ≠ q.vf → q.waits s = false → Reaches i s (fun t =>
      t.rillQ = [p] ∧ t.mem = (rillServe s q).mem ∧ t.hostOut = (rillServe s q).hostOut))) ∧
  (∀ (s : State) (q : RillReq), s.arg = [] → s.rillQ = [q] →
    (q.waits s = false → Reaches .rillWrite s (fun t => t.rillQ = [] ∧ t.mem = (rillServe s q).mem ∧ t.hostOut = (rillServe s q).hostOut ∧
      t.fields = (rillServe s q).fields ∧ t.vfs = (rillServe s q).vfs)) ∧
    (q.waits s = true → Reaches .rillWrite s (fun t => t.rillQ = [q] ∧ t.mem = s.mem ∧ t.hostOut = s.hostOut))) ∧
  (∀ (s : State) (vf n : Nat), s.arg = [vf, n] → (smGet {} (getVf s vf).watches n).arm = true → Reaches .watchArm s (fun t =>
    .event s.tile.id .watchFire [vf, n] ∈ t.agenda ∧ t.vfs = s.vfs ∧ t.mem = s.mem)) ∧
  (∀ (s : State) (vf n : Nat) (w : Watch), s.arg = [vf, n] → w = smGet {} (getVf s vf).watches n → w.arm = true →
    ((getVf s vf).en = false → exec .watchFire s = .next (stepped s (again s .watchFire))) ∧
    ((getVf s vf).en = true → w.addr.toNat % 8 ≠ 0 ∨ 2 ^ 56 ≤ w.addr.toNat → Reaches .watchFire s (fun t =>
      t.hostOut = s.hostOut ++ [.interrupt w.port vf w.vector 0] ∧ smGet {} (getVf t vf).watches n = { w with arm := false, err := true })) ∧
    ((getVf s vf).en = true → w.addr.toNat % 8 = 0 → w.addr.toNat < 2 ^ 56 →
      (∀ pa u, hostTranslate s vf w.addr .read = (.ok pa, u) → w.target.toNat ≤ (readD u pa).toNat → Reaches .watchFire s (fun t =>
        t.hostOut = u.hostOut ++ [.interrupt w.port vf w.vector (readD u pa)] ∧ smGet {} (getVf t vf).watches n = { w with arm := false, fired := true })) ∧
      (∀ pa u, hostTranslate s vf w.addr .read = (.ok pa, u) → (readD u pa).toNat < w.target.toNat → Reaches .watchFire s (fun t =>
        t.hostOut = u.hostOut ∧ t.vfs = u.vfs)) ∧
      (∀ e u, hostTranslate s vf w.addr .read = (.error e, u) → Reaches .watchFire s (fun t =>
        t.hostOut = u.hostOut ++ [.interrupt w.port vf w.vector 0] ∧ smGet {} (getVf t vf).watches n = { w with arm := false, err := true }))))

/- The frame of the scalar instructions -/

/-- The scalar instructions with a result in rd. -/
def Sys2Proof.Machine.scalarForms (d a b m n : BitVec 6) (i : BitVec 13) (j : BitVec 19) (k : BitVec 32) (l : BitVec 64) : List Instr :=
  [.add d a b, .sub d a b, .mul d a b, .mulh d a b, .mulhu d a b, .div d a b, .divu d a b, .rem d a b, .remu d a b, .and d a b, .or d a b,
    .xor d a b, .andn d a b, .orn d a b, .xnor d a b, .shl d a b, .shr d a b, .sar d a b, .rol d a b, .min d a b, .max d a b, .minu d a b,
    .maxu d a b, .seq d a b, .sne d a b, .slt d a b, .sltu d a b, .sel d a b, .clz d a, .ctz d a, .popc d a, .brev d a, .bswap d a] ++
  [.addImm d a i, .mulImm d a i, .andImm d a i, .orImm d a i, .xorImm d a i, .seqImm d a i, .sneImm d a i, .sltImm d a i, .sltuImm d a i,
    .shlImm d a m, .shrImm d a m, .sarImm d a m, .rolImm d a m, .sext d a m, .zext d a m, .li d j, .addpc d j, .addImm32 d a k,
    .andImm32 d a k, .orImm32 d a k, .xorImm32 d a k, .liImm32 d k, .liw d l, .addpcLong d l, .extr d a m n, .insr d a m n]

/-- The branches. -/
def Sys2Proof.Machine.branchForms (a b : BitVec 6) (i : BitVec 13) (j : BitVec 19) : List Instr :=
  [.beq a b i, .bne a b i, .blt a b i, .bge a b i, .bltu a b i, .bgeu a b i, .bz a j, .bnz a j]

/-- Two states differ in nothing but scalar registers, the pc, the loop stack, the slots touched, the cycle counts, where long results go,
the wait, the prefetches not yet sent, a dispute decided (R386), and the time: no flag, special register, trap register or queue has changed, nor any byte of memory. -/
def Sys2Proof.Machine.SameButScalar (s t : State) : Prop :=
  { t.tile with x := s.tile.x, pc := s.tile.pc, loops := s.tile.loops, touch := s.tile.touch, touchFull := s.tile.touchFull,
                counters := s.tile.counters, longBuf := s.tile.longBuf, wait := s.tile.wait, waitPoint := s.tile.waitPoint,
                waitOps := s.tile.waitOps, prefetch := s.tile.prefetch, dispute := s.tile.dispute } = s.tile ∧
  { t with tile := s.tile, time := s.time } = s ∧
  ∀ a, readByte t a = readByte s a

/-- The frame of the scalar instructions on registers (R197, R232 to R245), EXTR and INSR among them: every well-formed one completes; but for rd every scalar register
keeps its value, the loop stack and the slots touched change for a branch alone or at the end of a body, no pending long result is dropped
but one for rd, a branch alone cancels prefetches (R71), and everything that `SameButScalar` names stays.
The cycle counters and the time may change; the program counter moves as the instruction says. -/
def Obligations.ScalarFrame : Prop :=
  (∀ (s : State) (d a b m o : BitVec 6) (i : BitVec 13) (j : BitVec 19) (k : BitVec 32) (l : BitVec 64), d.toNat < 32 → a.toNat < 32 →
    b.toNat < 32 → (∀ p ∈ scalarForms d a b m o i j k l, wellFormed p = true → ∃ t, exec p s = .next t ∧ SameButScalar s t ∧
      (∀ n, n < 32 → n ≠ d.toNat ∨ n = 0 → t.tile.xGet n = s.tile.xGet n) ∧
      t.tile.longBuf = s.tile.longBuf.map (fun e => if e.dst = .x d.toNat then { e with dst := .none } else e) ∧
      t.tile.touch = s.tile.touch ∧ t.tile.touchFull = s.tile.touchFull ∧ t.tile.prefetch = s.tile.prefetch ∧ (s.tile.loops.depth = 0 → t.tile.loops = s.tile.loops))) ∧
  (∀ (s : State) (a b : BitVec 6) (i : BitVec 13) (j : BitVec 19), a.toNat < 32 → b.toNat < 32 →
    ∀ p ∈ branchForms a b i j, ∃ t, exec p s = .next t ∧ SameButScalar s t ∧ t.tile.x = s.tile.x ∧ t.tile.longBuf = s.tile.longBuf ∧
      (s.tile.loops.depth = 0 → t.tile.loops = s.tile.loops))

/- The address space -/

/-- Canonical addresses (R26): which they are, and that an access to any other address of any kind, and a fetch from it, raises XLATE with
sub-code NONCANON (code 0 of R47) and leaves the state as it is. -/
def Obligations.NonCanonicalAddress : Prop :=
  (∀ va : Word, canonical va = true ↔ ∀ k, 57 ≤ k → k ≤ 63 → va.getLsbD k = va.getLsbD 56) ∧
  (∀ (s : State) (t : Nat) (m : Mode) (r : AccessRule) (va : Word) (size : Nat), canonical va = false →
    resolve s t m r va size = .error (false, { prot := false, sub := 0 })) ∧
  (∀ (s : State) (t size : Nat) (m : Mode) (sgn : Bool) (o : AtomOp) (va b c : Word), canonical va = false →
    ∀ op ∈ [LongOp.load size sgn va, .store size va b, .amo o va b, .cas va b c, .red o va b, .redf o va b c none, .barinit va b, .bararv va],
      (perform s t m op).st = s ∧ ∃ f, (perform s t m op).res = .fault f ∧ f.cause = .xlate ∧ f.va = va ∧ bitsOf f.info 3 0 = 0) ∧
  (∀ (s : State) (t : Nat) (m : Mode) (va : Word) (vas : List Word) (mask : Word) (data : List Word), canonical va = false → bitOf mask 0 = true →
    ∀ op ∈ [LongOp.vload (va :: vas) mask, .vstore (va :: vas) mask data],
      (perform s t m op).st = s ∧ ∃ f, (perform s t m op).res = .fault f ∧ f.cause = .xlate ∧ f.va = va ∧ bitsOf f.info 3 0 = 0) ∧
  (∀ (s : State) (t : Nat) (m : Mode) (va : Word), canonical va = false → fetchAt s t va m = .bad { prot := false, sub := 0 })

/- The combine order of a collective -/

/-- The operation of a collective on two elements, by its OP code (R395, R397). -/
def Sys2Proof.Machine.combineOp : Nat → Word → Word → Word
  | 0 => fun a b => (addT64 0 a b).1
  | 1 => fun a b => a + b
  | 2 => fun a b => (minMaxT64 false a b).1
  | 3 => fun a b => (minMaxT64 true a b).1
  | 4 => fun a b => a &&& b
  | 5 => fun a b => a ||| b
  | _ => fun a b => a ^^^ b

/-- With PAIR = 0, every internal node combines each element of its children in child order: the first child's, then one operation for each
later child (R397); with PAIR = 1 a value and its error travel together: each later child's value is added, and the error is the exact sum of both errors and
of what the addition lost, rounded once (R398). The step writes the result as the node's element, the root's, node 0, among them. -/
def Obligations.CombineOrder : Prop :=
  (∀ (c : Coll) (v : Word) (vs : List Word), c.pair = false → c.op ≤ 6 →
    ((combineChildren c ((v, 0) :: vs.map (fun w => (w, 0)))).1 = (vs.foldl (combineOp c.op) v, 0))) ∧
  (∀ (c : Coll) (v : Word × Word) (vs : List (Word × Word)), c.pair = true →
    (combineChildren c (v :: vs)).1 = vs.foldl (fun a b => let t := (addT64 0 a.1 b.1).1; (t, (pairError a.2 b.2 a.1 b.1 t).1)) v) ∧
  (∀ (c : Coll) (a b : Word × Word), (c.pair = false → c.op = 0 → (combineChildren c [a, b]).2 = (addT64 0 a.1 b.1).2) ∧
    (c.pair = true → (combineChildren c [a, b]).2 = (addT64 0 a.1 b.1).2 ||| (pairError a.2 b.2 a.1 b.1 (addT64 0 a.1 b.1).1).2)) ∧
  (∀ (e e2 v v2 t : Word) (ns : List (Bool × Nat × Int)) (q : Int) (N : Int), [e, e2, v, v2, t].map viewT64 = ns.map (fun n => .fin n.1 n.2.1 n.2.2) →
    q = (ns.map (fun n => n.2.2)).foldl min (ns.getD 0 (false, 0, 0)).2.2 →
    N = ((ns.take 4).map (fun n => unitsOf n.1 n.2.1 n.2.2 q)).sum - (ns.drop 4 |>.map (fun n => unitsOf n.1 n.2.1 n.2.2 q)).sum →
    (N ≠ 0 → pairError e e2 v v2 t = roundT64 0 (decide (N < 0)) N.natAbs q) ∧ (N = 0 → ∃ b, pairError e e2 v v2 t = (zeroT64 b, 0))) ∧
  (∀ (s : State) (id node e : Nat) (c : Coll) (i : Instr), s.arg = [id, node, e] → smFind s.colls id = some c → e < c.count →
    (getLaunch s id).code = 0 → (∀ t, nodeTile s id node = some t → sealed s t = false) → c.kind ∈ [0, 1, 4] → 0 < node →
    node < c.nodes.length → i = (if c.pair then Instr.collectivePairCombine else Instr.collectiveNodeCombine) →
    (∀ (v : Word) (vs : List Word), (c.nodes.getD node []).map (childValue s c e) = (v :: vs).map (fun w => some (w, 0)) → c.pair = false → c.op ≤ 6 →
      Reaches i s (fun t => ∃ d, smFind t.colls id = some d ∧ smFind (smGet [] d.outs node) e = some (vs.foldl (combineOp c.op) v, 0))) ∧
    (∀ (v : Word × Word) (vs : List (Word × Word)), (c.nodes.getD node []).map (childValue s c e) = (v :: vs).map some → c.pair = true →
      Reaches i s (fun t => ∃ d, smFind t.colls id = some d ∧ smFind (smGet [] d.outs node) e =
        some (vs.foldl (fun a b => let t := (addT64 0 a.1 b.1).1; (t, (pairError a.2 b.2 a.1 b.1 t).1)) v)))) ∧
  (∀ (s v : State) (id e : Nat) (c : Coll) (fl : Flags) (a : Word) (as : List Word), s.arg = [id, 0, e] → smFind s.colls id = some c → e + 1 < c.count →
    (getLaunch s id).code = 0 → (∀ t, nodeTile s id 0 = some t → sealed s t = false) → c.kind ∈ [0, 1, 4] → c.nodes ≠ [] → c.root = (false, 0) →
    c.pair = false → c.op ≤ 6 → (c.nodes.getD 0 []).map (childValue s c e) = (a :: as).map (fun w => some (w, 0)) →
    let d := { c with
      outs := smSet c.outs 0 (smSet (smGet [] c.outs 0) e (as.foldl (combineOp c.op) a, 0))
      flags := c.flags ||| (combineChildren c ((a, 0) :: as.map (fun w => (w, 0)))).2.toNat / 16 }
    let u := { s with colls := smSet s.colls id d }
    rootValue u d e = some (as.foldl (combineOp c.op) a, 0) ∧
    (deliverElem u d e = some (v, fl) → Reaches .collectiveNodeCombine s (fun t => t.mem = v.mem)))

/- The step -/

/-- The next step is a turn of the thread of tile `id`, from the state `u`. -/
def Sys2Proof.Machine.ThreadsTurn (s : State) (id : Nat) (u : State) : Prop :=
  (s.agenda = [] ∧ id = s.tile.id ∧ u = focus s id) ∨ (∃ r, s.agenda = .thread id :: r ∧ u = focus { s with agenda := r } id)

/-- Nothing comes before the instruction of the current tile: the thread runs, no cut or cancellation stops it, no HSET is pending, no
replay parks, no park for a handler or for a trap goes on, and no swap that raised STRAY is made again. -/
def Sys2Proof.Machine.Undisturbed (u : State) : Prop :=
  u.tile.run = .running ∧ u.tile.cutMarked = false ∧ u.tile.cutOf = none ∧ u.tile.cancelled = false ∧ u.tile.parkNext = false ∧
  u.tile.selPark = false ∧ u.tile.pendTrap = none ∧ swapOwed u = false ∧ ∀ c, c < 64 → u.tile.htPending c = false

/-- The parcel that a fetch at an address of the current tile finds. -/
def Sys2Proof.Machine.FetchesParcel (u : State) (va : Word) (w : Parcel) : Prop :=
  ∃ b off, fetchAt u u.tile.id va u.tile.mode = .bits b off ∧ w = b.extractLsb' (8 * off) 32

/-- A step runs the decoded instruction (R195, R216, R366): the parcels at the pc are fetched, as many as the first one says; when they decode
to an instruction the step is its execution; an instruction that traps has done so; otherwise an ILLEGAL of the switch is raised or a
handler selected before it, when one is due; the thread stays in the schedule, and dirty bits are set. A fetch that demands another line
than the last one did leaves its sequential prefetches to be sent (R71), and nothing else. A turn of a switch runs its word, a
turn of an event performs it, and parcels that do not decode raise ILLEGAL with their class.
The order in which units take turns is the model's schedule (DESIGN CHOICE, log entry 3). -/
def Obligations.StepRunsDecodedInstruction : Prop :=
  (∀ (u : State) (w x y : Parcel), FetchesParcel u u.tile.pc w →
    (lengthOf w = 1 → gather u = .parcels w 0 0) ∧
    (lengthOf w = 2 → FetchesParcel u (u.tile.pc + 4) x → gather u = .parcels w x 0) ∧
    (lengthOf w = 3 → FetchesParcel u (u.tile.pc + 4) x → FetchesParcel u (u.tile.pc + 8) y → gather u = .parcels w x y)) ∧
  (∀ (s u : State) (id : Nat) (w x y : Parcel) (i : Instr), ThreadsTurn s id u → Undisturbed u → gather u = .parcels w x y →
    (parkBit w = false ∨ u.tile.longBuf = []) → decode w x y = .ok i →
    (∀ r, exec i (fetchHit u (lengthOf w)) = .next r →
      (trapped u r = true → step s = .next (markDirty s (keepThread id r))) ∧
      (trapped u r = false → ∀ v, raiseSwitch u = some v → step s = .next (markDirty s (keepThread id v))) ∧
      (trapped u r = false → raiseSwitch u = none → ∀ v, selectStep u = some v → step s = .next (markDirty s (keepThread id v))) ∧
      (trapped u r = false → raiseSwitch u = none → selectStep u = none → step s = .next (markDirty s (keepThread id r)))) ∧
    (∀ e, exec i (fetchHit u (lengthOf w)) = .fault e → step s = .fault e) ∧
    (∀ e, exec i (fetchHit u (lengthOf w)) = .refused e → step s = .refused e)) ∧
  (∀ (u : State) (n : Nat), let v := fetchHit u n
    { v with tile := u.tile, agenda := u.agenda } = u ∧ { v.tile with prefetch := u.tile.prefetch, lastLine := u.tile.lastLine } = u.tile ∧
    (∀ e ∈ v.agenda, e ∈ u.agenda ∨ ∃ a, v.tile.prefetch = some a ∧ e = .event u.tile.id .sequentialPrefetch [a.toNat])) ∧
  (∀ (s u : State) (id : Nat) (w x y : Parcel) (e : Reject), ThreadsTurn s id u → Undisturbed u → gather u = .parcels w x y →
    u.tile.longBuf = [] → bitsOf u.tile.trapCause 3 0 = 0 → decode w x y = .error e → (∀ i, e ≠ .raw i) →
    step s = .next (markDirty s (keepThread id (takeTrap (fetchHit u (lengthOf w)) { cause := .illegal, cls := Reject.cls e })))) ∧
  (∀ (s u v : State) (id : Nat) (i : Instr) (r : List Turn), s.agenda = .switch id :: r → u = focus { s with agenda := r } id →
    u.tile.cutMarked = false → u.tile.run ≠ .killed → u.tile.cutOf = none → u.tile.cancelled = false → switchTurn u = (v, some i) →
    ∀ t, exec i v = .next t → step s = .next (markDirty s (keepSwitch id t))) ∧
  (∀ (s u : State) (id : Nat) (i : Instr) (l : List Nat) (r : List Turn), s.agenda = .event id i l :: r → encode 0 i = [] →
    u = { focus { s with agenda := r } id with arg := l } → ∀ t, exec i u = .next t → step s = .next (markDirty s t))

/- Reset -/

/-- The state after reset, where the spec gives it: the registers of a tile (R54, R72, R140, R176, R179, R186, R249, R252, R313, R319, R346, R350, R362,
R387, R403, R404), its queues and bindings empty, of a field (R34, R156, R339, R380, R388, R414), of a module (R78, R376, R377, R379), and
memory in its canonical form. Registers without a reset value in the spec are not named here (log entry 2). -/
def Obligations.ResetState : Prop :=
  (∀ n : Nat, let t := getTile State.reset n
    t.coreStatus = 0 ∧ t.tileSplit = 16 ∧ t.fetchCtl = 0x84 ∧ (∀ k, k < 16 → vget t.scale k 0 = 0x3FFFC00000000000 ∧ vget t.fmt k 0 = 0) ∧
    (∀ k, k < 64 → vget t.htPc k 0 = 0 ∧ vget t.htCtl k 0 = 0) ∧ t.classInfo = 0 ∧ t.strayInfo = 0 ∧ t.cwaitGen = 0 ∧ t.trapCause = 0 ∧
    t.residueInfo = 0 ∧ t.topoInfo = 0 ∧ t.tokenCfg = 0 ∧ t.qrecCtl = 0 ∧ (∀ k, k < 2 → vget t.qlock k 0 = 0) ∧ t.optSend = 0 ∧
    t.loops.depth = 0 ∧ t.loops.level = 0 ∧ t.longBuf = [] ∧ t.replay = [] ∧ t.passed = [] ∧ t.inbox = [] ∧ t.sendQ = [] ∧ t.streams = [] ∧
    t.bq = [] ∧ t.emq = [] ∧ (∀ k, k < 8 → vget t.coreIn k [] = [] ∧ vget t.coreOut k [] = [] ∧ vget t.swIn k [] = [])) ∧
  (∀ n : Nat, let f := getField State.reset n
    f.xlateRoot = 0 ∧ f.scopeBase = 0 ∧ f.groupBase = 0 ∧ f.modBase = 0 ∧ f.ageShift = 16 ∧ f.suppress = 0 ∧ f.resetState = 0 ∧
    f.quarCtl = 0x1201040 ∧ f.suspect = [] ∧ f.queues = []) ∧
  (∀ p : Nat, (getPart State.reset p).fields = 0 ∧ (p < 48 → readModuleReg State.reset (0x30000 + 8 * p) = some 0)) ∧
  (∀ v : Nat, (getVf State.reset v).en = false ∧ (getVf State.reset v).part = 0 ∧ (getVf State.reset v).faults = 0 ∧
    (v < 512 → readModuleReg State.reset (0x40000 + 8 * v) = some 0)) ∧
  (∀ w : Nat, w < 64 → readModuleReg State.reset (0x50000 + 8 * w) = some 0) ∧ readModuleReg State.reset 0x30180 = some 0 ∧
  (∀ j : Nat, smGet 0x3E State.reset.stripes j = 0x3E ∧ smGet 0x3E State.reset.localUnits j = 0x3E) ∧
  State.reset.mem = [] ∧ Inv State.reset

/- Decoding -/

/-- A first parcel of the formats R, Q and X (R200): P, the major opcode, three operand fields and the minor. -/
def Sys2Proof.Machine.parcelR (p : BitVec 1) (major d a b : BitVec 6) (minor : BitVec 7) : Parcel := p ++ major ++ d ++ a ++ b ++ minor

/-- A first parcel of the formats I and B (R200). -/
def Sys2Proof.Machine.parcelI (p : BitVec 1) (major d a : BitVec 6) (i : BitVec 13) : Parcel := p ++ major ++ d ++ a ++ i

/-- Words written field by field from R200 to R220 decode to the instructions that they stand for; the park bit changes nothing. -/
def Obligations.DecodeWords : Prop :=
  (∀ p : BitVec 1, ∀ x y : Parcel,
    decode (parcelR p 0x01 5 6 7 0x00) x y = .ok (.add 5 6 7) ∧
    decode (parcelR p 0x01 5 48 7 0x01) x y = .ok (.sub 5 48 7) ∧
    decode (parcelI p 0x02 1 2 0x1FFF) x y = .ok (.addImm 1 2 0x1FFF) ∧
    decode (p ++ 0x18#6 ++ 0x1FFFFFE#25) x y = .ok (.jmp 0x1FFFFFE) ∧
    decode (p ++ 0x16#6 ++ 9#6 ++ 4#19) x y = .ok (.bz 9 4) ∧
    decode (parcelI p 0x10 3 4 2) x y = .ok (.beq 3 4 2) ∧
    decode (parcelI p 0x22 40 5 8) x y = .ok (.ldd 40 5 8) ∧
    decode (parcelI p 0x26 32 5 8) x y = .ok (.std 32 5 8) ∧
    decode (p ++ 0x27#6 ++ 7#5 ++ 8#6 ++ 1#3 ++ 0#3 ++ 0xFF#8) x y = .ok (.vld 7 8 1 0xFF) ∧
    decode (parcelR p 0x28 3 4 5 0x01) x y = .ok (.amoAdd 3 4 5) ∧
    decode (parcelR p 0x29 0 4 5 0x02) x y = .ok (.waitge 4 5) ∧
    decode (parcelR p 0x2A 0 4 0 0x00) x y = .ok (.copy 4) ∧
    decode (p ++ 0x2B#6 ++ 0#1 ++ 2#3 ++ 9#6 ++ 1#4 ++ 3#4 ++ 1#1 ++ 0#1 ++ 0#3 ++ 0#2) x y = .ok (.sbind 2 9 1 3 1 0) ∧
    decode (p ++ 0x2D#6 ++ 1#5 ++ 2#5 ++ 3#5 ++ 4#3 ++ (0#5 ++ 3#2 : BitVec 7)) x y = .ok (.viadd 1 2 3 4 3) ∧
    decode (p ++ 0x2F#6 ++ 6#6 ++ 2#5 ++ 7#3 ++ 0#3 ++ 0#1 ++ 0#7) x y = .ok (.vmovx 6 2 7) ∧
    decode (p ++ 0x30#6 ++ 1#6 ++ 2#6 ++ 3#3 ++ 4#3 ++ 0#7) x y = .ok (.mform 1 2 3 4) ∧
    decode (parcelR p 0x31 32 33 34 0x00) x y = .ok (.qsel 32 33 34) ∧
    decode (parcelR p 0x32 1 2 3 0x47) x y = .ok (.msg 1 2 3 1 7) ∧
    decode (parcelR p 0x33 1 2 3 0x09) x y = .ok (.hset 1 2 3) ∧
    decode (parcelI p 0x34 5 0 0x020) x y = .ok (.crr 5 0x020) ∧
    decode (p ++ 0x2C#6 ++ 1#5 ++ 2#5 ++ 3#5 ++ 4#3 ++ 0x00#7) (0#5 ++ 2#3 ++ 0#3 ++ 0#5 ++ 0#16) y = .ok (.vadd 1 2 3 4 2) ∧
    decode (p ++ 0x3E#6 ++ 5#6 ++ 0#6 ++ 0#6 ++ 0x04#7) 0xFFFFFFFE#32 y = .ok (.liImm32 5 0xFFFFFFFE) ∧
    decode (p ++ 0x3F#6 ++ 5#6 ++ 0#6 ++ 0#6 ++ 0x00#7) 0x9ABCDEF0#32 0x12345678#32 = .ok (.liw 5 0x123456789ABCDEF0)) ∧
  decodeSwitch (0#10 ++ 0#3 ++ 0#1 ++ 0#16 ++ 1#4 ++ (0#27 ++ 3#3 : BitVec 30)) = .ok (.route 3 0) ∧
  decodeSwitch (0#10 ++ 5#3 ++ 0#1 ++ 9#16 ++ 4#4 ++ 0#30) = .ok (.sbnz 0 0 9 5) ∧
  decodeSwitch (0#10 ++ 0#3 ++ 0#1 ++ 0#16 ++ 8#4 ++ 0#30) = .ok .shalt ∧
  (∀ x y : Parcel, decode 0 x y = .error .major ∧ decode (parcelR 0 0x01 5 6 7 0x09) x y = .error .minor ∧
    decode (parcelR 0 0x01 5 6 1 0x30) x y = .error .reserved ∧ decode (parcelR 0 0x01 5 51 7 0x00) x y = .error (.operand (.add 5 51 7)) ∧
    decode (parcelI 0 0x0C 5 6 0) x y = .error (.raw (.sext 5 6 0)))

/-- The parcels of an instruction, the later ones 0 where it has fewer than three. -/
def Sys2Proof.Machine.parcelAt (l : List Parcel) (n : Nat) : Parcel := l.getD n 0

/-- Is an instruction a word of the switch (R218)? -/
def Sys2Proof.Machine.isSwitchWord : Instr → Bool
  | .snop | .shalt | .route _ _ | .routen _ _ _ | .sjmp _ _ _ | .sbnz _ _ _ _ | .sbq _ _ _ | .swaitm _ _ _ _ | .smcast _ _ => true
  | _ => false

/-- Decoding and encoding agree (R195 to R220): every well-formed instruction that has an encoding, with either value of the park bit, decodes
from its own words to itself, has as many parcels as its first one says, and the bytes that hold them decode to it as well; a switch word
decodes from its 64 bits. -/
def Obligations.DecodeEncode : Prop :=
  (∀ (p : BitVec 1) (i : Instr) (w : Parcel) (l : List Parcel), wellFormed i = true → encode p i = w :: l → isSwitchWord i = false →
    decode w (parcelAt l 0) (parcelAt l 1) = .ok i ∧ l.length + 1 = lengthOf w ∧ parkBit w = (p == 1#1) ∧
    ∀ rest, decodeBytes (parcelBytes (w :: l) ++ rest) = .ok (i, 4 * lengthOf w)) ∧
  (∀ (p : BitVec 1) (i : Instr) (v : BitVec 64), wellFormed i = true → isSwitchWord i = true → encode p i = halves v → decodeSwitch v = .ok i)

/- Invariants -/

/-- Memory stays in its canonical form: whatever the state and whatever its next step performs.
The canonical form (addresses strictly rising, no entry equal to what an unlisted address reads as) is the model's own representation of memory; what an
unlisted address reads as is the model's choice (DESIGN CHOICE, log entry 1). -/
def Obligations.MemoryFormKept : Prop := ∀ s t : State, Inv s → step s = .next t → Inv t
end
end

