-- ==== Sys2Proof/Laws/State.lean ====
section
/-! SUPPORT. What each named update of the state leaves in each field: one lemma for a field and an update, so that no proof unfolds
a record update. -/
namespace Sys2Proof.Machine


/- onTile: only the current tile -/

@[simp] theorem onTile_tile (s : State) (g : Tile → Tile) : (onTile s g).tile = g s.tile := rfl
@[simp] theorem onTile_others (s : State) (g : Tile → Tile) : (onTile s g).others = s.others := rfl
@[simp] theorem onTile_mem (s : State) (g : Tile → Tile) : (onTile s g).mem = s.mem := rfl
@[simp] theorem onTile_undef (s : State) (g : Tile → Tile) : (onTile s g).undef = s.undef := rfl
@[simp] theorem onTile_poison (s : State) (g : Tile → Tile) : (onTile s g).poison = s.poison := rfl
@[simp] theorem onTile_agenda (s : State) (g : Tile → Tile) : (onTile s g).agenda = s.agenda := rfl
@[simp] theorem onTile_arg (s : State) (g : Tile → Tile) : (onTile s g).arg = s.arg := rfl
@[simp] theorem onTile_fields (s : State) (g : Tile → Tile) : (onTile s g).fields = s.fields := rfl
@[simp] theorem onTile_clusters (s : State) (g : Tile → Tile) : (onTile s g).clusters = s.clusters := rfl
@[simp] theorem onTile_cisterns (s : State) (g : Tile → Tile) : (onTile s g).cisterns = s.cisterns := rfl
@[simp] theorem onTile_conduits (s : State) (g : Tile → Tile) : (onTile s g).conduits = s.conduits := rfl
@[simp] theorem onTile_csets (s : State) (g : Tile → Tile) : (onTile s g).csets = s.csets := rfl
@[simp] theorem onTile_records (s : State) (g : Tile → Tile) : (onTile s g).records = s.records := rfl
@[simp] theorem onTile_rillQ (s : State) (g : Tile → Tile) : (onTile s g).rillQ = s.rillQ := rfl
@[simp] theorem onTile_firmStore (s : State) (g : Tile → Tile) : (onTile s g).firmStore = s.firmStore := rfl
@[simp] theorem onTile_firmRun (s : State) (g : Tile → Tile) : (onTile s g).firmRun = s.firmRun := rfl
@[simp] theorem onTile_parts (s : State) (g : Tile → Tile) : (onTile s g).parts = s.parts := rfl
@[simp] theorem onTile_vfs (s : State) (g : Tile → Tile) : (onTile s g).vfs = s.vfs := rfl
@[simp] theorem onTile_windows (s : State) (g : Tile → Tile) : (onTile s g).windows = s.windows := rfl
@[simp] theorem onTile_stripes (s : State) (g : Tile → Tile) : (onTile s g).stripes = s.stripes := rfl
@[simp] theorem onTile_localUnits (s : State) (g : Tile → Tile) : (onTile s g).localUnits = s.localUnits := rfl
@[simp] theorem onTile_partErr (s : State) (g : Tile → Tile) : (onTile s g).partErr = s.partErr := rfl
@[simp] theorem onTile_fleetId (s : State) (g : Tile → Tile) : (onTile s g).fleetId = s.fleetId := rfl
@[simp] theorem onTile_presentFields (s : State) (g : Tile → Tile) : (onTile s g).presentFields = s.presentFields := rfl
@[simp] theorem onTile_presentCisterns (s : State) (g : Tile → Tile) : (onTile s g).presentCisterns = s.presentCisterns := rfl
@[simp] theorem onTile_presentConduits (s : State) (g : Tile → Tile) : (onTile s g).presentConduits = s.presentConduits := rfl
@[simp] theorem onTile_rillTrained (s : State) (g : Tile → Tile) : (onTile s g).rillTrained = s.rillTrained := rfl
@[simp] theorem onTile_capacityGB (s : State) (g : Tile → Tile) : (onTile s g).capacityGB = s.capacityGB := rfl
@[simp] theorem onTile_hbmChannels (s : State) (g : Tile → Tile) : (onTile s g).hbmChannels = s.hbmChannels := rfl
@[simp] theorem onTile_net (s : State) (g : Tile → Tile) : (onTile s g).net = s.net := rfl
@[simp] theorem onTile_launches (s : State) (g : Tile → Tile) : (onTile s g).launches = s.launches := rfl
@[simp] theorem onTile_nextLaunch (s : State) (g : Tile → Tile) : (onTile s g).nextLaunch = s.nextLaunch := rfl
@[simp] theorem onTile_colls (s : State) (g : Tile → Tile) : (onTile s g).colls = s.colls := rfl
@[simp] theorem onTile_cuts (s : State) (g : Tile → Tile) : (onTile s g).cuts = s.cuts := rfl
@[simp] theorem onTile_nextCut (s : State) (g : Tile → Tile) : (onTile s g).nextCut = s.nextCut := rfl
@[simp] theorem onTile_images (s : State) (g : Tile → Tile) : (onTile s g).images = s.images := rfl
@[simp] theorem onTile_hostOut (s : State) (g : Tile → Tile) : (onTile s g).hostOut = s.hostOut := rfl
@[simp] theorem onTile_lifetime (s : State) (g : Tile → Tile) : (onTile s g).lifetime = s.lifetime := rfl
@[simp] theorem onTile_deadLinks (s : State) (g : Tile → Tile) : (onTile s g).deadLinks = s.deadLinks := rfl
@[simp] theorem onTile_time (s : State) (g : Tile → Tile) : (onTile s g).time = s.time := rfl
@[simp] theorem onTile_freeCtr (s : State) (g : Tile → Tile) : (onTile s g).freeCtr = s.freeCtr := rfl
@[simp] theorem onTile_spouts (s : State) (g : Tile → Tile) : (onTile s g).spouts = s.spouts := rfl

/- writeByte: memory, and what is undefined of it -/

@[simp] theorem writeByte_mem (s : State) (a : Nat) (b : Byte) : (writeByte s a b).mem = cellSet s.mem a b := rfl
@[simp] theorem writeByte_undef (s : State) (a : Nat) (b : Byte) : (writeByte s a b).undef = undefCut s.undef a := rfl
@[simp] theorem writeByte_tile (s : State) (a : Nat) (b : Byte) : (writeByte s a b).tile = s.tile := rfl
@[simp] theorem writeByte_others (s : State) (a : Nat) (b : Byte) : (writeByte s a b).others = s.others := rfl
@[simp] theorem writeByte_poison (s : State) (a : Nat) (b : Byte) : (writeByte s a b).poison = s.poison := rfl
@[simp] theorem writeByte_agenda (s : State) (a : Nat) (b : Byte) : (writeByte s a b).agenda = s.agenda := rfl
@[simp] theorem writeByte_arg (s : State) (a : Nat) (b : Byte) : (writeByte s a b).arg = s.arg := rfl
@[simp] theorem writeByte_fields (s : State) (a : Nat) (b : Byte) : (writeByte s a b).fields = s.fields := rfl
@[simp] theorem writeByte_clusters (s : State) (a : Nat) (b : Byte) : (writeByte s a b).clusters = s.clusters := rfl
@[simp] theorem writeByte_cisterns (s : State) (a : Nat) (b : Byte) : (writeByte s a b).cisterns = s.cisterns := rfl
@[simp] theorem writeByte_conduits (s : State) (a : Nat) (b : Byte) : (writeByte s a b).conduits = s.conduits := rfl
@[simp] theorem writeByte_csets (s : State) (a : Nat) (b : Byte) : (writeByte s a b).csets = s.csets := rfl
@[simp] theorem writeByte_records (s : State) (a : Nat) (b : Byte) : (writeByte s a b).records = s.records := rfl
@[simp] theorem writeByte_rillQ (s : State) (a : Nat) (b : Byte) : (writeByte s a b).rillQ = s.rillQ := rfl
@[simp] theorem writeByte_firmStore (s : State) (a : Nat) (b : Byte) : (writeByte s a b).firmStore = s.firmStore := rfl
@[simp] theorem writeByte_firmRun (s : State) (a : Nat) (b : Byte) : (writeByte s a b).firmRun = s.firmRun := rfl
@[simp] theorem writeByte_parts (s : State) (a : Nat) (b : Byte) : (writeByte s a b).parts = s.parts := rfl
@[simp] theorem writeByte_vfs (s : State) (a : Nat) (b : Byte) : (writeByte s a b).vfs = s.vfs := rfl
@[simp] theorem writeByte_windows (s : State) (a : Nat) (b : Byte) : (writeByte s a b).windows = s.windows := rfl
@[simp] theorem writeByte_stripes (s : State) (a : Nat) (b : Byte) : (writeByte s a b).stripes = s.stripes := rfl
@[simp] theorem writeByte_localUnits (s : State) (a : Nat) (b : Byte) : (writeByte s a b).localUnits = s.localUnits := rfl
@[simp] theorem writeByte_partErr (s : State) (a : Nat) (b : Byte) : (writeByte s a b).partErr = s.partErr := rfl
@[simp] theorem writeByte_fleetId (s : State) (a : Nat) (b : Byte) : (writeByte s a b).fleetId = s.fleetId := rfl
@[simp] theorem writeByte_presentFields (s : State) (a : Nat) (b : Byte) : (writeByte s a b).presentFields = s.presentFields := rfl
@[simp] theorem writeByte_presentCisterns (s : State) (a : Nat) (b : Byte) : (writeByte s a b).presentCisterns = s.presentCisterns := rfl
@[simp] theorem writeByte_presentConduits (s : State) (a : Nat) (b : Byte) : (writeByte s a b).presentConduits = s.presentConduits := rfl
@[simp] theorem writeByte_rillTrained (s : State) (a : Nat) (b : Byte) : (writeByte s a b).rillTrained = s.rillTrained := rfl
@[simp] theorem writeByte_capacityGB (s : State) (a : Nat) (b : Byte) : (writeByte s a b).capacityGB = s.capacityGB := rfl
@[simp] theorem writeByte_hbmChannels (s : State) (a : Nat) (b : Byte) : (writeByte s a b).hbmChannels = s.hbmChannels := rfl
@[simp] theorem writeByte_net (s : State) (a : Nat) (b : Byte) : (writeByte s a b).net = s.net := rfl
@[simp] theorem writeByte_launches (s : State) (a : Nat) (b : Byte) : (writeByte s a b).launches = s.launches := rfl
@[simp] theorem writeByte_nextLaunch (s : State) (a : Nat) (b : Byte) : (writeByte s a b).nextLaunch = s.nextLaunch := rfl
@[simp] theorem writeByte_colls (s : State) (a : Nat) (b : Byte) : (writeByte s a b).colls = s.colls := rfl
@[simp] theorem writeByte_cuts (s : State) (a : Nat) (b : Byte) : (writeByte s a b).cuts = s.cuts := rfl
@[simp] theorem writeByte_nextCut (s : State) (a : Nat) (b : Byte) : (writeByte s a b).nextCut = s.nextCut := rfl
@[simp] theorem writeByte_images (s : State) (a : Nat) (b : Byte) : (writeByte s a b).images = s.images := rfl
@[simp] theorem writeByte_hostOut (s : State) (a : Nat) (b : Byte) : (writeByte s a b).hostOut = s.hostOut := rfl
@[simp] theorem writeByte_lifetime (s : State) (a : Nat) (b : Byte) : (writeByte s a b).lifetime = s.lifetime := rfl
@[simp] theorem writeByte_deadLinks (s : State) (a : Nat) (b : Byte) : (writeByte s a b).deadLinks = s.deadLinks := rfl
@[simp] theorem writeByte_time (s : State) (a : Nat) (b : Byte) : (writeByte s a b).time = s.time := rfl
@[simp] theorem writeByte_freeCtr (s : State) (a : Nat) (b : Byte) : (writeByte s a b).freeCtr = s.freeCtr := rfl
@[simp] theorem writeByte_spouts (s : State) (a : Nat) (b : Byte) : (writeByte s a b).spouts = s.spouts := rfl

/- scheduleAt, schedule and addTurn: only the schedule -/

@[simp] theorem scheduleAt_tile (s : State) (t : Nat) (i : Instr) (l : List Nat) : (scheduleAt s t i l).tile = s.tile := by unfold scheduleAt; split <;> rfl
@[simp] theorem scheduleAt_others (s : State) (t : Nat) (i : Instr) (l : List Nat) : (scheduleAt s t i l).others = s.others := by unfold scheduleAt; split <;> rfl
@[simp] theorem scheduleAt_mem (s : State) (t : Nat) (i : Instr) (l : List Nat) : (scheduleAt s t i l).mem = s.mem := by unfold scheduleAt; split <;> rfl
@[simp] theorem scheduleAt_undef (s : State) (t : Nat) (i : Instr) (l : List Nat) : (scheduleAt s t i l).undef = s.undef := by unfold scheduleAt; split <;> rfl
@[simp] theorem scheduleAt_poison (s : State) (t : Nat) (i : Instr) (l : List Nat) : (scheduleAt s t i l).poison = s.poison := by unfold scheduleAt; split <;> rfl
@[simp] theorem scheduleAt_arg (s : State) (t : Nat) (i : Instr) (l : List Nat) : (scheduleAt s t i l).arg = s.arg := by unfold scheduleAt; split <;> rfl
@[simp] theorem scheduleAt_fields (s : State) (t : Nat) (i : Instr) (l : List Nat) : (scheduleAt s t i l).fields = s.fields := by unfold scheduleAt; split <;> rfl
@[simp] theorem scheduleAt_clusters (s : State) (t : Nat) (i : Instr) (l : List Nat) : (scheduleAt s t i l).clusters = s.clusters := by unfold scheduleAt; split <;> rfl
@[simp] theorem scheduleAt_cisterns (s : State) (t : Nat) (i : Instr) (l : List Nat) : (scheduleAt s t i l).cisterns = s.cisterns := by unfold scheduleAt; split <;> rfl
@[simp] theorem scheduleAt_conduits (s : State) (t : Nat) (i : Instr) (l : List Nat) : (scheduleAt s t i l).conduits = s.conduits := by unfold scheduleAt; split <;> rfl
@[simp] theorem scheduleAt_csets (s : State) (t : Nat) (i : Instr) (l : List Nat) : (scheduleAt s t i l).csets = s.csets := by unfold scheduleAt; split <;> rfl
@[simp] theorem scheduleAt_records (s : State) (t : Nat) (i : Instr) (l : List Nat) : (scheduleAt s t i l).records = s.records := by unfold scheduleAt; split <;> rfl
@[simp] theorem scheduleAt_rillQ (s : State) (t : Nat) (i : Instr) (l : List Nat) : (scheduleAt s t i l).rillQ = s.rillQ := by unfold scheduleAt; split <;> rfl
@[simp] theorem scheduleAt_firmStore (s : State) (t : Nat) (i : Instr) (l : List Nat) : (scheduleAt s t i l).firmStore = s.firmStore := by unfold scheduleAt; split <;> rfl
@[simp] theorem scheduleAt_firmRun (s : State) (t : Nat) (i : Instr) (l : List Nat) : (scheduleAt s t i l).firmRun = s.firmRun := by unfold scheduleAt; split <;> rfl
@[simp] theorem scheduleAt_parts (s : State) (t : Nat) (i : Instr) (l : List Nat) : (scheduleAt s t i l).parts = s.parts := by unfold scheduleAt; split <;> rfl
@[simp] theorem scheduleAt_vfs (s : State) (t : Nat) (i : Instr) (l : List Nat) : (scheduleAt s t i l).vfs = s.vfs := by unfold scheduleAt; split <;> rfl
@[simp] theorem scheduleAt_windows (s : State) (t : Nat) (i : Instr) (l : List Nat) : (scheduleAt s t i l).windows = s.windows := by unfold scheduleAt; split <;> rfl
@[simp] theorem scheduleAt_stripes (s : State) (t : Nat) (i : Instr) (l : List Nat) : (scheduleAt s t i l).stripes = s.stripes := by unfold scheduleAt; split <;> rfl
@[simp] theorem scheduleAt_localUnits (s : State) (t : Nat) (i : Instr) (l : List Nat) : (scheduleAt s t i l).localUnits = s.localUnits := by unfold scheduleAt; split <;> rfl
@[simp] theorem scheduleAt_partErr (s : State) (t : Nat) (i : Instr) (l : List Nat) : (scheduleAt s t i l).partErr = s.partErr := by unfold scheduleAt; split <;> rfl
@[simp] theorem scheduleAt_fleetId (s : State) (t : Nat) (i : Instr) (l : List Nat) : (scheduleAt s t i l).fleetId = s.fleetId := by unfold scheduleAt; split <;> rfl
@[simp] theorem scheduleAt_presentFields (s : State) (t : Nat) (i : Instr) (l : List Nat) : (scheduleAt s t i l).presentFields = s.presentFields := by unfold scheduleAt; split <;> rfl
@[simp] theorem scheduleAt_presentCisterns (s : State) (t : Nat) (i : Instr) (l : List Nat) : (scheduleAt s t i l).presentCisterns = s.presentCisterns := by unfold scheduleAt; split <;> rfl
@[simp] theorem scheduleAt_presentConduits (s : State) (t : Nat) (i : Instr) (l : List Nat) : (scheduleAt s t i l).presentConduits = s.presentConduits := by unfold scheduleAt; split <;> rfl
@[simp] theorem scheduleAt_rillTrained (s : State) (t : Nat) (i : Instr) (l : List Nat) : (scheduleAt s t i l).rillTrained = s.rillTrained := by unfold scheduleAt; split <;> rfl
@[simp] theorem scheduleAt_capacityGB (s : State) (t : Nat) (i : Instr) (l : List Nat) : (scheduleAt s t i l).capacityGB = s.capacityGB := by unfold scheduleAt; split <;> rfl
@[simp] theorem scheduleAt_hbmChannels (s : State) (t : Nat) (i : Instr) (l : List Nat) : (scheduleAt s t i l).hbmChannels = s.hbmChannels := by unfold scheduleAt; split <;> rfl
@[simp] theorem scheduleAt_net (s : State) (t : Nat) (i : Instr) (l : List Nat) : (scheduleAt s t i l).net = s.net := by unfold scheduleAt; split <;> rfl
@[simp] theorem scheduleAt_launches (s : State) (t : Nat) (i : Instr) (l : List Nat) : (scheduleAt s t i l).launches = s.launches := by unfold scheduleAt; split <;> rfl
@[simp] theorem scheduleAt_nextLaunch (s : State) (t : Nat) (i : Instr) (l : List Nat) : (scheduleAt s t i l).nextLaunch = s.nextLaunch := by unfold scheduleAt; split <;> rfl
@[simp] theorem scheduleAt_colls (s : State) (t : Nat) (i : Instr) (l : List Nat) : (scheduleAt s t i l).colls = s.colls := by unfold scheduleAt; split <;> rfl
@[simp] theorem scheduleAt_cuts (s : State) (t : Nat) (i : Instr) (l : List Nat) : (scheduleAt s t i l).cuts = s.cuts := by unfold scheduleAt; split <;> rfl
@[simp] theorem scheduleAt_nextCut (s : State) (t : Nat) (i : Instr) (l : List Nat) : (scheduleAt s t i l).nextCut = s.nextCut := by unfold scheduleAt; split <;> rfl
@[simp] theorem scheduleAt_images (s : State) (t : Nat) (i : Instr) (l : List Nat) : (scheduleAt s t i l).images = s.images := by unfold scheduleAt; split <;> rfl
@[simp] theorem scheduleAt_hostOut (s : State) (t : Nat) (i : Instr) (l : List Nat) : (scheduleAt s t i l).hostOut = s.hostOut := by unfold scheduleAt; split <;> rfl
@[simp] theorem scheduleAt_lifetime (s : State) (t : Nat) (i : Instr) (l : List Nat) : (scheduleAt s t i l).lifetime = s.lifetime := by unfold scheduleAt; split <;> rfl
@[simp] theorem scheduleAt_deadLinks (s : State) (t : Nat) (i : Instr) (l : List Nat) : (scheduleAt s t i l).deadLinks = s.deadLinks := by unfold scheduleAt; split <;> rfl
@[simp] theorem scheduleAt_time (s : State) (t : Nat) (i : Instr) (l : List Nat) : (scheduleAt s t i l).time = s.time := by unfold scheduleAt; split <;> rfl
@[simp] theorem scheduleAt_freeCtr (s : State) (t : Nat) (i : Instr) (l : List Nat) : (scheduleAt s t i l).freeCtr = s.freeCtr := by unfold scheduleAt; split <;> rfl
@[simp] theorem scheduleAt_spouts (s : State) (t : Nat) (i : Instr) (l : List Nat) : (scheduleAt s t i l).spouts = s.spouts := by unfold scheduleAt; split <;> rfl
@[simp] theorem schedule_tile (t : Nat) (l : List (Instr × List Nat)) (s : State) : (schedule s t l).tile = s.tile := by
  induction l generalizing s with
  | nil => rfl
  | cons e r ih => exact (ih _).trans (scheduleAt_tile s t e.1 e.2)
@[simp] theorem schedule_others (t : Nat) (l : List (Instr × List Nat)) (s : State) : (schedule s t l).others = s.others := by
  induction l generalizing s with
  | nil => rfl
  | cons e r ih => exact (ih _).trans (scheduleAt_others s t e.1 e.2)
@[simp] theorem schedule_mem (t : Nat) (l : List (Instr × List Nat)) (s : State) : (schedule s t l).mem = s.mem := by
  induction l generalizing s with
  | nil => rfl
  | cons e r ih => exact (ih _).trans (scheduleAt_mem s t e.1 e.2)
@[simp] theorem schedule_undef (t : Nat) (l : List (Instr × List Nat)) (s : State) : (schedule s t l).undef = s.undef := by
  induction l generalizing s with
  | nil => rfl
  | cons e r ih => exact (ih _).trans (scheduleAt_undef s t e.1 e.2)
@[simp] theorem schedule_poison (t : Nat) (l : List (Instr × List Nat)) (s : State) : (schedule s t l).poison = s.poison := by
  induction l generalizing s with
  | nil => rfl
  | cons e r ih => exact (ih _).trans (scheduleAt_poison s t e.1 e.2)
@[simp] theorem schedule_arg (t : Nat) (l : List (Instr × List Nat)) (s : State) : (schedule s t l).arg = s.arg := by
  induction l generalizing s with
  | nil => rfl
  | cons e r ih => exact (ih _).trans (scheduleAt_arg s t e.1 e.2)
@[simp] theorem schedule_fields (t : Nat) (l : List (Instr × List Nat)) (s : State) : (schedule s t l).fields = s.fields := by
  induction l generalizing s with
  | nil => rfl
  | cons e r ih => exact (ih _).trans (scheduleAt_fields s t e.1 e.2)
@[simp] theorem schedule_clusters (t : Nat) (l : List (Instr × List Nat)) (s : State) : (schedule s t l).clusters = s.clusters := by
  induction l generalizing s with
  | nil => rfl
  | cons e r ih => exact (ih _).trans (scheduleAt_clusters s t e.1 e.2)
@[simp] theorem schedule_cisterns (t : Nat) (l : List (Instr × List Nat)) (s : State) : (schedule s t l).cisterns = s.cisterns := by
  induction l generalizing s with
  | nil => rfl
  | cons e r ih => exact (ih _).trans (scheduleAt_cisterns s t e.1 e.2)
@[simp] theorem schedule_conduits (t : Nat) (l : List (Instr × List Nat)) (s : State) : (schedule s t l).conduits = s.conduits := by
  induction l generalizing s with
  | nil => rfl
  | cons e r ih => exact (ih _).trans (scheduleAt_conduits s t e.1 e.2)
@[simp] theorem schedule_csets (t : Nat) (l : List (Instr × List Nat)) (s : State) : (schedule s t l).csets = s.csets := by
  induction l generalizing s with
  | nil => rfl
  | cons e r ih => exact (ih _).trans (scheduleAt_csets s t e.1 e.2)
@[simp] theorem schedule_records (t : Nat) (l : List (Instr × List Nat)) (s : State) : (schedule s t l).records = s.records := by
  induction l generalizing s with
  | nil => rfl
  | cons e r ih => exact (ih _).trans (scheduleAt_records s t e.1 e.2)
@[simp] theorem schedule_rillQ (t : Nat) (l : List (Instr × List Nat)) (s : State) : (schedule s t l).rillQ = s.rillQ := by
  induction l generalizing s with
  | nil => rfl
  | cons e r ih => exact (ih _).trans (scheduleAt_rillQ s t e.1 e.2)
@[simp] theorem schedule_firmStore (t : Nat) (l : List (Instr × List Nat)) (s : State) : (schedule s t l).firmStore = s.firmStore := by
  induction l generalizing s with
  | nil => rfl
  | cons e r ih => exact (ih _).trans (scheduleAt_firmStore s t e.1 e.2)
@[simp] theorem schedule_firmRun (t : Nat) (l : List (Instr × List Nat)) (s : State) : (schedule s t l).firmRun = s.firmRun := by
  induction l generalizing s with
  | nil => rfl
  | cons e r ih => exact (ih _).trans (scheduleAt_firmRun s t e.1 e.2)
@[simp] theorem schedule_parts (t : Nat) (l : List (Instr × List Nat)) (s : State) : (schedule s t l).parts = s.parts := by
  induction l generalizing s with
  | nil => rfl
  | cons e r ih => exact (ih _).trans (scheduleAt_parts s t e.1 e.2)
@[simp] theorem schedule_vfs (t : Nat) (l : List (Instr × List Nat)) (s : State) : (schedule s t l).vfs = s.vfs := by
  induction l generalizing s with
  | nil => rfl
  | cons e r ih => exact (ih _).trans (scheduleAt_vfs s t e.1 e.2)
@[simp] theorem schedule_windows (t : Nat) (l : List (Instr × List Nat)) (s : State) : (schedule s t l).windows = s.windows := by
  induction l generalizing s with
  | nil => rfl
  | cons e r ih => exact (ih _).trans (scheduleAt_windows s t e.1 e.2)
@[simp] theorem schedule_stripes (t : Nat) (l : List (Instr × List Nat)) (s : State) : (schedule s t l).stripes = s.stripes := by
  induction l generalizing s with
  | nil => rfl
  | cons e r ih => exact (ih _).trans (scheduleAt_stripes s t e.1 e.2)
@[simp] theorem schedule_localUnits (t : Nat) (l : List (Instr × List Nat)) (s : State) : (schedule s t l).localUnits = s.localUnits := by
  induction l generalizing s with
  | nil => rfl
  | cons e r ih => exact (ih _).trans (scheduleAt_localUnits s t e.1 e.2)
@[simp] theorem schedule_partErr (t : Nat) (l : List (Instr × List Nat)) (s : State) : (schedule s t l).partErr = s.partErr := by
  induction l generalizing s with
  | nil => rfl
  | cons e r ih => exact (ih _).trans (scheduleAt_partErr s t e.1 e.2)
@[simp] theorem schedule_fleetId (t : Nat) (l : List (Instr × List Nat)) (s : State) : (schedule s t l).fleetId = s.fleetId := by
  induction l generalizing s with
  | nil => rfl
  | cons e r ih => exact (ih _).trans (scheduleAt_fleetId s t e.1 e.2)
@[simp] theorem schedule_presentFields (t : Nat) (l : List (Instr × List Nat)) (s : State) : (schedule s t l).presentFields = s.presentFields := by
  induction l generalizing s with
  | nil => rfl
  | cons e r ih => exact (ih _).trans (scheduleAt_presentFields s t e.1 e.2)
@[simp] theorem schedule_presentCisterns (t : Nat) (l : List (Instr × List Nat)) (s : State) : (schedule s t l).presentCisterns = s.presentCisterns := by
  induction l generalizing s with
  | nil => rfl
  | cons e r ih => exact (ih _).trans (scheduleAt_presentCisterns s t e.1 e.2)
@[simp] theorem schedule_presentConduits (t : Nat) (l : List (Instr × List Nat)) (s : State) : (schedule s t l).presentConduits = s.presentConduits := by
  induction l generalizing s with
  | nil => rfl
  | cons e r ih => exact (ih _).trans (scheduleAt_presentConduits s t e.1 e.2)
@[simp] theorem schedule_rillTrained (t : Nat) (l : List (Instr × List Nat)) (s : State) : (schedule s t l).rillTrained = s.rillTrained := by
  induction l generalizing s with
  | nil => rfl
  | cons e r ih => exact (ih _).trans (scheduleAt_rillTrained s t e.1 e.2)
@[simp] theorem schedule_capacityGB (t : Nat) (l : List (Instr × List Nat)) (s : State) : (schedule s t l).capacityGB = s.capacityGB := by
  induction l generalizing s with
  | nil => rfl
  | cons e r ih => exact (ih _).trans (scheduleAt_capacityGB s t e.1 e.2)
@[simp] theorem schedule_hbmChannels (t : Nat) (l : List (Instr × List Nat)) (s : State) : (schedule s t l).hbmChannels = s.hbmChannels := by
  induction l generalizing s with
  | nil => rfl
  | cons e r ih => exact (ih _).trans (scheduleAt_hbmChannels s t e.1 e.2)
@[simp] theorem schedule_net (t : Nat) (l : List (Instr × List Nat)) (s : State) : (schedule s t l).net = s.net := by
  induction l generalizing s with
  | nil => rfl
  | cons e r ih => exact (ih _).trans (scheduleAt_net s t e.1 e.2)
@[simp] theorem schedule_launches (t : Nat) (l : List (Instr × List Nat)) (s : State) : (schedule s t l).launches = s.launches := by
  induction l generalizing s with
  | nil => rfl
  | cons e r ih => exact (ih _).trans (scheduleAt_launches s t e.1 e.2)
@[simp] theorem schedule_nextLaunch (t : Nat) (l : List (Instr × List Nat)) (s : State) : (schedule s t l).nextLaunch = s.nextLaunch := by
  induction l generalizing s with
  | nil => rfl
  | cons e r ih => exact (ih _).trans (scheduleAt_nextLaunch s t e.1 e.2)
@[simp] theorem schedule_colls (t : Nat) (l : List (Instr × List Nat)) (s : State) : (schedule s t l).colls = s.colls := by
  induction l generalizing s with
  | nil => rfl
  | cons e r ih => exact (ih _).trans (scheduleAt_colls s t e.1 e.2)
@[simp] theorem schedule_cuts (t : Nat) (l : List (Instr × List Nat)) (s : State) : (schedule s t l).cuts = s.cuts := by
  induction l generalizing s with
  | nil => rfl
  | cons e r ih => exact (ih _).trans (scheduleAt_cuts s t e.1 e.2)
@[simp] theorem schedule_nextCut (t : Nat) (l : List (Instr × List Nat)) (s : State) : (schedule s t l).nextCut = s.nextCut := by
  induction l generalizing s with
  | nil => rfl
  | cons e r ih => exact (ih _).trans (scheduleAt_nextCut s t e.1 e.2)
@[simp] theorem schedule_images (t : Nat) (l : List (Instr × List Nat)) (s : State) : (schedule s t l).images = s.images := by
  induction l generalizing s with
  | nil => rfl
  | cons e r ih => exact (ih _).trans (scheduleAt_images s t e.1 e.2)
@[simp] theorem schedule_hostOut (t : Nat) (l : List (Instr × List Nat)) (s : State) : (schedule s t l).hostOut = s.hostOut := by
  induction l generalizing s with
  | nil => rfl
  | cons e r ih => exact (ih _).trans (scheduleAt_hostOut s t e.1 e.2)
@[simp] theorem schedule_lifetime (t : Nat) (l : List (Instr × List Nat)) (s : State) : (schedule s t l).lifetime = s.lifetime := by
  induction l generalizing s with
  | nil => rfl
  | cons e r ih => exact (ih _).trans (scheduleAt_lifetime s t e.1 e.2)
@[simp] theorem schedule_deadLinks (t : Nat) (l : List (Instr × List Nat)) (s : State) : (schedule s t l).deadLinks = s.deadLinks := by
  induction l generalizing s with
  | nil => rfl
  | cons e r ih => exact (ih _).trans (scheduleAt_deadLinks s t e.1 e.2)
@[simp] theorem schedule_time (t : Nat) (l : List (Instr × List Nat)) (s : State) : (schedule s t l).time = s.time := by
  induction l generalizing s with
  | nil => rfl
  | cons e r ih => exact (ih _).trans (scheduleAt_time s t e.1 e.2)
@[simp] theorem schedule_freeCtr (t : Nat) (l : List (Instr × List Nat)) (s : State) : (schedule s t l).freeCtr = s.freeCtr := by
  induction l generalizing s with
  | nil => rfl
  | cons e r ih => exact (ih _).trans (scheduleAt_freeCtr s t e.1 e.2)
@[simp] theorem schedule_spouts (t : Nat) (l : List (Instr × List Nat)) (s : State) : (schedule s t l).spouts = s.spouts := by
  induction l generalizing s with
  | nil => rfl
  | cons e r ih => exact (ih _).trans (scheduleAt_spouts s t e.1 e.2)
@[simp] theorem addTurn_tile (s : State) (t : Turn) : (addTurn s t).tile = s.tile := by unfold addTurn; split <;> rfl
@[simp] theorem addTurn_others (s : State) (t : Turn) : (addTurn s t).others = s.others := by unfold addTurn; split <;> rfl
@[simp] theorem addTurn_mem (s : State) (t : Turn) : (addTurn s t).mem = s.mem := by unfold addTurn; split <;> rfl
@[simp] theorem addTurn_undef (s : State) (t : Turn) : (addTurn s t).undef = s.undef := by unfold addTurn; split <;> rfl
@[simp] theorem addTurn_poison (s : State) (t : Turn) : (addTurn s t).poison = s.poison := by unfold addTurn; split <;> rfl
@[simp] theorem addTurn_arg (s : State) (t : Turn) : (addTurn s t).arg = s.arg := by unfold addTurn; split <;> rfl
@[simp] theorem addTurn_fields (s : State) (t : Turn) : (addTurn s t).fields = s.fields := by unfold addTurn; split <;> rfl
@[simp] theorem addTurn_clusters (s : State) (t : Turn) : (addTurn s t).clusters = s.clusters := by unfold addTurn; split <;> rfl
@[simp] theorem addTurn_cisterns (s : State) (t : Turn) : (addTurn s t).cisterns = s.cisterns := by unfold addTurn; split <;> rfl
@[simp] theorem addTurn_conduits (s : State) (t : Turn) : (addTurn s t).conduits = s.conduits := by unfold addTurn; split <;> rfl
@[simp] theorem addTurn_csets (s : State) (t : Turn) : (addTurn s t).csets = s.csets := by unfold addTurn; split <;> rfl
@[simp] theorem addTurn_records (s : State) (t : Turn) : (addTurn s t).records = s.records := by unfold addTurn; split <;> rfl
@[simp] theorem addTurn_rillQ (s : State) (t : Turn) : (addTurn s t).rillQ = s.rillQ := by unfold addTurn; split <;> rfl
@[simp] theorem addTurn_firmStore (s : State) (t : Turn) : (addTurn s t).firmStore = s.firmStore := by unfold addTurn; split <;> rfl
@[simp] theorem addTurn_firmRun (s : State) (t : Turn) : (addTurn s t).firmRun = s.firmRun := by unfold addTurn; split <;> rfl
@[simp] theorem addTurn_parts (s : State) (t : Turn) : (addTurn s t).parts = s.parts := by unfold addTurn; split <;> rfl
@[simp] theorem addTurn_vfs (s : State) (t : Turn) : (addTurn s t).vfs = s.vfs := by unfold addTurn; split <;> rfl
@[simp] theorem addTurn_windows (s : State) (t : Turn) : (addTurn s t).windows = s.windows := by unfold addTurn; split <;> rfl
@[simp] theorem addTurn_stripes (s : State) (t : Turn) : (addTurn s t).stripes = s.stripes := by unfold addTurn; split <;> rfl
@[simp] theorem addTurn_localUnits (s : State) (t : Turn) : (addTurn s t).localUnits = s.localUnits := by unfold addTurn; split <;> rfl
@[simp] theorem addTurn_partErr (s : State) (t : Turn) : (addTurn s t).partErr = s.partErr := by unfold addTurn; split <;> rfl
@[simp] theorem addTurn_fleetId (s : State) (t : Turn) : (addTurn s t).fleetId = s.fleetId := by unfold addTurn; split <;> rfl
@[simp] theorem addTurn_presentFields (s : State) (t : Turn) : (addTurn s t).presentFields = s.presentFields := by unfold addTurn; split <;> rfl
@[simp] theorem addTurn_presentCisterns (s : State) (t : Turn) : (addTurn s t).presentCisterns = s.presentCisterns := by unfold addTurn; split <;> rfl
@[simp] theorem addTurn_presentConduits (s : State) (t : Turn) : (addTurn s t).presentConduits = s.presentConduits := by unfold addTurn; split <;> rfl
@[simp] theorem addTurn_rillTrained (s : State) (t : Turn) : (addTurn s t).rillTrained = s.rillTrained := by unfold addTurn; split <;> rfl
@[simp] theorem addTurn_capacityGB (s : State) (t : Turn) : (addTurn s t).capacityGB = s.capacityGB := by unfold addTurn; split <;> rfl
@[simp] theorem addTurn_hbmChannels (s : State) (t : Turn) : (addTurn s t).hbmChannels = s.hbmChannels := by unfold addTurn; split <;> rfl
@[simp] theorem addTurn_net (s : State) (t : Turn) : (addTurn s t).net = s.net := by unfold addTurn; split <;> rfl
@[simp] theorem addTurn_launches (s : State) (t : Turn) : (addTurn s t).launches = s.launches := by unfold addTurn; split <;> rfl
@[simp] theorem addTurn_nextLaunch (s : State) (t : Turn) : (addTurn s t).nextLaunch = s.nextLaunch := by unfold addTurn; split <;> rfl
@[simp] theorem addTurn_colls (s : State) (t : Turn) : (addTurn s t).colls = s.colls := by unfold addTurn; split <;> rfl
@[simp] theorem addTurn_cuts (s : State) (t : Turn) : (addTurn s t).cuts = s.cuts := by unfold addTurn; split <;> rfl
@[simp] theorem addTurn_nextCut (s : State) (t : Turn) : (addTurn s t).nextCut = s.nextCut := by unfold addTurn; split <;> rfl
@[simp] theorem addTurn_images (s : State) (t : Turn) : (addTurn s t).images = s.images := by unfold addTurn; split <;> rfl
@[simp] theorem addTurn_hostOut (s : State) (t : Turn) : (addTurn s t).hostOut = s.hostOut := by unfold addTurn; split <;> rfl
@[simp] theorem addTurn_lifetime (s : State) (t : Turn) : (addTurn s t).lifetime = s.lifetime := by unfold addTurn; split <;> rfl
@[simp] theorem addTurn_deadLinks (s : State) (t : Turn) : (addTurn s t).deadLinks = s.deadLinks := by unfold addTurn; split <;> rfl
@[simp] theorem addTurn_time (s : State) (t : Turn) : (addTurn s t).time = s.time := by unfold addTurn; split <;> rfl
@[simp] theorem addTurn_freeCtr (s : State) (t : Turn) : (addTurn s t).freeCtr = s.freeCtr := by unfold addTurn; split <;> rfl
@[simp] theorem addTurn_spouts (s : State) (t : Turn) : (addTurn s t).spouts = s.spouts := by unfold addTurn; split <;> rfl

/- the units of the state -/

@[simp] theorem updField_tile (s : State) (n : Nat) (g : Field → Field) : (updField s n g).tile = s.tile := rfl
@[simp] theorem updField_others (s : State) (n : Nat) (g : Field → Field) : (updField s n g).others = s.others := rfl
@[simp] theorem updField_mem (s : State) (n : Nat) (g : Field → Field) : (updField s n g).mem = s.mem := rfl
@[simp] theorem updField_undef (s : State) (n : Nat) (g : Field → Field) : (updField s n g).undef = s.undef := rfl
@[simp] theorem updField_poison (s : State) (n : Nat) (g : Field → Field) : (updField s n g).poison = s.poison := rfl
@[simp] theorem updField_agenda (s : State) (n : Nat) (g : Field → Field) : (updField s n g).agenda = s.agenda := rfl
@[simp] theorem updField_arg (s : State) (n : Nat) (g : Field → Field) : (updField s n g).arg = s.arg := rfl
@[simp] theorem updField_clusters (s : State) (n : Nat) (g : Field → Field) : (updField s n g).clusters = s.clusters := rfl
@[simp] theorem updField_cisterns (s : State) (n : Nat) (g : Field → Field) : (updField s n g).cisterns = s.cisterns := rfl
@[simp] theorem updField_conduits (s : State) (n : Nat) (g : Field → Field) : (updField s n g).conduits = s.conduits := rfl
@[simp] theorem updField_csets (s : State) (n : Nat) (g : Field → Field) : (updField s n g).csets = s.csets := rfl
@[simp] theorem updField_records (s : State) (n : Nat) (g : Field → Field) : (updField s n g).records = s.records := rfl
@[simp] theorem updField_rillQ (s : State) (n : Nat) (g : Field → Field) : (updField s n g).rillQ = s.rillQ := rfl
@[simp] theorem updField_firmStore (s : State) (n : Nat) (g : Field → Field) : (updField s n g).firmStore = s.firmStore := rfl
@[simp] theorem updField_firmRun (s : State) (n : Nat) (g : Field → Field) : (updField s n g).firmRun = s.firmRun := rfl
@[simp] theorem updField_parts (s : State) (n : Nat) (g : Field → Field) : (updField s n g).parts = s.parts := rfl
@[simp] theorem updField_vfs (s : State) (n : Nat) (g : Field → Field) : (updField s n g).vfs = s.vfs := rfl
@[simp] theorem updField_windows (s : State) (n : Nat) (g : Field → Field) : (updField s n g).windows = s.windows := rfl
@[simp] theorem updField_stripes (s : State) (n : Nat) (g : Field → Field) : (updField s n g).stripes = s.stripes := rfl
@[simp] theorem updField_localUnits (s : State) (n : Nat) (g : Field → Field) : (updField s n g).localUnits = s.localUnits := rfl
@[simp] theorem updField_partErr (s : State) (n : Nat) (g : Field → Field) : (updField s n g).partErr = s.partErr := rfl
@[simp] theorem updField_fleetId (s : State) (n : Nat) (g : Field → Field) : (updField s n g).fleetId = s.fleetId := rfl
@[simp] theorem updField_presentFields (s : State) (n : Nat) (g : Field → Field) : (updField s n g).presentFields = s.presentFields := rfl
@[simp] theorem updField_presentCisterns (s : State) (n : Nat) (g : Field → Field) : (updField s n g).presentCisterns = s.presentCisterns := rfl
@[simp] theorem updField_presentConduits (s : State) (n : Nat) (g : Field → Field) : (updField s n g).presentConduits = s.presentConduits := rfl
@[simp] theorem updField_rillTrained (s : State) (n : Nat) (g : Field → Field) : (updField s n g).rillTrained = s.rillTrained := rfl
@[simp] theorem updField_capacityGB (s : State) (n : Nat) (g : Field → Field) : (updField s n g).capacityGB = s.capacityGB := rfl
@[simp] theorem updField_hbmChannels (s : State) (n : Nat) (g : Field → Field) : (updField s n g).hbmChannels = s.hbmChannels := rfl
@[simp] theorem updField_net (s : State) (n : Nat) (g : Field → Field) : (updField s n g).net = s.net := rfl
@[simp] theorem updField_launches (s : State) (n : Nat) (g : Field → Field) : (updField s n g).launches = s.launches := rfl
@[simp] theorem updField_nextLaunch (s : State) (n : Nat) (g : Field → Field) : (updField s n g).nextLaunch = s.nextLaunch := rfl
@[simp] theorem updField_colls (s : State) (n : Nat) (g : Field → Field) : (updField s n g).colls = s.colls := rfl
@[simp] theorem updField_cuts (s : State) (n : Nat) (g : Field → Field) : (updField s n g).cuts = s.cuts := rfl
@[simp] theorem updField_nextCut (s : State) (n : Nat) (g : Field → Field) : (updField s n g).nextCut = s.nextCut := rfl
@[simp] theorem updField_images (s : State) (n : Nat) (g : Field → Field) : (updField s n g).images = s.images := rfl
@[simp] theorem updField_hostOut (s : State) (n : Nat) (g : Field → Field) : (updField s n g).hostOut = s.hostOut := rfl
@[simp] theorem updField_lifetime (s : State) (n : Nat) (g : Field → Field) : (updField s n g).lifetime = s.lifetime := rfl
@[simp] theorem updField_deadLinks (s : State) (n : Nat) (g : Field → Field) : (updField s n g).deadLinks = s.deadLinks := rfl
@[simp] theorem updField_time (s : State) (n : Nat) (g : Field → Field) : (updField s n g).time = s.time := rfl
@[simp] theorem updField_freeCtr (s : State) (n : Nat) (g : Field → Field) : (updField s n g).freeCtr = s.freeCtr := rfl
@[simp] theorem updField_spouts (s : State) (n : Nat) (g : Field → Field) : (updField s n g).spouts = s.spouts := rfl
@[simp] theorem updCluster_tile (s : State) (n : Nat) (g : Cluster → Cluster) : (updCluster s n g).tile = s.tile := rfl
@[simp] theorem updCluster_others (s : State) (n : Nat) (g : Cluster → Cluster) : (updCluster s n g).others = s.others := rfl
@[simp] theorem updCluster_mem (s : State) (n : Nat) (g : Cluster → Cluster) : (updCluster s n g).mem = s.mem := rfl
@[simp] theorem updCluster_undef (s : State) (n : Nat) (g : Cluster → Cluster) : (updCluster s n g).undef = s.undef := rfl
@[simp] theorem updCluster_poison (s : State) (n : Nat) (g : Cluster → Cluster) : (updCluster s n g).poison = s.poison := rfl
@[simp] theorem updCluster_agenda (s : State) (n : Nat) (g : Cluster → Cluster) : (updCluster s n g).agenda = s.agenda := rfl
@[simp] theorem updCluster_arg (s : State) (n : Nat) (g : Cluster → Cluster) : (updCluster s n g).arg = s.arg := rfl
@[simp] theorem updCluster_fields (s : State) (n : Nat) (g : Cluster → Cluster) : (updCluster s n g).fields = s.fields := rfl
@[simp] theorem updCluster_cisterns (s : State) (n : Nat) (g : Cluster → Cluster) : (updCluster s n g).cisterns = s.cisterns := rfl
@[simp] theorem updCluster_conduits (s : State) (n : Nat) (g : Cluster → Cluster) : (updCluster s n g).conduits = s.conduits := rfl
@[simp] theorem updCluster_csets (s : State) (n : Nat) (g : Cluster → Cluster) : (updCluster s n g).csets = s.csets := rfl
@[simp] theorem updCluster_records (s : State) (n : Nat) (g : Cluster → Cluster) : (updCluster s n g).records = s.records := rfl
@[simp] theorem updCluster_rillQ (s : State) (n : Nat) (g : Cluster → Cluster) : (updCluster s n g).rillQ = s.rillQ := rfl
@[simp] theorem updCluster_firmStore (s : State) (n : Nat) (g : Cluster → Cluster) : (updCluster s n g).firmStore = s.firmStore := rfl
@[simp] theorem updCluster_firmRun (s : State) (n : Nat) (g : Cluster → Cluster) : (updCluster s n g).firmRun = s.firmRun := rfl
@[simp] theorem updCluster_parts (s : State) (n : Nat) (g : Cluster → Cluster) : (updCluster s n g).parts = s.parts := rfl
@[simp] theorem updCluster_vfs (s : State) (n : Nat) (g : Cluster → Cluster) : (updCluster s n g).vfs = s.vfs := rfl
@[simp] theorem updCluster_windows (s : State) (n : Nat) (g : Cluster → Cluster) : (updCluster s n g).windows = s.windows := rfl
@[simp] theorem updCluster_stripes (s : State) (n : Nat) (g : Cluster → Cluster) : (updCluster s n g).stripes = s.stripes := rfl
@[simp] theorem updCluster_localUnits (s : State) (n : Nat) (g : Cluster → Cluster) : (updCluster s n g).localUnits = s.localUnits := rfl
@[simp] theorem updCluster_partErr (s : State) (n : Nat) (g : Cluster → Cluster) : (updCluster s n g).partErr = s.partErr := rfl
@[simp] theorem updCluster_fleetId (s : State) (n : Nat) (g : Cluster → Cluster) : (updCluster s n g).fleetId = s.fleetId := rfl
@[simp] theorem updCluster_presentFields (s : State) (n : Nat) (g : Cluster → Cluster) : (updCluster s n g).presentFields = s.presentFields := rfl
@[simp] theorem updCluster_presentCisterns (s : State) (n : Nat) (g : Cluster → Cluster) : (updCluster s n g).presentCisterns = s.presentCisterns := rfl
@[simp] theorem updCluster_presentConduits (s : State) (n : Nat) (g : Cluster → Cluster) : (updCluster s n g).presentConduits = s.presentConduits := rfl
@[simp] theorem updCluster_rillTrained (s : State) (n : Nat) (g : Cluster → Cluster) : (updCluster s n g).rillTrained = s.rillTrained := rfl
@[simp] theorem updCluster_capacityGB (s : State) (n : Nat) (g : Cluster → Cluster) : (updCluster s n g).capacityGB = s.capacityGB := rfl
@[simp] theorem updCluster_hbmChannels (s : State) (n : Nat) (g : Cluster → Cluster) : (updCluster s n g).hbmChannels = s.hbmChannels := rfl
@[simp] theorem updCluster_net (s : State) (n : Nat) (g : Cluster → Cluster) : (updCluster s n g).net = s.net := rfl
@[simp] theorem updCluster_launches (s : State) (n : Nat) (g : Cluster → Cluster) : (updCluster s n g).launches = s.launches := rfl
@[simp] theorem updCluster_nextLaunch (s : State) (n : Nat) (g : Cluster → Cluster) : (updCluster s n g).nextLaunch = s.nextLaunch := rfl
@[simp] theorem updCluster_colls (s : State) (n : Nat) (g : Cluster → Cluster) : (updCluster s n g).colls = s.colls := rfl
@[simp] theorem updCluster_cuts (s : State) (n : Nat) (g : Cluster → Cluster) : (updCluster s n g).cuts = s.cuts := rfl
@[simp] theorem updCluster_nextCut (s : State) (n : Nat) (g : Cluster → Cluster) : (updCluster s n g).nextCut = s.nextCut := rfl
@[simp] theorem updCluster_images (s : State) (n : Nat) (g : Cluster → Cluster) : (updCluster s n g).images = s.images := rfl
@[simp] theorem updCluster_hostOut (s : State) (n : Nat) (g : Cluster → Cluster) : (updCluster s n g).hostOut = s.hostOut := rfl
@[simp] theorem updCluster_lifetime (s : State) (n : Nat) (g : Cluster → Cluster) : (updCluster s n g).lifetime = s.lifetime := rfl
@[simp] theorem updCluster_deadLinks (s : State) (n : Nat) (g : Cluster → Cluster) : (updCluster s n g).deadLinks = s.deadLinks := rfl
@[simp] theorem updCluster_time (s : State) (n : Nat) (g : Cluster → Cluster) : (updCluster s n g).time = s.time := rfl
@[simp] theorem updCluster_freeCtr (s : State) (n : Nat) (g : Cluster → Cluster) : (updCluster s n g).freeCtr = s.freeCtr := rfl
@[simp] theorem updCluster_spouts (s : State) (n : Nat) (g : Cluster → Cluster) : (updCluster s n g).spouts = s.spouts := rfl
@[simp] theorem updCistern_tile (s : State) (n : Nat) (g : Cistern → Cistern) : (updCistern s n g).tile = s.tile := rfl
@[simp] theorem updCistern_others (s : State) (n : Nat) (g : Cistern → Cistern) : (updCistern s n g).others = s.others := rfl
@[simp] theorem updCistern_mem (s : State) (n : Nat) (g : Cistern → Cistern) : (updCistern s n g).mem = s.mem := rfl
@[simp] theorem updCistern_undef (s : State) (n : Nat) (g : Cistern → Cistern) : (updCistern s n g).undef = s.undef := rfl
@[simp] theorem updCistern_poison (s : State) (n : Nat) (g : Cistern → Cistern) : (updCistern s n g).poison = s.poison := rfl
@[simp] theorem updCistern_agenda (s : State) (n : Nat) (g : Cistern → Cistern) : (updCistern s n g).agenda = s.agenda := rfl
@[simp] theorem updCistern_arg (s : State) (n : Nat) (g : Cistern → Cistern) : (updCistern s n g).arg = s.arg := rfl
@[simp] theorem updCistern_fields (s : State) (n : Nat) (g : Cistern → Cistern) : (updCistern s n g).fields = s.fields := rfl
@[simp] theorem updCistern_clusters (s : State) (n : Nat) (g : Cistern → Cistern) : (updCistern s n g).clusters = s.clusters := rfl
@[simp] theorem updCistern_conduits (s : State) (n : Nat) (g : Cistern → Cistern) : (updCistern s n g).conduits = s.conduits := rfl
@[simp] theorem updCistern_csets (s : State) (n : Nat) (g : Cistern → Cistern) : (updCistern s n g).csets = s.csets := rfl
@[simp] theorem updCistern_records (s : State) (n : Nat) (g : Cistern → Cistern) : (updCistern s n g).records = s.records := rfl
@[simp] theorem updCistern_rillQ (s : State) (n : Nat) (g : Cistern → Cistern) : (updCistern s n g).rillQ = s.rillQ := rfl
@[simp] theorem updCistern_firmStore (s : State) (n : Nat) (g : Cistern → Cistern) : (updCistern s n g).firmStore = s.firmStore := rfl
@[simp] theorem updCistern_firmRun (s : State) (n : Nat) (g : Cistern → Cistern) : (updCistern s n g).firmRun = s.firmRun := rfl
@[simp] theorem updCistern_parts (s : State) (n : Nat) (g : Cistern → Cistern) : (updCistern s n g).parts = s.parts := rfl
@[simp] theorem updCistern_vfs (s : State) (n : Nat) (g : Cistern → Cistern) : (updCistern s n g).vfs = s.vfs := rfl
@[simp] theorem updCistern_windows (s : State) (n : Nat) (g : Cistern → Cistern) : (updCistern s n g).windows = s.windows := rfl
@[simp] theorem updCistern_stripes (s : State) (n : Nat) (g : Cistern → Cistern) : (updCistern s n g).stripes = s.stripes := rfl
@[simp] theorem updCistern_localUnits (s : State) (n : Nat) (g : Cistern → Cistern) : (updCistern s n g).localUnits = s.localUnits := rfl
@[simp] theorem updCistern_partErr (s : State) (n : Nat) (g : Cistern → Cistern) : (updCistern s n g).partErr = s.partErr := rfl
@[simp] theorem updCistern_fleetId (s : State) (n : Nat) (g : Cistern → Cistern) : (updCistern s n g).fleetId = s.fleetId := rfl
@[simp] theorem updCistern_presentFields (s : State) (n : Nat) (g : Cistern → Cistern) : (updCistern s n g).presentFields = s.presentFields := rfl
@[simp] theorem updCistern_presentCisterns (s : State) (n : Nat) (g : Cistern → Cistern) : (updCistern s n g).presentCisterns = s.presentCisterns := rfl
@[simp] theorem updCistern_presentConduits (s : State) (n : Nat) (g : Cistern → Cistern) : (updCistern s n g).presentConduits = s.presentConduits := rfl
@[simp] theorem updCistern_rillTrained (s : State) (n : Nat) (g : Cistern → Cistern) : (updCistern s n g).rillTrained = s.rillTrained := rfl
@[simp] theorem updCistern_capacityGB (s : State) (n : Nat) (g : Cistern → Cistern) : (updCistern s n g).capacityGB = s.capacityGB := rfl
@[simp] theorem updCistern_hbmChannels (s : State) (n : Nat) (g : Cistern → Cistern) : (updCistern s n g).hbmChannels = s.hbmChannels := rfl
@[simp] theorem updCistern_net (s : State) (n : Nat) (g : Cistern → Cistern) : (updCistern s n g).net = s.net := rfl
@[simp] theorem updCistern_launches (s : State) (n : Nat) (g : Cistern → Cistern) : (updCistern s n g).launches = s.launches := rfl
@[simp] theorem updCistern_nextLaunch (s : State) (n : Nat) (g : Cistern → Cistern) : (updCistern s n g).nextLaunch = s.nextLaunch := rfl
@[simp] theorem updCistern_colls (s : State) (n : Nat) (g : Cistern → Cistern) : (updCistern s n g).colls = s.colls := rfl
@[simp] theorem updCistern_cuts (s : State) (n : Nat) (g : Cistern → Cistern) : (updCistern s n g).cuts = s.cuts := rfl
@[simp] theorem updCistern_nextCut (s : State) (n : Nat) (g : Cistern → Cistern) : (updCistern s n g).nextCut = s.nextCut := rfl
@[simp] theorem updCistern_images (s : State) (n : Nat) (g : Cistern → Cistern) : (updCistern s n g).images = s.images := rfl
@[simp] theorem updCistern_hostOut (s : State) (n : Nat) (g : Cistern → Cistern) : (updCistern s n g).hostOut = s.hostOut := rfl
@[simp] theorem updCistern_lifetime (s : State) (n : Nat) (g : Cistern → Cistern) : (updCistern s n g).lifetime = s.lifetime := rfl
@[simp] theorem updCistern_deadLinks (s : State) (n : Nat) (g : Cistern → Cistern) : (updCistern s n g).deadLinks = s.deadLinks := rfl
@[simp] theorem updCistern_time (s : State) (n : Nat) (g : Cistern → Cistern) : (updCistern s n g).time = s.time := rfl
@[simp] theorem updCistern_freeCtr (s : State) (n : Nat) (g : Cistern → Cistern) : (updCistern s n g).freeCtr = s.freeCtr := rfl
@[simp] theorem updCistern_spouts (s : State) (n : Nat) (g : Cistern → Cistern) : (updCistern s n g).spouts = s.spouts := rfl
@[simp] theorem updConduit_tile (s : State) (n : Nat) (g : Conduit → Conduit) : (updConduit s n g).tile = s.tile := rfl
@[simp] theorem updConduit_others (s : State) (n : Nat) (g : Conduit → Conduit) : (updConduit s n g).others = s.others := rfl
@[simp] theorem updConduit_mem (s : State) (n : Nat) (g : Conduit → Conduit) : (updConduit s n g).mem = s.mem := rfl
@[simp] theorem updConduit_undef (s : State) (n : Nat) (g : Conduit → Conduit) : (updConduit s n g).undef = s.undef := rfl
@[simp] theorem updConduit_poison (s : State) (n : Nat) (g : Conduit → Conduit) : (updConduit s n g).poison = s.poison := rfl
@[simp] theorem updConduit_agenda (s : State) (n : Nat) (g : Conduit → Conduit) : (updConduit s n g).agenda = s.agenda := rfl
@[simp] theorem updConduit_arg (s : State) (n : Nat) (g : Conduit → Conduit) : (updConduit s n g).arg = s.arg := rfl
@[simp] theorem updConduit_fields (s : State) (n : Nat) (g : Conduit → Conduit) : (updConduit s n g).fields = s.fields := rfl
@[simp] theorem updConduit_clusters (s : State) (n : Nat) (g : Conduit → Conduit) : (updConduit s n g).clusters = s.clusters := rfl
@[simp] theorem updConduit_cisterns (s : State) (n : Nat) (g : Conduit → Conduit) : (updConduit s n g).cisterns = s.cisterns := rfl
@[simp] theorem updConduit_csets (s : State) (n : Nat) (g : Conduit → Conduit) : (updConduit s n g).csets = s.csets := rfl
@[simp] theorem updConduit_records (s : State) (n : Nat) (g : Conduit → Conduit) : (updConduit s n g).records = s.records := rfl
@[simp] theorem updConduit_rillQ (s : State) (n : Nat) (g : Conduit → Conduit) : (updConduit s n g).rillQ = s.rillQ := rfl
@[simp] theorem updConduit_firmStore (s : State) (n : Nat) (g : Conduit → Conduit) : (updConduit s n g).firmStore = s.firmStore := rfl
@[simp] theorem updConduit_firmRun (s : State) (n : Nat) (g : Conduit → Conduit) : (updConduit s n g).firmRun = s.firmRun := rfl
@[simp] theorem updConduit_parts (s : State) (n : Nat) (g : Conduit → Conduit) : (updConduit s n g).parts = s.parts := rfl
@[simp] theorem updConduit_vfs (s : State) (n : Nat) (g : Conduit → Conduit) : (updConduit s n g).vfs = s.vfs := rfl
@[simp] theorem updConduit_windows (s : State) (n : Nat) (g : Conduit → Conduit) : (updConduit s n g).windows = s.windows := rfl
@[simp] theorem updConduit_stripes (s : State) (n : Nat) (g : Conduit → Conduit) : (updConduit s n g).stripes = s.stripes := rfl
@[simp] theorem updConduit_localUnits (s : State) (n : Nat) (g : Conduit → Conduit) : (updConduit s n g).localUnits = s.localUnits := rfl
@[simp] theorem updConduit_partErr (s : State) (n : Nat) (g : Conduit → Conduit) : (updConduit s n g).partErr = s.partErr := rfl
@[simp] theorem updConduit_fleetId (s : State) (n : Nat) (g : Conduit → Conduit) : (updConduit s n g).fleetId = s.fleetId := rfl
@[simp] theorem updConduit_presentFields (s : State) (n : Nat) (g : Conduit → Conduit) : (updConduit s n g).presentFields = s.presentFields := rfl
@[simp] theorem updConduit_presentCisterns (s : State) (n : Nat) (g : Conduit → Conduit) : (updConduit s n g).presentCisterns = s.presentCisterns := rfl
@[simp] theorem updConduit_presentConduits (s : State) (n : Nat) (g : Conduit → Conduit) : (updConduit s n g).presentConduits = s.presentConduits := rfl
@[simp] theorem updConduit_rillTrained (s : State) (n : Nat) (g : Conduit → Conduit) : (updConduit s n g).rillTrained = s.rillTrained := rfl
@[simp] theorem updConduit_capacityGB (s : State) (n : Nat) (g : Conduit → Conduit) : (updConduit s n g).capacityGB = s.capacityGB := rfl
@[simp] theorem updConduit_hbmChannels (s : State) (n : Nat) (g : Conduit → Conduit) : (updConduit s n g).hbmChannels = s.hbmChannels := rfl
@[simp] theorem updConduit_net (s : State) (n : Nat) (g : Conduit → Conduit) : (updConduit s n g).net = s.net := rfl
@[simp] theorem updConduit_launches (s : State) (n : Nat) (g : Conduit → Conduit) : (updConduit s n g).launches = s.launches := rfl
@[simp] theorem updConduit_nextLaunch (s : State) (n : Nat) (g : Conduit → Conduit) : (updConduit s n g).nextLaunch = s.nextLaunch := rfl
@[simp] theorem updConduit_colls (s : State) (n : Nat) (g : Conduit → Conduit) : (updConduit s n g).colls = s.colls := rfl
@[simp] theorem updConduit_cuts (s : State) (n : Nat) (g : Conduit → Conduit) : (updConduit s n g).cuts = s.cuts := rfl
@[simp] theorem updConduit_nextCut (s : State) (n : Nat) (g : Conduit → Conduit) : (updConduit s n g).nextCut = s.nextCut := rfl
@[simp] theorem updConduit_images (s : State) (n : Nat) (g : Conduit → Conduit) : (updConduit s n g).images = s.images := rfl
@[simp] theorem updConduit_hostOut (s : State) (n : Nat) (g : Conduit → Conduit) : (updConduit s n g).hostOut = s.hostOut := rfl
@[simp] theorem updConduit_lifetime (s : State) (n : Nat) (g : Conduit → Conduit) : (updConduit s n g).lifetime = s.lifetime := rfl
@[simp] theorem updConduit_deadLinks (s : State) (n : Nat) (g : Conduit → Conduit) : (updConduit s n g).deadLinks = s.deadLinks := rfl
@[simp] theorem updConduit_time (s : State) (n : Nat) (g : Conduit → Conduit) : (updConduit s n g).time = s.time := rfl
@[simp] theorem updConduit_freeCtr (s : State) (n : Nat) (g : Conduit → Conduit) : (updConduit s n g).freeCtr = s.freeCtr := rfl
@[simp] theorem updConduit_spouts (s : State) (n : Nat) (g : Conduit → Conduit) : (updConduit s n g).spouts = s.spouts := rfl
@[simp] theorem updCSet_tile (s : State) (n : Nat) (g : CSet → CSet) : (updCSet s n g).tile = s.tile := rfl
@[simp] theorem updCSet_others (s : State) (n : Nat) (g : CSet → CSet) : (updCSet s n g).others = s.others := rfl
@[simp] theorem updCSet_mem (s : State) (n : Nat) (g : CSet → CSet) : (updCSet s n g).mem = s.mem := rfl
@[simp] theorem updCSet_undef (s : State) (n : Nat) (g : CSet → CSet) : (updCSet s n g).undef = s.undef := rfl
@[simp] theorem updCSet_poison (s : State) (n : Nat) (g : CSet → CSet) : (updCSet s n g).poison = s.poison := rfl
@[simp] theorem updCSet_agenda (s : State) (n : Nat) (g : CSet → CSet) : (updCSet s n g).agenda = s.agenda := rfl
@[simp] theorem updCSet_arg (s : State) (n : Nat) (g : CSet → CSet) : (updCSet s n g).arg = s.arg := rfl
@[simp] theorem updCSet_fields (s : State) (n : Nat) (g : CSet → CSet) : (updCSet s n g).fields = s.fields := rfl
@[simp] theorem updCSet_clusters (s : State) (n : Nat) (g : CSet → CSet) : (updCSet s n g).clusters = s.clusters := rfl
@[simp] theorem updCSet_cisterns (s : State) (n : Nat) (g : CSet → CSet) : (updCSet s n g).cisterns = s.cisterns := rfl
@[simp] theorem updCSet_conduits (s : State) (n : Nat) (g : CSet → CSet) : (updCSet s n g).conduits = s.conduits := rfl
@[simp] theorem updCSet_parts (s : State) (n : Nat) (g : CSet → CSet) : (updCSet s n g).parts = s.parts := rfl
@[simp] theorem updCSet_vfs (s : State) (n : Nat) (g : CSet → CSet) : (updCSet s n g).vfs = s.vfs := rfl
@[simp] theorem updCSet_windows (s : State) (n : Nat) (g : CSet → CSet) : (updCSet s n g).windows = s.windows := rfl
@[simp] theorem updCSet_stripes (s : State) (n : Nat) (g : CSet → CSet) : (updCSet s n g).stripes = s.stripes := rfl
@[simp] theorem updCSet_localUnits (s : State) (n : Nat) (g : CSet → CSet) : (updCSet s n g).localUnits = s.localUnits := rfl
@[simp] theorem updCSet_partErr (s : State) (n : Nat) (g : CSet → CSet) : (updCSet s n g).partErr = s.partErr := rfl
@[simp] theorem updCSet_fleetId (s : State) (n : Nat) (g : CSet → CSet) : (updCSet s n g).fleetId = s.fleetId := rfl
@[simp] theorem updCSet_presentFields (s : State) (n : Nat) (g : CSet → CSet) : (updCSet s n g).presentFields = s.presentFields := rfl
@[simp] theorem updCSet_presentCisterns (s : State) (n : Nat) (g : CSet → CSet) : (updCSet s n g).presentCisterns = s.presentCisterns := rfl
@[simp] theorem updCSet_presentConduits (s : State) (n : Nat) (g : CSet → CSet) : (updCSet s n g).presentConduits = s.presentConduits := rfl
@[simp] theorem updCSet_rillTrained (s : State) (n : Nat) (g : CSet → CSet) : (updCSet s n g).rillTrained = s.rillTrained := rfl
@[simp] theorem updCSet_capacityGB (s : State) (n : Nat) (g : CSet → CSet) : (updCSet s n g).capacityGB = s.capacityGB := rfl
@[simp] theorem updCSet_hbmChannels (s : State) (n : Nat) (g : CSet → CSet) : (updCSet s n g).hbmChannels = s.hbmChannels := rfl
@[simp] theorem updCSet_net (s : State) (n : Nat) (g : CSet → CSet) : (updCSet s n g).net = s.net := rfl
@[simp] theorem updCSet_launches (s : State) (n : Nat) (g : CSet → CSet) : (updCSet s n g).launches = s.launches := rfl
@[simp] theorem updCSet_nextLaunch (s : State) (n : Nat) (g : CSet → CSet) : (updCSet s n g).nextLaunch = s.nextLaunch := rfl
@[simp] theorem updCSet_colls (s : State) (n : Nat) (g : CSet → CSet) : (updCSet s n g).colls = s.colls := rfl
@[simp] theorem updCSet_cuts (s : State) (n : Nat) (g : CSet → CSet) : (updCSet s n g).cuts = s.cuts := rfl
@[simp] theorem updCSet_nextCut (s : State) (n : Nat) (g : CSet → CSet) : (updCSet s n g).nextCut = s.nextCut := rfl
@[simp] theorem updCSet_images (s : State) (n : Nat) (g : CSet → CSet) : (updCSet s n g).images = s.images := rfl
@[simp] theorem updCSet_hostOut (s : State) (n : Nat) (g : CSet → CSet) : (updCSet s n g).hostOut = s.hostOut := rfl
@[simp] theorem updCSet_lifetime (s : State) (n : Nat) (g : CSet → CSet) : (updCSet s n g).lifetime = s.lifetime := rfl
@[simp] theorem updCSet_deadLinks (s : State) (n : Nat) (g : CSet → CSet) : (updCSet s n g).deadLinks = s.deadLinks := rfl
@[simp] theorem updCSet_time (s : State) (n : Nat) (g : CSet → CSet) : (updCSet s n g).time = s.time := rfl
@[simp] theorem updCSet_freeCtr (s : State) (n : Nat) (g : CSet → CSet) : (updCSet s n g).freeCtr = s.freeCtr := rfl
@[simp] theorem updCSet_spouts (s : State) (n : Nat) (g : CSet → CSet) : (updCSet s n g).spouts = s.spouts := rfl
@[simp] theorem updPart_tile (s : State) (n : Nat) (g : Partition → Partition) : (updPart s n g).tile = s.tile := rfl
@[simp] theorem updPart_others (s : State) (n : Nat) (g : Partition → Partition) : (updPart s n g).others = s.others := rfl
@[simp] theorem updPart_mem (s : State) (n : Nat) (g : Partition → Partition) : (updPart s n g).mem = s.mem := rfl
@[simp] theorem updPart_undef (s : State) (n : Nat) (g : Partition → Partition) : (updPart s n g).undef = s.undef := rfl
@[simp] theorem updPart_poison (s : State) (n : Nat) (g : Partition → Partition) : (updPart s n g).poison = s.poison := rfl
@[simp] theorem updPart_agenda (s : State) (n : Nat) (g : Partition → Partition) : (updPart s n g).agenda = s.agenda := rfl
@[simp] theorem updPart_arg (s : State) (n : Nat) (g : Partition → Partition) : (updPart s n g).arg = s.arg := rfl
@[simp] theorem updPart_fields (s : State) (n : Nat) (g : Partition → Partition) : (updPart s n g).fields = s.fields := rfl
@[simp] theorem updPart_clusters (s : State) (n : Nat) (g : Partition → Partition) : (updPart s n g).clusters = s.clusters := rfl
@[simp] theorem updPart_cisterns (s : State) (n : Nat) (g : Partition → Partition) : (updPart s n g).cisterns = s.cisterns := rfl
@[simp] theorem updPart_conduits (s : State) (n : Nat) (g : Partition → Partition) : (updPart s n g).conduits = s.conduits := rfl
@[simp] theorem updPart_csets (s : State) (n : Nat) (g : Partition → Partition) : (updPart s n g).csets = s.csets := rfl
@[simp] theorem updPart_records (s : State) (n : Nat) (g : Partition → Partition) : (updPart s n g).records = s.records := rfl
@[simp] theorem updPart_rillQ (s : State) (n : Nat) (g : Partition → Partition) : (updPart s n g).rillQ = s.rillQ := rfl
@[simp] theorem updPart_firmStore (s : State) (n : Nat) (g : Partition → Partition) : (updPart s n g).firmStore = s.firmStore := rfl
@[simp] theorem updPart_firmRun (s : State) (n : Nat) (g : Partition → Partition) : (updPart s n g).firmRun = s.firmRun := rfl
@[simp] theorem updPart_vfs (s : State) (n : Nat) (g : Partition → Partition) : (updPart s n g).vfs = s.vfs := rfl
@[simp] theorem updPart_windows (s : State) (n : Nat) (g : Partition → Partition) : (updPart s n g).windows = s.windows := rfl
@[simp] theorem updPart_stripes (s : State) (n : Nat) (g : Partition → Partition) : (updPart s n g).stripes = s.stripes := rfl
@[simp] theorem updPart_localUnits (s : State) (n : Nat) (g : Partition → Partition) : (updPart s n g).localUnits = s.localUnits := rfl
@[simp] theorem updPart_partErr (s : State) (n : Nat) (g : Partition → Partition) : (updPart s n g).partErr = s.partErr := rfl
@[simp] theorem updPart_fleetId (s : State) (n : Nat) (g : Partition → Partition) : (updPart s n g).fleetId = s.fleetId := rfl
@[simp] theorem updPart_presentFields (s : State) (n : Nat) (g : Partition → Partition) : (updPart s n g).presentFields = s.presentFields := rfl
@[simp] theorem updPart_presentCisterns (s : State) (n : Nat) (g : Partition → Partition) : (updPart s n g).presentCisterns = s.presentCisterns := rfl
@[simp] theorem updPart_presentConduits (s : State) (n : Nat) (g : Partition → Partition) : (updPart s n g).presentConduits = s.presentConduits := rfl
@[simp] theorem updPart_rillTrained (s : State) (n : Nat) (g : Partition → Partition) : (updPart s n g).rillTrained = s.rillTrained := rfl
@[simp] theorem updPart_capacityGB (s : State) (n : Nat) (g : Partition → Partition) : (updPart s n g).capacityGB = s.capacityGB := rfl
@[simp] theorem updPart_hbmChannels (s : State) (n : Nat) (g : Partition → Partition) : (updPart s n g).hbmChannels = s.hbmChannels := rfl
@[simp] theorem updPart_net (s : State) (n : Nat) (g : Partition → Partition) : (updPart s n g).net = s.net := rfl
@[simp] theorem updPart_launches (s : State) (n : Nat) (g : Partition → Partition) : (updPart s n g).launches = s.launches := rfl
@[simp] theorem updPart_nextLaunch (s : State) (n : Nat) (g : Partition → Partition) : (updPart s n g).nextLaunch = s.nextLaunch := rfl
@[simp] theorem updPart_colls (s : State) (n : Nat) (g : Partition → Partition) : (updPart s n g).colls = s.colls := rfl
@[simp] theorem updPart_cuts (s : State) (n : Nat) (g : Partition → Partition) : (updPart s n g).cuts = s.cuts := rfl
@[simp] theorem updPart_nextCut (s : State) (n : Nat) (g : Partition → Partition) : (updPart s n g).nextCut = s.nextCut := rfl
@[simp] theorem updPart_images (s : State) (n : Nat) (g : Partition → Partition) : (updPart s n g).images = s.images := rfl
@[simp] theorem updPart_hostOut (s : State) (n : Nat) (g : Partition → Partition) : (updPart s n g).hostOut = s.hostOut := rfl
@[simp] theorem updPart_lifetime (s : State) (n : Nat) (g : Partition → Partition) : (updPart s n g).lifetime = s.lifetime := rfl
@[simp] theorem updPart_deadLinks (s : State) (n : Nat) (g : Partition → Partition) : (updPart s n g).deadLinks = s.deadLinks := rfl
@[simp] theorem updPart_time (s : State) (n : Nat) (g : Partition → Partition) : (updPart s n g).time = s.time := rfl
@[simp] theorem updPart_freeCtr (s : State) (n : Nat) (g : Partition → Partition) : (updPart s n g).freeCtr = s.freeCtr := rfl
@[simp] theorem updPart_spouts (s : State) (n : Nat) (g : Partition → Partition) : (updPart s n g).spouts = s.spouts := rfl
@[simp] theorem updVf_tile (s : State) (n : Nat) (g : VFun → VFun) : (updVf s n g).tile = s.tile := rfl
@[simp] theorem updVf_others (s : State) (n : Nat) (g : VFun → VFun) : (updVf s n g).others = s.others := rfl
@[simp] theorem updVf_mem (s : State) (n : Nat) (g : VFun → VFun) : (updVf s n g).mem = s.mem := rfl
@[simp] theorem updVf_undef (s : State) (n : Nat) (g : VFun → VFun) : (updVf s n g).undef = s.undef := rfl
@[simp] theorem updVf_poison (s : State) (n : Nat) (g : VFun → VFun) : (updVf s n g).poison = s.poison := rfl
@[simp] theorem updVf_agenda (s : State) (n : Nat) (g : VFun → VFun) : (updVf s n g).agenda = s.agenda := rfl
@[simp] theorem updVf_arg (s : State) (n : Nat) (g : VFun → VFun) : (updVf s n g).arg = s.arg := rfl
@[simp] theorem updVf_fields (s : State) (n : Nat) (g : VFun → VFun) : (updVf s n g).fields = s.fields := rfl
@[simp] theorem updVf_clusters (s : State) (n : Nat) (g : VFun → VFun) : (updVf s n g).clusters = s.clusters := rfl
@[simp] theorem updVf_cisterns (s : State) (n : Nat) (g : VFun → VFun) : (updVf s n g).cisterns = s.cisterns := rfl
@[simp] theorem updVf_conduits (s : State) (n : Nat) (g : VFun → VFun) : (updVf s n g).conduits = s.conduits := rfl
@[simp] theorem updVf_csets (s : State) (n : Nat) (g : VFun → VFun) : (updVf s n g).csets = s.csets := rfl
@[simp] theorem updVf_records (s : State) (n : Nat) (g : VFun → VFun) : (updVf s n g).records = s.records := rfl
@[simp] theorem updVf_rillQ (s : State) (n : Nat) (g : VFun → VFun) : (updVf s n g).rillQ = s.rillQ := rfl
@[simp] theorem updVf_firmStore (s : State) (n : Nat) (g : VFun → VFun) : (updVf s n g).firmStore = s.firmStore := rfl
@[simp] theorem updVf_firmRun (s : State) (n : Nat) (g : VFun → VFun) : (updVf s n g).firmRun = s.firmRun := rfl
@[simp] theorem updVf_parts (s : State) (n : Nat) (g : VFun → VFun) : (updVf s n g).parts = s.parts := rfl
@[simp] theorem updVf_windows (s : State) (n : Nat) (g : VFun → VFun) : (updVf s n g).windows = s.windows := rfl
@[simp] theorem updVf_stripes (s : State) (n : Nat) (g : VFun → VFun) : (updVf s n g).stripes = s.stripes := rfl
@[simp] theorem updVf_localUnits (s : State) (n : Nat) (g : VFun → VFun) : (updVf s n g).localUnits = s.localUnits := rfl
@[simp] theorem updVf_partErr (s : State) (n : Nat) (g : VFun → VFun) : (updVf s n g).partErr = s.partErr := rfl
@[simp] theorem updVf_fleetId (s : State) (n : Nat) (g : VFun → VFun) : (updVf s n g).fleetId = s.fleetId := rfl
@[simp] theorem updVf_presentFields (s : State) (n : Nat) (g : VFun → VFun) : (updVf s n g).presentFields = s.presentFields := rfl
@[simp] theorem updVf_presentCisterns (s : State) (n : Nat) (g : VFun → VFun) : (updVf s n g).presentCisterns = s.presentCisterns := rfl
@[simp] theorem updVf_presentConduits (s : State) (n : Nat) (g : VFun → VFun) : (updVf s n g).presentConduits = s.presentConduits := rfl
@[simp] theorem updVf_rillTrained (s : State) (n : Nat) (g : VFun → VFun) : (updVf s n g).rillTrained = s.rillTrained := rfl
@[simp] theorem updVf_capacityGB (s : State) (n : Nat) (g : VFun → VFun) : (updVf s n g).capacityGB = s.capacityGB := rfl
@[simp] theorem updVf_hbmChannels (s : State) (n : Nat) (g : VFun → VFun) : (updVf s n g).hbmChannels = s.hbmChannels := rfl
@[simp] theorem updVf_net (s : State) (n : Nat) (g : VFun → VFun) : (updVf s n g).net = s.net := rfl
@[simp] theorem updVf_launches (s : State) (n : Nat) (g : VFun → VFun) : (updVf s n g).launches = s.launches := rfl
@[simp] theorem updVf_nextLaunch (s : State) (n : Nat) (g : VFun → VFun) : (updVf s n g).nextLaunch = s.nextLaunch := rfl
@[simp] theorem updVf_colls (s : State) (n : Nat) (g : VFun → VFun) : (updVf s n g).colls = s.colls := rfl
@[simp] theorem updVf_cuts (s : State) (n : Nat) (g : VFun → VFun) : (updVf s n g).cuts = s.cuts := rfl
@[simp] theorem updVf_nextCut (s : State) (n : Nat) (g : VFun → VFun) : (updVf s n g).nextCut = s.nextCut := rfl
@[simp] theorem updVf_images (s : State) (n : Nat) (g : VFun → VFun) : (updVf s n g).images = s.images := rfl
@[simp] theorem updVf_hostOut (s : State) (n : Nat) (g : VFun → VFun) : (updVf s n g).hostOut = s.hostOut := rfl
@[simp] theorem updVf_lifetime (s : State) (n : Nat) (g : VFun → VFun) : (updVf s n g).lifetime = s.lifetime := rfl
@[simp] theorem updVf_deadLinks (s : State) (n : Nat) (g : VFun → VFun) : (updVf s n g).deadLinks = s.deadLinks := rfl
@[simp] theorem updVf_time (s : State) (n : Nat) (g : VFun → VFun) : (updVf s n g).time = s.time := rfl
@[simp] theorem updVf_freeCtr (s : State) (n : Nat) (g : VFun → VFun) : (updVf s n g).freeCtr = s.freeCtr := rfl
@[simp] theorem updVf_spouts (s : State) (n : Nat) (g : VFun → VFun) : (updVf s n g).spouts = s.spouts := rfl
@[simp] theorem updLaunch_tile (s : State) (n : Nat) (g : Launch → Launch) : (updLaunch s n g).tile = s.tile := rfl
@[simp] theorem updLaunch_others (s : State) (n : Nat) (g : Launch → Launch) : (updLaunch s n g).others = s.others := rfl
@[simp] theorem updLaunch_mem (s : State) (n : Nat) (g : Launch → Launch) : (updLaunch s n g).mem = s.mem := rfl
@[simp] theorem updLaunch_undef (s : State) (n : Nat) (g : Launch → Launch) : (updLaunch s n g).undef = s.undef := rfl
@[simp] theorem updLaunch_poison (s : State) (n : Nat) (g : Launch → Launch) : (updLaunch s n g).poison = s.poison := rfl
@[simp] theorem updLaunch_agenda (s : State) (n : Nat) (g : Launch → Launch) : (updLaunch s n g).agenda = s.agenda := rfl
@[simp] theorem updLaunch_arg (s : State) (n : Nat) (g : Launch → Launch) : (updLaunch s n g).arg = s.arg := rfl
@[simp] theorem updLaunch_fields (s : State) (n : Nat) (g : Launch → Launch) : (updLaunch s n g).fields = s.fields := rfl
@[simp] theorem updLaunch_clusters (s : State) (n : Nat) (g : Launch → Launch) : (updLaunch s n g).clusters = s.clusters := rfl
@[simp] theorem updLaunch_cisterns (s : State) (n : Nat) (g : Launch → Launch) : (updLaunch s n g).cisterns = s.cisterns := rfl
@[simp] theorem updLaunch_conduits (s : State) (n : Nat) (g : Launch → Launch) : (updLaunch s n g).conduits = s.conduits := rfl
@[simp] theorem updLaunch_csets (s : State) (n : Nat) (g : Launch → Launch) : (updLaunch s n g).csets = s.csets := rfl
@[simp] theorem updLaunch_records (s : State) (n : Nat) (g : Launch → Launch) : (updLaunch s n g).records = s.records := rfl
@[simp] theorem updLaunch_rillQ (s : State) (n : Nat) (g : Launch → Launch) : (updLaunch s n g).rillQ = s.rillQ := rfl
@[simp] theorem updLaunch_firmStore (s : State) (n : Nat) (g : Launch → Launch) : (updLaunch s n g).firmStore = s.firmStore := rfl
@[simp] theorem updLaunch_firmRun (s : State) (n : Nat) (g : Launch → Launch) : (updLaunch s n g).firmRun = s.firmRun := rfl
@[simp] theorem updLaunch_parts (s : State) (n : Nat) (g : Launch → Launch) : (updLaunch s n g).parts = s.parts := rfl
@[simp] theorem updLaunch_vfs (s : State) (n : Nat) (g : Launch → Launch) : (updLaunch s n g).vfs = s.vfs := rfl
@[simp] theorem updLaunch_windows (s : State) (n : Nat) (g : Launch → Launch) : (updLaunch s n g).windows = s.windows := rfl
@[simp] theorem updLaunch_stripes (s : State) (n : Nat) (g : Launch → Launch) : (updLaunch s n g).stripes = s.stripes := rfl
@[simp] theorem updLaunch_localUnits (s : State) (n : Nat) (g : Launch → Launch) : (updLaunch s n g).localUnits = s.localUnits := rfl
@[simp] theorem updLaunch_partErr (s : State) (n : Nat) (g : Launch → Launch) : (updLaunch s n g).partErr = s.partErr := rfl
@[simp] theorem updLaunch_fleetId (s : State) (n : Nat) (g : Launch → Launch) : (updLaunch s n g).fleetId = s.fleetId := rfl
@[simp] theorem updLaunch_presentFields (s : State) (n : Nat) (g : Launch → Launch) : (updLaunch s n g).presentFields = s.presentFields := rfl
@[simp] theorem updLaunch_presentCisterns (s : State) (n : Nat) (g : Launch → Launch) : (updLaunch s n g).presentCisterns = s.presentCisterns := rfl
@[simp] theorem updLaunch_presentConduits (s : State) (n : Nat) (g : Launch → Launch) : (updLaunch s n g).presentConduits = s.presentConduits := rfl
@[simp] theorem updLaunch_rillTrained (s : State) (n : Nat) (g : Launch → Launch) : (updLaunch s n g).rillTrained = s.rillTrained := rfl
@[simp] theorem updLaunch_capacityGB (s : State) (n : Nat) (g : Launch → Launch) : (updLaunch s n g).capacityGB = s.capacityGB := rfl
@[simp] theorem updLaunch_hbmChannels (s : State) (n : Nat) (g : Launch → Launch) : (updLaunch s n g).hbmChannels = s.hbmChannels := rfl
@[simp] theorem updLaunch_net (s : State) (n : Nat) (g : Launch → Launch) : (updLaunch s n g).net = s.net := rfl
@[simp] theorem updLaunch_nextLaunch (s : State) (n : Nat) (g : Launch → Launch) : (updLaunch s n g).nextLaunch = s.nextLaunch := rfl
@[simp] theorem updLaunch_colls (s : State) (n : Nat) (g : Launch → Launch) : (updLaunch s n g).colls = s.colls := rfl
@[simp] theorem updLaunch_cuts (s : State) (n : Nat) (g : Launch → Launch) : (updLaunch s n g).cuts = s.cuts := rfl
@[simp] theorem updLaunch_nextCut (s : State) (n : Nat) (g : Launch → Launch) : (updLaunch s n g).nextCut = s.nextCut := rfl
@[simp] theorem updLaunch_images (s : State) (n : Nat) (g : Launch → Launch) : (updLaunch s n g).images = s.images := rfl
@[simp] theorem updLaunch_hostOut (s : State) (n : Nat) (g : Launch → Launch) : (updLaunch s n g).hostOut = s.hostOut := rfl
@[simp] theorem updLaunch_lifetime (s : State) (n : Nat) (g : Launch → Launch) : (updLaunch s n g).lifetime = s.lifetime := rfl
@[simp] theorem updLaunch_deadLinks (s : State) (n : Nat) (g : Launch → Launch) : (updLaunch s n g).deadLinks = s.deadLinks := rfl
@[simp] theorem updLaunch_time (s : State) (n : Nat) (g : Launch → Launch) : (updLaunch s n g).time = s.time := rfl
@[simp] theorem updLaunch_freeCtr (s : State) (n : Nat) (g : Launch → Launch) : (updLaunch s n g).freeCtr = s.freeCtr := rfl
@[simp] theorem updLaunch_spouts (s : State) (n : Nat) (g : Launch → Launch) : (updLaunch s n g).spouts = s.spouts := rfl

/- putTile and updTile: only tiles -/

@[simp] theorem putTile_mem (s : State) (t : Tile) : (putTile s t).mem = s.mem := by unfold putTile; split <;> rfl
@[simp] theorem updTile_mem (s : State) (n : Nat) (g : Tile → Tile) : (updTile s n g).mem = s.mem := putTile_mem _ _
@[simp] theorem focus_mem (s : State) (n : Nat) : (focus s n).mem = s.mem := by unfold focus; split <;> rfl
@[simp] theorem putTile_undef (s : State) (t : Tile) : (putTile s t).undef = s.undef := by unfold putTile; split <;> rfl
@[simp] theorem updTile_undef (s : State) (n : Nat) (g : Tile → Tile) : (updTile s n g).undef = s.undef := putTile_undef _ _
@[simp] theorem focus_undef (s : State) (n : Nat) : (focus s n).undef = s.undef := by unfold focus; split <;> rfl
@[simp] theorem putTile_poison (s : State) (t : Tile) : (putTile s t).poison = s.poison := by unfold putTile; split <;> rfl
@[simp] theorem updTile_poison (s : State) (n : Nat) (g : Tile → Tile) : (updTile s n g).poison = s.poison := putTile_poison _ _
@[simp] theorem focus_poison (s : State) (n : Nat) : (focus s n).poison = s.poison := by unfold focus; split <;> rfl
@[simp] theorem putTile_agenda (s : State) (t : Tile) : (putTile s t).agenda = s.agenda := by unfold putTile; split <;> rfl
@[simp] theorem updTile_agenda (s : State) (n : Nat) (g : Tile → Tile) : (updTile s n g).agenda = s.agenda := putTile_agenda _ _
@[simp] theorem focus_agenda (s : State) (n : Nat) : (focus s n).agenda = s.agenda := by unfold focus; split <;> rfl
@[simp] theorem putTile_arg (s : State) (t : Tile) : (putTile s t).arg = s.arg := by unfold putTile; split <;> rfl
@[simp] theorem updTile_arg (s : State) (n : Nat) (g : Tile → Tile) : (updTile s n g).arg = s.arg := putTile_arg _ _
@[simp] theorem focus_arg (s : State) (n : Nat) : (focus s n).arg = s.arg := by unfold focus; split <;> rfl
@[simp] theorem putTile_fields (s : State) (t : Tile) : (putTile s t).fields = s.fields := by unfold putTile; split <;> rfl
@[simp] theorem updTile_fields (s : State) (n : Nat) (g : Tile → Tile) : (updTile s n g).fields = s.fields := putTile_fields _ _
@[simp] theorem focus_fields (s : State) (n : Nat) : (focus s n).fields = s.fields := by unfold focus; split <;> rfl
@[simp] theorem putTile_clusters (s : State) (t : Tile) : (putTile s t).clusters = s.clusters := by unfold putTile; split <;> rfl
@[simp] theorem updTile_clusters (s : State) (n : Nat) (g : Tile → Tile) : (updTile s n g).clusters = s.clusters := putTile_clusters _ _
@[simp] theorem focus_clusters (s : State) (n : Nat) : (focus s n).clusters = s.clusters := by unfold focus; split <;> rfl
@[simp] theorem putTile_cisterns (s : State) (t : Tile) : (putTile s t).cisterns = s.cisterns := by unfold putTile; split <;> rfl
@[simp] theorem updTile_cisterns (s : State) (n : Nat) (g : Tile → Tile) : (updTile s n g).cisterns = s.cisterns := putTile_cisterns _ _
@[simp] theorem focus_cisterns (s : State) (n : Nat) : (focus s n).cisterns = s.cisterns := by unfold focus; split <;> rfl
@[simp] theorem putTile_conduits (s : State) (t : Tile) : (putTile s t).conduits = s.conduits := by unfold putTile; split <;> rfl
@[simp] theorem updTile_conduits (s : State) (n : Nat) (g : Tile → Tile) : (updTile s n g).conduits = s.conduits := putTile_conduits _ _
@[simp] theorem focus_conduits (s : State) (n : Nat) : (focus s n).conduits = s.conduits := by unfold focus; split <;> rfl
@[simp] theorem putTile_csets (s : State) (t : Tile) : (putTile s t).csets = s.csets := by unfold putTile; split <;> rfl
@[simp] theorem putTile_records (s : State) (t : Tile) : (putTile s t).records = s.records := by unfold putTile; split <;> rfl
@[simp] theorem putTile_rillQ (s : State) (t : Tile) : (putTile s t).rillQ = s.rillQ := by unfold putTile; split <;> rfl
@[simp] theorem putTile_firmStore (s : State) (t : Tile) : (putTile s t).firmStore = s.firmStore := by unfold putTile; split <;> rfl
@[simp] theorem putTile_firmRun (s : State) (t : Tile) : (putTile s t).firmRun = s.firmRun := by unfold putTile; split <;> rfl
@[simp] theorem updTile_csets (s : State) (n : Nat) (g : Tile → Tile) : (updTile s n g).csets = s.csets := putTile_csets _ _
@[simp] theorem updTile_records (s : State) (n : Nat) (g : Tile → Tile) : (updTile s n g).records = s.records := putTile_records _ _
@[simp] theorem updTile_rillQ (s : State) (n : Nat) (g : Tile → Tile) : (updTile s n g).rillQ = s.rillQ := putTile_rillQ _ _
@[simp] theorem updTile_firmStore (s : State) (n : Nat) (g : Tile → Tile) : (updTile s n g).firmStore = s.firmStore := putTile_firmStore _ _
@[simp] theorem updTile_firmRun (s : State) (n : Nat) (g : Tile → Tile) : (updTile s n g).firmRun = s.firmRun := putTile_firmRun _ _
@[simp] theorem focus_csets (s : State) (n : Nat) : (focus s n).csets = s.csets := by unfold focus; split <;> rfl
@[simp] theorem focus_records (s : State) (n : Nat) : (focus s n).records = s.records := by unfold focus; split <;> rfl
@[simp] theorem focus_rillQ (s : State) (n : Nat) : (focus s n).rillQ = s.rillQ := by unfold focus; split <;> rfl
@[simp] theorem focus_firmStore (s : State) (n : Nat) : (focus s n).firmStore = s.firmStore := by unfold focus; split <;> rfl
@[simp] theorem focus_firmRun (s : State) (n : Nat) : (focus s n).firmRun = s.firmRun := by unfold focus; split <;> rfl
@[simp] theorem putTile_parts (s : State) (t : Tile) : (putTile s t).parts = s.parts := by unfold putTile; split <;> rfl
@[simp] theorem updTile_parts (s : State) (n : Nat) (g : Tile → Tile) : (updTile s n g).parts = s.parts := putTile_parts _ _
@[simp] theorem focus_parts (s : State) (n : Nat) : (focus s n).parts = s.parts := by unfold focus; split <;> rfl
@[simp] theorem putTile_vfs (s : State) (t : Tile) : (putTile s t).vfs = s.vfs := by unfold putTile; split <;> rfl
@[simp] theorem updTile_vfs (s : State) (n : Nat) (g : Tile → Tile) : (updTile s n g).vfs = s.vfs := putTile_vfs _ _
@[simp] theorem focus_vfs (s : State) (n : Nat) : (focus s n).vfs = s.vfs := by unfold focus; split <;> rfl
@[simp] theorem putTile_windows (s : State) (t : Tile) : (putTile s t).windows = s.windows := by unfold putTile; split <;> rfl
@[simp] theorem updTile_windows (s : State) (n : Nat) (g : Tile → Tile) : (updTile s n g).windows = s.windows := putTile_windows _ _
@[simp] theorem focus_windows (s : State) (n : Nat) : (focus s n).windows = s.windows := by unfold focus; split <;> rfl
@[simp] theorem putTile_stripes (s : State) (t : Tile) : (putTile s t).stripes = s.stripes := by unfold putTile; split <;> rfl
@[simp] theorem updTile_stripes (s : State) (n : Nat) (g : Tile → Tile) : (updTile s n g).stripes = s.stripes := putTile_stripes _ _
@[simp] theorem focus_stripes (s : State) (n : Nat) : (focus s n).stripes = s.stripes := by unfold focus; split <;> rfl
@[simp] theorem putTile_localUnits (s : State) (t : Tile) : (putTile s t).localUnits = s.localUnits := by unfold putTile; split <;> rfl
@[simp] theorem updTile_localUnits (s : State) (n : Nat) (g : Tile → Tile) : (updTile s n g).localUnits = s.localUnits := putTile_localUnits _ _
@[simp] theorem focus_localUnits (s : State) (n : Nat) : (focus s n).localUnits = s.localUnits := by unfold focus; split <;> rfl
@[simp] theorem putTile_partErr (s : State) (t : Tile) : (putTile s t).partErr = s.partErr := by unfold putTile; split <;> rfl
@[simp] theorem updTile_partErr (s : State) (n : Nat) (g : Tile → Tile) : (updTile s n g).partErr = s.partErr := putTile_partErr _ _
@[simp] theorem focus_partErr (s : State) (n : Nat) : (focus s n).partErr = s.partErr := by unfold focus; split <;> rfl
@[simp] theorem putTile_fleetId (s : State) (t : Tile) : (putTile s t).fleetId = s.fleetId := by unfold putTile; split <;> rfl
@[simp] theorem updTile_fleetId (s : State) (n : Nat) (g : Tile → Tile) : (updTile s n g).fleetId = s.fleetId := putTile_fleetId _ _
@[simp] theorem focus_fleetId (s : State) (n : Nat) : (focus s n).fleetId = s.fleetId := by unfold focus; split <;> rfl
@[simp] theorem putTile_presentFields (s : State) (t : Tile) : (putTile s t).presentFields = s.presentFields := by unfold putTile; split <;> rfl
@[simp] theorem updTile_presentFields (s : State) (n : Nat) (g : Tile → Tile) : (updTile s n g).presentFields = s.presentFields := putTile_presentFields _ _
@[simp] theorem focus_presentFields (s : State) (n : Nat) : (focus s n).presentFields = s.presentFields := by unfold focus; split <;> rfl
@[simp] theorem putTile_presentCisterns (s : State) (t : Tile) : (putTile s t).presentCisterns = s.presentCisterns := by unfold putTile; split <;> rfl
@[simp] theorem updTile_presentCisterns (s : State) (n : Nat) (g : Tile → Tile) : (updTile s n g).presentCisterns = s.presentCisterns := putTile_presentCisterns _ _
@[simp] theorem focus_presentCisterns (s : State) (n : Nat) : (focus s n).presentCisterns = s.presentCisterns := by unfold focus; split <;> rfl
@[simp] theorem putTile_presentConduits (s : State) (t : Tile) : (putTile s t).presentConduits = s.presentConduits := by unfold putTile; split <;> rfl
@[simp] theorem updTile_presentConduits (s : State) (n : Nat) (g : Tile → Tile) : (updTile s n g).presentConduits = s.presentConduits := putTile_presentConduits _ _
@[simp] theorem focus_presentConduits (s : State) (n : Nat) : (focus s n).presentConduits = s.presentConduits := by unfold focus; split <;> rfl
@[simp] theorem putTile_rillTrained (s : State) (t : Tile) : (putTile s t).rillTrained = s.rillTrained := by unfold putTile; split <;> rfl
@[simp] theorem updTile_rillTrained (s : State) (n : Nat) (g : Tile → Tile) : (updTile s n g).rillTrained = s.rillTrained := putTile_rillTrained _ _
@[simp] theorem focus_rillTrained (s : State) (n : Nat) : (focus s n).rillTrained = s.rillTrained := by unfold focus; split <;> rfl
@[simp] theorem putTile_capacityGB (s : State) (t : Tile) : (putTile s t).capacityGB = s.capacityGB := by unfold putTile; split <;> rfl
@[simp] theorem updTile_capacityGB (s : State) (n : Nat) (g : Tile → Tile) : (updTile s n g).capacityGB = s.capacityGB := putTile_capacityGB _ _
@[simp] theorem focus_capacityGB (s : State) (n : Nat) : (focus s n).capacityGB = s.capacityGB := by unfold focus; split <;> rfl
@[simp] theorem putTile_hbmChannels (s : State) (t : Tile) : (putTile s t).hbmChannels = s.hbmChannels := by unfold putTile; split <;> rfl
@[simp] theorem updTile_hbmChannels (s : State) (n : Nat) (g : Tile → Tile) : (updTile s n g).hbmChannels = s.hbmChannels := putTile_hbmChannels _ _
@[simp] theorem focus_hbmChannels (s : State) (n : Nat) : (focus s n).hbmChannels = s.hbmChannels := by unfold focus; split <;> rfl
@[simp] theorem putTile_net (s : State) (t : Tile) : (putTile s t).net = s.net := by unfold putTile; split <;> rfl
@[simp] theorem updTile_net (s : State) (n : Nat) (g : Tile → Tile) : (updTile s n g).net = s.net := putTile_net _ _
@[simp] theorem focus_net (s : State) (n : Nat) : (focus s n).net = s.net := by unfold focus; split <;> rfl
@[simp] theorem putTile_launches (s : State) (t : Tile) : (putTile s t).launches = s.launches := by unfold putTile; split <;> rfl
@[simp] theorem updTile_launches (s : State) (n : Nat) (g : Tile → Tile) : (updTile s n g).launches = s.launches := putTile_launches _ _
@[simp] theorem focus_launches (s : State) (n : Nat) : (focus s n).launches = s.launches := by unfold focus; split <;> rfl
@[simp] theorem putTile_nextLaunch (s : State) (t : Tile) : (putTile s t).nextLaunch = s.nextLaunch := by unfold putTile; split <;> rfl
@[simp] theorem updTile_nextLaunch (s : State) (n : Nat) (g : Tile → Tile) : (updTile s n g).nextLaunch = s.nextLaunch := putTile_nextLaunch _ _
@[simp] theorem focus_nextLaunch (s : State) (n : Nat) : (focus s n).nextLaunch = s.nextLaunch := by unfold focus; split <;> rfl
@[simp] theorem putTile_colls (s : State) (t : Tile) : (putTile s t).colls = s.colls := by unfold putTile; split <;> rfl
@[simp] theorem updTile_colls (s : State) (n : Nat) (g : Tile → Tile) : (updTile s n g).colls = s.colls := putTile_colls _ _
@[simp] theorem focus_colls (s : State) (n : Nat) : (focus s n).colls = s.colls := by unfold focus; split <;> rfl
@[simp] theorem putTile_cuts (s : State) (t : Tile) : (putTile s t).cuts = s.cuts := by unfold putTile; split <;> rfl
@[simp] theorem updTile_cuts (s : State) (n : Nat) (g : Tile → Tile) : (updTile s n g).cuts = s.cuts := putTile_cuts _ _
@[simp] theorem focus_cuts (s : State) (n : Nat) : (focus s n).cuts = s.cuts := by unfold focus; split <;> rfl
@[simp] theorem putTile_nextCut (s : State) (t : Tile) : (putTile s t).nextCut = s.nextCut := by unfold putTile; split <;> rfl
@[simp] theorem updTile_nextCut (s : State) (n : Nat) (g : Tile → Tile) : (updTile s n g).nextCut = s.nextCut := putTile_nextCut _ _
@[simp] theorem focus_nextCut (s : State) (n : Nat) : (focus s n).nextCut = s.nextCut := by unfold focus; split <;> rfl
@[simp] theorem putTile_images (s : State) (t : Tile) : (putTile s t).images = s.images := by unfold putTile; split <;> rfl
@[simp] theorem updTile_images (s : State) (n : Nat) (g : Tile → Tile) : (updTile s n g).images = s.images := putTile_images _ _
@[simp] theorem focus_images (s : State) (n : Nat) : (focus s n).images = s.images := by unfold focus; split <;> rfl
@[simp] theorem putTile_hostOut (s : State) (t : Tile) : (putTile s t).hostOut = s.hostOut := by unfold putTile; split <;> rfl
@[simp] theorem updTile_hostOut (s : State) (n : Nat) (g : Tile → Tile) : (updTile s n g).hostOut = s.hostOut := putTile_hostOut _ _
@[simp] theorem focus_hostOut (s : State) (n : Nat) : (focus s n).hostOut = s.hostOut := by unfold focus; split <;> rfl
@[simp] theorem putTile_lifetime (s : State) (t : Tile) : (putTile s t).lifetime = s.lifetime := by unfold putTile; split <;> rfl
@[simp] theorem updTile_lifetime (s : State) (n : Nat) (g : Tile → Tile) : (updTile s n g).lifetime = s.lifetime := putTile_lifetime _ _
@[simp] theorem focus_lifetime (s : State) (n : Nat) : (focus s n).lifetime = s.lifetime := by unfold focus; split <;> rfl
@[simp] theorem putTile_deadLinks (s : State) (t : Tile) : (putTile s t).deadLinks = s.deadLinks := by unfold putTile; split <;> rfl
@[simp] theorem updTile_deadLinks (s : State) (n : Nat) (g : Tile → Tile) : (updTile s n g).deadLinks = s.deadLinks := putTile_deadLinks _ _
@[simp] theorem focus_deadLinks (s : State) (n : Nat) : (focus s n).deadLinks = s.deadLinks := by unfold focus; split <;> rfl
@[simp] theorem putTile_time (s : State) (t : Tile) : (putTile s t).time = s.time := by unfold putTile; split <;> rfl
@[simp] theorem updTile_time (s : State) (n : Nat) (g : Tile → Tile) : (updTile s n g).time = s.time := putTile_time _ _
@[simp] theorem focus_time (s : State) (n : Nat) : (focus s n).time = s.time := by unfold focus; split <;> rfl
@[simp] theorem putTile_freeCtr (s : State) (t : Tile) : (putTile s t).freeCtr = s.freeCtr := by unfold putTile; split <;> rfl
@[simp] theorem putTile_spouts (s : State) (t : Tile) : (putTile s t).spouts = s.spouts := by unfold putTile; split <;> rfl
@[simp] theorem updTile_freeCtr (s : State) (n : Nat) (g : Tile → Tile) : (updTile s n g).freeCtr = s.freeCtr := putTile_freeCtr _ _
@[simp] theorem updTile_spouts (s : State) (n : Nat) (g : Tile → Tile) : (updTile s n g).spouts = s.spouts := putTile_spouts _ _
@[simp] theorem focus_freeCtr (s : State) (n : Nat) : (focus s n).freeCtr = s.freeCtr := by unfold focus; split <;> rfl
@[simp] theorem focus_spouts (s : State) (n : Nat) : (focus s n).spouts = s.spouts := by unfold focus; split <;> rfl

/- registers of a tile -/

@[simp] theorem Tile.xSet_id (t : Tile) (n : Nat) (w : Word) : (t.xSet n w).id = t.id := by unfold Tile.xSet; split <;> rfl
@[simp] theorem Tile.xSet_run (t : Tile) (n : Nat) (w : Word) : (t.xSet n w).run = t.run := by unfold Tile.xSet; split <;> rfl
@[simp] theorem Tile.xSet_mode (t : Tile) (n : Nat) (w : Word) : (t.xSet n w).mode = t.mode := by unfold Tile.xSet; split <;> rfl
@[simp] theorem Tile.xSet_pc (t : Tile) (n : Nat) (w : Word) : (t.xSet n w).pc = t.pc := by unfold Tile.xSet; split <;> rfl
@[simp] theorem Tile.xSet_v (t : Tile) (n : Nat) (w : Word) : (t.xSet n w).v = t.v := by unfold Tile.xSet; split <;> rfl
@[simp] theorem Tile.xSet_m (t : Tile) (n : Nat) (w : Word) : (t.xSet n w).m = t.m := by unfold Tile.xSet; split <;> rfl
@[simp] theorem Tile.xSet_la (t : Tile) (n : Nat) (w : Word) : (t.xSet n w).la = t.la := by unfold Tile.xSet; split <;> rfl
@[simp] theorem Tile.xSet_loops (t : Tile) (n : Nat) (w : Word) : (t.xSet n w).loops = t.loops := by unfold Tile.xSet; split <;> rfl
@[simp] theorem Tile.xSet_intr (t : Tile) (n : Nat) (w : Word) : (t.xSet n w).intr = t.intr := by unfold Tile.xSet; split <;> rfl
@[simp] theorem Tile.xSet_trapBank (t : Tile) (n : Nat) (w : Word) : (t.xSet n w).trapBank = t.trapBank := by unfold Tile.xSet; split <;> rfl
@[simp] theorem Tile.xSet_wait (t : Tile) (n : Nat) (w : Word) : (t.xSet n w).wait = t.wait := by unfold Tile.xSet; split <;> rfl
@[simp] theorem Tile.xSet_waitPoint (t : Tile) (n : Nat) (w : Word) : (t.xSet n w).waitPoint = t.waitPoint := by unfold Tile.xSet; split <;> rfl
@[simp] theorem Tile.xSet_parkNext (t : Tile) (n : Nat) (w : Word) : (t.xSet n w).parkNext = t.parkNext := by unfold Tile.xSet; split <;> rfl
@[simp] theorem Tile.xSet_waitOps (t : Tile) (n : Nat) (w : Word) : (t.xSet n w).waitOps = t.waitOps := by unfold Tile.xSet; split <;> rfl
@[simp] theorem Tile.xSet_longBuf (t : Tile) (n : Nat) (w : Word) : (t.xSet n w).longBuf = t.longBuf := by unfold Tile.xSet; split <;> rfl
@[simp] theorem Tile.xSet_replay (t : Tile) (n : Nat) (w : Word) : (t.xSet n w).replay = t.replay := by unfold Tile.xSet; split <;> rfl
@[simp] theorem Tile.xSet_passed (t : Tile) (n : Nat) (w : Word) : (t.xSet n w).passed = t.passed := by unfold Tile.xSet; split <;> rfl
@[simp] theorem Tile.xSet_coreStatus (t : Tile) (n : Nat) (w : Word) : (t.xSet n w).coreStatus = t.coreStatus := by unfold Tile.xSet; split <;> rfl
@[simp] theorem Tile.xSet_xfaultVa (t : Tile) (n : Nat) (w : Word) : (t.xSet n w).xfaultVa = t.xfaultVa := by unfold Tile.xSet; split <;> rfl
@[simp] theorem Tile.xSet_xfaultInfo (t : Tile) (n : Nat) (w : Word) : (t.xSet n w).xfaultInfo = t.xfaultInfo := by unfold Tile.xSet; split <;> rfl
@[simp] theorem Tile.xSet_shadowImg (t : Tile) (n : Nat) (w : Word) : (t.xSet n w).shadowImg = t.shadowImg := by unfold Tile.xSet; split <;> rfl
@[simp] theorem Tile.xSet_prefetchSw (t : Tile) (n : Nat) (w : Word) : (t.xSet n w).prefetchSw = t.prefetchSw := by unfold Tile.xSet; split <;> rfl
@[simp] theorem Tile.xSet_pendTrap (t : Tile) (n : Nat) (w : Word) : (t.xSet n w).pendTrap = t.pendTrap := by unfold Tile.xSet; split <;> rfl
@[simp] theorem Tile.xSet_dispute (t : Tile) (n : Nat) (w : Word) : (t.xSet n w).dispute = t.dispute := by unfold Tile.xSet; split <;> rfl
@[simp] theorem Tile.xSet_reqSeq (t : Tile) (n : Nat) (w : Word) : (t.xSet n w).reqSeq = t.reqSeq := by unfold Tile.xSet; split <;> rfl
@[simp] theorem Tile.xSet_classInfo (t : Tile) (n : Nat) (w : Word) : (t.xSet n w).classInfo = t.classInfo := by unfold Tile.xSet; split <;> rfl
@[simp] theorem Tile.xSet_strayInfo (t : Tile) (n : Nat) (w : Word) : (t.xSet n w).strayInfo = t.strayInfo := by unfold Tile.xSet; split <;> rfl
@[simp] theorem Tile.xSet_cwaitGen (t : Tile) (n : Nat) (w : Word) : (t.xSet n w).cwaitGen = t.cwaitGen := by unfold Tile.xSet; split <;> rfl
@[simp] theorem Tile.xSet_trapCause (t : Tile) (n : Nat) (w : Word) : (t.xSet n w).trapCause = t.trapCause := by unfold Tile.xSet; split <;> rfl
@[simp] theorem Tile.xSet_trapPc (t : Tile) (n : Nat) (w : Word) : (t.xSet n w).trapPc = t.trapPc := by unfold Tile.xSet; split <;> rfl
@[simp] theorem Tile.xSet_trapVec (t : Tile) (n : Nat) (w : Word) : (t.xSet n w).trapVec = t.trapVec := by unfold Tile.xSet; split <;> rfl
@[simp] theorem Tile.xSet_replayPc (t : Tile) (n : Nat) (w : Word) : (t.xSet n w).replayPc = t.replayPc := by unfold Tile.xSet; split <;> rfl
@[simp] theorem Tile.xSet_residueInfo (t : Tile) (n : Nat) (w : Word) : (t.xSet n w).residueInfo = t.residueInfo := by unfold Tile.xSet; split <;> rfl
@[simp] theorem Tile.xSet_topoInfo (t : Tile) (n : Nat) (w : Word) : (t.xSet n w).topoInfo = t.topoInfo := by unfold Tile.xSet; split <;> rfl
@[simp] theorem Tile.xSet_passPc (t : Tile) (n : Nat) (w : Word) : (t.xSet n w).passPc = t.passPc := by unfold Tile.xSet; split <;> rfl
@[simp] theorem Tile.xSet_tileSplit (t : Tile) (n : Nat) (w : Word) : (t.xSet n w).tileSplit = t.tileSplit := by unfold Tile.xSet; split <;> rfl
@[simp] theorem Tile.xSet_cfgTag (t : Tile) (n : Nat) (w : Word) : (t.xSet n w).cfgTag = t.cfgTag := by unfold Tile.xSet; split <;> rfl
@[simp] theorem Tile.xSet_bankSucc (t : Tile) (n : Nat) (w : Word) : (t.xSet n w).bankSucc = t.bankSucc := by unfold Tile.xSet; split <;> rfl
@[simp] theorem Tile.xSet_bankToken (t : Tile) (n : Nat) (w : Word) : (t.xSet n w).bankToken = t.bankToken := by unfold Tile.xSet; split <;> rfl
@[simp] theorem Tile.xSet_fetchCtl (t : Tile) (n : Nat) (w : Word) : (t.xSet n w).fetchCtl = t.fetchCtl := by unfold Tile.xSet; split <;> rfl
@[simp] theorem Tile.xSet_counters (t : Tile) (n : Nat) (w : Word) : (t.xSet n w).counters = t.counters := by unfold Tile.xSet; split <;> rfl
@[simp] theorem Tile.xSet_inboxInfo (t : Tile) (n : Nat) (w : Word) : (t.xSet n w).inboxInfo = t.inboxInfo := by unfold Tile.xSet; split <;> rfl
@[simp] theorem Tile.xSet_tokenCfg (t : Tile) (n : Nat) (w : Word) : (t.xSet n w).tokenCfg = t.tokenCfg := by unfold Tile.xSet; split <;> rfl
@[simp] theorem Tile.xSet_qrecCtl (t : Tile) (n : Nat) (w : Word) : (t.xSet n w).qrecCtl = t.qrecCtl := by unfold Tile.xSet; split <;> rfl
@[simp] theorem Tile.xSet_qlock (t : Tile) (n : Nat) (w : Word) : (t.xSet n w).qlock = t.qlock := by unfold Tile.xSet; split <;> rfl
@[simp] theorem Tile.xSet_optSend (t : Tile) (n : Nat) (w : Word) : (t.xSet n w).optSend = t.optSend := by unfold Tile.xSet; split <;> rfl
@[simp] theorem Tile.xSet_fmt (t : Tile) (n : Nat) (w : Word) : (t.xSet n w).fmt = t.fmt := by unfold Tile.xSet; split <;> rfl
@[simp] theorem Tile.xSet_scale (t : Tile) (n : Nat) (w : Word) : (t.xSet n w).scale = t.scale := by unfold Tile.xSet; split <;> rfl
@[simp] theorem Tile.xSet_htPc (t : Tile) (n : Nat) (w : Word) : (t.xSet n w).htPc = t.htPc := by unfold Tile.xSet; split <;> rfl
@[simp] theorem Tile.xSet_htCtl (t : Tile) (n : Nat) (w : Word) : (t.xSet n w).htCtl = t.htCtl := by unfold Tile.xSet; split <;> rfl
@[simp] theorem Tile.xSet_touch (t : Tile) (n : Nat) (w : Word) : (t.xSet n w).touch = t.touch := by unfold Tile.xSet; split <;> rfl
@[simp] theorem Tile.xSet_touchFull (t : Tile) (n : Nat) (w : Word) : (t.xSet n w).touchFull = t.touchFull := by unfold Tile.xSet; split <;> rfl
@[simp] theorem Tile.xSet_corrCnt (t : Tile) (n : Nat) (w : Word) : (t.xSet n w).corrCnt = t.corrCnt := by unfold Tile.xSet; split <;> rfl
@[simp] theorem Tile.xSet_discardCnt (t : Tile) (n : Nat) (w : Word) : (t.xSet n w).discardCnt = t.discardCnt := by unfold Tile.xSet; split <;> rfl
@[simp] theorem Tile.xSet_inbox (t : Tile) (n : Nat) (w : Word) : (t.xSet n w).inbox = t.inbox := by unfold Tile.xSet; split <;> rfl
@[simp] theorem Tile.xSet_report (t : Tile) (n : Nat) (w : Word) : (t.xSet n w).report = t.report := by unfold Tile.xSet; split <;> rfl
@[simp] theorem Tile.xSet_sendQ (t : Tile) (n : Nat) (w : Word) : (t.xSet n w).sendQ = t.sendQ := by unfold Tile.xSet; split <;> rfl
@[simp] theorem Tile.xSet_barRec (t : Tile) (n : Nat) (w : Word) : (t.xSet n w).barRec = t.barRec := by unfold Tile.xSet; split <;> rfl
@[simp] theorem Tile.xSet_coreIn (t : Tile) (n : Nat) (w : Word) : (t.xSet n w).coreIn = t.coreIn := by unfold Tile.xSet; split <;> rfl
@[simp] theorem Tile.xSet_coreOut (t : Tile) (n : Nat) (w : Word) : (t.xSet n w).coreOut = t.coreOut := by unfold Tile.xSet; split <;> rfl
@[simp] theorem Tile.xSet_swIn (t : Tile) (n : Nat) (w : Word) : (t.xSet n w).swIn = t.swIn := by unfold Tile.xSet; split <;> rfl
@[simp] theorem Tile.xSet_weirs (t : Tile) (n : Nat) (w : Word) : (t.xSet n w).weirs = t.weirs := by unfold Tile.xSet; split <;> rfl
@[simp] theorem Tile.xSet_bq (t : Tile) (n : Nat) (w : Word) : (t.xSet n w).bq = t.bq := by unfold Tile.xSet; split <;> rfl
@[simp] theorem Tile.xSet_emq (t : Tile) (n : Nat) (w : Word) : (t.xSet n w).emq = t.emq := by unfold Tile.xSet; split <;> rfl
@[simp] theorem Tile.xSet_sw (t : Tile) (n : Nat) (w : Word) : (t.xSet n w).sw = t.sw := by unfold Tile.xSet; split <;> rfl
@[simp] theorem Tile.xSet_streams (t : Tile) (n : Nat) (w : Word) : (t.xSet n w).streams = t.streams := by unfold Tile.xSet; split <;> rfl
@[simp] theorem Tile.xSet_copies (t : Tile) (n : Nat) (w : Word) : (t.xSet n w).copies = t.copies := by unfold Tile.xSet; split <;> rfl
@[simp] theorem Tile.xSet_sub (t : Tile) (n : Nat) (w : Word) : (t.xSet n w).sub = t.sub := by unfold Tile.xSet; split <;> rfl
@[simp] theorem Tile.xSet_ports (t : Tile) (n : Nat) (w : Word) : (t.xSet n w).ports = t.ports := by unfold Tile.xSet; split <;> rfl
@[simp] theorem Tile.xSet_chan (t : Tile) (n : Nat) (w : Word) : (t.xSet n w).chan = t.chan := by unfold Tile.xSet; split <;> rfl
@[simp] theorem Tile.xSet_shadow (t : Tile) (n : Nat) (w : Word) : (t.xSet n w).shadow = t.shadow := by unfold Tile.xSet; split <;> rfl
@[simp] theorem Tile.xSet_activeImg (t : Tile) (n : Nat) (w : Word) : (t.xSet n w).activeImg = t.activeImg := by unfold Tile.xSet; split <;> rfl
@[simp] theorem Tile.xSet_carried (t : Tile) (n : Nat) (w : Word) : (t.xSet n w).carried = t.carried := by unfold Tile.xSet; split <;> rfl
@[simp] theorem Tile.xSet_dcache (t : Tile) (n : Nat) (w : Word) : (t.xSet n w).dcache = t.dcache := by unfold Tile.xSet; split <;> rfl
@[simp] theorem Tile.xSet_tlb (t : Tile) (n : Nat) (w : Word) : (t.xSet n w).tlb = t.tlb := by unfold Tile.xSet; split <;> rfl
@[simp] theorem Tile.xSet_icache (t : Tile) (n : Nat) (w : Word) : (t.xSet n w).icache = t.icache := by unfold Tile.xSet; split <;> rfl
@[simp] theorem Tile.xSet_fetchMiss (t : Tile) (n : Nat) (w : Word) : (t.xSet n w).fetchMiss = t.fetchMiss := by unfold Tile.xSet; split <;> rfl
@[simp] theorem Tile.xSet_ipref (t : Tile) (n : Nat) (w : Word) : (t.xSet n w).ipref = t.ipref := by unfold Tile.xSet; split <;> rfl
@[simp] theorem Tile.xSet_cutFlags (t : Tile) (n : Nat) (w : Word) : (t.xSet n w).cutFlags = t.cutFlags := by unfold Tile.xSet; split <;> rfl
@[simp] theorem Tile.xSet_cutOf (t : Tile) (n : Nat) (w : Word) : (t.xSet n w).cutOf = t.cutOf := by unfold Tile.xSet; split <;> rfl
@[simp] theorem Tile.xSet_cutMarked (t : Tile) (n : Nat) (w : Word) : (t.xSet n w).cutMarked = t.cutMarked := by unfold Tile.xSet; split <;> rfl
@[simp] theorem Tile.xSet_ring (t : Tile) (n : Nat) (w : Word) : (t.xSet n w).ring = t.ring := by unfold Tile.xSet; split <;> rfl
@[simp] theorem Tile.xSet_outSeq (t : Tile) (n : Nat) (w : Word) : (t.xSet n w).outSeq = t.outSeq := by unfold Tile.xSet; split <;> rfl
@[simp] theorem Tile.xSet_swMiss (t : Tile) (n : Nat) (w : Word) : (t.xSet n w).swMiss = t.swMiss := by unfold Tile.xSet; split <;> rfl
@[simp] theorem Tile.xSet_fetchSw (t : Tile) (n : Nat) (w : Word) : (t.xSet n w).fetchSw = t.fetchSw := by unfold Tile.xSet; split <;> rfl
@[simp] theorem Tile.xSet_prefetch (t : Tile) (n : Nat) (w : Word) : (t.xSet n w).prefetch = t.prefetch := by unfold Tile.xSet; split <;> rfl
@[simp] theorem Tile.xSet_lastLine (t : Tile) (n : Nat) (w : Word) : (t.xSet n w).lastLine = t.lastLine := by unfold Tile.xSet; split <;> rfl
@[simp] theorem Tile.xSet_selPark (t : Tile) (n : Nat) (w : Word) : (t.xSet n w).selPark = t.selPark := by unfold Tile.xSet; split <;> rfl
@[simp] theorem Tile.xSet_rankCache (t : Tile) (n : Nat) (w : Word) : (t.xSet n w).rankCache = t.rankCache := by unfold Tile.xSet; split <;> rfl
@[simp] theorem Tile.xSet_ownerLines (t : Tile) (n : Nat) (w : Word) : (t.xSet n w).ownerLines = t.ownerLines := by unfold Tile.xSet; split <;> rfl
@[simp] theorem Tile.xSet_dirtyGroups (t : Tile) (n : Nat) (w : Word) : (t.xSet n w).dirtyGroups = t.dirtyGroups := by unfold Tile.xSet; split <;> rfl
@[simp] theorem Tile.xSet_dirtyGranules (t : Tile) (n : Nat) (w : Word) : (t.xSet n w).dirtyGranules = t.dirtyGranules := by unfold Tile.xSet; split <;> rfl
@[simp] theorem Tile.xSet_seq (t : Tile) (n : Nat) (w : Word) : (t.xSet n w).seq = t.seq := by unfold Tile.xSet; split <;> rfl
@[simp] theorem Tile.xSet_imageOf (t : Tile) (n : Nat) (w : Word) : (t.xSet n w).imageOf = t.imageOf := by unfold Tile.xSet; split <;> rfl
@[simp] theorem Tile.xSet_scope (t : Tile) (n : Nat) (w : Word) : (t.xSet n w).scope = t.scope := by unfold Tile.xSet; split <;> rfl
@[simp] theorem Tile.xSet_launch (t : Tile) (n : Nat) (w : Word) : (t.xSet n w).launch = t.launch := by unfold Tile.xSet; split <;> rfl
@[simp] theorem Tile.xSet_launchIdx (t : Tile) (n : Nat) (w : Word) : (t.xSet n w).launchIdx = t.launchIdx := by unfold Tile.xSet; split <;> rfl
@[simp] theorem Tile.xSet_cancelled (t : Tile) (n : Nat) (w : Word) : (t.xSet n w).cancelled = t.cancelled := by unfold Tile.xSet; split <;> rfl
@[simp] theorem Tile.xSet_follow (t : Tile) (n : Nat) (w : Word) : (t.xSet n w).follow = t.follow := by unfold Tile.xSet; split <;> rfl
@[simp] theorem Tile.xSet_openChunk (t : Tile) (n : Nat) (w : Word) : (t.xSet n w).openChunk = t.openChunk := by unfold Tile.xSet; split <;> rfl
@[simp] theorem Tile.writeX_id (t : Tile) (n : Nat) (w : Word) : (t.writeX n w).id = t.id := (Tile.xSet_id _ _ _).trans rfl
@[simp] theorem Tile.writeX_run (t : Tile) (n : Nat) (w : Word) : (t.writeX n w).run = t.run := (Tile.xSet_run _ _ _).trans rfl
@[simp] theorem Tile.writeX_mode (t : Tile) (n : Nat) (w : Word) : (t.writeX n w).mode = t.mode := (Tile.xSet_mode _ _ _).trans rfl
@[simp] theorem Tile.writeX_pc (t : Tile) (n : Nat) (w : Word) : (t.writeX n w).pc = t.pc := (Tile.xSet_pc _ _ _).trans rfl
@[simp] theorem Tile.writeX_v (t : Tile) (n : Nat) (w : Word) : (t.writeX n w).v = t.v := (Tile.xSet_v _ _ _).trans rfl
@[simp] theorem Tile.writeX_m (t : Tile) (n : Nat) (w : Word) : (t.writeX n w).m = t.m := (Tile.xSet_m _ _ _).trans rfl
@[simp] theorem Tile.writeX_la (t : Tile) (n : Nat) (w : Word) : (t.writeX n w).la = t.la := (Tile.xSet_la _ _ _).trans rfl
@[simp] theorem Tile.writeX_loops (t : Tile) (n : Nat) (w : Word) : (t.writeX n w).loops = t.loops := (Tile.xSet_loops _ _ _).trans rfl
@[simp] theorem Tile.writeX_intr (t : Tile) (n : Nat) (w : Word) : (t.writeX n w).intr = t.intr := (Tile.xSet_intr _ _ _).trans rfl
@[simp] theorem Tile.writeX_trapBank (t : Tile) (n : Nat) (w : Word) : (t.writeX n w).trapBank = t.trapBank := (Tile.xSet_trapBank _ _ _).trans rfl
@[simp] theorem Tile.writeX_wait (t : Tile) (n : Nat) (w : Word) : (t.writeX n w).wait = t.wait := (Tile.xSet_wait _ _ _).trans rfl
@[simp] theorem Tile.writeX_waitPoint (t : Tile) (n : Nat) (w : Word) : (t.writeX n w).waitPoint = t.waitPoint := (Tile.xSet_waitPoint _ _ _).trans rfl
@[simp] theorem Tile.writeX_parkNext (t : Tile) (n : Nat) (w : Word) : (t.writeX n w).parkNext = t.parkNext := (Tile.xSet_parkNext _ _ _).trans rfl
@[simp] theorem Tile.writeX_waitOps (t : Tile) (n : Nat) (w : Word) : (t.writeX n w).waitOps = t.waitOps := (Tile.xSet_waitOps _ _ _).trans rfl
@[simp] theorem Tile.writeX_replay (t : Tile) (n : Nat) (w : Word) : (t.writeX n w).replay = t.replay := (Tile.xSet_replay _ _ _).trans rfl
@[simp] theorem Tile.writeX_passed (t : Tile) (n : Nat) (w : Word) : (t.writeX n w).passed = t.passed := (Tile.xSet_passed _ _ _).trans rfl
@[simp] theorem Tile.writeX_coreStatus (t : Tile) (n : Nat) (w : Word) : (t.writeX n w).coreStatus = t.coreStatus := (Tile.xSet_coreStatus _ _ _).trans rfl
@[simp] theorem Tile.writeX_xfaultVa (t : Tile) (n : Nat) (w : Word) : (t.writeX n w).xfaultVa = t.xfaultVa := (Tile.xSet_xfaultVa _ _ _).trans rfl
@[simp] theorem Tile.writeX_xfaultInfo (t : Tile) (n : Nat) (w : Word) : (t.writeX n w).xfaultInfo = t.xfaultInfo := (Tile.xSet_xfaultInfo _ _ _).trans rfl
@[simp] theorem Tile.writeX_shadowImg (t : Tile) (n : Nat) (w : Word) : (t.writeX n w).shadowImg = t.shadowImg := (Tile.xSet_shadowImg _ _ _).trans rfl
@[simp] theorem Tile.writeX_prefetchSw (t : Tile) (n : Nat) (w : Word) : (t.writeX n w).prefetchSw = t.prefetchSw := (Tile.xSet_prefetchSw _ _ _).trans rfl
@[simp] theorem Tile.writeX_pendTrap (t : Tile) (n : Nat) (w : Word) : (t.writeX n w).pendTrap = t.pendTrap := (Tile.xSet_pendTrap _ _ _).trans rfl
@[simp] theorem Tile.writeX_dispute (t : Tile) (n : Nat) (w : Word) : (t.writeX n w).dispute = t.dispute := (Tile.xSet_dispute _ _ _).trans rfl
@[simp] theorem Tile.writeX_reqSeq (t : Tile) (n : Nat) (w : Word) : (t.writeX n w).reqSeq = t.reqSeq := (Tile.xSet_reqSeq _ _ _).trans rfl
@[simp] theorem Tile.writeX_classInfo (t : Tile) (n : Nat) (w : Word) : (t.writeX n w).classInfo = t.classInfo := (Tile.xSet_classInfo _ _ _).trans rfl
@[simp] theorem Tile.writeX_strayInfo (t : Tile) (n : Nat) (w : Word) : (t.writeX n w).strayInfo = t.strayInfo := (Tile.xSet_strayInfo _ _ _).trans rfl
@[simp] theorem Tile.writeX_cwaitGen (t : Tile) (n : Nat) (w : Word) : (t.writeX n w).cwaitGen = t.cwaitGen := (Tile.xSet_cwaitGen _ _ _).trans rfl
@[simp] theorem Tile.writeX_trapCause (t : Tile) (n : Nat) (w : Word) : (t.writeX n w).trapCause = t.trapCause := (Tile.xSet_trapCause _ _ _).trans rfl
@[simp] theorem Tile.writeX_trapPc (t : Tile) (n : Nat) (w : Word) : (t.writeX n w).trapPc = t.trapPc := (Tile.xSet_trapPc _ _ _).trans rfl
@[simp] theorem Tile.writeX_trapVec (t : Tile) (n : Nat) (w : Word) : (t.writeX n w).trapVec = t.trapVec := (Tile.xSet_trapVec _ _ _).trans rfl
@[simp] theorem Tile.writeX_replayPc (t : Tile) (n : Nat) (w : Word) : (t.writeX n w).replayPc = t.replayPc := (Tile.xSet_replayPc _ _ _).trans rfl
@[simp] theorem Tile.writeX_residueInfo (t : Tile) (n : Nat) (w : Word) : (t.writeX n w).residueInfo = t.residueInfo := (Tile.xSet_residueInfo _ _ _).trans rfl
@[simp] theorem Tile.writeX_topoInfo (t : Tile) (n : Nat) (w : Word) : (t.writeX n w).topoInfo = t.topoInfo := (Tile.xSet_topoInfo _ _ _).trans rfl
@[simp] theorem Tile.writeX_passPc (t : Tile) (n : Nat) (w : Word) : (t.writeX n w).passPc = t.passPc := (Tile.xSet_passPc _ _ _).trans rfl
@[simp] theorem Tile.writeX_tileSplit (t : Tile) (n : Nat) (w : Word) : (t.writeX n w).tileSplit = t.tileSplit := (Tile.xSet_tileSplit _ _ _).trans rfl
@[simp] theorem Tile.writeX_cfgTag (t : Tile) (n : Nat) (w : Word) : (t.writeX n w).cfgTag = t.cfgTag := (Tile.xSet_cfgTag _ _ _).trans rfl
@[simp] theorem Tile.writeX_bankSucc (t : Tile) (n : Nat) (w : Word) : (t.writeX n w).bankSucc = t.bankSucc := (Tile.xSet_bankSucc _ _ _).trans rfl
@[simp] theorem Tile.writeX_bankToken (t : Tile) (n : Nat) (w : Word) : (t.writeX n w).bankToken = t.bankToken := (Tile.xSet_bankToken _ _ _).trans rfl
@[simp] theorem Tile.writeX_fetchCtl (t : Tile) (n : Nat) (w : Word) : (t.writeX n w).fetchCtl = t.fetchCtl := (Tile.xSet_fetchCtl _ _ _).trans rfl
@[simp] theorem Tile.writeX_counters (t : Tile) (n : Nat) (w : Word) : (t.writeX n w).counters = t.counters := (Tile.xSet_counters _ _ _).trans rfl
@[simp] theorem Tile.writeX_inboxInfo (t : Tile) (n : Nat) (w : Word) : (t.writeX n w).inboxInfo = t.inboxInfo := (Tile.xSet_inboxInfo _ _ _).trans rfl
@[simp] theorem Tile.writeX_tokenCfg (t : Tile) (n : Nat) (w : Word) : (t.writeX n w).tokenCfg = t.tokenCfg := (Tile.xSet_tokenCfg _ _ _).trans rfl
@[simp] theorem Tile.writeX_qrecCtl (t : Tile) (n : Nat) (w : Word) : (t.writeX n w).qrecCtl = t.qrecCtl := (Tile.xSet_qrecCtl _ _ _).trans rfl
@[simp] theorem Tile.writeX_qlock (t : Tile) (n : Nat) (w : Word) : (t.writeX n w).qlock = t.qlock := (Tile.xSet_qlock _ _ _).trans rfl
@[simp] theorem Tile.writeX_optSend (t : Tile) (n : Nat) (w : Word) : (t.writeX n w).optSend = t.optSend := (Tile.xSet_optSend _ _ _).trans rfl
@[simp] theorem Tile.writeX_fmt (t : Tile) (n : Nat) (w : Word) : (t.writeX n w).fmt = t.fmt := (Tile.xSet_fmt _ _ _).trans rfl
@[simp] theorem Tile.writeX_scale (t : Tile) (n : Nat) (w : Word) : (t.writeX n w).scale = t.scale := (Tile.xSet_scale _ _ _).trans rfl
@[simp] theorem Tile.writeX_htPc (t : Tile) (n : Nat) (w : Word) : (t.writeX n w).htPc = t.htPc := (Tile.xSet_htPc _ _ _).trans rfl
@[simp] theorem Tile.writeX_htCtl (t : Tile) (n : Nat) (w : Word) : (t.writeX n w).htCtl = t.htCtl := (Tile.xSet_htCtl _ _ _).trans rfl
@[simp] theorem Tile.writeX_touch (t : Tile) (n : Nat) (w : Word) : (t.writeX n w).touch = t.touch := (Tile.xSet_touch _ _ _).trans rfl
@[simp] theorem Tile.writeX_touchFull (t : Tile) (n : Nat) (w : Word) : (t.writeX n w).touchFull = t.touchFull := (Tile.xSet_touchFull _ _ _).trans rfl
@[simp] theorem Tile.writeX_corrCnt (t : Tile) (n : Nat) (w : Word) : (t.writeX n w).corrCnt = t.corrCnt := (Tile.xSet_corrCnt _ _ _).trans rfl
@[simp] theorem Tile.writeX_discardCnt (t : Tile) (n : Nat) (w : Word) : (t.writeX n w).discardCnt = t.discardCnt := (Tile.xSet_discardCnt _ _ _).trans rfl
@[simp] theorem Tile.writeX_inbox (t : Tile) (n : Nat) (w : Word) : (t.writeX n w).inbox = t.inbox := (Tile.xSet_inbox _ _ _).trans rfl
@[simp] theorem Tile.writeX_report (t : Tile) (n : Nat) (w : Word) : (t.writeX n w).report = t.report := (Tile.xSet_report _ _ _).trans rfl
@[simp] theorem Tile.writeX_sendQ (t : Tile) (n : Nat) (w : Word) : (t.writeX n w).sendQ = t.sendQ := (Tile.xSet_sendQ _ _ _).trans rfl
@[simp] theorem Tile.writeX_barRec (t : Tile) (n : Nat) (w : Word) : (t.writeX n w).barRec = t.barRec := (Tile.xSet_barRec _ _ _).trans rfl
@[simp] theorem Tile.writeX_coreIn (t : Tile) (n : Nat) (w : Word) : (t.writeX n w).coreIn = t.coreIn := (Tile.xSet_coreIn _ _ _).trans rfl
@[simp] theorem Tile.writeX_coreOut (t : Tile) (n : Nat) (w : Word) : (t.writeX n w).coreOut = t.coreOut := (Tile.xSet_coreOut _ _ _).trans rfl
@[simp] theorem Tile.writeX_swIn (t : Tile) (n : Nat) (w : Word) : (t.writeX n w).swIn = t.swIn := (Tile.xSet_swIn _ _ _).trans rfl
@[simp] theorem Tile.writeX_weirs (t : Tile) (n : Nat) (w : Word) : (t.writeX n w).weirs = t.weirs := (Tile.xSet_weirs _ _ _).trans rfl
@[simp] theorem Tile.writeX_bq (t : Tile) (n : Nat) (w : Word) : (t.writeX n w).bq = t.bq := (Tile.xSet_bq _ _ _).trans rfl
@[simp] theorem Tile.writeX_emq (t : Tile) (n : Nat) (w : Word) : (t.writeX n w).emq = t.emq := (Tile.xSet_emq _ _ _).trans rfl
@[simp] theorem Tile.writeX_sw (t : Tile) (n : Nat) (w : Word) : (t.writeX n w).sw = t.sw := (Tile.xSet_sw _ _ _).trans rfl
@[simp] theorem Tile.writeX_streams (t : Tile) (n : Nat) (w : Word) : (t.writeX n w).streams = t.streams := (Tile.xSet_streams _ _ _).trans rfl
@[simp] theorem Tile.writeX_copies (t : Tile) (n : Nat) (w : Word) : (t.writeX n w).copies = t.copies := (Tile.xSet_copies _ _ _).trans rfl
@[simp] theorem Tile.writeX_sub (t : Tile) (n : Nat) (w : Word) : (t.writeX n w).sub = t.sub := (Tile.xSet_sub _ _ _).trans rfl
@[simp] theorem Tile.writeX_ports (t : Tile) (n : Nat) (w : Word) : (t.writeX n w).ports = t.ports := (Tile.xSet_ports _ _ _).trans rfl
@[simp] theorem Tile.writeX_chan (t : Tile) (n : Nat) (w : Word) : (t.writeX n w).chan = t.chan := (Tile.xSet_chan _ _ _).trans rfl
@[simp] theorem Tile.writeX_shadow (t : Tile) (n : Nat) (w : Word) : (t.writeX n w).shadow = t.shadow := (Tile.xSet_shadow _ _ _).trans rfl
@[simp] theorem Tile.writeX_activeImg (t : Tile) (n : Nat) (w : Word) : (t.writeX n w).activeImg = t.activeImg := (Tile.xSet_activeImg _ _ _).trans rfl
@[simp] theorem Tile.writeX_carried (t : Tile) (n : Nat) (w : Word) : (t.writeX n w).carried = t.carried := (Tile.xSet_carried _ _ _).trans rfl
@[simp] theorem Tile.writeX_dcache (t : Tile) (n : Nat) (w : Word) : (t.writeX n w).dcache = t.dcache := (Tile.xSet_dcache _ _ _).trans rfl
@[simp] theorem Tile.writeX_tlb (t : Tile) (n : Nat) (w : Word) : (t.writeX n w).tlb = t.tlb := (Tile.xSet_tlb _ _ _).trans rfl
@[simp] theorem Tile.writeX_icache (t : Tile) (n : Nat) (w : Word) : (t.writeX n w).icache = t.icache := (Tile.xSet_icache _ _ _).trans rfl
@[simp] theorem Tile.writeX_fetchMiss (t : Tile) (n : Nat) (w : Word) : (t.writeX n w).fetchMiss = t.fetchMiss := (Tile.xSet_fetchMiss _ _ _).trans rfl
@[simp] theorem Tile.writeX_ipref (t : Tile) (n : Nat) (w : Word) : (t.writeX n w).ipref = t.ipref := (Tile.xSet_ipref _ _ _).trans rfl
@[simp] theorem Tile.writeX_cutFlags (t : Tile) (n : Nat) (w : Word) : (t.writeX n w).cutFlags = t.cutFlags := (Tile.xSet_cutFlags _ _ _).trans rfl
@[simp] theorem Tile.writeX_cutOf (t : Tile) (n : Nat) (w : Word) : (t.writeX n w).cutOf = t.cutOf := (Tile.xSet_cutOf _ _ _).trans rfl
@[simp] theorem Tile.writeX_cutMarked (t : Tile) (n : Nat) (w : Word) : (t.writeX n w).cutMarked = t.cutMarked := (Tile.xSet_cutMarked _ _ _).trans rfl
@[simp] theorem Tile.writeX_ring (t : Tile) (n : Nat) (w : Word) : (t.writeX n w).ring = t.ring := (Tile.xSet_ring _ _ _).trans rfl
@[simp] theorem Tile.writeX_outSeq (t : Tile) (n : Nat) (w : Word) : (t.writeX n w).outSeq = t.outSeq := (Tile.xSet_outSeq _ _ _).trans rfl
@[simp] theorem Tile.writeX_swMiss (t : Tile) (n : Nat) (w : Word) : (t.writeX n w).swMiss = t.swMiss := (Tile.xSet_swMiss _ _ _).trans rfl
@[simp] theorem Tile.writeX_fetchSw (t : Tile) (n : Nat) (w : Word) : (t.writeX n w).fetchSw = t.fetchSw := (Tile.xSet_fetchSw _ _ _).trans rfl
@[simp] theorem Tile.writeX_prefetch (t : Tile) (n : Nat) (w : Word) : (t.writeX n w).prefetch = t.prefetch := (Tile.xSet_prefetch _ _ _).trans rfl
@[simp] theorem Tile.writeX_lastLine (t : Tile) (n : Nat) (w : Word) : (t.writeX n w).lastLine = t.lastLine := (Tile.xSet_lastLine _ _ _).trans rfl
@[simp] theorem Tile.writeX_selPark (t : Tile) (n : Nat) (w : Word) : (t.writeX n w).selPark = t.selPark := (Tile.xSet_selPark _ _ _).trans rfl
@[simp] theorem Tile.writeX_rankCache (t : Tile) (n : Nat) (w : Word) : (t.writeX n w).rankCache = t.rankCache := (Tile.xSet_rankCache _ _ _).trans rfl
@[simp] theorem Tile.writeX_ownerLines (t : Tile) (n : Nat) (w : Word) : (t.writeX n w).ownerLines = t.ownerLines := (Tile.xSet_ownerLines _ _ _).trans rfl
@[simp] theorem Tile.writeX_dirtyGroups (t : Tile) (n : Nat) (w : Word) : (t.writeX n w).dirtyGroups = t.dirtyGroups := (Tile.xSet_dirtyGroups _ _ _).trans rfl
@[simp] theorem Tile.writeX_dirtyGranules (t : Tile) (n : Nat) (w : Word) : (t.writeX n w).dirtyGranules = t.dirtyGranules := (Tile.xSet_dirtyGranules _ _ _).trans rfl
@[simp] theorem Tile.writeX_seq (t : Tile) (n : Nat) (w : Word) : (t.writeX n w).seq = t.seq := (Tile.xSet_seq _ _ _).trans rfl
@[simp] theorem Tile.writeX_imageOf (t : Tile) (n : Nat) (w : Word) : (t.writeX n w).imageOf = t.imageOf := (Tile.xSet_imageOf _ _ _).trans rfl
@[simp] theorem Tile.writeX_scope (t : Tile) (n : Nat) (w : Word) : (t.writeX n w).scope = t.scope := (Tile.xSet_scope _ _ _).trans rfl
@[simp] theorem Tile.writeX_launch (t : Tile) (n : Nat) (w : Word) : (t.writeX n w).launch = t.launch := (Tile.xSet_launch _ _ _).trans rfl
@[simp] theorem Tile.writeX_launchIdx (t : Tile) (n : Nat) (w : Word) : (t.writeX n w).launchIdx = t.launchIdx := (Tile.xSet_launchIdx _ _ _).trans rfl
@[simp] theorem Tile.writeX_cancelled (t : Tile) (n : Nat) (w : Word) : (t.writeX n w).cancelled = t.cancelled := (Tile.xSet_cancelled _ _ _).trans rfl
@[simp] theorem Tile.writeX_follow (t : Tile) (n : Nat) (w : Word) : (t.writeX n w).follow = t.follow := (Tile.xSet_follow _ _ _).trans rfl
@[simp] theorem Tile.writeX_openChunk (t : Tile) (n : Nat) (w : Word) : (t.writeX n w).openChunk = t.openChunk := (Tile.xSet_openChunk _ _ _).trans rfl
@[simp] theorem Tile.vSet_v (t : Tile) (n : Nat) (w : BitVec 512) : (t.vSet n w).v = vset t.v n w := rfl
@[simp] theorem Tile.vSet_id (t : Tile) (n : Nat) (w : BitVec 512) : (t.vSet n w).id = t.id := rfl
@[simp] theorem Tile.vSet_run (t : Tile) (n : Nat) (w : BitVec 512) : (t.vSet n w).run = t.run := rfl
@[simp] theorem Tile.vSet_mode (t : Tile) (n : Nat) (w : BitVec 512) : (t.vSet n w).mode = t.mode := rfl
@[simp] theorem Tile.vSet_pc (t : Tile) (n : Nat) (w : BitVec 512) : (t.vSet n w).pc = t.pc := rfl
@[simp] theorem Tile.vSet_x (t : Tile) (n : Nat) (w : BitVec 512) : (t.vSet n w).x = t.x := rfl
@[simp] theorem Tile.vSet_m (t : Tile) (n : Nat) (w : BitVec 512) : (t.vSet n w).m = t.m := rfl
@[simp] theorem Tile.vSet_la (t : Tile) (n : Nat) (w : BitVec 512) : (t.vSet n w).la = t.la := rfl
@[simp] theorem Tile.vSet_loops (t : Tile) (n : Nat) (w : BitVec 512) : (t.vSet n w).loops = t.loops := rfl
@[simp] theorem Tile.vSet_intr (t : Tile) (n : Nat) (w : BitVec 512) : (t.vSet n w).intr = t.intr := rfl
@[simp] theorem Tile.vSet_trapBank (t : Tile) (n : Nat) (w : BitVec 512) : (t.vSet n w).trapBank = t.trapBank := rfl
@[simp] theorem Tile.vSet_wait (t : Tile) (n : Nat) (w : BitVec 512) : (t.vSet n w).wait = t.wait := rfl
@[simp] theorem Tile.vSet_waitPoint (t : Tile) (n : Nat) (w : BitVec 512) : (t.vSet n w).waitPoint = t.waitPoint := rfl
@[simp] theorem Tile.vSet_parkNext (t : Tile) (n : Nat) (w : BitVec 512) : (t.vSet n w).parkNext = t.parkNext := rfl
@[simp] theorem Tile.vSet_waitOps (t : Tile) (n : Nat) (w : BitVec 512) : (t.vSet n w).waitOps = t.waitOps := rfl
@[simp] theorem Tile.vSet_longBuf (t : Tile) (n : Nat) (w : BitVec 512) : (t.vSet n w).longBuf = t.longBuf := rfl
@[simp] theorem Tile.vSet_replay (t : Tile) (n : Nat) (w : BitVec 512) : (t.vSet n w).replay = t.replay := rfl
@[simp] theorem Tile.vSet_passed (t : Tile) (n : Nat) (w : BitVec 512) : (t.vSet n w).passed = t.passed := rfl
@[simp] theorem Tile.vSet_coreStatus (t : Tile) (n : Nat) (w : BitVec 512) : (t.vSet n w).coreStatus = t.coreStatus := rfl
@[simp] theorem Tile.vSet_xfaultVa (t : Tile) (n : Nat) (w : BitVec 512) : (t.vSet n w).xfaultVa = t.xfaultVa := rfl
@[simp] theorem Tile.vSet_xfaultInfo (t : Tile) (n : Nat) (w : BitVec 512) : (t.vSet n w).xfaultInfo = t.xfaultInfo := rfl
@[simp] theorem Tile.vSet_shadowImg (t : Tile) (n : Nat) (w : BitVec 512) : (t.vSet n w).shadowImg = t.shadowImg := rfl
@[simp] theorem Tile.vSet_prefetchSw (t : Tile) (n : Nat) (w : BitVec 512) : (t.vSet n w).prefetchSw = t.prefetchSw := rfl
@[simp] theorem Tile.vSet_pendTrap (t : Tile) (n : Nat) (w : BitVec 512) : (t.vSet n w).pendTrap = t.pendTrap := rfl
@[simp] theorem Tile.vSet_dispute (t : Tile) (n : Nat) (w : BitVec 512) : (t.vSet n w).dispute = t.dispute := rfl
@[simp] theorem Tile.vSet_reqSeq (t : Tile) (n : Nat) (w : BitVec 512) : (t.vSet n w).reqSeq = t.reqSeq := rfl
@[simp] theorem Tile.vSet_classInfo (t : Tile) (n : Nat) (w : BitVec 512) : (t.vSet n w).classInfo = t.classInfo := rfl
@[simp] theorem Tile.vSet_strayInfo (t : Tile) (n : Nat) (w : BitVec 512) : (t.vSet n w).strayInfo = t.strayInfo := rfl
@[simp] theorem Tile.vSet_cwaitGen (t : Tile) (n : Nat) (w : BitVec 512) : (t.vSet n w).cwaitGen = t.cwaitGen := rfl
@[simp] theorem Tile.vSet_trapCause (t : Tile) (n : Nat) (w : BitVec 512) : (t.vSet n w).trapCause = t.trapCause := rfl
@[simp] theorem Tile.vSet_trapPc (t : Tile) (n : Nat) (w : BitVec 512) : (t.vSet n w).trapPc = t.trapPc := rfl
@[simp] theorem Tile.vSet_trapVec (t : Tile) (n : Nat) (w : BitVec 512) : (t.vSet n w).trapVec = t.trapVec := rfl
@[simp] theorem Tile.vSet_replayPc (t : Tile) (n : Nat) (w : BitVec 512) : (t.vSet n w).replayPc = t.replayPc := rfl
@[simp] theorem Tile.vSet_residueInfo (t : Tile) (n : Nat) (w : BitVec 512) : (t.vSet n w).residueInfo = t.residueInfo := rfl
@[simp] theorem Tile.vSet_topoInfo (t : Tile) (n : Nat) (w : BitVec 512) : (t.vSet n w).topoInfo = t.topoInfo := rfl
@[simp] theorem Tile.vSet_passPc (t : Tile) (n : Nat) (w : BitVec 512) : (t.vSet n w).passPc = t.passPc := rfl
@[simp] theorem Tile.vSet_tileSplit (t : Tile) (n : Nat) (w : BitVec 512) : (t.vSet n w).tileSplit = t.tileSplit := rfl
@[simp] theorem Tile.vSet_cfgTag (t : Tile) (n : Nat) (w : BitVec 512) : (t.vSet n w).cfgTag = t.cfgTag := rfl
@[simp] theorem Tile.vSet_bankSucc (t : Tile) (n : Nat) (w : BitVec 512) : (t.vSet n w).bankSucc = t.bankSucc := rfl
@[simp] theorem Tile.vSet_bankToken (t : Tile) (n : Nat) (w : BitVec 512) : (t.vSet n w).bankToken = t.bankToken := rfl
@[simp] theorem Tile.vSet_fetchCtl (t : Tile) (n : Nat) (w : BitVec 512) : (t.vSet n w).fetchCtl = t.fetchCtl := rfl
@[simp] theorem Tile.vSet_counters (t : Tile) (n : Nat) (w : BitVec 512) : (t.vSet n w).counters = t.counters := rfl
@[simp] theorem Tile.vSet_inboxInfo (t : Tile) (n : Nat) (w : BitVec 512) : (t.vSet n w).inboxInfo = t.inboxInfo := rfl
@[simp] theorem Tile.vSet_tokenCfg (t : Tile) (n : Nat) (w : BitVec 512) : (t.vSet n w).tokenCfg = t.tokenCfg := rfl
@[simp] theorem Tile.vSet_qrecCtl (t : Tile) (n : Nat) (w : BitVec 512) : (t.vSet n w).qrecCtl = t.qrecCtl := rfl
@[simp] theorem Tile.vSet_qlock (t : Tile) (n : Nat) (w : BitVec 512) : (t.vSet n w).qlock = t.qlock := rfl
@[simp] theorem Tile.vSet_optSend (t : Tile) (n : Nat) (w : BitVec 512) : (t.vSet n w).optSend = t.optSend := rfl
@[simp] theorem Tile.vSet_fmt (t : Tile) (n : Nat) (w : BitVec 512) : (t.vSet n w).fmt = t.fmt := rfl
@[simp] theorem Tile.vSet_scale (t : Tile) (n : Nat) (w : BitVec 512) : (t.vSet n w).scale = t.scale := rfl
@[simp] theorem Tile.vSet_htPc (t : Tile) (n : Nat) (w : BitVec 512) : (t.vSet n w).htPc = t.htPc := rfl
@[simp] theorem Tile.vSet_htCtl (t : Tile) (n : Nat) (w : BitVec 512) : (t.vSet n w).htCtl = t.htCtl := rfl
@[simp] theorem Tile.vSet_touch (t : Tile) (n : Nat) (w : BitVec 512) : (t.vSet n w).touch = t.touch := rfl
@[simp] theorem Tile.vSet_touchFull (t : Tile) (n : Nat) (w : BitVec 512) : (t.vSet n w).touchFull = t.touchFull := rfl
@[simp] theorem Tile.vSet_corrCnt (t : Tile) (n : Nat) (w : BitVec 512) : (t.vSet n w).corrCnt = t.corrCnt := rfl
@[simp] theorem Tile.vSet_discardCnt (t : Tile) (n : Nat) (w : BitVec 512) : (t.vSet n w).discardCnt = t.discardCnt := rfl
@[simp] theorem Tile.vSet_inbox (t : Tile) (n : Nat) (w : BitVec 512) : (t.vSet n w).inbox = t.inbox := rfl
@[simp] theorem Tile.vSet_report (t : Tile) (n : Nat) (w : BitVec 512) : (t.vSet n w).report = t.report := rfl
@[simp] theorem Tile.vSet_sendQ (t : Tile) (n : Nat) (w : BitVec 512) : (t.vSet n w).sendQ = t.sendQ := rfl
@[simp] theorem Tile.vSet_barRec (t : Tile) (n : Nat) (w : BitVec 512) : (t.vSet n w).barRec = t.barRec := rfl
@[simp] theorem Tile.vSet_coreIn (t : Tile) (n : Nat) (w : BitVec 512) : (t.vSet n w).coreIn = t.coreIn := rfl
@[simp] theorem Tile.vSet_coreOut (t : Tile) (n : Nat) (w : BitVec 512) : (t.vSet n w).coreOut = t.coreOut := rfl
@[simp] theorem Tile.vSet_swIn (t : Tile) (n : Nat) (w : BitVec 512) : (t.vSet n w).swIn = t.swIn := rfl
@[simp] theorem Tile.vSet_weirs (t : Tile) (n : Nat) (w : BitVec 512) : (t.vSet n w).weirs = t.weirs := rfl
@[simp] theorem Tile.vSet_bq (t : Tile) (n : Nat) (w : BitVec 512) : (t.vSet n w).bq = t.bq := rfl
@[simp] theorem Tile.vSet_emq (t : Tile) (n : Nat) (w : BitVec 512) : (t.vSet n w).emq = t.emq := rfl
@[simp] theorem Tile.vSet_sw (t : Tile) (n : Nat) (w : BitVec 512) : (t.vSet n w).sw = t.sw := rfl
@[simp] theorem Tile.vSet_streams (t : Tile) (n : Nat) (w : BitVec 512) : (t.vSet n w).streams = t.streams := rfl
@[simp] theorem Tile.vSet_copies (t : Tile) (n : Nat) (w : BitVec 512) : (t.vSet n w).copies = t.copies := rfl
@[simp] theorem Tile.vSet_sub (t : Tile) (n : Nat) (w : BitVec 512) : (t.vSet n w).sub = t.sub := rfl
@[simp] theorem Tile.vSet_ports (t : Tile) (n : Nat) (w : BitVec 512) : (t.vSet n w).ports = t.ports := rfl
@[simp] theorem Tile.vSet_chan (t : Tile) (n : Nat) (w : BitVec 512) : (t.vSet n w).chan = t.chan := rfl
@[simp] theorem Tile.vSet_shadow (t : Tile) (n : Nat) (w : BitVec 512) : (t.vSet n w).shadow = t.shadow := rfl
@[simp] theorem Tile.vSet_activeImg (t : Tile) (n : Nat) (w : BitVec 512) : (t.vSet n w).activeImg = t.activeImg := rfl
@[simp] theorem Tile.vSet_carried (t : Tile) (n : Nat) (w : BitVec 512) : (t.vSet n w).carried = t.carried := rfl
@[simp] theorem Tile.vSet_dcache (t : Tile) (n : Nat) (w : BitVec 512) : (t.vSet n w).dcache = t.dcache := rfl
@[simp] theorem Tile.vSet_tlb (t : Tile) (n : Nat) (w : BitVec 512) : (t.vSet n w).tlb = t.tlb := rfl
@[simp] theorem Tile.vSet_icache (t : Tile) (n : Nat) (w : BitVec 512) : (t.vSet n w).icache = t.icache := rfl
@[simp] theorem Tile.vSet_fetchMiss (t : Tile) (n : Nat) (w : BitVec 512) : (t.vSet n w).fetchMiss = t.fetchMiss := rfl
@[simp] theorem Tile.vSet_ipref (t : Tile) (n : Nat) (w : BitVec 512) : (t.vSet n w).ipref = t.ipref := rfl
@[simp] theorem Tile.vSet_cutFlags (t : Tile) (n : Nat) (w : BitVec 512) : (t.vSet n w).cutFlags = t.cutFlags := rfl
@[simp] theorem Tile.vSet_cutOf (t : Tile) (n : Nat) (w : BitVec 512) : (t.vSet n w).cutOf = t.cutOf := rfl
@[simp] theorem Tile.vSet_cutMarked (t : Tile) (n : Nat) (w : BitVec 512) : (t.vSet n w).cutMarked = t.cutMarked := rfl
@[simp] theorem Tile.vSet_ring (t : Tile) (n : Nat) (w : BitVec 512) : (t.vSet n w).ring = t.ring := rfl
@[simp] theorem Tile.vSet_outSeq (t : Tile) (n : Nat) (w : BitVec 512) : (t.vSet n w).outSeq = t.outSeq := rfl
@[simp] theorem Tile.vSet_swMiss (t : Tile) (n : Nat) (w : BitVec 512) : (t.vSet n w).swMiss = t.swMiss := rfl
@[simp] theorem Tile.vSet_fetchSw (t : Tile) (n : Nat) (w : BitVec 512) : (t.vSet n w).fetchSw = t.fetchSw := rfl
@[simp] theorem Tile.vSet_prefetch (t : Tile) (n : Nat) (w : BitVec 512) : (t.vSet n w).prefetch = t.prefetch := rfl
@[simp] theorem Tile.vSet_lastLine (t : Tile) (n : Nat) (w : BitVec 512) : (t.vSet n w).lastLine = t.lastLine := rfl
@[simp] theorem Tile.vSet_selPark (t : Tile) (n : Nat) (w : BitVec 512) : (t.vSet n w).selPark = t.selPark := rfl
@[simp] theorem Tile.vSet_rankCache (t : Tile) (n : Nat) (w : BitVec 512) : (t.vSet n w).rankCache = t.rankCache := rfl
@[simp] theorem Tile.vSet_ownerLines (t : Tile) (n : Nat) (w : BitVec 512) : (t.vSet n w).ownerLines = t.ownerLines := rfl
@[simp] theorem Tile.vSet_dirtyGroups (t : Tile) (n : Nat) (w : BitVec 512) : (t.vSet n w).dirtyGroups = t.dirtyGroups := rfl
@[simp] theorem Tile.vSet_dirtyGranules (t : Tile) (n : Nat) (w : BitVec 512) : (t.vSet n w).dirtyGranules = t.dirtyGranules := rfl
@[simp] theorem Tile.vSet_seq (t : Tile) (n : Nat) (w : BitVec 512) : (t.vSet n w).seq = t.seq := rfl
@[simp] theorem Tile.vSet_imageOf (t : Tile) (n : Nat) (w : BitVec 512) : (t.vSet n w).imageOf = t.imageOf := rfl
@[simp] theorem Tile.vSet_scope (t : Tile) (n : Nat) (w : BitVec 512) : (t.vSet n w).scope = t.scope := rfl
@[simp] theorem Tile.vSet_launch (t : Tile) (n : Nat) (w : BitVec 512) : (t.vSet n w).launch = t.launch := rfl
@[simp] theorem Tile.vSet_launchIdx (t : Tile) (n : Nat) (w : BitVec 512) : (t.vSet n w).launchIdx = t.launchIdx := rfl
@[simp] theorem Tile.vSet_cancelled (t : Tile) (n : Nat) (w : BitVec 512) : (t.vSet n w).cancelled = t.cancelled := rfl
@[simp] theorem Tile.vSet_follow (t : Tile) (n : Nat) (w : BitVec 512) : (t.vSet n w).follow = t.follow := rfl
@[simp] theorem Tile.vSet_openChunk (t : Tile) (n : Nat) (w : BitVec 512) : (t.vSet n w).openChunk = t.openChunk := rfl
@[simp] theorem Tile.writeV_id (t : Tile) (n : Nat) (w : BitVec 512) : (t.writeV n w).id = t.id := rfl
@[simp] theorem Tile.writeV_run (t : Tile) (n : Nat) (w : BitVec 512) : (t.writeV n w).run = t.run := rfl
@[simp] theorem Tile.writeV_mode (t : Tile) (n : Nat) (w : BitVec 512) : (t.writeV n w).mode = t.mode := rfl
@[simp] theorem Tile.writeV_pc (t : Tile) (n : Nat) (w : BitVec 512) : (t.writeV n w).pc = t.pc := rfl
@[simp] theorem Tile.writeV_x (t : Tile) (n : Nat) (w : BitVec 512) : (t.writeV n w).x = t.x := rfl
@[simp] theorem Tile.writeV_m (t : Tile) (n : Nat) (w : BitVec 512) : (t.writeV n w).m = t.m := rfl
@[simp] theorem Tile.writeV_la (t : Tile) (n : Nat) (w : BitVec 512) : (t.writeV n w).la = t.la := rfl
@[simp] theorem Tile.writeV_loops (t : Tile) (n : Nat) (w : BitVec 512) : (t.writeV n w).loops = t.loops := rfl
@[simp] theorem Tile.writeV_intr (t : Tile) (n : Nat) (w : BitVec 512) : (t.writeV n w).intr = t.intr := rfl
@[simp] theorem Tile.writeV_trapBank (t : Tile) (n : Nat) (w : BitVec 512) : (t.writeV n w).trapBank = t.trapBank := rfl
@[simp] theorem Tile.writeV_wait (t : Tile) (n : Nat) (w : BitVec 512) : (t.writeV n w).wait = t.wait := rfl
@[simp] theorem Tile.writeV_waitPoint (t : Tile) (n : Nat) (w : BitVec 512) : (t.writeV n w).waitPoint = t.waitPoint := rfl
@[simp] theorem Tile.writeV_parkNext (t : Tile) (n : Nat) (w : BitVec 512) : (t.writeV n w).parkNext = t.parkNext := rfl
@[simp] theorem Tile.writeV_waitOps (t : Tile) (n : Nat) (w : BitVec 512) : (t.writeV n w).waitOps = t.waitOps := rfl
@[simp] theorem Tile.writeV_replay (t : Tile) (n : Nat) (w : BitVec 512) : (t.writeV n w).replay = t.replay := rfl
@[simp] theorem Tile.writeV_passed (t : Tile) (n : Nat) (w : BitVec 512) : (t.writeV n w).passed = t.passed := rfl
@[simp] theorem Tile.writeV_coreStatus (t : Tile) (n : Nat) (w : BitVec 512) : (t.writeV n w).coreStatus = t.coreStatus := rfl
@[simp] theorem Tile.writeV_xfaultVa (t : Tile) (n : Nat) (w : BitVec 512) : (t.writeV n w).xfaultVa = t.xfaultVa := rfl
@[simp] theorem Tile.writeV_xfaultInfo (t : Tile) (n : Nat) (w : BitVec 512) : (t.writeV n w).xfaultInfo = t.xfaultInfo := rfl
@[simp] theorem Tile.writeV_shadowImg (t : Tile) (n : Nat) (w : BitVec 512) : (t.writeV n w).shadowImg = t.shadowImg := rfl
@[simp] theorem Tile.writeV_prefetchSw (t : Tile) (n : Nat) (w : BitVec 512) : (t.writeV n w).prefetchSw = t.prefetchSw := rfl
@[simp] theorem Tile.writeV_pendTrap (t : Tile) (n : Nat) (w : BitVec 512) : (t.writeV n w).pendTrap = t.pendTrap := rfl
@[simp] theorem Tile.writeV_dispute (t : Tile) (n : Nat) (w : BitVec 512) : (t.writeV n w).dispute = t.dispute := rfl
@[simp] theorem Tile.writeV_reqSeq (t : Tile) (n : Nat) (w : BitVec 512) : (t.writeV n w).reqSeq = t.reqSeq := rfl
@[simp] theorem Tile.writeV_classInfo (t : Tile) (n : Nat) (w : BitVec 512) : (t.writeV n w).classInfo = t.classInfo := rfl
@[simp] theorem Tile.writeV_strayInfo (t : Tile) (n : Nat) (w : BitVec 512) : (t.writeV n w).strayInfo = t.strayInfo := rfl
@[simp] theorem Tile.writeV_cwaitGen (t : Tile) (n : Nat) (w : BitVec 512) : (t.writeV n w).cwaitGen = t.cwaitGen := rfl
@[simp] theorem Tile.writeV_trapCause (t : Tile) (n : Nat) (w : BitVec 512) : (t.writeV n w).trapCause = t.trapCause := rfl
@[simp] theorem Tile.writeV_trapPc (t : Tile) (n : Nat) (w : BitVec 512) : (t.writeV n w).trapPc = t.trapPc := rfl
@[simp] theorem Tile.writeV_trapVec (t : Tile) (n : Nat) (w : BitVec 512) : (t.writeV n w).trapVec = t.trapVec := rfl
@[simp] theorem Tile.writeV_replayPc (t : Tile) (n : Nat) (w : BitVec 512) : (t.writeV n w).replayPc = t.replayPc := rfl
@[simp] theorem Tile.writeV_residueInfo (t : Tile) (n : Nat) (w : BitVec 512) : (t.writeV n w).residueInfo = t.residueInfo := rfl
@[simp] theorem Tile.writeV_topoInfo (t : Tile) (n : Nat) (w : BitVec 512) : (t.writeV n w).topoInfo = t.topoInfo := rfl
@[simp] theorem Tile.writeV_passPc (t : Tile) (n : Nat) (w : BitVec 512) : (t.writeV n w).passPc = t.passPc := rfl
@[simp] theorem Tile.writeV_tileSplit (t : Tile) (n : Nat) (w : BitVec 512) : (t.writeV n w).tileSplit = t.tileSplit := rfl
@[simp] theorem Tile.writeV_cfgTag (t : Tile) (n : Nat) (w : BitVec 512) : (t.writeV n w).cfgTag = t.cfgTag := rfl
@[simp] theorem Tile.writeV_bankSucc (t : Tile) (n : Nat) (w : BitVec 512) : (t.writeV n w).bankSucc = t.bankSucc := rfl
@[simp] theorem Tile.writeV_bankToken (t : Tile) (n : Nat) (w : BitVec 512) : (t.writeV n w).bankToken = t.bankToken := rfl
@[simp] theorem Tile.writeV_fetchCtl (t : Tile) (n : Nat) (w : BitVec 512) : (t.writeV n w).fetchCtl = t.fetchCtl := rfl
@[simp] theorem Tile.writeV_counters (t : Tile) (n : Nat) (w : BitVec 512) : (t.writeV n w).counters = t.counters := rfl
@[simp] theorem Tile.writeV_inboxInfo (t : Tile) (n : Nat) (w : BitVec 512) : (t.writeV n w).inboxInfo = t.inboxInfo := rfl
@[simp] theorem Tile.writeV_tokenCfg (t : Tile) (n : Nat) (w : BitVec 512) : (t.writeV n w).tokenCfg = t.tokenCfg := rfl
@[simp] theorem Tile.writeV_qrecCtl (t : Tile) (n : Nat) (w : BitVec 512) : (t.writeV n w).qrecCtl = t.qrecCtl := rfl
@[simp] theorem Tile.writeV_qlock (t : Tile) (n : Nat) (w : BitVec 512) : (t.writeV n w).qlock = t.qlock := rfl
@[simp] theorem Tile.writeV_optSend (t : Tile) (n : Nat) (w : BitVec 512) : (t.writeV n w).optSend = t.optSend := rfl
@[simp] theorem Tile.writeV_fmt (t : Tile) (n : Nat) (w : BitVec 512) : (t.writeV n w).fmt = t.fmt := rfl
@[simp] theorem Tile.writeV_scale (t : Tile) (n : Nat) (w : BitVec 512) : (t.writeV n w).scale = t.scale := rfl
@[simp] theorem Tile.writeV_htPc (t : Tile) (n : Nat) (w : BitVec 512) : (t.writeV n w).htPc = t.htPc := rfl
@[simp] theorem Tile.writeV_htCtl (t : Tile) (n : Nat) (w : BitVec 512) : (t.writeV n w).htCtl = t.htCtl := rfl
@[simp] theorem Tile.writeV_touch (t : Tile) (n : Nat) (w : BitVec 512) : (t.writeV n w).touch = t.touch := rfl
@[simp] theorem Tile.writeV_touchFull (t : Tile) (n : Nat) (w : BitVec 512) : (t.writeV n w).touchFull = t.touchFull := rfl
@[simp] theorem Tile.writeV_corrCnt (t : Tile) (n : Nat) (w : BitVec 512) : (t.writeV n w).corrCnt = t.corrCnt := rfl
@[simp] theorem Tile.writeV_discardCnt (t : Tile) (n : Nat) (w : BitVec 512) : (t.writeV n w).discardCnt = t.discardCnt := rfl
@[simp] theorem Tile.writeV_inbox (t : Tile) (n : Nat) (w : BitVec 512) : (t.writeV n w).inbox = t.inbox := rfl
@[simp] theorem Tile.writeV_report (t : Tile) (n : Nat) (w : BitVec 512) : (t.writeV n w).report = t.report := rfl
@[simp] theorem Tile.writeV_sendQ (t : Tile) (n : Nat) (w : BitVec 512) : (t.writeV n w).sendQ = t.sendQ := rfl
@[simp] theorem Tile.writeV_barRec (t : Tile) (n : Nat) (w : BitVec 512) : (t.writeV n w).barRec = t.barRec := rfl
@[simp] theorem Tile.writeV_coreIn (t : Tile) (n : Nat) (w : BitVec 512) : (t.writeV n w).coreIn = t.coreIn := rfl
@[simp] theorem Tile.writeV_coreOut (t : Tile) (n : Nat) (w : BitVec 512) : (t.writeV n w).coreOut = t.coreOut := rfl
@[simp] theorem Tile.writeV_swIn (t : Tile) (n : Nat) (w : BitVec 512) : (t.writeV n w).swIn = t.swIn := rfl
@[simp] theorem Tile.writeV_weirs (t : Tile) (n : Nat) (w : BitVec 512) : (t.writeV n w).weirs = t.weirs := rfl
@[simp] theorem Tile.writeV_bq (t : Tile) (n : Nat) (w : BitVec 512) : (t.writeV n w).bq = t.bq := rfl
@[simp] theorem Tile.writeV_emq (t : Tile) (n : Nat) (w : BitVec 512) : (t.writeV n w).emq = t.emq := rfl
@[simp] theorem Tile.writeV_sw (t : Tile) (n : Nat) (w : BitVec 512) : (t.writeV n w).sw = t.sw := rfl
@[simp] theorem Tile.writeV_streams (t : Tile) (n : Nat) (w : BitVec 512) : (t.writeV n w).streams = t.streams := rfl
@[simp] theorem Tile.writeV_copies (t : Tile) (n : Nat) (w : BitVec 512) : (t.writeV n w).copies = t.copies := rfl
@[simp] theorem Tile.writeV_sub (t : Tile) (n : Nat) (w : BitVec 512) : (t.writeV n w).sub = t.sub := rfl
@[simp] theorem Tile.writeV_ports (t : Tile) (n : Nat) (w : BitVec 512) : (t.writeV n w).ports = t.ports := rfl
@[simp] theorem Tile.writeV_chan (t : Tile) (n : Nat) (w : BitVec 512) : (t.writeV n w).chan = t.chan := rfl
@[simp] theorem Tile.writeV_shadow (t : Tile) (n : Nat) (w : BitVec 512) : (t.writeV n w).shadow = t.shadow := rfl
@[simp] theorem Tile.writeV_activeImg (t : Tile) (n : Nat) (w : BitVec 512) : (t.writeV n w).activeImg = t.activeImg := rfl
@[simp] theorem Tile.writeV_carried (t : Tile) (n : Nat) (w : BitVec 512) : (t.writeV n w).carried = t.carried := rfl
@[simp] theorem Tile.writeV_dcache (t : Tile) (n : Nat) (w : BitVec 512) : (t.writeV n w).dcache = t.dcache := rfl
@[simp] theorem Tile.writeV_tlb (t : Tile) (n : Nat) (w : BitVec 512) : (t.writeV n w).tlb = t.tlb := rfl
@[simp] theorem Tile.writeV_icache (t : Tile) (n : Nat) (w : BitVec 512) : (t.writeV n w).icache = t.icache := rfl
@[simp] theorem Tile.writeV_fetchMiss (t : Tile) (n : Nat) (w : BitVec 512) : (t.writeV n w).fetchMiss = t.fetchMiss := rfl
@[simp] theorem Tile.writeV_ipref (t : Tile) (n : Nat) (w : BitVec 512) : (t.writeV n w).ipref = t.ipref := rfl
@[simp] theorem Tile.writeV_cutFlags (t : Tile) (n : Nat) (w : BitVec 512) : (t.writeV n w).cutFlags = t.cutFlags := rfl
@[simp] theorem Tile.writeV_cutOf (t : Tile) (n : Nat) (w : BitVec 512) : (t.writeV n w).cutOf = t.cutOf := rfl
@[simp] theorem Tile.writeV_cutMarked (t : Tile) (n : Nat) (w : BitVec 512) : (t.writeV n w).cutMarked = t.cutMarked := rfl
@[simp] theorem Tile.writeV_ring (t : Tile) (n : Nat) (w : BitVec 512) : (t.writeV n w).ring = t.ring := rfl
@[simp] theorem Tile.writeV_outSeq (t : Tile) (n : Nat) (w : BitVec 512) : (t.writeV n w).outSeq = t.outSeq := rfl
@[simp] theorem Tile.writeV_swMiss (t : Tile) (n : Nat) (w : BitVec 512) : (t.writeV n w).swMiss = t.swMiss := rfl
@[simp] theorem Tile.writeV_fetchSw (t : Tile) (n : Nat) (w : BitVec 512) : (t.writeV n w).fetchSw = t.fetchSw := rfl
@[simp] theorem Tile.writeV_prefetch (t : Tile) (n : Nat) (w : BitVec 512) : (t.writeV n w).prefetch = t.prefetch := rfl
@[simp] theorem Tile.writeV_lastLine (t : Tile) (n : Nat) (w : BitVec 512) : (t.writeV n w).lastLine = t.lastLine := rfl
@[simp] theorem Tile.writeV_selPark (t : Tile) (n : Nat) (w : BitVec 512) : (t.writeV n w).selPark = t.selPark := rfl
@[simp] theorem Tile.writeV_rankCache (t : Tile) (n : Nat) (w : BitVec 512) : (t.writeV n w).rankCache = t.rankCache := rfl
@[simp] theorem Tile.writeV_ownerLines (t : Tile) (n : Nat) (w : BitVec 512) : (t.writeV n w).ownerLines = t.ownerLines := rfl
@[simp] theorem Tile.writeV_dirtyGroups (t : Tile) (n : Nat) (w : BitVec 512) : (t.writeV n w).dirtyGroups = t.dirtyGroups := rfl
@[simp] theorem Tile.writeV_dirtyGranules (t : Tile) (n : Nat) (w : BitVec 512) : (t.writeV n w).dirtyGranules = t.dirtyGranules := rfl
@[simp] theorem Tile.writeV_seq (t : Tile) (n : Nat) (w : BitVec 512) : (t.writeV n w).seq = t.seq := rfl
@[simp] theorem Tile.writeV_imageOf (t : Tile) (n : Nat) (w : BitVec 512) : (t.writeV n w).imageOf = t.imageOf := rfl
@[simp] theorem Tile.writeV_scope (t : Tile) (n : Nat) (w : BitVec 512) : (t.writeV n w).scope = t.scope := rfl
@[simp] theorem Tile.writeV_launch (t : Tile) (n : Nat) (w : BitVec 512) : (t.writeV n w).launch = t.launch := rfl
@[simp] theorem Tile.writeV_launchIdx (t : Tile) (n : Nat) (w : BitVec 512) : (t.writeV n w).launchIdx = t.launchIdx := rfl
@[simp] theorem Tile.writeV_cancelled (t : Tile) (n : Nat) (w : BitVec 512) : (t.writeV n w).cancelled = t.cancelled := rfl
@[simp] theorem Tile.writeV_follow (t : Tile) (n : Nat) (w : BitVec 512) : (t.writeV n w).follow = t.follow := rfl
@[simp] theorem Tile.writeV_openChunk (t : Tile) (n : Nat) (w : BitVec 512) : (t.writeV n w).openChunk = t.openChunk := rfl
@[simp] theorem Tile.mSet_id (t : Tile) (n : Nat) (w : Word) : (t.mSet n w).id = t.id := by unfold Tile.mSet; split <;> rfl
@[simp] theorem Tile.mSet_run (t : Tile) (n : Nat) (w : Word) : (t.mSet n w).run = t.run := by unfold Tile.mSet; split <;> rfl
@[simp] theorem Tile.mSet_mode (t : Tile) (n : Nat) (w : Word) : (t.mSet n w).mode = t.mode := by unfold Tile.mSet; split <;> rfl
@[simp] theorem Tile.mSet_pc (t : Tile) (n : Nat) (w : Word) : (t.mSet n w).pc = t.pc := by unfold Tile.mSet; split <;> rfl
@[simp] theorem Tile.mSet_x (t : Tile) (n : Nat) (w : Word) : (t.mSet n w).x = t.x := by unfold Tile.mSet; split <;> rfl
@[simp] theorem Tile.mSet_v (t : Tile) (n : Nat) (w : Word) : (t.mSet n w).v = t.v := by unfold Tile.mSet; split <;> rfl
@[simp] theorem Tile.mSet_la (t : Tile) (n : Nat) (w : Word) : (t.mSet n w).la = t.la := by unfold Tile.mSet; split <;> rfl
@[simp] theorem Tile.mSet_loops (t : Tile) (n : Nat) (w : Word) : (t.mSet n w).loops = t.loops := by unfold Tile.mSet; split <;> rfl
@[simp] theorem Tile.mSet_intr (t : Tile) (n : Nat) (w : Word) : (t.mSet n w).intr = t.intr := by unfold Tile.mSet; split <;> rfl
@[simp] theorem Tile.mSet_trapBank (t : Tile) (n : Nat) (w : Word) : (t.mSet n w).trapBank = t.trapBank := by unfold Tile.mSet; split <;> rfl
@[simp] theorem Tile.mSet_wait (t : Tile) (n : Nat) (w : Word) : (t.mSet n w).wait = t.wait := by unfold Tile.mSet; split <;> rfl
@[simp] theorem Tile.mSet_waitPoint (t : Tile) (n : Nat) (w : Word) : (t.mSet n w).waitPoint = t.waitPoint := by unfold Tile.mSet; split <;> rfl
@[simp] theorem Tile.mSet_parkNext (t : Tile) (n : Nat) (w : Word) : (t.mSet n w).parkNext = t.parkNext := by unfold Tile.mSet; split <;> rfl
@[simp] theorem Tile.mSet_waitOps (t : Tile) (n : Nat) (w : Word) : (t.mSet n w).waitOps = t.waitOps := by unfold Tile.mSet; split <;> rfl
@[simp] theorem Tile.mSet_longBuf (t : Tile) (n : Nat) (w : Word) : (t.mSet n w).longBuf = t.longBuf := by unfold Tile.mSet; split <;> rfl
@[simp] theorem Tile.mSet_replay (t : Tile) (n : Nat) (w : Word) : (t.mSet n w).replay = t.replay := by unfold Tile.mSet; split <;> rfl
@[simp] theorem Tile.mSet_passed (t : Tile) (n : Nat) (w : Word) : (t.mSet n w).passed = t.passed := by unfold Tile.mSet; split <;> rfl
@[simp] theorem Tile.mSet_coreStatus (t : Tile) (n : Nat) (w : Word) : (t.mSet n w).coreStatus = t.coreStatus := by unfold Tile.mSet; split <;> rfl
@[simp] theorem Tile.mSet_xfaultVa (t : Tile) (n : Nat) (w : Word) : (t.mSet n w).xfaultVa = t.xfaultVa := by unfold Tile.mSet; split <;> rfl
@[simp] theorem Tile.mSet_xfaultInfo (t : Tile) (n : Nat) (w : Word) : (t.mSet n w).xfaultInfo = t.xfaultInfo := by unfold Tile.mSet; split <;> rfl
@[simp] theorem Tile.mSet_shadowImg (t : Tile) (n : Nat) (w : Word) : (t.mSet n w).shadowImg = t.shadowImg := by unfold Tile.mSet; split <;> rfl
@[simp] theorem Tile.mSet_prefetchSw (t : Tile) (n : Nat) (w : Word) : (t.mSet n w).prefetchSw = t.prefetchSw := by unfold Tile.mSet; split <;> rfl
@[simp] theorem Tile.mSet_pendTrap (t : Tile) (n : Nat) (w : Word) : (t.mSet n w).pendTrap = t.pendTrap := by unfold Tile.mSet; split <;> rfl
@[simp] theorem Tile.mSet_dispute (t : Tile) (n : Nat) (w : Word) : (t.mSet n w).dispute = t.dispute := by unfold Tile.mSet; split <;> rfl
@[simp] theorem Tile.mSet_reqSeq (t : Tile) (n : Nat) (w : Word) : (t.mSet n w).reqSeq = t.reqSeq := by unfold Tile.mSet; split <;> rfl
@[simp] theorem Tile.mSet_classInfo (t : Tile) (n : Nat) (w : Word) : (t.mSet n w).classInfo = t.classInfo := by unfold Tile.mSet; split <;> rfl
@[simp] theorem Tile.mSet_strayInfo (t : Tile) (n : Nat) (w : Word) : (t.mSet n w).strayInfo = t.strayInfo := by unfold Tile.mSet; split <;> rfl
@[simp] theorem Tile.mSet_cwaitGen (t : Tile) (n : Nat) (w : Word) : (t.mSet n w).cwaitGen = t.cwaitGen := by unfold Tile.mSet; split <;> rfl
@[simp] theorem Tile.mSet_trapCause (t : Tile) (n : Nat) (w : Word) : (t.mSet n w).trapCause = t.trapCause := by unfold Tile.mSet; split <;> rfl
@[simp] theorem Tile.mSet_trapPc (t : Tile) (n : Nat) (w : Word) : (t.mSet n w).trapPc = t.trapPc := by unfold Tile.mSet; split <;> rfl
@[simp] theorem Tile.mSet_trapVec (t : Tile) (n : Nat) (w : Word) : (t.mSet n w).trapVec = t.trapVec := by unfold Tile.mSet; split <;> rfl
@[simp] theorem Tile.mSet_replayPc (t : Tile) (n : Nat) (w : Word) : (t.mSet n w).replayPc = t.replayPc := by unfold Tile.mSet; split <;> rfl
@[simp] theorem Tile.mSet_residueInfo (t : Tile) (n : Nat) (w : Word) : (t.mSet n w).residueInfo = t.residueInfo := by unfold Tile.mSet; split <;> rfl
@[simp] theorem Tile.mSet_topoInfo (t : Tile) (n : Nat) (w : Word) : (t.mSet n w).topoInfo = t.topoInfo := by unfold Tile.mSet; split <;> rfl
@[simp] theorem Tile.mSet_passPc (t : Tile) (n : Nat) (w : Word) : (t.mSet n w).passPc = t.passPc := by unfold Tile.mSet; split <;> rfl
@[simp] theorem Tile.mSet_tileSplit (t : Tile) (n : Nat) (w : Word) : (t.mSet n w).tileSplit = t.tileSplit := by unfold Tile.mSet; split <;> rfl
@[simp] theorem Tile.mSet_cfgTag (t : Tile) (n : Nat) (w : Word) : (t.mSet n w).cfgTag = t.cfgTag := by unfold Tile.mSet; split <;> rfl
@[simp] theorem Tile.mSet_bankSucc (t : Tile) (n : Nat) (w : Word) : (t.mSet n w).bankSucc = t.bankSucc := by unfold Tile.mSet; split <;> rfl
@[simp] theorem Tile.mSet_bankToken (t : Tile) (n : Nat) (w : Word) : (t.mSet n w).bankToken = t.bankToken := by unfold Tile.mSet; split <;> rfl
@[simp] theorem Tile.mSet_fetchCtl (t : Tile) (n : Nat) (w : Word) : (t.mSet n w).fetchCtl = t.fetchCtl := by unfold Tile.mSet; split <;> rfl
@[simp] theorem Tile.mSet_counters (t : Tile) (n : Nat) (w : Word) : (t.mSet n w).counters = t.counters := by unfold Tile.mSet; split <;> rfl
@[simp] theorem Tile.mSet_inboxInfo (t : Tile) (n : Nat) (w : Word) : (t.mSet n w).inboxInfo = t.inboxInfo := by unfold Tile.mSet; split <;> rfl
@[simp] theorem Tile.mSet_tokenCfg (t : Tile) (n : Nat) (w : Word) : (t.mSet n w).tokenCfg = t.tokenCfg := by unfold Tile.mSet; split <;> rfl
@[simp] theorem Tile.mSet_qrecCtl (t : Tile) (n : Nat) (w : Word) : (t.mSet n w).qrecCtl = t.qrecCtl := by unfold Tile.mSet; split <;> rfl
@[simp] theorem Tile.mSet_qlock (t : Tile) (n : Nat) (w : Word) : (t.mSet n w).qlock = t.qlock := by unfold Tile.mSet; split <;> rfl
@[simp] theorem Tile.mSet_optSend (t : Tile) (n : Nat) (w : Word) : (t.mSet n w).optSend = t.optSend := by unfold Tile.mSet; split <;> rfl
@[simp] theorem Tile.mSet_fmt (t : Tile) (n : Nat) (w : Word) : (t.mSet n w).fmt = t.fmt := by unfold Tile.mSet; split <;> rfl
@[simp] theorem Tile.mSet_scale (t : Tile) (n : Nat) (w : Word) : (t.mSet n w).scale = t.scale := by unfold Tile.mSet; split <;> rfl
@[simp] theorem Tile.mSet_htPc (t : Tile) (n : Nat) (w : Word) : (t.mSet n w).htPc = t.htPc := by unfold Tile.mSet; split <;> rfl
@[simp] theorem Tile.mSet_htCtl (t : Tile) (n : Nat) (w : Word) : (t.mSet n w).htCtl = t.htCtl := by unfold Tile.mSet; split <;> rfl
@[simp] theorem Tile.mSet_touch (t : Tile) (n : Nat) (w : Word) : (t.mSet n w).touch = t.touch := by unfold Tile.mSet; split <;> rfl
@[simp] theorem Tile.mSet_touchFull (t : Tile) (n : Nat) (w : Word) : (t.mSet n w).touchFull = t.touchFull := by unfold Tile.mSet; split <;> rfl
@[simp] theorem Tile.mSet_corrCnt (t : Tile) (n : Nat) (w : Word) : (t.mSet n w).corrCnt = t.corrCnt := by unfold Tile.mSet; split <;> rfl
@[simp] theorem Tile.mSet_discardCnt (t : Tile) (n : Nat) (w : Word) : (t.mSet n w).discardCnt = t.discardCnt := by unfold Tile.mSet; split <;> rfl
@[simp] theorem Tile.mSet_inbox (t : Tile) (n : Nat) (w : Word) : (t.mSet n w).inbox = t.inbox := by unfold Tile.mSet; split <;> rfl
@[simp] theorem Tile.mSet_report (t : Tile) (n : Nat) (w : Word) : (t.mSet n w).report = t.report := by unfold Tile.mSet; split <;> rfl
@[simp] theorem Tile.mSet_sendQ (t : Tile) (n : Nat) (w : Word) : (t.mSet n w).sendQ = t.sendQ := by unfold Tile.mSet; split <;> rfl
@[simp] theorem Tile.mSet_barRec (t : Tile) (n : Nat) (w : Word) : (t.mSet n w).barRec = t.barRec := by unfold Tile.mSet; split <;> rfl
@[simp] theorem Tile.mSet_coreIn (t : Tile) (n : Nat) (w : Word) : (t.mSet n w).coreIn = t.coreIn := by unfold Tile.mSet; split <;> rfl
@[simp] theorem Tile.mSet_coreOut (t : Tile) (n : Nat) (w : Word) : (t.mSet n w).coreOut = t.coreOut := by unfold Tile.mSet; split <;> rfl
@[simp] theorem Tile.mSet_swIn (t : Tile) (n : Nat) (w : Word) : (t.mSet n w).swIn = t.swIn := by unfold Tile.mSet; split <;> rfl
@[simp] theorem Tile.mSet_weirs (t : Tile) (n : Nat) (w : Word) : (t.mSet n w).weirs = t.weirs := by unfold Tile.mSet; split <;> rfl
@[simp] theorem Tile.mSet_bq (t : Tile) (n : Nat) (w : Word) : (t.mSet n w).bq = t.bq := by unfold Tile.mSet; split <;> rfl
@[simp] theorem Tile.mSet_emq (t : Tile) (n : Nat) (w : Word) : (t.mSet n w).emq = t.emq := by unfold Tile.mSet; split <;> rfl
@[simp] theorem Tile.mSet_sw (t : Tile) (n : Nat) (w : Word) : (t.mSet n w).sw = t.sw := by unfold Tile.mSet; split <;> rfl
@[simp] theorem Tile.mSet_streams (t : Tile) (n : Nat) (w : Word) : (t.mSet n w).streams = t.streams := by unfold Tile.mSet; split <;> rfl
@[simp] theorem Tile.mSet_copies (t : Tile) (n : Nat) (w : Word) : (t.mSet n w).copies = t.copies := by unfold Tile.mSet; split <;> rfl
@[simp] theorem Tile.mSet_sub (t : Tile) (n : Nat) (w : Word) : (t.mSet n w).sub = t.sub := by unfold Tile.mSet; split <;> rfl
@[simp] theorem Tile.mSet_ports (t : Tile) (n : Nat) (w : Word) : (t.mSet n w).ports = t.ports := by unfold Tile.mSet; split <;> rfl
@[simp] theorem Tile.mSet_chan (t : Tile) (n : Nat) (w : Word) : (t.mSet n w).chan = t.chan := by unfold Tile.mSet; split <;> rfl
@[simp] theorem Tile.mSet_shadow (t : Tile) (n : Nat) (w : Word) : (t.mSet n w).shadow = t.shadow := by unfold Tile.mSet; split <;> rfl
@[simp] theorem Tile.mSet_activeImg (t : Tile) (n : Nat) (w : Word) : (t.mSet n w).activeImg = t.activeImg := by unfold Tile.mSet; split <;> rfl
@[simp] theorem Tile.mSet_carried (t : Tile) (n : Nat) (w : Word) : (t.mSet n w).carried = t.carried := by unfold Tile.mSet; split <;> rfl
@[simp] theorem Tile.mSet_dcache (t : Tile) (n : Nat) (w : Word) : (t.mSet n w).dcache = t.dcache := by unfold Tile.mSet; split <;> rfl
@[simp] theorem Tile.mSet_tlb (t : Tile) (n : Nat) (w : Word) : (t.mSet n w).tlb = t.tlb := by unfold Tile.mSet; split <;> rfl
@[simp] theorem Tile.mSet_icache (t : Tile) (n : Nat) (w : Word) : (t.mSet n w).icache = t.icache := by unfold Tile.mSet; split <;> rfl
@[simp] theorem Tile.mSet_fetchMiss (t : Tile) (n : Nat) (w : Word) : (t.mSet n w).fetchMiss = t.fetchMiss := by unfold Tile.mSet; split <;> rfl
@[simp] theorem Tile.mSet_ipref (t : Tile) (n : Nat) (w : Word) : (t.mSet n w).ipref = t.ipref := by unfold Tile.mSet; split <;> rfl
@[simp] theorem Tile.mSet_cutFlags (t : Tile) (n : Nat) (w : Word) : (t.mSet n w).cutFlags = t.cutFlags := by unfold Tile.mSet; split <;> rfl
@[simp] theorem Tile.mSet_cutOf (t : Tile) (n : Nat) (w : Word) : (t.mSet n w).cutOf = t.cutOf := by unfold Tile.mSet; split <;> rfl
@[simp] theorem Tile.mSet_cutMarked (t : Tile) (n : Nat) (w : Word) : (t.mSet n w).cutMarked = t.cutMarked := by unfold Tile.mSet; split <;> rfl
@[simp] theorem Tile.mSet_ring (t : Tile) (n : Nat) (w : Word) : (t.mSet n w).ring = t.ring := by unfold Tile.mSet; split <;> rfl
@[simp] theorem Tile.mSet_outSeq (t : Tile) (n : Nat) (w : Word) : (t.mSet n w).outSeq = t.outSeq := by unfold Tile.mSet; split <;> rfl
@[simp] theorem Tile.mSet_swMiss (t : Tile) (n : Nat) (w : Word) : (t.mSet n w).swMiss = t.swMiss := by unfold Tile.mSet; split <;> rfl
@[simp] theorem Tile.mSet_fetchSw (t : Tile) (n : Nat) (w : Word) : (t.mSet n w).fetchSw = t.fetchSw := by unfold Tile.mSet; split <;> rfl
@[simp] theorem Tile.mSet_prefetch (t : Tile) (n : Nat) (w : Word) : (t.mSet n w).prefetch = t.prefetch := by unfold Tile.mSet; split <;> rfl
@[simp] theorem Tile.mSet_lastLine (t : Tile) (n : Nat) (w : Word) : (t.mSet n w).lastLine = t.lastLine := by unfold Tile.mSet; split <;> rfl
@[simp] theorem Tile.mSet_selPark (t : Tile) (n : Nat) (w : Word) : (t.mSet n w).selPark = t.selPark := by unfold Tile.mSet; split <;> rfl
@[simp] theorem Tile.mSet_rankCache (t : Tile) (n : Nat) (w : Word) : (t.mSet n w).rankCache = t.rankCache := by unfold Tile.mSet; split <;> rfl
@[simp] theorem Tile.mSet_ownerLines (t : Tile) (n : Nat) (w : Word) : (t.mSet n w).ownerLines = t.ownerLines := by unfold Tile.mSet; split <;> rfl
@[simp] theorem Tile.mSet_dirtyGroups (t : Tile) (n : Nat) (w : Word) : (t.mSet n w).dirtyGroups = t.dirtyGroups := by unfold Tile.mSet; split <;> rfl
@[simp] theorem Tile.mSet_dirtyGranules (t : Tile) (n : Nat) (w : Word) : (t.mSet n w).dirtyGranules = t.dirtyGranules := by unfold Tile.mSet; split <;> rfl
@[simp] theorem Tile.mSet_seq (t : Tile) (n : Nat) (w : Word) : (t.mSet n w).seq = t.seq := by unfold Tile.mSet; split <;> rfl
@[simp] theorem Tile.mSet_imageOf (t : Tile) (n : Nat) (w : Word) : (t.mSet n w).imageOf = t.imageOf := by unfold Tile.mSet; split <;> rfl
@[simp] theorem Tile.mSet_scope (t : Tile) (n : Nat) (w : Word) : (t.mSet n w).scope = t.scope := by unfold Tile.mSet; split <;> rfl
@[simp] theorem Tile.mSet_launch (t : Tile) (n : Nat) (w : Word) : (t.mSet n w).launch = t.launch := by unfold Tile.mSet; split <;> rfl
@[simp] theorem Tile.mSet_launchIdx (t : Tile) (n : Nat) (w : Word) : (t.mSet n w).launchIdx = t.launchIdx := by unfold Tile.mSet; split <;> rfl
@[simp] theorem Tile.mSet_cancelled (t : Tile) (n : Nat) (w : Word) : (t.mSet n w).cancelled = t.cancelled := by unfold Tile.mSet; split <;> rfl
@[simp] theorem Tile.mSet_follow (t : Tile) (n : Nat) (w : Word) : (t.mSet n w).follow = t.follow := by unfold Tile.mSet; split <;> rfl
@[simp] theorem Tile.mSet_openChunk (t : Tile) (n : Nat) (w : Word) : (t.mSet n w).openChunk = t.openChunk := by unfold Tile.mSet; split <;> rfl

/- flags, counters and the advance of the pc -/

@[simp] theorem Tile.setFlags_coreStatus (t : Tile) (k : Flags) : (t.setFlags k).coreStatus = t.coreStatus ||| (k &&& flagMask) := rfl
@[simp] theorem Tile.setFlags_id (t : Tile) (k : Flags) : (t.setFlags k).id = t.id := rfl
@[simp] theorem Tile.setFlags_run (t : Tile) (k : Flags) : (t.setFlags k).run = t.run := rfl
@[simp] theorem Tile.setFlags_mode (t : Tile) (k : Flags) : (t.setFlags k).mode = t.mode := rfl
@[simp] theorem Tile.setFlags_pc (t : Tile) (k : Flags) : (t.setFlags k).pc = t.pc := rfl
@[simp] theorem Tile.setFlags_x (t : Tile) (k : Flags) : (t.setFlags k).x = t.x := rfl
@[simp] theorem Tile.setFlags_v (t : Tile) (k : Flags) : (t.setFlags k).v = t.v := rfl
@[simp] theorem Tile.setFlags_m (t : Tile) (k : Flags) : (t.setFlags k).m = t.m := rfl
@[simp] theorem Tile.setFlags_la (t : Tile) (k : Flags) : (t.setFlags k).la = t.la := rfl
@[simp] theorem Tile.setFlags_loops (t : Tile) (k : Flags) : (t.setFlags k).loops = t.loops := rfl
@[simp] theorem Tile.setFlags_intr (t : Tile) (k : Flags) : (t.setFlags k).intr = t.intr := rfl
@[simp] theorem Tile.setFlags_trapBank (t : Tile) (k : Flags) : (t.setFlags k).trapBank = t.trapBank := rfl
@[simp] theorem Tile.setFlags_wait (t : Tile) (k : Flags) : (t.setFlags k).wait = t.wait := rfl
@[simp] theorem Tile.setFlags_waitPoint (t : Tile) (k : Flags) : (t.setFlags k).waitPoint = t.waitPoint := rfl
@[simp] theorem Tile.setFlags_parkNext (t : Tile) (k : Flags) : (t.setFlags k).parkNext = t.parkNext := rfl
@[simp] theorem Tile.setFlags_waitOps (t : Tile) (k : Flags) : (t.setFlags k).waitOps = t.waitOps := rfl
@[simp] theorem Tile.setFlags_longBuf (t : Tile) (k : Flags) : (t.setFlags k).longBuf = t.longBuf := rfl
@[simp] theorem Tile.setFlags_replay (t : Tile) (k : Flags) : (t.setFlags k).replay = t.replay := rfl
@[simp] theorem Tile.setFlags_passed (t : Tile) (k : Flags) : (t.setFlags k).passed = t.passed := rfl
@[simp] theorem Tile.setFlags_xfaultVa (t : Tile) (k : Flags) : (t.setFlags k).xfaultVa = t.xfaultVa := rfl
@[simp] theorem Tile.setFlags_xfaultInfo (t : Tile) (k : Flags) : (t.setFlags k).xfaultInfo = t.xfaultInfo := rfl
@[simp] theorem Tile.setFlags_shadowImg (t : Tile) (k : Flags) : (t.setFlags k).shadowImg = t.shadowImg := rfl
@[simp] theorem Tile.setFlags_prefetchSw (t : Tile) (k : Flags) : (t.setFlags k).prefetchSw = t.prefetchSw := rfl
@[simp] theorem Tile.setFlags_pendTrap (t : Tile) (k : Flags) : (t.setFlags k).pendTrap = t.pendTrap := rfl
@[simp] theorem Tile.setFlags_dispute (t : Tile) (k : Flags) : (t.setFlags k).dispute = t.dispute := rfl
@[simp] theorem Tile.setFlags_reqSeq (t : Tile) (k : Flags) : (t.setFlags k).reqSeq = t.reqSeq := rfl
@[simp] theorem Tile.setFlags_classInfo (t : Tile) (k : Flags) : (t.setFlags k).classInfo = t.classInfo := rfl
@[simp] theorem Tile.setFlags_strayInfo (t : Tile) (k : Flags) : (t.setFlags k).strayInfo = t.strayInfo := rfl
@[simp] theorem Tile.setFlags_cwaitGen (t : Tile) (k : Flags) : (t.setFlags k).cwaitGen = t.cwaitGen := rfl
@[simp] theorem Tile.setFlags_trapCause (t : Tile) (k : Flags) : (t.setFlags k).trapCause = t.trapCause := rfl
@[simp] theorem Tile.setFlags_trapPc (t : Tile) (k : Flags) : (t.setFlags k).trapPc = t.trapPc := rfl
@[simp] theorem Tile.setFlags_trapVec (t : Tile) (k : Flags) : (t.setFlags k).trapVec = t.trapVec := rfl
@[simp] theorem Tile.setFlags_replayPc (t : Tile) (k : Flags) : (t.setFlags k).replayPc = t.replayPc := rfl
@[simp] theorem Tile.setFlags_residueInfo (t : Tile) (k : Flags) : (t.setFlags k).residueInfo = t.residueInfo := rfl
@[simp] theorem Tile.setFlags_topoInfo (t : Tile) (k : Flags) : (t.setFlags k).topoInfo = t.topoInfo := rfl
@[simp] theorem Tile.setFlags_passPc (t : Tile) (k : Flags) : (t.setFlags k).passPc = t.passPc := rfl
@[simp] theorem Tile.setFlags_tileSplit (t : Tile) (k : Flags) : (t.setFlags k).tileSplit = t.tileSplit := rfl
@[simp] theorem Tile.setFlags_cfgTag (t : Tile) (k : Flags) : (t.setFlags k).cfgTag = t.cfgTag := rfl
@[simp] theorem Tile.setFlags_bankSucc (t : Tile) (k : Flags) : (t.setFlags k).bankSucc = t.bankSucc := rfl
@[simp] theorem Tile.setFlags_bankToken (t : Tile) (k : Flags) : (t.setFlags k).bankToken = t.bankToken := rfl
@[simp] theorem Tile.setFlags_fetchCtl (t : Tile) (k : Flags) : (t.setFlags k).fetchCtl = t.fetchCtl := rfl
@[simp] theorem Tile.setFlags_counters (t : Tile) (k : Flags) : (t.setFlags k).counters = t.counters := rfl
@[simp] theorem Tile.setFlags_inboxInfo (t : Tile) (k : Flags) : (t.setFlags k).inboxInfo = t.inboxInfo := rfl
@[simp] theorem Tile.setFlags_tokenCfg (t : Tile) (k : Flags) : (t.setFlags k).tokenCfg = t.tokenCfg := rfl
@[simp] theorem Tile.setFlags_qrecCtl (t : Tile) (k : Flags) : (t.setFlags k).qrecCtl = t.qrecCtl := rfl
@[simp] theorem Tile.setFlags_qlock (t : Tile) (k : Flags) : (t.setFlags k).qlock = t.qlock := rfl
@[simp] theorem Tile.setFlags_optSend (t : Tile) (k : Flags) : (t.setFlags k).optSend = t.optSend := rfl
@[simp] theorem Tile.setFlags_fmt (t : Tile) (k : Flags) : (t.setFlags k).fmt = t.fmt := rfl
@[simp] theorem Tile.setFlags_scale (t : Tile) (k : Flags) : (t.setFlags k).scale = t.scale := rfl
@[simp] theorem Tile.setFlags_htPc (t : Tile) (k : Flags) : (t.setFlags k).htPc = t.htPc := rfl
@[simp] theorem Tile.setFlags_htCtl (t : Tile) (k : Flags) : (t.setFlags k).htCtl = t.htCtl := rfl
@[simp] theorem Tile.setFlags_touch (t : Tile) (k : Flags) : (t.setFlags k).touch = t.touch := rfl
@[simp] theorem Tile.setFlags_touchFull (t : Tile) (k : Flags) : (t.setFlags k).touchFull = t.touchFull := rfl
@[simp] theorem Tile.setFlags_corrCnt (t : Tile) (k : Flags) : (t.setFlags k).corrCnt = t.corrCnt := rfl
@[simp] theorem Tile.setFlags_discardCnt (t : Tile) (k : Flags) : (t.setFlags k).discardCnt = t.discardCnt := rfl
@[simp] theorem Tile.setFlags_inbox (t : Tile) (k : Flags) : (t.setFlags k).inbox = t.inbox := rfl
@[simp] theorem Tile.setFlags_report (t : Tile) (k : Flags) : (t.setFlags k).report = t.report := rfl
@[simp] theorem Tile.setFlags_sendQ (t : Tile) (k : Flags) : (t.setFlags k).sendQ = t.sendQ := rfl
@[simp] theorem Tile.setFlags_barRec (t : Tile) (k : Flags) : (t.setFlags k).barRec = t.barRec := rfl
@[simp] theorem Tile.setFlags_coreIn (t : Tile) (k : Flags) : (t.setFlags k).coreIn = t.coreIn := rfl
@[simp] theorem Tile.setFlags_coreOut (t : Tile) (k : Flags) : (t.setFlags k).coreOut = t.coreOut := rfl
@[simp] theorem Tile.setFlags_swIn (t : Tile) (k : Flags) : (t.setFlags k).swIn = t.swIn := rfl
@[simp] theorem Tile.setFlags_weirs (t : Tile) (k : Flags) : (t.setFlags k).weirs = t.weirs := rfl
@[simp] theorem Tile.setFlags_bq (t : Tile) (k : Flags) : (t.setFlags k).bq = t.bq := rfl
@[simp] theorem Tile.setFlags_emq (t : Tile) (k : Flags) : (t.setFlags k).emq = t.emq := rfl
@[simp] theorem Tile.setFlags_sw (t : Tile) (k : Flags) : (t.setFlags k).sw = t.sw := rfl
@[simp] theorem Tile.setFlags_streams (t : Tile) (k : Flags) : (t.setFlags k).streams = t.streams := rfl
@[simp] theorem Tile.setFlags_copies (t : Tile) (k : Flags) : (t.setFlags k).copies = t.copies := rfl
@[simp] theorem Tile.setFlags_sub (t : Tile) (k : Flags) : (t.setFlags k).sub = t.sub := rfl
@[simp] theorem Tile.setFlags_ports (t : Tile) (k : Flags) : (t.setFlags k).ports = t.ports := rfl
@[simp] theorem Tile.setFlags_chan (t : Tile) (k : Flags) : (t.setFlags k).chan = t.chan := rfl
@[simp] theorem Tile.setFlags_shadow (t : Tile) (k : Flags) : (t.setFlags k).shadow = t.shadow := rfl
@[simp] theorem Tile.setFlags_activeImg (t : Tile) (k : Flags) : (t.setFlags k).activeImg = t.activeImg := rfl
@[simp] theorem Tile.setFlags_carried (t : Tile) (k : Flags) : (t.setFlags k).carried = t.carried := rfl
@[simp] theorem Tile.setFlags_dcache (t : Tile) (k : Flags) : (t.setFlags k).dcache = t.dcache := rfl
@[simp] theorem Tile.setFlags_tlb (t : Tile) (k : Flags) : (t.setFlags k).tlb = t.tlb := rfl
@[simp] theorem Tile.setFlags_icache (t : Tile) (k : Flags) : (t.setFlags k).icache = t.icache := rfl
@[simp] theorem Tile.setFlags_fetchMiss (t : Tile) (k : Flags) : (t.setFlags k).fetchMiss = t.fetchMiss := rfl
@[simp] theorem Tile.setFlags_ipref (t : Tile) (k : Flags) : (t.setFlags k).ipref = t.ipref := rfl
@[simp] theorem Tile.setFlags_cutFlags (t : Tile) (k : Flags) : (t.setFlags k).cutFlags = t.cutFlags := rfl
@[simp] theorem Tile.setFlags_cutOf (t : Tile) (k : Flags) : (t.setFlags k).cutOf = t.cutOf := rfl
@[simp] theorem Tile.setFlags_cutMarked (t : Tile) (k : Flags) : (t.setFlags k).cutMarked = t.cutMarked := rfl
@[simp] theorem Tile.setFlags_ring (t : Tile) (k : Flags) : (t.setFlags k).ring = t.ring := rfl
@[simp] theorem Tile.setFlags_outSeq (t : Tile) (k : Flags) : (t.setFlags k).outSeq = t.outSeq := rfl
@[simp] theorem Tile.setFlags_swMiss (t : Tile) (k : Flags) : (t.setFlags k).swMiss = t.swMiss := rfl
@[simp] theorem Tile.setFlags_fetchSw (t : Tile) (k : Flags) : (t.setFlags k).fetchSw = t.fetchSw := rfl
@[simp] theorem Tile.setFlags_prefetch (t : Tile) (k : Flags) : (t.setFlags k).prefetch = t.prefetch := rfl
@[simp] theorem Tile.setFlags_lastLine (t : Tile) (k : Flags) : (t.setFlags k).lastLine = t.lastLine := rfl
@[simp] theorem Tile.setFlags_selPark (t : Tile) (k : Flags) : (t.setFlags k).selPark = t.selPark := rfl
@[simp] theorem Tile.setFlags_rankCache (t : Tile) (k : Flags) : (t.setFlags k).rankCache = t.rankCache := rfl
@[simp] theorem Tile.setFlags_ownerLines (t : Tile) (k : Flags) : (t.setFlags k).ownerLines = t.ownerLines := rfl
@[simp] theorem Tile.setFlags_dirtyGroups (t : Tile) (k : Flags) : (t.setFlags k).dirtyGroups = t.dirtyGroups := rfl
@[simp] theorem Tile.setFlags_dirtyGranules (t : Tile) (k : Flags) : (t.setFlags k).dirtyGranules = t.dirtyGranules := rfl
@[simp] theorem Tile.setFlags_seq (t : Tile) (k : Flags) : (t.setFlags k).seq = t.seq := rfl
@[simp] theorem Tile.setFlags_imageOf (t : Tile) (k : Flags) : (t.setFlags k).imageOf = t.imageOf := rfl
@[simp] theorem Tile.setFlags_scope (t : Tile) (k : Flags) : (t.setFlags k).scope = t.scope := rfl
@[simp] theorem Tile.setFlags_launch (t : Tile) (k : Flags) : (t.setFlags k).launch = t.launch := rfl
@[simp] theorem Tile.setFlags_launchIdx (t : Tile) (k : Flags) : (t.setFlags k).launchIdx = t.launchIdx := rfl
@[simp] theorem Tile.setFlags_cancelled (t : Tile) (k : Flags) : (t.setFlags k).cancelled = t.cancelled := rfl
@[simp] theorem Tile.setFlags_follow (t : Tile) (k : Flags) : (t.setFlags k).follow = t.follow := rfl
@[simp] theorem Tile.setFlags_openChunk (t : Tile) (k : Flags) : (t.setFlags k).openChunk = t.openChunk := rfl
@[simp] theorem Tile.count_id (t : Tile) (i n : Nat) : (t.count i n).id = t.id := rfl
@[simp] theorem Tile.count_run (t : Tile) (i n : Nat) : (t.count i n).run = t.run := rfl
@[simp] theorem Tile.count_mode (t : Tile) (i n : Nat) : (t.count i n).mode = t.mode := rfl
@[simp] theorem Tile.count_pc (t : Tile) (i n : Nat) : (t.count i n).pc = t.pc := rfl
@[simp] theorem Tile.count_x (t : Tile) (i n : Nat) : (t.count i n).x = t.x := rfl
@[simp] theorem Tile.count_v (t : Tile) (i n : Nat) : (t.count i n).v = t.v := rfl
@[simp] theorem Tile.count_m (t : Tile) (i n : Nat) : (t.count i n).m = t.m := rfl
@[simp] theorem Tile.count_la (t : Tile) (i n : Nat) : (t.count i n).la = t.la := rfl
@[simp] theorem Tile.count_loops (t : Tile) (i n : Nat) : (t.count i n).loops = t.loops := rfl
@[simp] theorem Tile.count_intr (t : Tile) (i n : Nat) : (t.count i n).intr = t.intr := rfl
@[simp] theorem Tile.count_trapBank (t : Tile) (i n : Nat) : (t.count i n).trapBank = t.trapBank := rfl
@[simp] theorem Tile.count_wait (t : Tile) (i n : Nat) : (t.count i n).wait = t.wait := rfl
@[simp] theorem Tile.count_waitPoint (t : Tile) (i n : Nat) : (t.count i n).waitPoint = t.waitPoint := rfl
@[simp] theorem Tile.count_parkNext (t : Tile) (i n : Nat) : (t.count i n).parkNext = t.parkNext := rfl
@[simp] theorem Tile.count_waitOps (t : Tile) (i n : Nat) : (t.count i n).waitOps = t.waitOps := rfl
@[simp] theorem Tile.count_longBuf (t : Tile) (i n : Nat) : (t.count i n).longBuf = t.longBuf := rfl
@[simp] theorem Tile.count_replay (t : Tile) (i n : Nat) : (t.count i n).replay = t.replay := rfl
@[simp] theorem Tile.count_passed (t : Tile) (i n : Nat) : (t.count i n).passed = t.passed := rfl
@[simp] theorem Tile.count_coreStatus (t : Tile) (i n : Nat) : (t.count i n).coreStatus = t.coreStatus := rfl
@[simp] theorem Tile.count_xfaultVa (t : Tile) (i n : Nat) : (t.count i n).xfaultVa = t.xfaultVa := rfl
@[simp] theorem Tile.count_xfaultInfo (t : Tile) (i n : Nat) : (t.count i n).xfaultInfo = t.xfaultInfo := rfl
@[simp] theorem Tile.count_shadowImg (t : Tile) (i n : Nat) : (t.count i n).shadowImg = t.shadowImg := rfl
@[simp] theorem Tile.count_prefetchSw (t : Tile) (i n : Nat) : (t.count i n).prefetchSw = t.prefetchSw := rfl
@[simp] theorem Tile.count_pendTrap (t : Tile) (i n : Nat) : (t.count i n).pendTrap = t.pendTrap := rfl
@[simp] theorem Tile.count_dispute (t : Tile) (i n : Nat) : (t.count i n).dispute = t.dispute := rfl
@[simp] theorem Tile.count_reqSeq (t : Tile) (i n : Nat) : (t.count i n).reqSeq = t.reqSeq := rfl
@[simp] theorem Tile.count_classInfo (t : Tile) (i n : Nat) : (t.count i n).classInfo = t.classInfo := rfl
@[simp] theorem Tile.count_strayInfo (t : Tile) (i n : Nat) : (t.count i n).strayInfo = t.strayInfo := rfl
@[simp] theorem Tile.count_cwaitGen (t : Tile) (i n : Nat) : (t.count i n).cwaitGen = t.cwaitGen := rfl
@[simp] theorem Tile.count_trapCause (t : Tile) (i n : Nat) : (t.count i n).trapCause = t.trapCause := rfl
@[simp] theorem Tile.count_trapPc (t : Tile) (i n : Nat) : (t.count i n).trapPc = t.trapPc := rfl
@[simp] theorem Tile.count_trapVec (t : Tile) (i n : Nat) : (t.count i n).trapVec = t.trapVec := rfl
@[simp] theorem Tile.count_replayPc (t : Tile) (i n : Nat) : (t.count i n).replayPc = t.replayPc := rfl
@[simp] theorem Tile.count_residueInfo (t : Tile) (i n : Nat) : (t.count i n).residueInfo = t.residueInfo := rfl
@[simp] theorem Tile.count_topoInfo (t : Tile) (i n : Nat) : (t.count i n).topoInfo = t.topoInfo := rfl
@[simp] theorem Tile.count_passPc (t : Tile) (i n : Nat) : (t.count i n).passPc = t.passPc := rfl
@[simp] theorem Tile.count_tileSplit (t : Tile) (i n : Nat) : (t.count i n).tileSplit = t.tileSplit := rfl
@[simp] theorem Tile.count_cfgTag (t : Tile) (i n : Nat) : (t.count i n).cfgTag = t.cfgTag := rfl
@[simp] theorem Tile.count_bankSucc (t : Tile) (i n : Nat) : (t.count i n).bankSucc = t.bankSucc := rfl
@[simp] theorem Tile.count_bankToken (t : Tile) (i n : Nat) : (t.count i n).bankToken = t.bankToken := rfl
@[simp] theorem Tile.count_fetchCtl (t : Tile) (i n : Nat) : (t.count i n).fetchCtl = t.fetchCtl := rfl
@[simp] theorem Tile.count_inboxInfo (t : Tile) (i n : Nat) : (t.count i n).inboxInfo = t.inboxInfo := rfl
@[simp] theorem Tile.count_tokenCfg (t : Tile) (i n : Nat) : (t.count i n).tokenCfg = t.tokenCfg := rfl
@[simp] theorem Tile.count_qrecCtl (t : Tile) (i n : Nat) : (t.count i n).qrecCtl = t.qrecCtl := rfl
@[simp] theorem Tile.count_qlock (t : Tile) (i n : Nat) : (t.count i n).qlock = t.qlock := rfl
@[simp] theorem Tile.count_optSend (t : Tile) (i n : Nat) : (t.count i n).optSend = t.optSend := rfl
@[simp] theorem Tile.count_fmt (t : Tile) (i n : Nat) : (t.count i n).fmt = t.fmt := rfl
@[simp] theorem Tile.count_scale (t : Tile) (i n : Nat) : (t.count i n).scale = t.scale := rfl
@[simp] theorem Tile.count_htPc (t : Tile) (i n : Nat) : (t.count i n).htPc = t.htPc := rfl
@[simp] theorem Tile.count_htCtl (t : Tile) (i n : Nat) : (t.count i n).htCtl = t.htCtl := rfl
@[simp] theorem Tile.count_touch (t : Tile) (i n : Nat) : (t.count i n).touch = t.touch := rfl
@[simp] theorem Tile.count_touchFull (t : Tile) (i n : Nat) : (t.count i n).touchFull = t.touchFull := rfl
@[simp] theorem Tile.count_corrCnt (t : Tile) (i n : Nat) : (t.count i n).corrCnt = t.corrCnt := rfl
@[simp] theorem Tile.count_discardCnt (t : Tile) (i n : Nat) : (t.count i n).discardCnt = t.discardCnt := rfl
@[simp] theorem Tile.count_inbox (t : Tile) (i n : Nat) : (t.count i n).inbox = t.inbox := rfl
@[simp] theorem Tile.count_report (t : Tile) (i n : Nat) : (t.count i n).report = t.report := rfl
@[simp] theorem Tile.count_sendQ (t : Tile) (i n : Nat) : (t.count i n).sendQ = t.sendQ := rfl
@[simp] theorem Tile.count_barRec (t : Tile) (i n : Nat) : (t.count i n).barRec = t.barRec := rfl
@[simp] theorem Tile.count_coreIn (t : Tile) (i n : Nat) : (t.count i n).coreIn = t.coreIn := rfl
@[simp] theorem Tile.count_coreOut (t : Tile) (i n : Nat) : (t.count i n).coreOut = t.coreOut := rfl
@[simp] theorem Tile.count_swIn (t : Tile) (i n : Nat) : (t.count i n).swIn = t.swIn := rfl
@[simp] theorem Tile.count_weirs (t : Tile) (i n : Nat) : (t.count i n).weirs = t.weirs := rfl
@[simp] theorem Tile.count_bq (t : Tile) (i n : Nat) : (t.count i n).bq = t.bq := rfl
@[simp] theorem Tile.count_emq (t : Tile) (i n : Nat) : (t.count i n).emq = t.emq := rfl
@[simp] theorem Tile.count_sw (t : Tile) (i n : Nat) : (t.count i n).sw = t.sw := rfl
@[simp] theorem Tile.count_streams (t : Tile) (i n : Nat) : (t.count i n).streams = t.streams := rfl
@[simp] theorem Tile.count_copies (t : Tile) (i n : Nat) : (t.count i n).copies = t.copies := rfl
@[simp] theorem Tile.count_sub (t : Tile) (i n : Nat) : (t.count i n).sub = t.sub := rfl
@[simp] theorem Tile.count_ports (t : Tile) (i n : Nat) : (t.count i n).ports = t.ports := rfl
@[simp] theorem Tile.count_chan (t : Tile) (i n : Nat) : (t.count i n).chan = t.chan := rfl
@[simp] theorem Tile.count_shadow (t : Tile) (i n : Nat) : (t.count i n).shadow = t.shadow := rfl
@[simp] theorem Tile.count_activeImg (t : Tile) (i n : Nat) : (t.count i n).activeImg = t.activeImg := rfl
@[simp] theorem Tile.count_carried (t : Tile) (i n : Nat) : (t.count i n).carried = t.carried := rfl
@[simp] theorem Tile.count_dcache (t : Tile) (i n : Nat) : (t.count i n).dcache = t.dcache := rfl
@[simp] theorem Tile.count_tlb (t : Tile) (i n : Nat) : (t.count i n).tlb = t.tlb := rfl
@[simp] theorem Tile.count_icache (t : Tile) (i n : Nat) : (t.count i n).icache = t.icache := rfl
@[simp] theorem Tile.count_fetchMiss (t : Tile) (i n : Nat) : (t.count i n).fetchMiss = t.fetchMiss := rfl
@[simp] theorem Tile.count_ipref (t : Tile) (i n : Nat) : (t.count i n).ipref = t.ipref := rfl
@[simp] theorem Tile.count_cutFlags (t : Tile) (i n : Nat) : (t.count i n).cutFlags = t.cutFlags := rfl
@[simp] theorem Tile.count_cutOf (t : Tile) (i n : Nat) : (t.count i n).cutOf = t.cutOf := rfl
@[simp] theorem Tile.count_cutMarked (t : Tile) (i n : Nat) : (t.count i n).cutMarked = t.cutMarked := rfl
@[simp] theorem Tile.count_ring (t : Tile) (i n : Nat) : (t.count i n).ring = t.ring := rfl
@[simp] theorem Tile.count_outSeq (t : Tile) (i n : Nat) : (t.count i n).outSeq = t.outSeq := rfl
@[simp] theorem Tile.count_swMiss (t : Tile) (i n : Nat) : (t.count i n).swMiss = t.swMiss := rfl
@[simp] theorem Tile.count_fetchSw (t : Tile) (i n : Nat) : (t.count i n).fetchSw = t.fetchSw := rfl
@[simp] theorem Tile.count_prefetch (t : Tile) (i n : Nat) : (t.count i n).prefetch = t.prefetch := rfl
@[simp] theorem Tile.count_lastLine (t : Tile) (i n : Nat) : (t.count i n).lastLine = t.lastLine := rfl
@[simp] theorem Tile.count_selPark (t : Tile) (i n : Nat) : (t.count i n).selPark = t.selPark := rfl
@[simp] theorem Tile.count_rankCache (t : Tile) (i n : Nat) : (t.count i n).rankCache = t.rankCache := rfl
@[simp] theorem Tile.count_ownerLines (t : Tile) (i n : Nat) : (t.count i n).ownerLines = t.ownerLines := rfl
@[simp] theorem Tile.count_dirtyGroups (t : Tile) (i n : Nat) : (t.count i n).dirtyGroups = t.dirtyGroups := rfl
@[simp] theorem Tile.count_dirtyGranules (t : Tile) (i n : Nat) : (t.count i n).dirtyGranules = t.dirtyGranules := rfl
@[simp] theorem Tile.count_seq (t : Tile) (i n : Nat) : (t.count i n).seq = t.seq := rfl
@[simp] theorem Tile.count_imageOf (t : Tile) (i n : Nat) : (t.count i n).imageOf = t.imageOf := rfl
@[simp] theorem Tile.count_scope (t : Tile) (i n : Nat) : (t.count i n).scope = t.scope := rfl
@[simp] theorem Tile.count_launch (t : Tile) (i n : Nat) : (t.count i n).launch = t.launch := rfl
@[simp] theorem Tile.count_launchIdx (t : Tile) (i n : Nat) : (t.count i n).launchIdx = t.launchIdx := rfl
@[simp] theorem Tile.count_cancelled (t : Tile) (i n : Nat) : (t.count i n).cancelled = t.cancelled := rfl
@[simp] theorem Tile.count_follow (t : Tile) (i n : Nat) : (t.count i n).follow = t.follow := rfl
@[simp] theorem Tile.count_openChunk (t : Tile) (i n : Nat) : (t.count i n).openChunk = t.openChunk := rfl
@[simp] theorem Tile.countCycle_id (t : Tile) (h : Bool) (i : Option Nat) : (t.countCycle h i).id = t.id := by
  unfold Tile.countCycle; split
  · rfl
  · split <;> rfl
@[simp] theorem Tile.countCycle_run (t : Tile) (h : Bool) (i : Option Nat) : (t.countCycle h i).run = t.run := by
  unfold Tile.countCycle; split
  · rfl
  · split <;> rfl
@[simp] theorem Tile.countCycle_mode (t : Tile) (h : Bool) (i : Option Nat) : (t.countCycle h i).mode = t.mode := by
  unfold Tile.countCycle; split
  · rfl
  · split <;> rfl
@[simp] theorem Tile.countCycle_pc (t : Tile) (h : Bool) (i : Option Nat) : (t.countCycle h i).pc = t.pc := by
  unfold Tile.countCycle; split
  · rfl
  · split <;> rfl
@[simp] theorem Tile.countCycle_x (t : Tile) (h : Bool) (i : Option Nat) : (t.countCycle h i).x = t.x := by
  unfold Tile.countCycle; split
  · rfl
  · split <;> rfl
@[simp] theorem Tile.countCycle_v (t : Tile) (h : Bool) (i : Option Nat) : (t.countCycle h i).v = t.v := by
  unfold Tile.countCycle; split
  · rfl
  · split <;> rfl
@[simp] theorem Tile.countCycle_m (t : Tile) (h : Bool) (i : Option Nat) : (t.countCycle h i).m = t.m := by
  unfold Tile.countCycle; split
  · rfl
  · split <;> rfl
@[simp] theorem Tile.countCycle_la (t : Tile) (h : Bool) (i : Option Nat) : (t.countCycle h i).la = t.la := by
  unfold Tile.countCycle; split
  · rfl
  · split <;> rfl
@[simp] theorem Tile.countCycle_loops (t : Tile) (h : Bool) (i : Option Nat) : (t.countCycle h i).loops = t.loops := by
  unfold Tile.countCycle; split
  · rfl
  · split <;> rfl
@[simp] theorem Tile.countCycle_intr (t : Tile) (h : Bool) (i : Option Nat) : (t.countCycle h i).intr = t.intr := by
  unfold Tile.countCycle; split
  · rfl
  · split <;> rfl
@[simp] theorem Tile.countCycle_trapBank (t : Tile) (h : Bool) (i : Option Nat) : (t.countCycle h i).trapBank = t.trapBank := by
  unfold Tile.countCycle; split
  · rfl
  · split <;> rfl
@[simp] theorem Tile.countCycle_wait (t : Tile) (h : Bool) (i : Option Nat) : (t.countCycle h i).wait = t.wait := by
  unfold Tile.countCycle; split
  · rfl
  · split <;> rfl
@[simp] theorem Tile.countCycle_waitPoint (t : Tile) (h : Bool) (i : Option Nat) : (t.countCycle h i).waitPoint = t.waitPoint := by
  unfold Tile.countCycle; split
  · rfl
  · split <;> rfl
@[simp] theorem Tile.countCycle_parkNext (t : Tile) (h : Bool) (i : Option Nat) : (t.countCycle h i).parkNext = t.parkNext := by
  unfold Tile.countCycle; split
  · rfl
  · split <;> rfl
@[simp] theorem Tile.countCycle_waitOps (t : Tile) (h : Bool) (i : Option Nat) : (t.countCycle h i).waitOps = t.waitOps := by
  unfold Tile.countCycle; split
  · rfl
  · split <;> rfl
@[simp] theorem Tile.countCycle_longBuf (t : Tile) (h : Bool) (i : Option Nat) : (t.countCycle h i).longBuf = t.longBuf := by
  unfold Tile.countCycle; split
  · rfl
  · split <;> rfl
@[simp] theorem Tile.countCycle_replay (t : Tile) (h : Bool) (i : Option Nat) : (t.countCycle h i).replay = t.replay := by
  unfold Tile.countCycle; split
  · rfl
  · split <;> rfl
@[simp] theorem Tile.countCycle_passed (t : Tile) (h : Bool) (i : Option Nat) : (t.countCycle h i).passed = t.passed := by
  unfold Tile.countCycle; split
  · rfl
  · split <;> rfl
@[simp] theorem Tile.countCycle_coreStatus (t : Tile) (h : Bool) (i : Option Nat) : (t.countCycle h i).coreStatus = t.coreStatus := by
  unfold Tile.countCycle; split
  · rfl
  · split <;> rfl
@[simp] theorem Tile.countCycle_xfaultVa (t : Tile) (h : Bool) (i : Option Nat) : (t.countCycle h i).xfaultVa = t.xfaultVa := by
  unfold Tile.countCycle; split
  · rfl
  · split <;> rfl
@[simp] theorem Tile.countCycle_xfaultInfo (t : Tile) (h : Bool) (i : Option Nat) : (t.countCycle h i).xfaultInfo = t.xfaultInfo := by
  unfold Tile.countCycle; split
  · rfl
  · split <;> rfl
@[simp] theorem Tile.countCycle_shadowImg (t : Tile) (h : Bool) (i : Option Nat) : (t.countCycle h i).shadowImg = t.shadowImg := by
  unfold Tile.countCycle; split
  · rfl
  · split <;> rfl
@[simp] theorem Tile.countCycle_prefetchSw (t : Tile) (h : Bool) (i : Option Nat) : (t.countCycle h i).prefetchSw = t.prefetchSw := by
  unfold Tile.countCycle; split
  · rfl
  · split <;> rfl
@[simp] theorem Tile.countCycle_pendTrap (t : Tile) (h : Bool) (i : Option Nat) : (t.countCycle h i).pendTrap = t.pendTrap := by
  unfold Tile.countCycle; split
  · rfl
  · split <;> rfl
@[simp] theorem Tile.countCycle_dispute (t : Tile) (h : Bool) (i : Option Nat) : (t.countCycle h i).dispute = t.dispute := by
  unfold Tile.countCycle; split
  · rfl
  · split <;> rfl
@[simp] theorem Tile.countCycle_reqSeq (t : Tile) (h : Bool) (i : Option Nat) : (t.countCycle h i).reqSeq = t.reqSeq := by
  unfold Tile.countCycle; split
  · rfl
  · split <;> rfl
@[simp] theorem Tile.countCycle_classInfo (t : Tile) (h : Bool) (i : Option Nat) : (t.countCycle h i).classInfo = t.classInfo := by
  unfold Tile.countCycle; split
  · rfl
  · split <;> rfl
@[simp] theorem Tile.countCycle_strayInfo (t : Tile) (h : Bool) (i : Option Nat) : (t.countCycle h i).strayInfo = t.strayInfo := by
  unfold Tile.countCycle; split
  · rfl
  · split <;> rfl
@[simp] theorem Tile.countCycle_cwaitGen (t : Tile) (h : Bool) (i : Option Nat) : (t.countCycle h i).cwaitGen = t.cwaitGen := by
  unfold Tile.countCycle; split
  · rfl
  · split <;> rfl
@[simp] theorem Tile.countCycle_trapCause (t : Tile) (h : Bool) (i : Option Nat) : (t.countCycle h i).trapCause = t.trapCause := by
  unfold Tile.countCycle; split
  · rfl
  · split <;> rfl
@[simp] theorem Tile.countCycle_trapPc (t : Tile) (h : Bool) (i : Option Nat) : (t.countCycle h i).trapPc = t.trapPc := by
  unfold Tile.countCycle; split
  · rfl
  · split <;> rfl
@[simp] theorem Tile.countCycle_trapVec (t : Tile) (h : Bool) (i : Option Nat) : (t.countCycle h i).trapVec = t.trapVec := by
  unfold Tile.countCycle; split
  · rfl
  · split <;> rfl
@[simp] theorem Tile.countCycle_replayPc (t : Tile) (h : Bool) (i : Option Nat) : (t.countCycle h i).replayPc = t.replayPc := by
  unfold Tile.countCycle; split
  · rfl
  · split <;> rfl
@[simp] theorem Tile.countCycle_residueInfo (t : Tile) (h : Bool) (i : Option Nat) : (t.countCycle h i).residueInfo = t.residueInfo := by
  unfold Tile.countCycle; split
  · rfl
  · split <;> rfl
@[simp] theorem Tile.countCycle_topoInfo (t : Tile) (h : Bool) (i : Option Nat) : (t.countCycle h i).topoInfo = t.topoInfo := by
  unfold Tile.countCycle; split
  · rfl
  · split <;> rfl
@[simp] theorem Tile.countCycle_passPc (t : Tile) (h : Bool) (i : Option Nat) : (t.countCycle h i).passPc = t.passPc := by
  unfold Tile.countCycle; split
  · rfl
  · split <;> rfl
@[simp] theorem Tile.countCycle_tileSplit (t : Tile) (h : Bool) (i : Option Nat) : (t.countCycle h i).tileSplit = t.tileSplit := by
  unfold Tile.countCycle; split
  · rfl
  · split <;> rfl
@[simp] theorem Tile.countCycle_cfgTag (t : Tile) (h : Bool) (i : Option Nat) : (t.countCycle h i).cfgTag = t.cfgTag := by
  unfold Tile.countCycle; split
  · rfl
  · split <;> rfl
@[simp] theorem Tile.countCycle_bankSucc (t : Tile) (h : Bool) (i : Option Nat) : (t.countCycle h i).bankSucc = t.bankSucc := by
  unfold Tile.countCycle; split
  · rfl
  · split <;> rfl
@[simp] theorem Tile.countCycle_bankToken (t : Tile) (h : Bool) (i : Option Nat) : (t.countCycle h i).bankToken = t.bankToken := by
  unfold Tile.countCycle; split
  · rfl
  · split <;> rfl
@[simp] theorem Tile.countCycle_fetchCtl (t : Tile) (h : Bool) (i : Option Nat) : (t.countCycle h i).fetchCtl = t.fetchCtl := by
  unfold Tile.countCycle; split
  · rfl
  · split <;> rfl
@[simp] theorem Tile.countCycle_inboxInfo (t : Tile) (h : Bool) (i : Option Nat) : (t.countCycle h i).inboxInfo = t.inboxInfo := by
  unfold Tile.countCycle; split
  · rfl
  · split <;> rfl
@[simp] theorem Tile.countCycle_tokenCfg (t : Tile) (h : Bool) (i : Option Nat) : (t.countCycle h i).tokenCfg = t.tokenCfg := by
  unfold Tile.countCycle; split
  · rfl
  · split <;> rfl
@[simp] theorem Tile.countCycle_qrecCtl (t : Tile) (h : Bool) (i : Option Nat) : (t.countCycle h i).qrecCtl = t.qrecCtl := by
  unfold Tile.countCycle; split
  · rfl
  · split <;> rfl
@[simp] theorem Tile.countCycle_qlock (t : Tile) (h : Bool) (i : Option Nat) : (t.countCycle h i).qlock = t.qlock := by
  unfold Tile.countCycle; split
  · rfl
  · split <;> rfl
@[simp] theorem Tile.countCycle_optSend (t : Tile) (h : Bool) (i : Option Nat) : (t.countCycle h i).optSend = t.optSend := by
  unfold Tile.countCycle; split
  · rfl
  · split <;> rfl
@[simp] theorem Tile.countCycle_fmt (t : Tile) (h : Bool) (i : Option Nat) : (t.countCycle h i).fmt = t.fmt := by
  unfold Tile.countCycle; split
  · rfl
  · split <;> rfl
@[simp] theorem Tile.countCycle_scale (t : Tile) (h : Bool) (i : Option Nat) : (t.countCycle h i).scale = t.scale := by
  unfold Tile.countCycle; split
  · rfl
  · split <;> rfl
@[simp] theorem Tile.countCycle_htPc (t : Tile) (h : Bool) (i : Option Nat) : (t.countCycle h i).htPc = t.htPc := by
  unfold Tile.countCycle; split
  · rfl
  · split <;> rfl
@[simp] theorem Tile.countCycle_htCtl (t : Tile) (h : Bool) (i : Option Nat) : (t.countCycle h i).htCtl = t.htCtl := by
  unfold Tile.countCycle; split
  · rfl
  · split <;> rfl
@[simp] theorem Tile.countCycle_touch (t : Tile) (h : Bool) (i : Option Nat) : (t.countCycle h i).touch = t.touch := by
  unfold Tile.countCycle; split
  · rfl
  · split <;> rfl
@[simp] theorem Tile.countCycle_touchFull (t : Tile) (h : Bool) (i : Option Nat) : (t.countCycle h i).touchFull = t.touchFull := by
  unfold Tile.countCycle; split
  · rfl
  · split <;> rfl
@[simp] theorem Tile.countCycle_corrCnt (t : Tile) (h : Bool) (i : Option Nat) : (t.countCycle h i).corrCnt = t.corrCnt := by
  unfold Tile.countCycle; split
  · rfl
  · split <;> rfl
@[simp] theorem Tile.countCycle_discardCnt (t : Tile) (h : Bool) (i : Option Nat) : (t.countCycle h i).discardCnt = t.discardCnt := by
  unfold Tile.countCycle; split
  · rfl
  · split <;> rfl
@[simp] theorem Tile.countCycle_inbox (t : Tile) (h : Bool) (i : Option Nat) : (t.countCycle h i).inbox = t.inbox := by
  unfold Tile.countCycle; split
  · rfl
  · split <;> rfl
@[simp] theorem Tile.countCycle_report (t : Tile) (h : Bool) (i : Option Nat) : (t.countCycle h i).report = t.report := by
  unfold Tile.countCycle; split
  · rfl
  · split <;> rfl
@[simp] theorem Tile.countCycle_sendQ (t : Tile) (h : Bool) (i : Option Nat) : (t.countCycle h i).sendQ = t.sendQ := by
  unfold Tile.countCycle; split
  · rfl
  · split <;> rfl
@[simp] theorem Tile.countCycle_barRec (t : Tile) (h : Bool) (i : Option Nat) : (t.countCycle h i).barRec = t.barRec := by
  unfold Tile.countCycle; split
  · rfl
  · split <;> rfl
@[simp] theorem Tile.countCycle_coreIn (t : Tile) (h : Bool) (i : Option Nat) : (t.countCycle h i).coreIn = t.coreIn := by
  unfold Tile.countCycle; split
  · rfl
  · split <;> rfl
@[simp] theorem Tile.countCycle_coreOut (t : Tile) (h : Bool) (i : Option Nat) : (t.countCycle h i).coreOut = t.coreOut := by
  unfold Tile.countCycle; split
  · rfl
  · split <;> rfl
@[simp] theorem Tile.countCycle_swIn (t : Tile) (h : Bool) (i : Option Nat) : (t.countCycle h i).swIn = t.swIn := by
  unfold Tile.countCycle; split
  · rfl
  · split <;> rfl
@[simp] theorem Tile.countCycle_weirs (t : Tile) (h : Bool) (i : Option Nat) : (t.countCycle h i).weirs = t.weirs := by
  unfold Tile.countCycle; split
  · rfl
  · split <;> rfl
@[simp] theorem Tile.countCycle_bq (t : Tile) (h : Bool) (i : Option Nat) : (t.countCycle h i).bq = t.bq := by
  unfold Tile.countCycle; split
  · rfl
  · split <;> rfl
@[simp] theorem Tile.countCycle_emq (t : Tile) (h : Bool) (i : Option Nat) : (t.countCycle h i).emq = t.emq := by
  unfold Tile.countCycle; split
  · rfl
  · split <;> rfl
@[simp] theorem Tile.countCycle_sw (t : Tile) (h : Bool) (i : Option Nat) : (t.countCycle h i).sw = t.sw := by
  unfold Tile.countCycle; split
  · rfl
  · split <;> rfl
@[simp] theorem Tile.countCycle_streams (t : Tile) (h : Bool) (i : Option Nat) : (t.countCycle h i).streams = t.streams := by
  unfold Tile.countCycle; split
  · rfl
  · split <;> rfl
@[simp] theorem Tile.countCycle_copies (t : Tile) (h : Bool) (i : Option Nat) : (t.countCycle h i).copies = t.copies := by
  unfold Tile.countCycle; split
  · rfl
  · split <;> rfl
@[simp] theorem Tile.countCycle_sub (t : Tile) (h : Bool) (i : Option Nat) : (t.countCycle h i).sub = t.sub := by
  unfold Tile.countCycle; split
  · rfl
  · split <;> rfl
@[simp] theorem Tile.countCycle_ports (t : Tile) (h : Bool) (i : Option Nat) : (t.countCycle h i).ports = t.ports := by
  unfold Tile.countCycle; split
  · rfl
  · split <;> rfl
@[simp] theorem Tile.countCycle_chan (t : Tile) (h : Bool) (i : Option Nat) : (t.countCycle h i).chan = t.chan := by
  unfold Tile.countCycle; split
  · rfl
  · split <;> rfl
@[simp] theorem Tile.countCycle_shadow (t : Tile) (h : Bool) (i : Option Nat) : (t.countCycle h i).shadow = t.shadow := by
  unfold Tile.countCycle; split
  · rfl
  · split <;> rfl
@[simp] theorem Tile.countCycle_activeImg (t : Tile) (h : Bool) (i : Option Nat) : (t.countCycle h i).activeImg = t.activeImg := by
  unfold Tile.countCycle; split
  · rfl
  · split <;> rfl
@[simp] theorem Tile.countCycle_carried (t : Tile) (h : Bool) (i : Option Nat) : (t.countCycle h i).carried = t.carried := by
  unfold Tile.countCycle; split
  · rfl
  · split <;> rfl
@[simp] theorem Tile.countCycle_dcache (t : Tile) (h : Bool) (i : Option Nat) : (t.countCycle h i).dcache = t.dcache := by
  unfold Tile.countCycle; split
  · rfl
  · split <;> rfl
@[simp] theorem Tile.countCycle_tlb (t : Tile) (h : Bool) (i : Option Nat) : (t.countCycle h i).tlb = t.tlb := by
  unfold Tile.countCycle; split
  · rfl
  · split <;> rfl
@[simp] theorem Tile.countCycle_icache (t : Tile) (h : Bool) (i : Option Nat) : (t.countCycle h i).icache = t.icache := by
  unfold Tile.countCycle; split
  · rfl
  · split <;> rfl
@[simp] theorem Tile.countCycle_fetchMiss (t : Tile) (h : Bool) (i : Option Nat) : (t.countCycle h i).fetchMiss = t.fetchMiss := by
  unfold Tile.countCycle; split
  · rfl
  · split <;> rfl
@[simp] theorem Tile.countCycle_ipref (t : Tile) (h : Bool) (i : Option Nat) : (t.countCycle h i).ipref = t.ipref := by
  unfold Tile.countCycle; split
  · rfl
  · split <;> rfl
@[simp] theorem Tile.countCycle_cutFlags (t : Tile) (h : Bool) (i : Option Nat) : (t.countCycle h i).cutFlags = t.cutFlags := by
  unfold Tile.countCycle; split
  · rfl
  · split <;> rfl
@[simp] theorem Tile.countCycle_cutOf (t : Tile) (h : Bool) (i : Option Nat) : (t.countCycle h i).cutOf = t.cutOf := by
  unfold Tile.countCycle; split
  · rfl
  · split <;> rfl
@[simp] theorem Tile.countCycle_cutMarked (t : Tile) (h : Bool) (i : Option Nat) : (t.countCycle h i).cutMarked = t.cutMarked := by
  unfold Tile.countCycle; split
  · rfl
  · split <;> rfl
@[simp] theorem Tile.countCycle_ring (t : Tile) (h : Bool) (i : Option Nat) : (t.countCycle h i).ring = t.ring := by
  unfold Tile.countCycle; split
  · rfl
  · split <;> rfl
@[simp] theorem Tile.countCycle_outSeq (t : Tile) (h : Bool) (i : Option Nat) : (t.countCycle h i).outSeq = t.outSeq := by
  unfold Tile.countCycle; split
  · rfl
  · split <;> rfl
@[simp] theorem Tile.countCycle_swMiss (t : Tile) (h : Bool) (i : Option Nat) : (t.countCycle h i).swMiss = t.swMiss := by
  unfold Tile.countCycle; split
  · rfl
  · split <;> rfl
@[simp] theorem Tile.countCycle_fetchSw (t : Tile) (h : Bool) (i : Option Nat) : (t.countCycle h i).fetchSw = t.fetchSw := by
  unfold Tile.countCycle; split
  · rfl
  · split <;> rfl
@[simp] theorem Tile.countCycle_prefetch (t : Tile) (h : Bool) (i : Option Nat) : (t.countCycle h i).prefetch = t.prefetch := by
  unfold Tile.countCycle; split
  · rfl
  · split <;> rfl
@[simp] theorem Tile.countCycle_lastLine (t : Tile) (h : Bool) (i : Option Nat) : (t.countCycle h i).lastLine = t.lastLine := by
  unfold Tile.countCycle; split
  · rfl
  · split <;> rfl
@[simp] theorem Tile.countCycle_selPark (t : Tile) (h : Bool) (i : Option Nat) : (t.countCycle h i).selPark = t.selPark := by
  unfold Tile.countCycle; split
  · rfl
  · split <;> rfl
@[simp] theorem Tile.countCycle_rankCache (t : Tile) (h : Bool) (i : Option Nat) : (t.countCycle h i).rankCache = t.rankCache := by
  unfold Tile.countCycle; split
  · rfl
  · split <;> rfl
@[simp] theorem Tile.countCycle_ownerLines (t : Tile) (h : Bool) (i : Option Nat) : (t.countCycle h i).ownerLines = t.ownerLines := by
  unfold Tile.countCycle; split
  · rfl
  · split <;> rfl
@[simp] theorem Tile.countCycle_dirtyGroups (t : Tile) (h : Bool) (i : Option Nat) : (t.countCycle h i).dirtyGroups = t.dirtyGroups := by
  unfold Tile.countCycle; split
  · rfl
  · split <;> rfl
@[simp] theorem Tile.countCycle_dirtyGranules (t : Tile) (h : Bool) (i : Option Nat) : (t.countCycle h i).dirtyGranules = t.dirtyGranules := by
  unfold Tile.countCycle; split
  · rfl
  · split <;> rfl
@[simp] theorem Tile.countCycle_seq (t : Tile) (h : Bool) (i : Option Nat) : (t.countCycle h i).seq = t.seq := by
  unfold Tile.countCycle; split
  · rfl
  · split <;> rfl
@[simp] theorem Tile.countCycle_imageOf (t : Tile) (h : Bool) (i : Option Nat) : (t.countCycle h i).imageOf = t.imageOf := by
  unfold Tile.countCycle; split
  · rfl
  · split <;> rfl
@[simp] theorem Tile.countCycle_scope (t : Tile) (h : Bool) (i : Option Nat) : (t.countCycle h i).scope = t.scope := by
  unfold Tile.countCycle; split
  · rfl
  · split <;> rfl
@[simp] theorem Tile.countCycle_launch (t : Tile) (h : Bool) (i : Option Nat) : (t.countCycle h i).launch = t.launch := by
  unfold Tile.countCycle; split
  · rfl
  · split <;> rfl
@[simp] theorem Tile.countCycle_launchIdx (t : Tile) (h : Bool) (i : Option Nat) : (t.countCycle h i).launchIdx = t.launchIdx := by
  unfold Tile.countCycle; split
  · rfl
  · split <;> rfl
@[simp] theorem Tile.countCycle_cancelled (t : Tile) (h : Bool) (i : Option Nat) : (t.countCycle h i).cancelled = t.cancelled := by
  unfold Tile.countCycle; split
  · rfl
  · split <;> rfl
@[simp] theorem Tile.countCycle_follow (t : Tile) (h : Bool) (i : Option Nat) : (t.countCycle h i).follow = t.follow := by
  unfold Tile.countCycle; split
  · rfl
  · split <;> rfl
@[simp] theorem Tile.countCycle_openChunk (t : Tile) (h : Bool) (i : Option Nat) : (t.countCycle h i).openChunk = t.openChunk := by
  unfold Tile.countCycle; split
  · rfl
  · split <;> rfl
@[simp] theorem Tile.advance_id (t : Tile) (n : Nat) : (t.advance n).id = t.id := rfl
@[simp] theorem Tile.advance_run (t : Tile) (n : Nat) : (t.advance n).run = t.run := rfl
@[simp] theorem Tile.advance_mode (t : Tile) (n : Nat) : (t.advance n).mode = t.mode := rfl
@[simp] theorem Tile.advance_x (t : Tile) (n : Nat) : (t.advance n).x = t.x := rfl
@[simp] theorem Tile.advance_v (t : Tile) (n : Nat) : (t.advance n).v = t.v := rfl
@[simp] theorem Tile.advance_m (t : Tile) (n : Nat) : (t.advance n).m = t.m := rfl
@[simp] theorem Tile.advance_la (t : Tile) (n : Nat) : (t.advance n).la = t.la := rfl
@[simp] theorem Tile.advance_intr (t : Tile) (n : Nat) : (t.advance n).intr = t.intr := rfl
@[simp] theorem Tile.advance_trapBank (t : Tile) (n : Nat) : (t.advance n).trapBank = t.trapBank := rfl
@[simp] theorem Tile.advance_wait (t : Tile) (n : Nat) : (t.advance n).wait = t.wait := rfl
@[simp] theorem Tile.advance_waitPoint (t : Tile) (n : Nat) : (t.advance n).waitPoint = t.waitPoint := rfl
@[simp] theorem Tile.advance_parkNext (t : Tile) (n : Nat) : (t.advance n).parkNext = t.parkNext := rfl
@[simp] theorem Tile.advance_waitOps (t : Tile) (n : Nat) : (t.advance n).waitOps = t.waitOps := rfl
@[simp] theorem Tile.advance_longBuf (t : Tile) (n : Nat) : (t.advance n).longBuf = t.longBuf := rfl
@[simp] theorem Tile.advance_replay (t : Tile) (n : Nat) : (t.advance n).replay = t.replay := rfl
@[simp] theorem Tile.advance_passed (t : Tile) (n : Nat) : (t.advance n).passed = t.passed := rfl
@[simp] theorem Tile.advance_coreStatus (t : Tile) (n : Nat) : (t.advance n).coreStatus = t.coreStatus := rfl
@[simp] theorem Tile.advance_xfaultVa (t : Tile) (n : Nat) : (t.advance n).xfaultVa = t.xfaultVa := rfl
@[simp] theorem Tile.advance_xfaultInfo (t : Tile) (n : Nat) : (t.advance n).xfaultInfo = t.xfaultInfo := rfl
@[simp] theorem Tile.advance_shadowImg (t : Tile) (n : Nat) : (t.advance n).shadowImg = t.shadowImg := rfl
@[simp] theorem Tile.advance_prefetchSw (t : Tile) (n : Nat) : (t.advance n).prefetchSw = t.prefetchSw := rfl
@[simp] theorem Tile.advance_pendTrap (t : Tile) (n : Nat) : (t.advance n).pendTrap = t.pendTrap := rfl
@[simp] theorem Tile.advance_dispute (t : Tile) (n : Nat) : (t.advance n).dispute = t.dispute := rfl
@[simp] theorem Tile.advance_reqSeq (t : Tile) (n : Nat) : (t.advance n).reqSeq = t.reqSeq := rfl
@[simp] theorem Tile.advance_classInfo (t : Tile) (n : Nat) : (t.advance n).classInfo = t.classInfo := rfl
@[simp] theorem Tile.advance_strayInfo (t : Tile) (n : Nat) : (t.advance n).strayInfo = t.strayInfo := rfl
@[simp] theorem Tile.advance_cwaitGen (t : Tile) (n : Nat) : (t.advance n).cwaitGen = t.cwaitGen := rfl
@[simp] theorem Tile.advance_trapCause (t : Tile) (n : Nat) : (t.advance n).trapCause = t.trapCause := rfl
@[simp] theorem Tile.advance_trapPc (t : Tile) (n : Nat) : (t.advance n).trapPc = t.trapPc := rfl
@[simp] theorem Tile.advance_trapVec (t : Tile) (n : Nat) : (t.advance n).trapVec = t.trapVec := rfl
@[simp] theorem Tile.advance_replayPc (t : Tile) (n : Nat) : (t.advance n).replayPc = t.replayPc := rfl
@[simp] theorem Tile.advance_residueInfo (t : Tile) (n : Nat) : (t.advance n).residueInfo = t.residueInfo := rfl
@[simp] theorem Tile.advance_topoInfo (t : Tile) (n : Nat) : (t.advance n).topoInfo = t.topoInfo := rfl
@[simp] theorem Tile.advance_passPc (t : Tile) (n : Nat) : (t.advance n).passPc = t.passPc := rfl
@[simp] theorem Tile.advance_tileSplit (t : Tile) (n : Nat) : (t.advance n).tileSplit = t.tileSplit := rfl
@[simp] theorem Tile.advance_cfgTag (t : Tile) (n : Nat) : (t.advance n).cfgTag = t.cfgTag := rfl
@[simp] theorem Tile.advance_bankSucc (t : Tile) (n : Nat) : (t.advance n).bankSucc = t.bankSucc := rfl
@[simp] theorem Tile.advance_bankToken (t : Tile) (n : Nat) : (t.advance n).bankToken = t.bankToken := rfl
@[simp] theorem Tile.advance_fetchCtl (t : Tile) (n : Nat) : (t.advance n).fetchCtl = t.fetchCtl := rfl
@[simp] theorem Tile.advance_counters (t : Tile) (n : Nat) : (t.advance n).counters = t.counters := rfl
@[simp] theorem Tile.advance_inboxInfo (t : Tile) (n : Nat) : (t.advance n).inboxInfo = t.inboxInfo := rfl
@[simp] theorem Tile.advance_tokenCfg (t : Tile) (n : Nat) : (t.advance n).tokenCfg = t.tokenCfg := rfl
@[simp] theorem Tile.advance_qrecCtl (t : Tile) (n : Nat) : (t.advance n).qrecCtl = t.qrecCtl := rfl
@[simp] theorem Tile.advance_qlock (t : Tile) (n : Nat) : (t.advance n).qlock = t.qlock := rfl
@[simp] theorem Tile.advance_optSend (t : Tile) (n : Nat) : (t.advance n).optSend = t.optSend := rfl
@[simp] theorem Tile.advance_fmt (t : Tile) (n : Nat) : (t.advance n).fmt = t.fmt := rfl
@[simp] theorem Tile.advance_scale (t : Tile) (n : Nat) : (t.advance n).scale = t.scale := rfl
@[simp] theorem Tile.advance_htPc (t : Tile) (n : Nat) : (t.advance n).htPc = t.htPc := rfl
@[simp] theorem Tile.advance_htCtl (t : Tile) (n : Nat) : (t.advance n).htCtl = t.htCtl := rfl
@[simp] theorem Tile.advance_touch (t : Tile) (n : Nat) : (t.advance n).touch = t.touch := rfl
@[simp] theorem Tile.advance_touchFull (t : Tile) (n : Nat) : (t.advance n).touchFull = t.touchFull := rfl
@[simp] theorem Tile.advance_corrCnt (t : Tile) (n : Nat) : (t.advance n).corrCnt = t.corrCnt := rfl
@[simp] theorem Tile.advance_discardCnt (t : Tile) (n : Nat) : (t.advance n).discardCnt = t.discardCnt := rfl
@[simp] theorem Tile.advance_inbox (t : Tile) (n : Nat) : (t.advance n).inbox = t.inbox := rfl
@[simp] theorem Tile.advance_report (t : Tile) (n : Nat) : (t.advance n).report = t.report := rfl
@[simp] theorem Tile.advance_sendQ (t : Tile) (n : Nat) : (t.advance n).sendQ = t.sendQ := rfl
@[simp] theorem Tile.advance_barRec (t : Tile) (n : Nat) : (t.advance n).barRec = t.barRec := rfl
@[simp] theorem Tile.advance_coreIn (t : Tile) (n : Nat) : (t.advance n).coreIn = t.coreIn := rfl
@[simp] theorem Tile.advance_coreOut (t : Tile) (n : Nat) : (t.advance n).coreOut = t.coreOut := rfl
@[simp] theorem Tile.advance_swIn (t : Tile) (n : Nat) : (t.advance n).swIn = t.swIn := rfl
@[simp] theorem Tile.advance_weirs (t : Tile) (n : Nat) : (t.advance n).weirs = t.weirs := rfl
@[simp] theorem Tile.advance_bq (t : Tile) (n : Nat) : (t.advance n).bq = t.bq := rfl
@[simp] theorem Tile.advance_emq (t : Tile) (n : Nat) : (t.advance n).emq = t.emq := rfl
@[simp] theorem Tile.advance_sw (t : Tile) (n : Nat) : (t.advance n).sw = t.sw := rfl
@[simp] theorem Tile.advance_streams (t : Tile) (n : Nat) : (t.advance n).streams = t.streams := rfl
@[simp] theorem Tile.advance_copies (t : Tile) (n : Nat) : (t.advance n).copies = t.copies := rfl
@[simp] theorem Tile.advance_sub (t : Tile) (n : Nat) : (t.advance n).sub = t.sub := rfl
@[simp] theorem Tile.advance_ports (t : Tile) (n : Nat) : (t.advance n).ports = t.ports := rfl
@[simp] theorem Tile.advance_chan (t : Tile) (n : Nat) : (t.advance n).chan = t.chan := rfl
@[simp] theorem Tile.advance_shadow (t : Tile) (n : Nat) : (t.advance n).shadow = t.shadow := rfl
@[simp] theorem Tile.advance_activeImg (t : Tile) (n : Nat) : (t.advance n).activeImg = t.activeImg := rfl
@[simp] theorem Tile.advance_carried (t : Tile) (n : Nat) : (t.advance n).carried = t.carried := rfl
@[simp] theorem Tile.advance_dcache (t : Tile) (n : Nat) : (t.advance n).dcache = t.dcache := rfl
@[simp] theorem Tile.advance_tlb (t : Tile) (n : Nat) : (t.advance n).tlb = t.tlb := rfl
@[simp] theorem Tile.advance_icache (t : Tile) (n : Nat) : (t.advance n).icache = t.icache := rfl
@[simp] theorem Tile.advance_fetchMiss (t : Tile) (n : Nat) : (t.advance n).fetchMiss = t.fetchMiss := rfl
@[simp] theorem Tile.advance_ipref (t : Tile) (n : Nat) : (t.advance n).ipref = t.ipref := rfl
@[simp] theorem Tile.advance_cutFlags (t : Tile) (n : Nat) : (t.advance n).cutFlags = t.cutFlags := rfl
@[simp] theorem Tile.advance_cutOf (t : Tile) (n : Nat) : (t.advance n).cutOf = t.cutOf := rfl
@[simp] theorem Tile.advance_cutMarked (t : Tile) (n : Nat) : (t.advance n).cutMarked = t.cutMarked := rfl
@[simp] theorem Tile.advance_ring (t : Tile) (n : Nat) : (t.advance n).ring = t.ring := rfl
@[simp] theorem Tile.advance_outSeq (t : Tile) (n : Nat) : (t.advance n).outSeq = t.outSeq := rfl
@[simp] theorem Tile.advance_swMiss (t : Tile) (n : Nat) : (t.advance n).swMiss = t.swMiss := rfl
@[simp] theorem Tile.advance_fetchSw (t : Tile) (n : Nat) : (t.advance n).fetchSw = t.fetchSw := rfl
@[simp] theorem Tile.advance_prefetch (t : Tile) (n : Nat) : (t.advance n).prefetch = t.prefetch := rfl
@[simp] theorem Tile.advance_lastLine (t : Tile) (n : Nat) : (t.advance n).lastLine = t.lastLine := rfl
@[simp] theorem Tile.advance_selPark (t : Tile) (n : Nat) : (t.advance n).selPark = t.selPark := rfl
@[simp] theorem Tile.advance_rankCache (t : Tile) (n : Nat) : (t.advance n).rankCache = t.rankCache := rfl
@[simp] theorem Tile.advance_ownerLines (t : Tile) (n : Nat) : (t.advance n).ownerLines = t.ownerLines := rfl
@[simp] theorem Tile.advance_dirtyGroups (t : Tile) (n : Nat) : (t.advance n).dirtyGroups = t.dirtyGroups := rfl
@[simp] theorem Tile.advance_dirtyGranules (t : Tile) (n : Nat) : (t.advance n).dirtyGranules = t.dirtyGranules := rfl
@[simp] theorem Tile.advance_seq (t : Tile) (n : Nat) : (t.advance n).seq = t.seq := rfl
@[simp] theorem Tile.advance_imageOf (t : Tile) (n : Nat) : (t.advance n).imageOf = t.imageOf := rfl
@[simp] theorem Tile.advance_scope (t : Tile) (n : Nat) : (t.advance n).scope = t.scope := rfl
@[simp] theorem Tile.advance_launch (t : Tile) (n : Nat) : (t.advance n).launch = t.launch := rfl
@[simp] theorem Tile.advance_launchIdx (t : Tile) (n : Nat) : (t.advance n).launchIdx = t.launchIdx := rfl
@[simp] theorem Tile.advance_cancelled (t : Tile) (n : Nat) : (t.advance n).cancelled = t.cancelled := rfl
@[simp] theorem Tile.advance_follow (t : Tile) (n : Nat) : (t.advance n).follow = t.follow := rfl
@[simp] theorem Tile.advance_openChunk (t : Tile) (n : Nat) : (t.advance n).openChunk = t.openChunk := rfl
@[simp] theorem Tile.touchSlot_id (t : Tile) (a : Word) : (t.touchSlot a).id = t.id := by
  unfold Tile.touchSlot; split
  · rfl
  · split
    · rfl
    · split <;> rfl
@[simp] theorem Tile.touchSlot_run (t : Tile) (a : Word) : (t.touchSlot a).run = t.run := by
  unfold Tile.touchSlot; split
  · rfl
  · split
    · rfl
    · split <;> rfl
@[simp] theorem Tile.touchSlot_mode (t : Tile) (a : Word) : (t.touchSlot a).mode = t.mode := by
  unfold Tile.touchSlot; split
  · rfl
  · split
    · rfl
    · split <;> rfl
@[simp] theorem Tile.touchSlot_pc (t : Tile) (a : Word) : (t.touchSlot a).pc = t.pc := by
  unfold Tile.touchSlot; split
  · rfl
  · split
    · rfl
    · split <;> rfl
@[simp] theorem Tile.touchSlot_x (t : Tile) (a : Word) : (t.touchSlot a).x = t.x := by
  unfold Tile.touchSlot; split
  · rfl
  · split
    · rfl
    · split <;> rfl
@[simp] theorem Tile.touchSlot_v (t : Tile) (a : Word) : (t.touchSlot a).v = t.v := by
  unfold Tile.touchSlot; split
  · rfl
  · split
    · rfl
    · split <;> rfl
@[simp] theorem Tile.touchSlot_m (t : Tile) (a : Word) : (t.touchSlot a).m = t.m := by
  unfold Tile.touchSlot; split
  · rfl
  · split
    · rfl
    · split <;> rfl
@[simp] theorem Tile.touchSlot_la (t : Tile) (a : Word) : (t.touchSlot a).la = t.la := by
  unfold Tile.touchSlot; split
  · rfl
  · split
    · rfl
    · split <;> rfl
@[simp] theorem Tile.touchSlot_loops (t : Tile) (a : Word) : (t.touchSlot a).loops = t.loops := by
  unfold Tile.touchSlot; split
  · rfl
  · split
    · rfl
    · split <;> rfl
@[simp] theorem Tile.touchSlot_intr (t : Tile) (a : Word) : (t.touchSlot a).intr = t.intr := by
  unfold Tile.touchSlot; split
  · rfl
  · split
    · rfl
    · split <;> rfl
@[simp] theorem Tile.touchSlot_trapBank (t : Tile) (a : Word) : (t.touchSlot a).trapBank = t.trapBank := by
  unfold Tile.touchSlot; split
  · rfl
  · split
    · rfl
    · split <;> rfl
@[simp] theorem Tile.touchSlot_wait (t : Tile) (a : Word) : (t.touchSlot a).wait = t.wait := by
  unfold Tile.touchSlot; split
  · rfl
  · split
    · rfl
    · split <;> rfl
@[simp] theorem Tile.touchSlot_waitPoint (t : Tile) (a : Word) : (t.touchSlot a).waitPoint = t.waitPoint := by
  unfold Tile.touchSlot; split
  · rfl
  · split
    · rfl
    · split <;> rfl
@[simp] theorem Tile.touchSlot_parkNext (t : Tile) (a : Word) : (t.touchSlot a).parkNext = t.parkNext := by
  unfold Tile.touchSlot; split
  · rfl
  · split
    · rfl
    · split <;> rfl
@[simp] theorem Tile.touchSlot_waitOps (t : Tile) (a : Word) : (t.touchSlot a).waitOps = t.waitOps := by
  unfold Tile.touchSlot; split
  · rfl
  · split
    · rfl
    · split <;> rfl
@[simp] theorem Tile.touchSlot_longBuf (t : Tile) (a : Word) : (t.touchSlot a).longBuf = t.longBuf := by
  unfold Tile.touchSlot; split
  · rfl
  · split
    · rfl
    · split <;> rfl
@[simp] theorem Tile.touchSlot_replay (t : Tile) (a : Word) : (t.touchSlot a).replay = t.replay := by
  unfold Tile.touchSlot; split
  · rfl
  · split
    · rfl
    · split <;> rfl
@[simp] theorem Tile.touchSlot_passed (t : Tile) (a : Word) : (t.touchSlot a).passed = t.passed := by
  unfold Tile.touchSlot; split
  · rfl
  · split
    · rfl
    · split <;> rfl
@[simp] theorem Tile.touchSlot_coreStatus (t : Tile) (a : Word) : (t.touchSlot a).coreStatus = t.coreStatus := by
  unfold Tile.touchSlot; split
  · rfl
  · split
    · rfl
    · split <;> rfl
@[simp] theorem Tile.touchSlot_xfaultVa (t : Tile) (a : Word) : (t.touchSlot a).xfaultVa = t.xfaultVa := by
  unfold Tile.touchSlot; split
  · rfl
  · split
    · rfl
    · split <;> rfl
@[simp] theorem Tile.touchSlot_xfaultInfo (t : Tile) (a : Word) : (t.touchSlot a).xfaultInfo = t.xfaultInfo := by
  unfold Tile.touchSlot; split
  · rfl
  · split
    · rfl
    · split <;> rfl
@[simp] theorem Tile.touchSlot_shadowImg (t : Tile) (a : Word) : (t.touchSlot a).shadowImg = t.shadowImg := by
  unfold Tile.touchSlot; split
  · rfl
  · split
    · rfl
    · split <;> rfl
@[simp] theorem Tile.touchSlot_prefetchSw (t : Tile) (a : Word) : (t.touchSlot a).prefetchSw = t.prefetchSw := by
  unfold Tile.touchSlot; split
  · rfl
  · split
    · rfl
    · split <;> rfl
@[simp] theorem Tile.touchSlot_pendTrap (t : Tile) (a : Word) : (t.touchSlot a).pendTrap = t.pendTrap := by
  unfold Tile.touchSlot; split
  · rfl
  · split
    · rfl
    · split <;> rfl
@[simp] theorem Tile.touchSlot_dispute (t : Tile) (a : Word) : (t.touchSlot a).dispute = t.dispute := by
  unfold Tile.touchSlot; split
  · rfl
  · split
    · rfl
    · split <;> rfl
@[simp] theorem Tile.touchSlot_reqSeq (t : Tile) (a : Word) : (t.touchSlot a).reqSeq = t.reqSeq := by
  unfold Tile.touchSlot; split
  · rfl
  · split
    · rfl
    · split <;> rfl
@[simp] theorem Tile.touchSlot_classInfo (t : Tile) (a : Word) : (t.touchSlot a).classInfo = t.classInfo := by
  unfold Tile.touchSlot; split
  · rfl
  · split
    · rfl
    · split <;> rfl
@[simp] theorem Tile.touchSlot_strayInfo (t : Tile) (a : Word) : (t.touchSlot a).strayInfo = t.strayInfo := by
  unfold Tile.touchSlot; split
  · rfl
  · split
    · rfl
    · split <;> rfl
@[simp] theorem Tile.touchSlot_cwaitGen (t : Tile) (a : Word) : (t.touchSlot a).cwaitGen = t.cwaitGen := by
  unfold Tile.touchSlot; split
  · rfl
  · split
    · rfl
    · split <;> rfl
@[simp] theorem Tile.touchSlot_trapCause (t : Tile) (a : Word) : (t.touchSlot a).trapCause = t.trapCause := by
  unfold Tile.touchSlot; split
  · rfl
  · split
    · rfl
    · split <;> rfl
@[simp] theorem Tile.touchSlot_trapPc (t : Tile) (a : Word) : (t.touchSlot a).trapPc = t.trapPc := by
  unfold Tile.touchSlot; split
  · rfl
  · split
    · rfl
    · split <;> rfl
@[simp] theorem Tile.touchSlot_trapVec (t : Tile) (a : Word) : (t.touchSlot a).trapVec = t.trapVec := by
  unfold Tile.touchSlot; split
  · rfl
  · split
    · rfl
    · split <;> rfl
@[simp] theorem Tile.touchSlot_replayPc (t : Tile) (a : Word) : (t.touchSlot a).replayPc = t.replayPc := by
  unfold Tile.touchSlot; split
  · rfl
  · split
    · rfl
    · split <;> rfl
@[simp] theorem Tile.touchSlot_residueInfo (t : Tile) (a : Word) : (t.touchSlot a).residueInfo = t.residueInfo := by
  unfold Tile.touchSlot; split
  · rfl
  · split
    · rfl
    · split <;> rfl
@[simp] theorem Tile.touchSlot_topoInfo (t : Tile) (a : Word) : (t.touchSlot a).topoInfo = t.topoInfo := by
  unfold Tile.touchSlot; split
  · rfl
  · split
    · rfl
    · split <;> rfl
@[simp] theorem Tile.touchSlot_passPc (t : Tile) (a : Word) : (t.touchSlot a).passPc = t.passPc := by
  unfold Tile.touchSlot; split
  · rfl
  · split
    · rfl
    · split <;> rfl
@[simp] theorem Tile.touchSlot_tileSplit (t : Tile) (a : Word) : (t.touchSlot a).tileSplit = t.tileSplit := by
  unfold Tile.touchSlot; split
  · rfl
  · split
    · rfl
    · split <;> rfl
@[simp] theorem Tile.touchSlot_cfgTag (t : Tile) (a : Word) : (t.touchSlot a).cfgTag = t.cfgTag := by
  unfold Tile.touchSlot; split
  · rfl
  · split
    · rfl
    · split <;> rfl
@[simp] theorem Tile.touchSlot_bankSucc (t : Tile) (a : Word) : (t.touchSlot a).bankSucc = t.bankSucc := by
  unfold Tile.touchSlot; split
  · rfl
  · split
    · rfl
    · split <;> rfl
@[simp] theorem Tile.touchSlot_bankToken (t : Tile) (a : Word) : (t.touchSlot a).bankToken = t.bankToken := by
  unfold Tile.touchSlot; split
  · rfl
  · split
    · rfl
    · split <;> rfl
@[simp] theorem Tile.touchSlot_fetchCtl (t : Tile) (a : Word) : (t.touchSlot a).fetchCtl = t.fetchCtl := by
  unfold Tile.touchSlot; split
  · rfl
  · split
    · rfl
    · split <;> rfl
@[simp] theorem Tile.touchSlot_counters (t : Tile) (a : Word) : (t.touchSlot a).counters = t.counters := by
  unfold Tile.touchSlot; split
  · rfl
  · split
    · rfl
    · split <;> rfl
@[simp] theorem Tile.touchSlot_inboxInfo (t : Tile) (a : Word) : (t.touchSlot a).inboxInfo = t.inboxInfo := by
  unfold Tile.touchSlot; split
  · rfl
  · split
    · rfl
    · split <;> rfl
@[simp] theorem Tile.touchSlot_tokenCfg (t : Tile) (a : Word) : (t.touchSlot a).tokenCfg = t.tokenCfg := by
  unfold Tile.touchSlot; split
  · rfl
  · split
    · rfl
    · split <;> rfl
@[simp] theorem Tile.touchSlot_qrecCtl (t : Tile) (a : Word) : (t.touchSlot a).qrecCtl = t.qrecCtl := by
  unfold Tile.touchSlot; split
  · rfl
  · split
    · rfl
    · split <;> rfl
@[simp] theorem Tile.touchSlot_qlock (t : Tile) (a : Word) : (t.touchSlot a).qlock = t.qlock := by
  unfold Tile.touchSlot; split
  · rfl
  · split
    · rfl
    · split <;> rfl
@[simp] theorem Tile.touchSlot_optSend (t : Tile) (a : Word) : (t.touchSlot a).optSend = t.optSend := by
  unfold Tile.touchSlot; split
  · rfl
  · split
    · rfl
    · split <;> rfl
@[simp] theorem Tile.touchSlot_fmt (t : Tile) (a : Word) : (t.touchSlot a).fmt = t.fmt := by
  unfold Tile.touchSlot; split
  · rfl
  · split
    · rfl
    · split <;> rfl
@[simp] theorem Tile.touchSlot_scale (t : Tile) (a : Word) : (t.touchSlot a).scale = t.scale := by
  unfold Tile.touchSlot; split
  · rfl
  · split
    · rfl
    · split <;> rfl
@[simp] theorem Tile.touchSlot_htPc (t : Tile) (a : Word) : (t.touchSlot a).htPc = t.htPc := by
  unfold Tile.touchSlot; split
  · rfl
  · split
    · rfl
    · split <;> rfl
@[simp] theorem Tile.touchSlot_htCtl (t : Tile) (a : Word) : (t.touchSlot a).htCtl = t.htCtl := by
  unfold Tile.touchSlot; split
  · rfl
  · split
    · rfl
    · split <;> rfl
@[simp] theorem Tile.touchSlot_corrCnt (t : Tile) (a : Word) : (t.touchSlot a).corrCnt = t.corrCnt := by
  unfold Tile.touchSlot; split
  · rfl
  · split
    · rfl
    · split <;> rfl
@[simp] theorem Tile.touchSlot_discardCnt (t : Tile) (a : Word) : (t.touchSlot a).discardCnt = t.discardCnt := by
  unfold Tile.touchSlot; split
  · rfl
  · split
    · rfl
    · split <;> rfl
@[simp] theorem Tile.touchSlot_inbox (t : Tile) (a : Word) : (t.touchSlot a).inbox = t.inbox := by
  unfold Tile.touchSlot; split
  · rfl
  · split
    · rfl
    · split <;> rfl
@[simp] theorem Tile.touchSlot_report (t : Tile) (a : Word) : (t.touchSlot a).report = t.report := by
  unfold Tile.touchSlot; split
  · rfl
  · split
    · rfl
    · split <;> rfl
@[simp] theorem Tile.touchSlot_sendQ (t : Tile) (a : Word) : (t.touchSlot a).sendQ = t.sendQ := by
  unfold Tile.touchSlot; split
  · rfl
  · split
    · rfl
    · split <;> rfl
@[simp] theorem Tile.touchSlot_barRec (t : Tile) (a : Word) : (t.touchSlot a).barRec = t.barRec := by
  unfold Tile.touchSlot; split
  · rfl
  · split
    · rfl
    · split <;> rfl
@[simp] theorem Tile.touchSlot_coreIn (t : Tile) (a : Word) : (t.touchSlot a).coreIn = t.coreIn := by
  unfold Tile.touchSlot; split
  · rfl
  · split
    · rfl
    · split <;> rfl
@[simp] theorem Tile.touchSlot_coreOut (t : Tile) (a : Word) : (t.touchSlot a).coreOut = t.coreOut := by
  unfold Tile.touchSlot; split
  · rfl
  · split
    · rfl
    · split <;> rfl
@[simp] theorem Tile.touchSlot_swIn (t : Tile) (a : Word) : (t.touchSlot a).swIn = t.swIn := by
  unfold Tile.touchSlot; split
  · rfl
  · split
    · rfl
    · split <;> rfl
@[simp] theorem Tile.touchSlot_weirs (t : Tile) (a : Word) : (t.touchSlot a).weirs = t.weirs := by
  unfold Tile.touchSlot; split
  · rfl
  · split
    · rfl
    · split <;> rfl
@[simp] theorem Tile.touchSlot_bq (t : Tile) (a : Word) : (t.touchSlot a).bq = t.bq := by
  unfold Tile.touchSlot; split
  · rfl
  · split
    · rfl
    · split <;> rfl
@[simp] theorem Tile.touchSlot_emq (t : Tile) (a : Word) : (t.touchSlot a).emq = t.emq := by
  unfold Tile.touchSlot; split
  · rfl
  · split
    · rfl
    · split <;> rfl
@[simp] theorem Tile.touchSlot_sw (t : Tile) (a : Word) : (t.touchSlot a).sw = t.sw := by
  unfold Tile.touchSlot; split
  · rfl
  · split
    · rfl
    · split <;> rfl
@[simp] theorem Tile.touchSlot_streams (t : Tile) (a : Word) : (t.touchSlot a).streams = t.streams := by
  unfold Tile.touchSlot; split
  · rfl
  · split
    · rfl
    · split <;> rfl
@[simp] theorem Tile.touchSlot_copies (t : Tile) (a : Word) : (t.touchSlot a).copies = t.copies := by
  unfold Tile.touchSlot; split
  · rfl
  · split
    · rfl
    · split <;> rfl
@[simp] theorem Tile.touchSlot_sub (t : Tile) (a : Word) : (t.touchSlot a).sub = t.sub := by
  unfold Tile.touchSlot; split
  · rfl
  · split
    · rfl
    · split <;> rfl
@[simp] theorem Tile.touchSlot_ports (t : Tile) (a : Word) : (t.touchSlot a).ports = t.ports := by
  unfold Tile.touchSlot; split
  · rfl
  · split
    · rfl
    · split <;> rfl
@[simp] theorem Tile.touchSlot_chan (t : Tile) (a : Word) : (t.touchSlot a).chan = t.chan := by
  unfold Tile.touchSlot; split
  · rfl
  · split
    · rfl
    · split <;> rfl
@[simp] theorem Tile.touchSlot_shadow (t : Tile) (a : Word) : (t.touchSlot a).shadow = t.shadow := by
  unfold Tile.touchSlot; split
  · rfl
  · split
    · rfl
    · split <;> rfl
@[simp] theorem Tile.touchSlot_activeImg (t : Tile) (a : Word) : (t.touchSlot a).activeImg = t.activeImg := by
  unfold Tile.touchSlot; split
  · rfl
  · split
    · rfl
    · split <;> rfl
@[simp] theorem Tile.touchSlot_carried (t : Tile) (a : Word) : (t.touchSlot a).carried = t.carried := by
  unfold Tile.touchSlot; split
  · rfl
  · split
    · rfl
    · split <;> rfl
@[simp] theorem Tile.touchSlot_dcache (t : Tile) (a : Word) : (t.touchSlot a).dcache = t.dcache := by
  unfold Tile.touchSlot; split
  · rfl
  · split
    · rfl
    · split <;> rfl
@[simp] theorem Tile.touchSlot_tlb (t : Tile) (a : Word) : (t.touchSlot a).tlb = t.tlb := by
  unfold Tile.touchSlot; split
  · rfl
  · split
    · rfl
    · split <;> rfl
@[simp] theorem Tile.touchSlot_icache (t : Tile) (a : Word) : (t.touchSlot a).icache = t.icache := by
  unfold Tile.touchSlot; split
  · rfl
  · split
    · rfl
    · split <;> rfl
@[simp] theorem Tile.touchSlot_fetchMiss (t : Tile) (a : Word) : (t.touchSlot a).fetchMiss = t.fetchMiss := by
  unfold Tile.touchSlot; split
  · rfl
  · split
    · rfl
    · split <;> rfl
@[simp] theorem Tile.touchSlot_ipref (t : Tile) (a : Word) : (t.touchSlot a).ipref = t.ipref := by
  unfold Tile.touchSlot; split
  · rfl
  · split
    · rfl
    · split <;> rfl
@[simp] theorem Tile.touchSlot_cutFlags (t : Tile) (a : Word) : (t.touchSlot a).cutFlags = t.cutFlags := by
  unfold Tile.touchSlot; split
  · rfl
  · split
    · rfl
    · split <;> rfl
@[simp] theorem Tile.touchSlot_cutOf (t : Tile) (a : Word) : (t.touchSlot a).cutOf = t.cutOf := by
  unfold Tile.touchSlot; split
  · rfl
  · split
    · rfl
    · split <;> rfl
@[simp] theorem Tile.touchSlot_cutMarked (t : Tile) (a : Word) : (t.touchSlot a).cutMarked = t.cutMarked := by
  unfold Tile.touchSlot; split
  · rfl
  · split
    · rfl
    · split <;> rfl
@[simp] theorem Tile.touchSlot_ring (t : Tile) (a : Word) : (t.touchSlot a).ring = t.ring := by
  unfold Tile.touchSlot; split
  · rfl
  · split
    · rfl
    · split <;> rfl
@[simp] theorem Tile.touchSlot_outSeq (t : Tile) (a : Word) : (t.touchSlot a).outSeq = t.outSeq := by
  unfold Tile.touchSlot; split
  · rfl
  · split
    · rfl
    · split <;> rfl
@[simp] theorem Tile.touchSlot_swMiss (t : Tile) (a : Word) : (t.touchSlot a).swMiss = t.swMiss := by
  unfold Tile.touchSlot; split
  · rfl
  · split
    · rfl
    · split <;> rfl
@[simp] theorem Tile.touchSlot_fetchSw (t : Tile) (a : Word) : (t.touchSlot a).fetchSw = t.fetchSw := by
  unfold Tile.touchSlot; split
  · rfl
  · split
    · rfl
    · split <;> rfl
@[simp] theorem Tile.touchSlot_prefetch (t : Tile) (a : Word) : (t.touchSlot a).prefetch = t.prefetch := by
  unfold Tile.touchSlot; split
  · rfl
  · split
    · rfl
    · split <;> rfl
@[simp] theorem Tile.touchSlot_lastLine (t : Tile) (a : Word) : (t.touchSlot a).lastLine = t.lastLine := by
  unfold Tile.touchSlot; split
  · rfl
  · split
    · rfl
    · split <;> rfl
@[simp] theorem Tile.touchSlot_selPark (t : Tile) (a : Word) : (t.touchSlot a).selPark = t.selPark := by
  unfold Tile.touchSlot; split
  · rfl
  · split
    · rfl
    · split <;> rfl
@[simp] theorem Tile.touchSlot_rankCache (t : Tile) (a : Word) : (t.touchSlot a).rankCache = t.rankCache := by
  unfold Tile.touchSlot; split
  · rfl
  · split
    · rfl
    · split <;> rfl
@[simp] theorem Tile.touchSlot_ownerLines (t : Tile) (a : Word) : (t.touchSlot a).ownerLines = t.ownerLines := by
  unfold Tile.touchSlot; split
  · rfl
  · split
    · rfl
    · split <;> rfl
@[simp] theorem Tile.touchSlot_dirtyGroups (t : Tile) (a : Word) : (t.touchSlot a).dirtyGroups = t.dirtyGroups := by
  unfold Tile.touchSlot; split
  · rfl
  · split
    · rfl
    · split <;> rfl
@[simp] theorem Tile.touchSlot_dirtyGranules (t : Tile) (a : Word) : (t.touchSlot a).dirtyGranules = t.dirtyGranules := by
  unfold Tile.touchSlot; split
  · rfl
  · split
    · rfl
    · split <;> rfl
@[simp] theorem Tile.touchSlot_seq (t : Tile) (a : Word) : (t.touchSlot a).seq = t.seq := by
  unfold Tile.touchSlot; split
  · rfl
  · split
    · rfl
    · split <;> rfl
@[simp] theorem Tile.touchSlot_imageOf (t : Tile) (a : Word) : (t.touchSlot a).imageOf = t.imageOf := by
  unfold Tile.touchSlot; split
  · rfl
  · split
    · rfl
    · split <;> rfl
@[simp] theorem Tile.touchSlot_scope (t : Tile) (a : Word) : (t.touchSlot a).scope = t.scope := by
  unfold Tile.touchSlot; split
  · rfl
  · split
    · rfl
    · split <;> rfl
@[simp] theorem Tile.touchSlot_launch (t : Tile) (a : Word) : (t.touchSlot a).launch = t.launch := by
  unfold Tile.touchSlot; split
  · rfl
  · split
    · rfl
    · split <;> rfl
@[simp] theorem Tile.touchSlot_launchIdx (t : Tile) (a : Word) : (t.touchSlot a).launchIdx = t.launchIdx := by
  unfold Tile.touchSlot; split
  · rfl
  · split
    · rfl
    · split <;> rfl
@[simp] theorem Tile.touchSlot_cancelled (t : Tile) (a : Word) : (t.touchSlot a).cancelled = t.cancelled := by
  unfold Tile.touchSlot; split
  · rfl
  · split
    · rfl
    · split <;> rfl
@[simp] theorem Tile.touchSlot_follow (t : Tile) (a : Word) : (t.touchSlot a).follow = t.follow := by
  unfold Tile.touchSlot; split
  · rfl
  · split
    · rfl
    · split <;> rfl
@[simp] theorem Tile.touchSlot_openChunk (t : Tile) (a : Word) : (t.touchSlot a).openChunk = t.openChunk := by
  unfold Tile.touchSlot; split
  · rfl
  · split
    · rfl
    · split <;> rfl

end Sys2Proof.Machine
end

