-- ==== Sys2Proof/Laws/Memory.lean ====
section
/-! SUPPORT. Memory: every operation keeps the canonical form, and a read after a write gives what was written, or what was there. -/
namespace Sys2Proof.Machine

/- The canonical form -/

/-- A list that is canonical from an address up is canonical from any lower one. -/
theorem wfFrom_mono (m : List Host.Cell) {a b : Nat} (h : a ≤ b) (w : wfFrom b m = true) : wfFrom a m = true := by
  cases m with
  | nil => rfl
  | cons c r =>
    simp only [wfFrom, Bool.and_eq_true, decide_eq_true_eq] at w ⊢
    exact ⟨⟨Nat.le_trans h w.1.1, w.1.2⟩, w.2⟩

/-- Writing one byte keeps the canonical form. -/
theorem cellSet_wfFrom (m : List Host.Cell) (lo a : Nat) (b : Byte) (ha : lo ≤ a) (w : wfFrom lo m = true) :
    wfFrom lo (cellSet m a b) = true := by
  induction m generalizing lo with
  | nil =>
    unfold cellSet; split
    · rfl
    · simp [wfFrom, *]
  | cons c r ih =>
    obtain ⟨k, d⟩ := c
    simp only [wfFrom, Bool.and_eq_true, decide_eq_true_eq] at w
    obtain ⟨⟨hk, hd⟩, hr⟩ := w
    unfold cellSet
    split
    · split
      · simp [wfFrom, hk, hd, hr]
      · rename_i h1 h2
        simp only [wfFrom, Bool.and_eq_true, decide_eq_true_eq]
        exact ⟨⟨ha, h2⟩, ⟨⟨h1, hd⟩, hr⟩⟩
    · split
      · rename_i h1 h2
        subst h2
        split
        · exact wfFrom_mono r (by omega) hr
        · rename_i h3; simp [wfFrom, hk, h3, hr]
      · simp only [wfFrom, Bool.and_eq_true, decide_eq_true_eq]
        exact ⟨⟨hk, hd⟩, ih (k + 1) (by omega) hr⟩

/-- Removing cells keeps the canonical form. -/
theorem filter_wfFrom (p : Host.Cell → Bool) (m : List Host.Cell) (lo : Nat) (w : wfFrom lo m = true) :
    wfFrom lo (m.filter p) = true := by
  induction m generalizing lo with
  | nil => rfl
  | cons c r ih =>
    obtain ⟨k, d⟩ := c
    simp only [wfFrom, Bool.and_eq_true, decide_eq_true_eq] at w
    obtain ⟨⟨hk, hd⟩, hr⟩ := w
    rw [List.filter_cons]
    split
    · simp only [wfFrom, Bool.and_eq_true, decide_eq_true_eq]
      exact ⟨⟨hk, hd⟩, ih (k + 1) hr⟩
    · exact wfFrom_mono _ (by omega) (ih (k + 1) hr)

/-- A state whose memory is in canonical form. -/
abbrev MemOk (s : State) : Prop := Memory.wf s.mem = true

theorem cellSet_wf (m : List Host.Cell) (a : Nat) (b : Byte) (w : Memory.wf m = true) : Memory.wf (cellSet m a b) = true :=
  cellSet_wfFrom m 0 a b (Nat.zero_le a) w

theorem cellClear_wf (m : List Host.Cell) (lo hi : Nat) (w : Memory.wf m = true) : Memory.wf (cellClear m lo hi) = true :=
  filter_wfFrom _ m 0 w

theorem writeByte_memOk (s : State) (a : Nat) (b : Byte) (h : MemOk s) : MemOk (writeByte s a b) := cellSet_wf s.mem a b h

theorem writeBytes_memOk (l : List Byte) (s : State) (a : Nat) (h : MemOk s) : MemOk (writeBytes s a l) := by
  induction l generalizing s a with
  | nil => exact h
  | cons b r ih => exact ih _ _ (writeByte_memOk s a b h)

theorem writeNum_memOk (s : State) (a n v : Nat) (h : MemOk s) : MemOk (writeNum s a n v) := writeBytes_memOk _ s a h

theorem writeD_memOk (s : State) (a : Nat) (v : Word) (h : MemOk s) : MemOk (writeD s a v) := writeNum_memOk s a 8 _ h

theorem clearRange_memOk (s : State) (lo hi : Nat) (h : MemOk s) : MemOk (clearRange s lo hi) := cellClear_wf s.mem lo hi h

theorem havocRange_memOk (s : State) (lo hi : Nat) (h : MemOk s) : MemOk (havocRange s lo hi) := cellClear_wf s.mem lo hi h

theorem poisonLine_memOk (s : State) (a : Nat) (h : MemOk s) : MemOk (poisonLine s a) := h

theorem clearPoison_memOk (s : State) (a : Nat) (h : MemOk s) : MemOk (clearPoison s a) := h

/-- The memory after reset is in canonical form. -/
theorem reset_memOk : MemOk State.reset := rfl

/- Reading what was written -/

/-- In a canonical list that starts above an address, the address is not listed. -/
theorem cellAt_below (m : List Host.Cell) {lo a : Nat} (h : a < lo) (w : wfFrom lo m = true) : cellAt m a = unlisted := by
  cases m with
  | nil => rfl
  | cons c r =>
    obtain ⟨k, d⟩ := c
    simp only [wfFrom, Bool.and_eq_true, decide_eq_true_eq] at w
    unfold cellAt
    rw [if_neg (by omega), if_pos (by omega)]

/-- A byte reads back as it was written. -/
theorem cellAt_cellSet_same (m : List Host.Cell) (lo a : Nat) (b : Byte) (w : wfFrom lo m = true) : cellAt (cellSet m a b) a = b := by
  induction m generalizing lo with
  | nil =>
    unfold cellSet; split
    · rename_i h; rw [h]; rfl
    · simp [cellAt]
  | cons c r ih =>
    obtain ⟨k, d⟩ := c
    simp only [wfFrom, Bool.and_eq_true, decide_eq_true_eq] at w
    obtain ⟨⟨hk, hd⟩, hr⟩ := w
    unfold cellSet
    split
    · split
      · rename_i h1 h2; rw [h2]; unfold cellAt; rw [if_neg (by omega), if_pos h1]
      · simp [cellAt]
    · split
      · rename_i h1 h2
        subst h2
        split
        · rename_i h3; rw [h3]; exact cellAt_below r (Nat.lt_succ_self a) hr
        · simp [cellAt]
      · rename_i h1 h2
        unfold cellAt
        rw [if_neg (by omega), if_neg (by omega)]
        exact ih (k + 1) hr

/-- A write leaves every other byte alone. -/
theorem cellAt_cellSet_other (m : List Host.Cell) (lo a c : Nat) (b : Byte) (h : c ≠ a) (w : wfFrom lo m = true) :
    cellAt (cellSet m a b) c = cellAt m c := by
  induction m generalizing lo with
  | nil =>
    unfold cellSet; split
    · rfl
    · unfold cellAt
      rw [if_neg (by omega)]
      split <;> rfl
  | cons e r ih =>
    obtain ⟨k, d⟩ := e
    simp only [wfFrom, Bool.and_eq_true, decide_eq_true_eq] at w
    obtain ⟨⟨hk, hd⟩, hr⟩ := w
    unfold cellSet
    split
    · split
      · rfl
      · rename_i h1 h2
        conv => lhs; unfold cellAt
        rw [if_neg (by omega)]
        split
        · rename_i h3
          unfold cellAt
          rw [if_neg (by omega), if_pos (by omega)]
        · rfl
    · split
      · rename_i h1 h2
        subst h2
        split
        · rename_i h3
          conv => rhs; unfold cellAt
          rw [if_neg (by omega)]
          split
          · exact cellAt_below r (by omega) hr
          · rfl
        · have hac : ¬ a = c := fun e => h e.symm
          simp only [cellAt, if_neg hac]
      · unfold cellAt
        rw [ih (k + 1) hr]

/-- Taking a byte out of the undefined stretches makes it defined. -/
theorem undefAt_undefCut_same (l : List Undef) (a : Nat) : undefAt (undefCut l a) a = none := by
  induction l with
  | nil => rfl
  | cons u r ih =>
    unfold undefCut
    split
    · rename_i h
      split <;> split <;> simp [undefAt, ih] <;> omega
    · rename_i h
      unfold undefAt
      rw [if_neg h]; exact ih

/-- Taking a byte out of the undefined stretches leaves every other byte as it was. -/
theorem undefAt_undefCut_other (l : List Undef) (a c : Nat) (h : c ≠ a) : undefAt (undefCut l a) c = undefAt l c := by
  induction l with
  | nil => rfl
  | cons u r ih =>
    unfold undefCut
    split
    · rename_i hu
      conv => rhs; unfold undefAt
      by_cases hc : u.lo ≤ c ∧ c < u.hi
      · rw [if_pos hc]
        split <;> split <;> simp [undefAt, ih, hc] <;> omega
      · rw [if_neg hc]
        split <;> split <;> simp only [List.nil_append, List.cons_append, undefAt, ih]
        · rw [if_neg (by omega), if_neg (by omega)]
        · rw [if_neg (by omega)]
        · rw [if_neg (by omega)]
    · conv => lhs; unfold undefAt
      conv => rhs; unfold undefAt
      rw [ih]

/-- A byte reads back as it was written. -/
theorem readByte_writeByte_same (s : State) (a : Nat) (b : Byte) (h : MemOk s) : readByte (writeByte s a b) a = b := by
  unfold readByte
  rw [writeByte_undef, undefAt_undefCut_same]
  exact cellAt_cellSet_same s.mem 0 a b h

/-- A write leaves every other byte alone. -/
theorem readByte_writeByte_other (s : State) (a c : Nat) (b : Byte) (hc : c ≠ a) (h : MemOk s) :
    readByte (writeByte s a b) c = readByte s c := by
  unfold readByte
  rw [writeByte_undef, undefAt_undefCut_other _ _ _ hc, writeByte_mem, cellAt_cellSet_other s.mem 0 a c b hc h]

/-- Writing bytes leaves every byte outside them alone. -/
theorem readByte_writeBytes_other (l : List Byte) (s : State) (a c : Nat) (hc : c < a ∨ a + l.length ≤ c) (h : MemOk s) :
    readByte (writeBytes s a l) c = readByte s c := by
  induction l generalizing s a with
  | nil => rfl
  | cons b r ih =>
    rw [writeBytes, ih _ _ (by simp only [List.length_cons] at hc; omega) (writeByte_memOk s a b h)]
    exact readByte_writeByte_other s a c b (by simp only [List.length_cons] at hc; omega) h

/-- Bytes read back as they were written. -/
theorem readBytes_writeBytes (l : List Byte) (s : State) (a : Nat) (h : MemOk s) : readBytes (writeBytes s a l) a l.length = l := by
  induction l generalizing s a with
  | nil => rfl
  | cons b r ih =>
    rw [List.length_cons, readBytes, writeBytes, ih _ _ (writeByte_memOk s a b h),
      readByte_writeBytes_other r _ (a + 1) a (by omega) (writeByte_memOk s a b h), readByte_writeByte_same s a b h]

theorem bytesOf_length (n v : Nat) : (bytesOf n v).length = n := by
  induction n generalizing v with
  | zero => rfl
  | succ n ih => rw [bytesOf, List.length_cons, ih]

/-- The bytes of a number hold it (R3). -/
theorem numOf_bytesOf (n v : Nat) : numOf (bytesOf n v) = v % 256 ^ n := by
  induction n generalizing v with
  | zero => rw [Nat.pow_zero, Nat.mod_one]; rfl
  | succ n ih =>
    have e : (BitVec.ofNat 8 v).toNat = v % 256 := BitVec.toNat_ofNat v 8
    rw [bytesOf, numOf, ih, e, Nat.pow_succ', Nat.mod_mul]

/-- A number reads back as it was written. -/
theorem readNum_writeNum (s : State) (a n v : Nat) (h : MemOk s) : readNum (writeNum s a n v) a n = v % 256 ^ n := by
  unfold readNum writeNum
  have e := readBytes_writeBytes (bytesOf n v) s a h
  rw [bytesOf_length] at e
  rw [e, numOf_bytesOf]

/-- A doubleword reads back as it was written. -/
theorem readD_writeD (s : State) (a : Nat) (v : Word) (h : MemOk s) : readD (writeD s a v) a = v := by
  unfold readD writeD
  rw [readNum_writeNum s a 8 _ h]
  apply BitVec.eq_of_toNat_eq
  have := v.isLt
  rw [BitVec.toNat_ofNat]
  omega

/-- Writing a number leaves every byte outside it alone. -/
theorem readByte_writeNum_other (s : State) (a n v c : Nat) (hc : c < a ∨ a + n ≤ c) (h : MemOk s) :
    readByte (writeNum s a n v) c = readByte s c :=
  readByte_writeBytes_other _ s a c (by rw [bytesOf_length]; exact hc) h

end Sys2Proof.Machine
end

