-- ==== Sys2Proof/Laws/Cut.lean ====
section
/-! SUPPORT. Cuts that the supervisor makes (R170, R388): moving the scratch of a tile keeps memory in its canonical form, and starting a cut leaves
memory, the fields and the launches as they were. -/
namespace Sys2Proof.Machine

/-- A part of the state that each step of a fold keeps is kept by the fold. -/
theorem foldl_keeps {α β γ : Type} (f : α → β → α) (g : α → γ) (h : ∀ a b, g (f a b) = g a) (l : List β) (a : α) : g (l.foldl f a) = g a := by
  induction l generalizing a with
  | nil => rfl
  | cons b r ih => exact (ih (f a b)).trans (h a b)

/-- Cells that are set one after the other keep the canonical form. -/
theorem foldl_cellSet_wf (g : Nat → Nat) (l : List Host.Cell) (m : List Host.Cell) (w : Memory.wf m = true) :
    Memory.wf (l.foldl (fun m c => cellSet m (g c.1) c.2) m) = true := by
  induction l generalizing m with
  | nil => exact w
  | cons c r ih => exact ih _ (cellSet_wf m (g c.1) c.2 w)

theorem moveBytes_memOk (s : State) (src dst n : Nat) (h : MemOk s) : MemOk (moveBytes s src dst n) :=
  foldl_cellSet_wf (fun a => a - src + dst) _ _ (clearRange_memOk _ src (src + n) (clearRange_memOk s dst (dst + n) h))

/- Ranks in transit -/

theorem setRank_mem (s : State) (p r : Nat) (e : RankEntry) : (setRank s p r e).mem = s.mem :=
  (foldl_keeps _ State.mem (fun u t => by split <;> simp) _ _).trans (by simp)

theorem setRank_fields (s : State) (p r : Nat) (e : RankEntry) : (setRank s p r e).fields = s.fields :=
  (foldl_keeps _ State.fields (fun u t => by split <;> simp) _ _).trans (by simp)

theorem setRank_launches (s : State) (p r : Nat) (e : RankEntry) : (setRank s p r e).launches = s.launches :=
  (foldl_keeps _ State.launches (fun u t => by split <;> simp) _ _).trans (by simp)

@[simp] theorem transitRanks_mem (s : State) (c : Cut) (on : Bool) : (transitRanks s c on).mem = s.mem :=
  foldl_keeps _ State.mem (fun u r => setRank_mem u c.part r _) _ s

@[simp] theorem transitRanks_fields (s : State) (c : Cut) (on : Bool) : (transitRanks s c on).fields = s.fields :=
  foldl_keeps _ State.fields (fun u r => setRank_fields u c.part r _) _ s

@[simp] theorem transitRanks_launches (s : State) (c : Cut) (on : Bool) : (transitRanks s c on).launches = s.launches :=
  foldl_keeps _ State.launches (fun u r => setRank_launches u c.part r _) _ s

/- The start of a cut -/

@[simp] theorem beginCut_mem (s : State) (c : Cut) : (beginCut s c).mem = s.mem := by
  unfold beginCut
  split <;> simp [foldl_keeps _ State.mem]

@[simp] theorem beginCut_fields (s : State) (c : Cut) : (beginCut s c).fields = s.fields := by
  unfold beginCut
  split <;> simp [foldl_keeps _ State.fields]

@[simp] theorem beginCut_launches (s : State) (c : Cut) : (beginCut s c).launches = s.launches := by
  unfold beginCut
  split <;> simp [foldl_keeps _ State.launches]

@[simp] theorem startHeld_mem (s : State) (id b : Nat) (stay : Bool) : (startHeld s id b stay).mem = s.mem := by
  cases stay <;> simp [startHeld]

@[simp] theorem startHeld_fields (s : State) (id b : Nat) (stay : Bool) : (startHeld s id b stay).fields = s.fields := by
  cases stay <;> simp [startHeld]

@[simp] theorem startHeld_launches (s : State) (id b : Nat) (stay : Bool) : (startHeld s id b stay).launches = s.launches := by
  cases stay <;> simp [startHeld]

end Sys2Proof.Machine
end

