-- ==== Sys2Proof/Laws/Ops.lean ====
section
/-! SUPPORT. The shared operations of an instruction: how a computation of an instruction composes, what running it answers, and the cases of
a trap, a park, a wait and a hardware step. -/
namespace Sys2Proof.Machine

/- Composition -/

/-- A computation that goes on hands its value and state to the next. -/
theorem Exec.bind_ok {α β : Type} {x : Exec α} {k : α → Exec β} {s u : State} {a : α} (h : x s = .ok (a, u)) : (x >>= k) s = k a u := by
  show StateT.bind x k s = _
  unfold StateT.bind
  rw [h]; rfl

/-- A computation that stops ends the whole. -/
theorem Exec.bind_error {α β : Type} {x : Exec α} {k : α → Exec β} {s : State} {e : Stop} (h : x s = .error e) : (x >>= k) s = .error e := by
  show StateT.bind x k s = _
  unfold StateT.bind
  rw [h]; rfl

@[simp] theorem Exec.pure_apply {α : Type} (a : α) (s : State) : (pure a : Exec α) s = .ok (a, s) := rfl
@[simp] theorem look_apply {α : Type} (g : State → α) (s : State) : look g s = .ok (g s, s) := rfl
@[simp] theorem update_apply (g : State → State) (s : State) : update g s = .ok ((), g s) := rfl
@[simp] theorem updateTile_apply (g : Tile → Tile) (s : State) : updateTile g s = .ok ((), onTile s g) := rfl
@[simp] theorem stop_apply {α : Type} (x : Stop) (s : State) : (stop x : Exec α) s = .error x := rfl
@[simp] theorem trap_apply {α : Type} (i : TrapInfo) (s : State) : (trap i : Exec α) s = .error (.trap i) := rfl

theorem demand_true {b : Bool} (e : Exec Unit) (s : State) (h : b = true) : demand b e s = .ok ((), s) := by
  unfold demand; rw [h]; rfl

theorem demand_false {b : Bool} (e : Exec Unit) (s : State) (h : b = false) : demand b e s = e s := by
  unfold demand; rw [h]; rfl

theorem takeX_apply (c : BitVec 6) (s : State) :
    takeX c s = .ok ((s.tile.valueX c).1, onTile s (fun t => (popSrc t (.x c)).setFlags (s.tile.valueX c).2)) := rfl

theorem takeV_apply (c : BitVec 5) (s : State) :
    takeV c s = .ok ((s.tile.valueV c).1, onTile s (fun t => (popSrc t (.v c)).setFlags (s.tile.valueV c).2)) := rfl

theorem peekX_apply (c : BitVec 6) (s : State) : peekX c s = .ok ((s.tile.valueX c).1, s) := rfl

theorem giveX_apply (c : BitVec 6) (w : Word) (s : State) :
    giveX c w s = .ok ((), schedule (onTile s (fun t => t.giveX c w)) s.tile.id (giveSteps (.x c))) := rfl

theorem giveV_apply (c : BitVec 5) (w : BitVec 512) (s : State) :
    giveV c w s = .ok ((), schedule (onTile s (fun t => t.giveV c w)) s.tile.id (giveSteps (.v c))) := rfl

/- What running an instruction answers -/

/-- An instruction whose computation goes to its end completes. -/
theorem run_ok {len : Nat} {body : Exec Bool} {s u : State} {j : Bool} (h : body s = .ok (j, u)) :
    run len body s = .next { u with tile := u.tile.complete s.tile len j, time := s.time + 1 } := by
  unfold run; rw [h]

/-- An instruction whose computation stops has none of its effects. -/
theorem run_error {len : Nat} {body : Exec Bool} {s : State} {x : Stop} (h : body s = .error x) : run len body s = .next (stopStep s x) := by
  unfold run; rw [h]

/-- An instruction that sets no pc. -/
theorem run1_ok {body : Exec Unit} {s u : State} (h : body s = .ok ((), u)) :
    run1 body s = .next { u with tile := u.tile.complete s.tile 1 false, time := s.time + 1 } :=
  run_ok (Exec.bind_ok h)

theorem run1_error {body : Exec Unit} {s : State} {x : Stop} (h : body s = .error x) : run1 body s = .next (stopStep s x) :=
  run_error (Exec.bind_error h)

/-- Running an instruction always answers a next state. -/
theorem run_next (len : Nat) (body : Exec Bool) (s : State) : ∃ t, run len body s = .next t := by
  unfold run
  split
  · exact ⟨_, rfl⟩
  · exact ⟨_, rfl⟩

theorem run1_next (body : Exec Unit) (s : State) : ∃ t, run1 body s = .next t := run_next _ _ _

/-- A step of the hardware always answers a next state. -/
theorem event_next (g : State → State) (s : State) : ∃ t, event g s = .next t := ⟨_, rfl⟩

/-- Everything that running an instruction can do: it completes from the end of its computation, it traps, it waits, it parks, or it meets
an uncorrectable error. -/
theorem run_cases (len : Nat) (body : Exec Bool) (s : State) :
    (∃ j u, body s = .ok (j, u) ∧ run len body s = .next { u with tile := u.tile.complete s.tile len j, time := s.time + 1 }) ∨
    (∃ i, body s = .error (.trap i) ∧ run len body s = .next (takeTrap s i)) ∨
    (∃ c p e k, body s = .error (.wait c p e k) ∧ run len body s = .next (waitStep (k.getD s) c p e)) ∨
    (body s = .error .park ∧ run len body s = .next (parkStep s)) ∨
    (body s = .error .poison ∧ run len body s = .next (sealTile s s.tile.id)) := by
  unfold run
  cases h : body s with
  | ok r => exact .inl ⟨r.1, r.2, rfl, rfl⟩
  | error x =>
    cases x with
    | trap i => exact .inr (.inl ⟨i, rfl, rfl⟩)
    | wait c p e k => exact .inr (.inr (.inl ⟨c, p, e, k, rfl, rfl⟩))
    | park => exact .inr (.inr (.inr (.inl ⟨rfl, rfl⟩)))
    | poison => exact .inr (.inr (.inr (.inr ⟨rfl, rfl⟩)))

/- Operands -/

/-- Everything that the check of an instruction's bindings can do: change nothing, or raise ILLEGAL with class 4. -/
theorem checkBindings_cases (srcs dsts : List Opnd) (s : State) :
    (checkBindings srcs dsts s = .ok ((), s) ∧ srcs.any (s.tile.streamBad false) = false ∧ dsts.any (s.tile.streamBad true) = false) ∨
    (checkBindings srcs dsts s = .error (.trap { cause := .illegal, cls := 4 }) ∧
      (srcs.any (s.tile.streamBad false) = true ∨ dsts.any (s.tile.streamBad true) = true)) := by
  unfold checkBindings
  rw [Exec.bind_ok (look_apply _ s)]
  cases h1 : srcs.any (s.tile.streamBad false) <;> cases h2 : dsts.any (s.tile.streamBad true) <;> simp [demand] <;> rfl

/-- The checks of an instruction's operands change nothing. -/
theorem checkOperands_state {srcs dsts : List Opnd} {s u : State} (h : checkOperands srcs dsts s = .ok ((), u)) : u = s := by
  unfold checkOperands at h
  obtain ⟨h1, -⟩ | ⟨h1, -⟩ := checkBindings_cases srcs dsts s
  case inr => rw [Exec.bind_error h1] at h; exact absurd h (by simp)
  case inl =>
    rw [Exec.bind_ok h1, Exec.bind_ok (look_apply id s)] at h
    simp only [id_eq] at h
    cases h2 : (!((srcs ++ dsts).any s.tile.widthBad)) with
    | false => rw [Exec.bind_error (by rw [demand_false _ _ h2]; rfl)] at h; exact absurd h (by simp)
    | true =>
      rw [Exec.bind_ok (demand_true _ _ h2)] at h
      cases h3 : scanSrcs availSrc s.tile srcs with
      | some p => simp only [h3] at h; rw [Exec.bind_error (by rfl)] at h; exact absurd h (by simp)
      | none =>
        simp only [h3] at h
        cases h4 : scanSrcs (examineSrc s.tile) s.tile srcs with
        | some p => simp only [h4] at h; rw [Exec.bind_error (by rfl)] at h; exact absurd h (by simp)
        | none =>
          simp only [h4] at h
          cases h5 : dsts.findSome? (raiseDst s) with
          | some p => simp only [h5] at h; rw [Exec.bind_error (by rfl)] at h; exact absurd h (by simp)
          | none =>
            simp only [h5] at h
            cases h6 : dsts.findSome? (roomDst s.tile) with
            | some p => simp only [h6] at h; exact absurd h (by simp [waitPoint])
            | none => simp only [h6] at h; exact ((Prod.mk.inj (Except.ok.inj h)).2).symm

/- Traps and parks -/

/-- Everything that a park can find: results still outstanding, a poisoned result, or every result committed and the buffer empty. -/
theorem park_cases (t : Tile) :
    (t.park = .waiting ∧ t.longBuf.all (·.returned) = false) ∨
    (t.park = .poisoned ∧ t.longBuf.all (·.returned) = true) ∨
    (t.park = .done { t.longBuf.foldl Tile.commitEntry t with longBuf := [] } (failedOf t.longBuf) ∧ t.longBuf.all (·.returned) = true) := by
  unfold Tile.park
  cases h : t.longBuf.all (·.returned) with
  | false => exact .inl ⟨rfl, rfl⟩
  | true =>
    refine .inr ?_
    simp only [Bool.not_true]
    cases h2 : t.longBuf.any (fun e => e.res == .poison) with
    | true => exact .inl ⟨by simp, trivial⟩
    | false => exact .inr ⟨by simp, trivial⟩

/-- Everything that taking a trap can do: wait for the results outstanding with the trap kept, seal the tile at an uncorrectable error, or enter the trap after
the park, with the failed results kept for the replay. -/
theorem takeTrap_cases (s : State) (i : TrapInfo) :
    takeTrap s i = onTile (waitStep s .park false (returnSteps s.tile)) (fun t => { t with pendTrap := some i }) ∨ takeTrap s i = sealTile s s.tile.id ∨
    ∃ t fs, s.tile.park = .done t fs ∧
      takeTrap s i = enterTrap { s with tile := if fs = [] then t else t.keepReplay fs } i (if s.tile.longBuf.isEmpty then 8 else 12) := by
  unfold takeTrap
  cases h : s.tile.park with
  | waiting => exact .inl rfl
  | poisoned => exact .inr (.inl rfl)
  | done t fs => exact .inr (.inr ⟨t, fs, rfl, rfl⟩)

/-- A trap with nothing outstanding enters at once. -/
theorem takeTrap_empty (s : State) (i : TrapInfo) (h : s.tile.longBuf = []) : takeTrap s i = enterTrap s i 8 := by
  unfold takeTrap Tile.park
  rw [h]
  simp only [List.all_nil, List.any_nil, Bool.not_true, List.foldl_nil]
  show enterTrap { s with tile := { s.tile with longBuf := [] } } i 8 = _
  rw [← h]

/-- Entering a trap while none is served (R361). -/
theorem enterTrap_fresh (s : State) (i : TrapInfo) (c : Nat) (h : bitsOf s.tile.trapCause 3 0 = 0) :
    enterTrap s i c = { onTile s (fun t => { (t.enterTrap i).countCycle t.intr.isSome (some c) with
      selPark := false, pendTrap := none, dispute := none, fetchMiss := t.fetchMiss.filter (fun m => m.fault.isNone) }) with time := s.time + 1 } := by
  unfold enterTrap
  rw [if_neg (by rw [h]; exact fun e => e rfl)]

/-- A trap raised while another is served seals the tile (R361). -/
theorem enterTrap_served (s : State) (i : TrapInfo) (c : Nat) (h : bitsOf s.tile.trapCause 3 0 ≠ 0) : enterTrap s i c = sealTile s s.tile.id := by
  unfold enterTrap
  rw [if_pos h]

/-- A park with nothing outstanding counts its cycle and lets the thread go on. -/
theorem parkStep_empty (s : State) (h : s.tile.longBuf = []) :
    parkStep s = { s with tile := { s.tile.countCycle s.tile.intr.isSome (some 12) with wait := none, waitPoint := false }, time := s.time + 1 } := by
  unfold parkStep Tile.park
  rw [h]
  simp only [List.all_nil, List.any_nil, Bool.not_true, List.foldl_nil]
  show { s with tile := { ({ s.tile with longBuf := [] } : Tile).countCycle s.tile.intr.isSome (some 12) with wait := none, waitPoint := false },
                time := s.time + 1 } = _
  rw [← h]

/- Disputes over a result (R386) -/

@[simp] theorem Tile.disputed_none (t : Tile) (u l : Nat) (h : t.dispute = none) : t.disputed u l = none := by
  unfold Tile.disputed; rw [h]

/-- With no dispute a unit gives its own result. -/
theorem settle_none (u l : Nat) (w : Word) (s : State) (h : s.tile.dispute = none) : settle u l w s = .ok (w, s) := by
  unfold settle; rw [Tile.disputed_none s.tile u l h]; rfl

/-- With no dispute every element of a vector result is that of its lane. -/
theorem element_none (t : Tile) (i : Nat) (q : Nat × Flags) (h : t.dispute = none) : t.element i q = q := by
  unfold Tile.element; rw [Tile.disputed_none t 2 i h, Tile.disputed_none t 3 i h]; rfl

/- Accesses that wait at a network interface (R143, R369) -/

/-- Everything that a step which performs an access can do: take the access from the head of a ring, wait for its turn there, or perform it at once. -/
theorem takeTurnOr_cases (i : Instr) (g w : State → State) (s : State) :
    (∃ u, ownTurn s i = some u ∧ takeTurnOr i g w s = nextHeld
      (updTile (g (updTile s u (fun t => { t with ring := [] }))) u (fun t => { t with ring := (getTile s u).ring.drop 1 ++ t.ring })) u) ∨
    (ownTurn s i = none ∧ deferred s i = true ∧ takeTurnOr i g w s = w s) ∨
    (ownTurn s i = none ∧ deferred s i = false ∧ takeTurnOr i g w s = g s) := by
  unfold takeTurnOr
  cases h : ownTurn s i with
  | some u => exact .inl ⟨u, rfl, rfl⟩
  | none =>
    cases d : deferred s i with
    | true => exact .inr (.inl ⟨rfl, rfl, by simp⟩)
    | false => exact .inr (.inr ⟨rfl, rfl, by simp⟩)

end Sys2Proof.Machine
end

