-- ==== Sys2Proof/Laws/Operands.lean ====
section
/-! SUPPORT. Operands: what taking a source and giving a result leave in the other fields of a tile, and what an operand code that names a
register or a port does. -/
namespace Sys2Proof.Machine


/- taking -/

@[simp] theorem Tile.updStream_id (t : Tile) (r : Nat) (g : Binding → Binding) : (t.updStream r g).id = t.id := by unfold Tile.updStream; split <;> rfl
@[simp] theorem Tile.updStream_run (t : Tile) (r : Nat) (g : Binding → Binding) : (t.updStream r g).run = t.run := by unfold Tile.updStream; split <;> rfl
@[simp] theorem Tile.updStream_mode (t : Tile) (r : Nat) (g : Binding → Binding) : (t.updStream r g).mode = t.mode := by unfold Tile.updStream; split <;> rfl
@[simp] theorem Tile.updStream_pc (t : Tile) (r : Nat) (g : Binding → Binding) : (t.updStream r g).pc = t.pc := by unfold Tile.updStream; split <;> rfl
@[simp] theorem Tile.updStream_x (t : Tile) (r : Nat) (g : Binding → Binding) : (t.updStream r g).x = t.x := by unfold Tile.updStream; split <;> rfl
@[simp] theorem Tile.updStream_v (t : Tile) (r : Nat) (g : Binding → Binding) : (t.updStream r g).v = t.v := by unfold Tile.updStream; split <;> rfl
@[simp] theorem Tile.updStream_m (t : Tile) (r : Nat) (g : Binding → Binding) : (t.updStream r g).m = t.m := by unfold Tile.updStream; split <;> rfl
@[simp] theorem Tile.updStream_la (t : Tile) (r : Nat) (g : Binding → Binding) : (t.updStream r g).la = t.la := by unfold Tile.updStream; split <;> rfl
@[simp] theorem Tile.updStream_loops (t : Tile) (r : Nat) (g : Binding → Binding) : (t.updStream r g).loops = t.loops := by unfold Tile.updStream; split <;> rfl
@[simp] theorem Tile.updStream_intr (t : Tile) (r : Nat) (g : Binding → Binding) : (t.updStream r g).intr = t.intr := by unfold Tile.updStream; split <;> rfl
@[simp] theorem Tile.updStream_trapBank (t : Tile) (r : Nat) (g : Binding → Binding) : (t.updStream r g).trapBank = t.trapBank := by unfold Tile.updStream; split <;> rfl
@[simp] theorem Tile.updStream_wait (t : Tile) (r : Nat) (g : Binding → Binding) : (t.updStream r g).wait = t.wait := by unfold Tile.updStream; split <;> rfl
@[simp] theorem Tile.updStream_waitPoint (t : Tile) (r : Nat) (g : Binding → Binding) : (t.updStream r g).waitPoint = t.waitPoint := by unfold Tile.updStream; split <;> rfl
@[simp] theorem Tile.updStream_parkNext (t : Tile) (r : Nat) (g : Binding → Binding) : (t.updStream r g).parkNext = t.parkNext := by unfold Tile.updStream; split <;> rfl
@[simp] theorem Tile.updStream_waitOps (t : Tile) (r : Nat) (g : Binding → Binding) : (t.updStream r g).waitOps = t.waitOps := by unfold Tile.updStream; split <;> rfl
@[simp] theorem Tile.updStream_longBuf (t : Tile) (r : Nat) (g : Binding → Binding) : (t.updStream r g).longBuf = t.longBuf := by unfold Tile.updStream; split <;> rfl
@[simp] theorem Tile.updStream_replay (t : Tile) (r : Nat) (g : Binding → Binding) : (t.updStream r g).replay = t.replay := by unfold Tile.updStream; split <;> rfl
@[simp] theorem Tile.updStream_passed (t : Tile) (r : Nat) (g : Binding → Binding) : (t.updStream r g).passed = t.passed := by unfold Tile.updStream; split <;> rfl
@[simp] theorem Tile.updStream_coreStatus (t : Tile) (r : Nat) (g : Binding → Binding) : (t.updStream r g).coreStatus = t.coreStatus := by unfold Tile.updStream; split <;> rfl
@[simp] theorem Tile.updStream_xfaultVa (t : Tile) (r : Nat) (g : Binding → Binding) : (t.updStream r g).xfaultVa = t.xfaultVa := by unfold Tile.updStream; split <;> rfl
@[simp] theorem Tile.updStream_xfaultInfo (t : Tile) (r : Nat) (g : Binding → Binding) : (t.updStream r g).xfaultInfo = t.xfaultInfo := by unfold Tile.updStream; split <;> rfl
@[simp] theorem Tile.updStream_shadowImg (t : Tile) (r : Nat) (g : Binding → Binding) : (t.updStream r g).shadowImg = t.shadowImg := by unfold Tile.updStream; split <;> rfl
@[simp] theorem Tile.updStream_prefetchSw (t : Tile) (r : Nat) (g : Binding → Binding) : (t.updStream r g).prefetchSw = t.prefetchSw := by unfold Tile.updStream; split <;> rfl
@[simp] theorem Tile.updStream_pendTrap (t : Tile) (r : Nat) (g : Binding → Binding) : (t.updStream r g).pendTrap = t.pendTrap := by unfold Tile.updStream; split <;> rfl
@[simp] theorem Tile.updStream_dispute (t : Tile) (r : Nat) (g : Binding → Binding) : (t.updStream r g).dispute = t.dispute := by unfold Tile.updStream; split <;> rfl
@[simp] theorem Tile.updStream_reqSeq (t : Tile) (r : Nat) (g : Binding → Binding) : (t.updStream r g).reqSeq = t.reqSeq := by unfold Tile.updStream; split <;> rfl
@[simp] theorem Tile.updStream_classInfo (t : Tile) (r : Nat) (g : Binding → Binding) : (t.updStream r g).classInfo = t.classInfo := by unfold Tile.updStream; split <;> rfl
@[simp] theorem Tile.updStream_strayInfo (t : Tile) (r : Nat) (g : Binding → Binding) : (t.updStream r g).strayInfo = t.strayInfo := by unfold Tile.updStream; split <;> rfl
@[simp] theorem Tile.updStream_cwaitGen (t : Tile) (r : Nat) (g : Binding → Binding) : (t.updStream r g).cwaitGen = t.cwaitGen := by unfold Tile.updStream; split <;> rfl
@[simp] theorem Tile.updStream_trapCause (t : Tile) (r : Nat) (g : Binding → Binding) : (t.updStream r g).trapCause = t.trapCause := by unfold Tile.updStream; split <;> rfl
@[simp] theorem Tile.updStream_trapPc (t : Tile) (r : Nat) (g : Binding → Binding) : (t.updStream r g).trapPc = t.trapPc := by unfold Tile.updStream; split <;> rfl
@[simp] theorem Tile.updStream_trapVec (t : Tile) (r : Nat) (g : Binding → Binding) : (t.updStream r g).trapVec = t.trapVec := by unfold Tile.updStream; split <;> rfl
@[simp] theorem Tile.updStream_replayPc (t : Tile) (r : Nat) (g : Binding → Binding) : (t.updStream r g).replayPc = t.replayPc := by unfold Tile.updStream; split <;> rfl
@[simp] theorem Tile.updStream_residueInfo (t : Tile) (r : Nat) (g : Binding → Binding) : (t.updStream r g).residueInfo = t.residueInfo := by unfold Tile.updStream; split <;> rfl
@[simp] theorem Tile.updStream_topoInfo (t : Tile) (r : Nat) (g : Binding → Binding) : (t.updStream r g).topoInfo = t.topoInfo := by unfold Tile.updStream; split <;> rfl
@[simp] theorem Tile.updStream_passPc (t : Tile) (r : Nat) (g : Binding → Binding) : (t.updStream r g).passPc = t.passPc := by unfold Tile.updStream; split <;> rfl
@[simp] theorem Tile.updStream_tileSplit (t : Tile) (r : Nat) (g : Binding → Binding) : (t.updStream r g).tileSplit = t.tileSplit := by unfold Tile.updStream; split <;> rfl
@[simp] theorem Tile.updStream_cfgTag (t : Tile) (r : Nat) (g : Binding → Binding) : (t.updStream r g).cfgTag = t.cfgTag := by unfold Tile.updStream; split <;> rfl
@[simp] theorem Tile.updStream_bankSucc (t : Tile) (r : Nat) (g : Binding → Binding) : (t.updStream r g).bankSucc = t.bankSucc := by unfold Tile.updStream; split <;> rfl
@[simp] theorem Tile.updStream_bankToken (t : Tile) (r : Nat) (g : Binding → Binding) : (t.updStream r g).bankToken = t.bankToken := by unfold Tile.updStream; split <;> rfl
@[simp] theorem Tile.updStream_fetchCtl (t : Tile) (r : Nat) (g : Binding → Binding) : (t.updStream r g).fetchCtl = t.fetchCtl := by unfold Tile.updStream; split <;> rfl
@[simp] theorem Tile.updStream_counters (t : Tile) (r : Nat) (g : Binding → Binding) : (t.updStream r g).counters = t.counters := by unfold Tile.updStream; split <;> rfl
@[simp] theorem Tile.updStream_inboxInfo (t : Tile) (r : Nat) (g : Binding → Binding) : (t.updStream r g).inboxInfo = t.inboxInfo := by unfold Tile.updStream; split <;> rfl
@[simp] theorem Tile.updStream_tokenCfg (t : Tile) (r : Nat) (g : Binding → Binding) : (t.updStream r g).tokenCfg = t.tokenCfg := by unfold Tile.updStream; split <;> rfl
@[simp] theorem Tile.updStream_qrecCtl (t : Tile) (r : Nat) (g : Binding → Binding) : (t.updStream r g).qrecCtl = t.qrecCtl := by unfold Tile.updStream; split <;> rfl
@[simp] theorem Tile.updStream_qlock (t : Tile) (r : Nat) (g : Binding → Binding) : (t.updStream r g).qlock = t.qlock := by unfold Tile.updStream; split <;> rfl
@[simp] theorem Tile.updStream_optSend (t : Tile) (r : Nat) (g : Binding → Binding) : (t.updStream r g).optSend = t.optSend := by unfold Tile.updStream; split <;> rfl
@[simp] theorem Tile.updStream_fmt (t : Tile) (r : Nat) (g : Binding → Binding) : (t.updStream r g).fmt = t.fmt := by unfold Tile.updStream; split <;> rfl
@[simp] theorem Tile.updStream_scale (t : Tile) (r : Nat) (g : Binding → Binding) : (t.updStream r g).scale = t.scale := by unfold Tile.updStream; split <;> rfl
@[simp] theorem Tile.updStream_htPc (t : Tile) (r : Nat) (g : Binding → Binding) : (t.updStream r g).htPc = t.htPc := by unfold Tile.updStream; split <;> rfl
@[simp] theorem Tile.updStream_htCtl (t : Tile) (r : Nat) (g : Binding → Binding) : (t.updStream r g).htCtl = t.htCtl := by unfold Tile.updStream; split <;> rfl
@[simp] theorem Tile.updStream_touch (t : Tile) (r : Nat) (g : Binding → Binding) : (t.updStream r g).touch = t.touch := by unfold Tile.updStream; split <;> rfl
@[simp] theorem Tile.updStream_touchFull (t : Tile) (r : Nat) (g : Binding → Binding) : (t.updStream r g).touchFull = t.touchFull := by unfold Tile.updStream; split <;> rfl
@[simp] theorem Tile.updStream_corrCnt (t : Tile) (r : Nat) (g : Binding → Binding) : (t.updStream r g).corrCnt = t.corrCnt := by unfold Tile.updStream; split <;> rfl
@[simp] theorem Tile.updStream_discardCnt (t : Tile) (r : Nat) (g : Binding → Binding) : (t.updStream r g).discardCnt = t.discardCnt := by unfold Tile.updStream; split <;> rfl
@[simp] theorem Tile.updStream_inbox (t : Tile) (r : Nat) (g : Binding → Binding) : (t.updStream r g).inbox = t.inbox := by unfold Tile.updStream; split <;> rfl
@[simp] theorem Tile.updStream_report (t : Tile) (r : Nat) (g : Binding → Binding) : (t.updStream r g).report = t.report := by unfold Tile.updStream; split <;> rfl
@[simp] theorem Tile.updStream_sendQ (t : Tile) (r : Nat) (g : Binding → Binding) : (t.updStream r g).sendQ = t.sendQ := by unfold Tile.updStream; split <;> rfl
@[simp] theorem Tile.updStream_barRec (t : Tile) (r : Nat) (g : Binding → Binding) : (t.updStream r g).barRec = t.barRec := by unfold Tile.updStream; split <;> rfl
@[simp] theorem Tile.updStream_coreIn (t : Tile) (r : Nat) (g : Binding → Binding) : (t.updStream r g).coreIn = t.coreIn := by unfold Tile.updStream; split <;> rfl
@[simp] theorem Tile.updStream_coreOut (t : Tile) (r : Nat) (g : Binding → Binding) : (t.updStream r g).coreOut = t.coreOut := by unfold Tile.updStream; split <;> rfl
@[simp] theorem Tile.updStream_swIn (t : Tile) (r : Nat) (g : Binding → Binding) : (t.updStream r g).swIn = t.swIn := by unfold Tile.updStream; split <;> rfl
@[simp] theorem Tile.updStream_weirs (t : Tile) (r : Nat) (g : Binding → Binding) : (t.updStream r g).weirs = t.weirs := by unfold Tile.updStream; split <;> rfl
@[simp] theorem Tile.updStream_bq (t : Tile) (r : Nat) (g : Binding → Binding) : (t.updStream r g).bq = t.bq := by unfold Tile.updStream; split <;> rfl
@[simp] theorem Tile.updStream_emq (t : Tile) (r : Nat) (g : Binding → Binding) : (t.updStream r g).emq = t.emq := by unfold Tile.updStream; split <;> rfl
@[simp] theorem Tile.updStream_sw (t : Tile) (r : Nat) (g : Binding → Binding) : (t.updStream r g).sw = t.sw := by unfold Tile.updStream; split <;> rfl
@[simp] theorem Tile.updStream_copies (t : Tile) (r : Nat) (g : Binding → Binding) : (t.updStream r g).copies = t.copies := by unfold Tile.updStream; split <;> rfl
@[simp] theorem Tile.updStream_sub (t : Tile) (r : Nat) (g : Binding → Binding) : (t.updStream r g).sub = t.sub := by unfold Tile.updStream; split <;> rfl
@[simp] theorem Tile.updStream_ports (t : Tile) (r : Nat) (g : Binding → Binding) : (t.updStream r g).ports = t.ports := by unfold Tile.updStream; split <;> rfl
@[simp] theorem Tile.updStream_chan (t : Tile) (r : Nat) (g : Binding → Binding) : (t.updStream r g).chan = t.chan := by unfold Tile.updStream; split <;> rfl
@[simp] theorem Tile.updStream_shadow (t : Tile) (r : Nat) (g : Binding → Binding) : (t.updStream r g).shadow = t.shadow := by unfold Tile.updStream; split <;> rfl
@[simp] theorem Tile.updStream_activeImg (t : Tile) (r : Nat) (g : Binding → Binding) : (t.updStream r g).activeImg = t.activeImg := by unfold Tile.updStream; split <;> rfl
@[simp] theorem Tile.updStream_carried (t : Tile) (r : Nat) (g : Binding → Binding) : (t.updStream r g).carried = t.carried := by unfold Tile.updStream; split <;> rfl
@[simp] theorem Tile.updStream_dcache (t : Tile) (r : Nat) (g : Binding → Binding) : (t.updStream r g).dcache = t.dcache := by unfold Tile.updStream; split <;> rfl
@[simp] theorem Tile.updStream_tlb (t : Tile) (r : Nat) (g : Binding → Binding) : (t.updStream r g).tlb = t.tlb := by unfold Tile.updStream; split <;> rfl
@[simp] theorem Tile.updStream_icache (t : Tile) (r : Nat) (g : Binding → Binding) : (t.updStream r g).icache = t.icache := by unfold Tile.updStream; split <;> rfl
@[simp] theorem Tile.updStream_fetchMiss (t : Tile) (r : Nat) (g : Binding → Binding) : (t.updStream r g).fetchMiss = t.fetchMiss := by unfold Tile.updStream; split <;> rfl
@[simp] theorem Tile.updStream_ipref (t : Tile) (r : Nat) (g : Binding → Binding) : (t.updStream r g).ipref = t.ipref := by unfold Tile.updStream; split <;> rfl
@[simp] theorem Tile.updStream_cutFlags (t : Tile) (r : Nat) (g : Binding → Binding) : (t.updStream r g).cutFlags = t.cutFlags := by unfold Tile.updStream; split <;> rfl
@[simp] theorem Tile.updStream_cutOf (t : Tile) (r : Nat) (g : Binding → Binding) : (t.updStream r g).cutOf = t.cutOf := by unfold Tile.updStream; split <;> rfl
@[simp] theorem Tile.updStream_cutMarked (t : Tile) (r : Nat) (g : Binding → Binding) : (t.updStream r g).cutMarked = t.cutMarked := by unfold Tile.updStream; split <;> rfl
@[simp] theorem Tile.updStream_ring (t : Tile) (r : Nat) (g : Binding → Binding) : (t.updStream r g).ring = t.ring := by unfold Tile.updStream; split <;> rfl
@[simp] theorem Tile.updStream_outSeq (t : Tile) (r : Nat) (g : Binding → Binding) : (t.updStream r g).outSeq = t.outSeq := by unfold Tile.updStream; split <;> rfl
@[simp] theorem Tile.updStream_swMiss (t : Tile) (r : Nat) (g : Binding → Binding) : (t.updStream r g).swMiss = t.swMiss := by unfold Tile.updStream; split <;> rfl
@[simp] theorem Tile.updStream_fetchSw (t : Tile) (r : Nat) (g : Binding → Binding) : (t.updStream r g).fetchSw = t.fetchSw := by unfold Tile.updStream; split <;> rfl
@[simp] theorem Tile.updStream_prefetch (t : Tile) (r : Nat) (g : Binding → Binding) : (t.updStream r g).prefetch = t.prefetch := by unfold Tile.updStream; split <;> rfl
@[simp] theorem Tile.updStream_lastLine (t : Tile) (r : Nat) (g : Binding → Binding) : (t.updStream r g).lastLine = t.lastLine := by unfold Tile.updStream; split <;> rfl
@[simp] theorem Tile.updStream_selPark (t : Tile) (r : Nat) (g : Binding → Binding) : (t.updStream r g).selPark = t.selPark := by unfold Tile.updStream; split <;> rfl
@[simp] theorem Tile.updStream_rankCache (t : Tile) (r : Nat) (g : Binding → Binding) : (t.updStream r g).rankCache = t.rankCache := by unfold Tile.updStream; split <;> rfl
@[simp] theorem Tile.updStream_ownerLines (t : Tile) (r : Nat) (g : Binding → Binding) : (t.updStream r g).ownerLines = t.ownerLines := by unfold Tile.updStream; split <;> rfl
@[simp] theorem Tile.updStream_dirtyGroups (t : Tile) (r : Nat) (g : Binding → Binding) : (t.updStream r g).dirtyGroups = t.dirtyGroups := by unfold Tile.updStream; split <;> rfl
@[simp] theorem Tile.updStream_dirtyGranules (t : Tile) (r : Nat) (g : Binding → Binding) : (t.updStream r g).dirtyGranules = t.dirtyGranules := by unfold Tile.updStream; split <;> rfl
@[simp] theorem Tile.updStream_seq (t : Tile) (r : Nat) (g : Binding → Binding) : (t.updStream r g).seq = t.seq := by unfold Tile.updStream; split <;> rfl
@[simp] theorem Tile.updStream_imageOf (t : Tile) (r : Nat) (g : Binding → Binding) : (t.updStream r g).imageOf = t.imageOf := by unfold Tile.updStream; split <;> rfl
@[simp] theorem Tile.updStream_scope (t : Tile) (r : Nat) (g : Binding → Binding) : (t.updStream r g).scope = t.scope := by unfold Tile.updStream; split <;> rfl
@[simp] theorem Tile.updStream_launch (t : Tile) (r : Nat) (g : Binding → Binding) : (t.updStream r g).launch = t.launch := by unfold Tile.updStream; split <;> rfl
@[simp] theorem Tile.updStream_launchIdx (t : Tile) (r : Nat) (g : Binding → Binding) : (t.updStream r g).launchIdx = t.launchIdx := by unfold Tile.updStream; split <;> rfl
@[simp] theorem Tile.updStream_cancelled (t : Tile) (r : Nat) (g : Binding → Binding) : (t.updStream r g).cancelled = t.cancelled := by unfold Tile.updStream; split <;> rfl
@[simp] theorem Tile.updStream_follow (t : Tile) (r : Nat) (g : Binding → Binding) : (t.updStream r g).follow = t.follow := by unfold Tile.updStream; split <;> rfl
@[simp] theorem Tile.updStream_openChunk (t : Tile) (r : Nat) (g : Binding → Binding) : (t.updStream r g).openChunk = t.openChunk := by unfold Tile.updStream; split <;> rfl
@[simp] theorem Tile.popDi_id (t : Tile) : t.popDi.id = t.id := by
  unfold Tile.popDi; split
  · rfl
  · split
    · dsimp only; split <;> rfl
    · dsimp only; split <;> split <;> rfl
@[simp] theorem Tile.popDi_run (t : Tile) : t.popDi.run = t.run := by
  unfold Tile.popDi; split
  · rfl
  · split
    · dsimp only; split <;> rfl
    · dsimp only; split <;> split <;> rfl
@[simp] theorem Tile.popDi_mode (t : Tile) : t.popDi.mode = t.mode := by
  unfold Tile.popDi; split
  · rfl
  · split
    · dsimp only; split <;> rfl
    · dsimp only; split <;> split <;> rfl
@[simp] theorem Tile.popDi_pc (t : Tile) : t.popDi.pc = t.pc := by
  unfold Tile.popDi; split
  · rfl
  · split
    · dsimp only; split <;> rfl
    · dsimp only; split <;> split <;> rfl
@[simp] theorem Tile.popDi_x (t : Tile) : t.popDi.x = t.x := by
  unfold Tile.popDi; split
  · rfl
  · split
    · dsimp only; split <;> rfl
    · dsimp only; split <;> split <;> rfl
@[simp] theorem Tile.popDi_v (t : Tile) : t.popDi.v = t.v := by
  unfold Tile.popDi; split
  · rfl
  · split
    · dsimp only; split <;> rfl
    · dsimp only; split <;> split <;> rfl
@[simp] theorem Tile.popDi_m (t : Tile) : t.popDi.m = t.m := by
  unfold Tile.popDi; split
  · rfl
  · split
    · dsimp only; split <;> rfl
    · dsimp only; split <;> split <;> rfl
@[simp] theorem Tile.popDi_la (t : Tile) : t.popDi.la = t.la := by
  unfold Tile.popDi; split
  · rfl
  · split
    · dsimp only; split <;> rfl
    · dsimp only; split <;> split <;> rfl
@[simp] theorem Tile.popDi_loops (t : Tile) : t.popDi.loops = t.loops := by
  unfold Tile.popDi; split
  · rfl
  · split
    · dsimp only; split <;> rfl
    · dsimp only; split <;> split <;> rfl
@[simp] theorem Tile.popDi_trapBank (t : Tile) : t.popDi.trapBank = t.trapBank := by
  unfold Tile.popDi; split
  · rfl
  · split
    · dsimp only; split <;> rfl
    · dsimp only; split <;> split <;> rfl
@[simp] theorem Tile.popDi_wait (t : Tile) : t.popDi.wait = t.wait := by
  unfold Tile.popDi; split
  · rfl
  · split
    · dsimp only; split <;> rfl
    · dsimp only; split <;> split <;> rfl
@[simp] theorem Tile.popDi_waitPoint (t : Tile) : t.popDi.waitPoint = t.waitPoint := by
  unfold Tile.popDi; split
  · rfl
  · split
    · dsimp only; split <;> rfl
    · dsimp only; split <;> split <;> rfl
@[simp] theorem Tile.popDi_parkNext (t : Tile) : t.popDi.parkNext = t.parkNext := by
  unfold Tile.popDi; split
  · rfl
  · split
    · dsimp only; split <;> rfl
    · dsimp only; split <;> split <;> rfl
@[simp] theorem Tile.popDi_waitOps (t : Tile) : t.popDi.waitOps = t.waitOps := by
  unfold Tile.popDi; split
  · rfl
  · split
    · dsimp only; split <;> rfl
    · dsimp only; split <;> split <;> rfl
@[simp] theorem Tile.popDi_longBuf (t : Tile) : t.popDi.longBuf = t.longBuf := by
  unfold Tile.popDi; split
  · rfl
  · split
    · dsimp only; split <;> rfl
    · dsimp only; split <;> split <;> rfl
@[simp] theorem Tile.popDi_replay (t : Tile) : t.popDi.replay = t.replay := by
  unfold Tile.popDi; split
  · rfl
  · split
    · dsimp only; split <;> rfl
    · dsimp only; split <;> split <;> rfl
@[simp] theorem Tile.popDi_passed (t : Tile) : t.popDi.passed = t.passed := by
  unfold Tile.popDi; split
  · rfl
  · split
    · dsimp only; split <;> rfl
    · dsimp only; split <;> split <;> rfl
@[simp] theorem Tile.popDi_coreStatus (t : Tile) : t.popDi.coreStatus = t.coreStatus := by
  unfold Tile.popDi; split
  · rfl
  · split
    · dsimp only; split <;> rfl
    · dsimp only; split <;> split <;> rfl
@[simp] theorem Tile.popDi_xfaultVa (t : Tile) : t.popDi.xfaultVa = t.xfaultVa := by
  unfold Tile.popDi; split
  · rfl
  · split
    · dsimp only; split <;> rfl
    · dsimp only; split <;> split <;> rfl
@[simp] theorem Tile.popDi_xfaultInfo (t : Tile) : t.popDi.xfaultInfo = t.xfaultInfo := by
  unfold Tile.popDi; split
  · rfl
  · split
    · dsimp only; split <;> rfl
    · dsimp only; split <;> split <;> rfl
@[simp] theorem Tile.popDi_shadowImg (t : Tile) : t.popDi.shadowImg = t.shadowImg := by
  unfold Tile.popDi; split
  · rfl
  · split
    · dsimp only; split <;> rfl
    · dsimp only; split <;> split <;> rfl
@[simp] theorem Tile.popDi_prefetchSw (t : Tile) : t.popDi.prefetchSw = t.prefetchSw := by
  unfold Tile.popDi; split
  · rfl
  · split
    · dsimp only; split <;> rfl
    · dsimp only; split <;> split <;> rfl
@[simp] theorem Tile.popDi_pendTrap (t : Tile) : t.popDi.pendTrap = t.pendTrap := by
  unfold Tile.popDi; split
  · rfl
  · split
    · dsimp only; split <;> rfl
    · dsimp only; split <;> split <;> rfl
@[simp] theorem Tile.popDi_dispute (t : Tile) : t.popDi.dispute = t.dispute := by
  unfold Tile.popDi; split
  · rfl
  · split
    · dsimp only; split <;> rfl
    · dsimp only; split <;> split <;> rfl
@[simp] theorem Tile.popDi_reqSeq (t : Tile) : t.popDi.reqSeq = t.reqSeq := by
  unfold Tile.popDi; split
  · rfl
  · split
    · dsimp only; split <;> rfl
    · dsimp only; split <;> split <;> rfl
@[simp] theorem Tile.popDi_classInfo (t : Tile) : t.popDi.classInfo = t.classInfo := by
  unfold Tile.popDi; split
  · rfl
  · split
    · dsimp only; split <;> rfl
    · dsimp only; split <;> split <;> rfl
@[simp] theorem Tile.popDi_strayInfo (t : Tile) : t.popDi.strayInfo = t.strayInfo := by
  unfold Tile.popDi; split
  · rfl
  · split
    · dsimp only; split <;> rfl
    · dsimp only; split <;> split <;> rfl
@[simp] theorem Tile.popDi_cwaitGen (t : Tile) : t.popDi.cwaitGen = t.cwaitGen := by
  unfold Tile.popDi; split
  · rfl
  · split
    · dsimp only; split <;> rfl
    · dsimp only; split <;> split <;> rfl
@[simp] theorem Tile.popDi_trapCause (t : Tile) : t.popDi.trapCause = t.trapCause := by
  unfold Tile.popDi; split
  · rfl
  · split
    · dsimp only; split <;> rfl
    · dsimp only; split <;> split <;> rfl
@[simp] theorem Tile.popDi_trapPc (t : Tile) : t.popDi.trapPc = t.trapPc := by
  unfold Tile.popDi; split
  · rfl
  · split
    · dsimp only; split <;> rfl
    · dsimp only; split <;> split <;> rfl
@[simp] theorem Tile.popDi_trapVec (t : Tile) : t.popDi.trapVec = t.trapVec := by
  unfold Tile.popDi; split
  · rfl
  · split
    · dsimp only; split <;> rfl
    · dsimp only; split <;> split <;> rfl
@[simp] theorem Tile.popDi_replayPc (t : Tile) : t.popDi.replayPc = t.replayPc := by
  unfold Tile.popDi; split
  · rfl
  · split
    · dsimp only; split <;> rfl
    · dsimp only; split <;> split <;> rfl
@[simp] theorem Tile.popDi_residueInfo (t : Tile) : t.popDi.residueInfo = t.residueInfo := by
  unfold Tile.popDi; split
  · rfl
  · split
    · dsimp only; split <;> rfl
    · dsimp only; split <;> split <;> rfl
@[simp] theorem Tile.popDi_topoInfo (t : Tile) : t.popDi.topoInfo = t.topoInfo := by
  unfold Tile.popDi; split
  · rfl
  · split
    · dsimp only; split <;> rfl
    · dsimp only; split <;> split <;> rfl
@[simp] theorem Tile.popDi_passPc (t : Tile) : t.popDi.passPc = t.passPc := by
  unfold Tile.popDi; split
  · rfl
  · split
    · dsimp only; split <;> rfl
    · dsimp only; split <;> split <;> rfl
@[simp] theorem Tile.popDi_tileSplit (t : Tile) : t.popDi.tileSplit = t.tileSplit := by
  unfold Tile.popDi; split
  · rfl
  · split
    · dsimp only; split <;> rfl
    · dsimp only; split <;> split <;> rfl
@[simp] theorem Tile.popDi_cfgTag (t : Tile) : t.popDi.cfgTag = t.cfgTag := by
  unfold Tile.popDi; split
  · rfl
  · split
    · dsimp only; split <;> rfl
    · dsimp only; split <;> split <;> rfl
@[simp] theorem Tile.popDi_bankSucc (t : Tile) : t.popDi.bankSucc = t.bankSucc := by
  unfold Tile.popDi; split
  · rfl
  · split
    · dsimp only; split <;> rfl
    · dsimp only; split <;> split <;> rfl
@[simp] theorem Tile.popDi_bankToken (t : Tile) : t.popDi.bankToken = t.bankToken := by
  unfold Tile.popDi; split
  · rfl
  · split
    · dsimp only; split <;> rfl
    · dsimp only; split <;> split <;> rfl
@[simp] theorem Tile.popDi_fetchCtl (t : Tile) : t.popDi.fetchCtl = t.fetchCtl := by
  unfold Tile.popDi; split
  · rfl
  · split
    · dsimp only; split <;> rfl
    · dsimp only; split <;> split <;> rfl
@[simp] theorem Tile.popDi_counters (t : Tile) : t.popDi.counters = t.counters := by
  unfold Tile.popDi; split
  · rfl
  · split
    · dsimp only; split <;> rfl
    · dsimp only; split <;> split <;> rfl
@[simp] theorem Tile.popDi_tokenCfg (t : Tile) : t.popDi.tokenCfg = t.tokenCfg := by
  unfold Tile.popDi; split
  · rfl
  · split
    · dsimp only; split <;> rfl
    · dsimp only; split <;> split <;> rfl
@[simp] theorem Tile.popDi_qrecCtl (t : Tile) : t.popDi.qrecCtl = t.qrecCtl := by
  unfold Tile.popDi; split
  · rfl
  · split
    · dsimp only; split <;> rfl
    · dsimp only; split <;> split <;> rfl
@[simp] theorem Tile.popDi_qlock (t : Tile) : t.popDi.qlock = t.qlock := by
  unfold Tile.popDi; split
  · rfl
  · split
    · dsimp only; split <;> rfl
    · dsimp only; split <;> split <;> rfl
@[simp] theorem Tile.popDi_optSend (t : Tile) : t.popDi.optSend = t.optSend := by
  unfold Tile.popDi; split
  · rfl
  · split
    · dsimp only; split <;> rfl
    · dsimp only; split <;> split <;> rfl
@[simp] theorem Tile.popDi_fmt (t : Tile) : t.popDi.fmt = t.fmt := by
  unfold Tile.popDi; split
  · rfl
  · split
    · dsimp only; split <;> rfl
    · dsimp only; split <;> split <;> rfl
@[simp] theorem Tile.popDi_scale (t : Tile) : t.popDi.scale = t.scale := by
  unfold Tile.popDi; split
  · rfl
  · split
    · dsimp only; split <;> rfl
    · dsimp only; split <;> split <;> rfl
@[simp] theorem Tile.popDi_htPc (t : Tile) : t.popDi.htPc = t.htPc := by
  unfold Tile.popDi; split
  · rfl
  · split
    · dsimp only; split <;> rfl
    · dsimp only; split <;> split <;> rfl
@[simp] theorem Tile.popDi_htCtl (t : Tile) : t.popDi.htCtl = t.htCtl := by
  unfold Tile.popDi; split
  · rfl
  · split
    · dsimp only; split <;> rfl
    · dsimp only; split <;> split <;> rfl
@[simp] theorem Tile.popDi_touch (t : Tile) : t.popDi.touch = t.touch := by
  unfold Tile.popDi; split
  · rfl
  · split
    · dsimp only; split <;> rfl
    · dsimp only; split <;> split <;> rfl
@[simp] theorem Tile.popDi_touchFull (t : Tile) : t.popDi.touchFull = t.touchFull := by
  unfold Tile.popDi; split
  · rfl
  · split
    · dsimp only; split <;> rfl
    · dsimp only; split <;> split <;> rfl
@[simp] theorem Tile.popDi_corrCnt (t : Tile) : t.popDi.corrCnt = t.corrCnt := by
  unfold Tile.popDi; split
  · rfl
  · split
    · dsimp only; split <;> rfl
    · dsimp only; split <;> split <;> rfl
@[simp] theorem Tile.popDi_discardCnt (t : Tile) : t.popDi.discardCnt = t.discardCnt := by
  unfold Tile.popDi; split
  · rfl
  · split
    · dsimp only; split <;> rfl
    · dsimp only; split <;> split <;> rfl
@[simp] theorem Tile.popDi_report (t : Tile) : t.popDi.report = t.report := by
  unfold Tile.popDi; split
  · rfl
  · split
    · dsimp only; split <;> rfl
    · dsimp only; split <;> split <;> rfl
@[simp] theorem Tile.popDi_sendQ (t : Tile) : t.popDi.sendQ = t.sendQ := by
  unfold Tile.popDi; split
  · rfl
  · split
    · dsimp only; split <;> rfl
    · dsimp only; split <;> split <;> rfl
@[simp] theorem Tile.popDi_barRec (t : Tile) : t.popDi.barRec = t.barRec := by
  unfold Tile.popDi; split
  · rfl
  · split
    · dsimp only; split <;> rfl
    · dsimp only; split <;> split <;> rfl
@[simp] theorem Tile.popDi_coreIn (t : Tile) : t.popDi.coreIn = t.coreIn := by
  unfold Tile.popDi; split
  · rfl
  · split
    · dsimp only; split <;> rfl
    · dsimp only; split <;> split <;> rfl
@[simp] theorem Tile.popDi_coreOut (t : Tile) : t.popDi.coreOut = t.coreOut := by
  unfold Tile.popDi; split
  · rfl
  · split
    · dsimp only; split <;> rfl
    · dsimp only; split <;> split <;> rfl
@[simp] theorem Tile.popDi_swIn (t : Tile) : t.popDi.swIn = t.swIn := by
  unfold Tile.popDi; split
  · rfl
  · split
    · dsimp only; split <;> rfl
    · dsimp only; split <;> split <;> rfl
@[simp] theorem Tile.popDi_weirs (t : Tile) : t.popDi.weirs = t.weirs := by
  unfold Tile.popDi; split
  · rfl
  · split
    · dsimp only; split <;> rfl
    · dsimp only; split <;> split <;> rfl
@[simp] theorem Tile.popDi_bq (t : Tile) : t.popDi.bq = t.bq := by
  unfold Tile.popDi; split
  · rfl
  · split
    · dsimp only; split <;> rfl
    · dsimp only; split <;> split <;> rfl
@[simp] theorem Tile.popDi_emq (t : Tile) : t.popDi.emq = t.emq := by
  unfold Tile.popDi; split
  · rfl
  · split
    · dsimp only; split <;> rfl
    · dsimp only; split <;> split <;> rfl
@[simp] theorem Tile.popDi_sw (t : Tile) : t.popDi.sw = t.sw := by
  unfold Tile.popDi; split
  · rfl
  · split
    · dsimp only; split <;> rfl
    · dsimp only; split <;> split <;> rfl
@[simp] theorem Tile.popDi_streams (t : Tile) : t.popDi.streams = t.streams := by
  unfold Tile.popDi; split
  · rfl
  · split
    · dsimp only; split <;> rfl
    · dsimp only; split <;> split <;> rfl
@[simp] theorem Tile.popDi_copies (t : Tile) : t.popDi.copies = t.copies := by
  unfold Tile.popDi; split
  · rfl
  · split
    · dsimp only; split <;> rfl
    · dsimp only; split <;> split <;> rfl
@[simp] theorem Tile.popDi_sub (t : Tile) : t.popDi.sub = t.sub := by
  unfold Tile.popDi; split
  · rfl
  · split
    · dsimp only; split <;> rfl
    · dsimp only; split <;> split <;> rfl
@[simp] theorem Tile.popDi_ports (t : Tile) : t.popDi.ports = t.ports := by
  unfold Tile.popDi; split
  · rfl
  · split
    · dsimp only; split <;> rfl
    · dsimp only; split <;> split <;> rfl
@[simp] theorem Tile.popDi_chan (t : Tile) : t.popDi.chan = t.chan := by
  unfold Tile.popDi; split
  · rfl
  · split
    · dsimp only; split <;> rfl
    · dsimp only; split <;> split <;> rfl
@[simp] theorem Tile.popDi_shadow (t : Tile) : t.popDi.shadow = t.shadow := by
  unfold Tile.popDi; split
  · rfl
  · split
    · dsimp only; split <;> rfl
    · dsimp only; split <;> split <;> rfl
@[simp] theorem Tile.popDi_activeImg (t : Tile) : t.popDi.activeImg = t.activeImg := by
  unfold Tile.popDi; split
  · rfl
  · split
    · dsimp only; split <;> rfl
    · dsimp only; split <;> split <;> rfl
@[simp] theorem Tile.popDi_carried (t : Tile) : t.popDi.carried = t.carried := by
  unfold Tile.popDi; split
  · rfl
  · split
    · dsimp only; split <;> rfl
    · dsimp only; split <;> split <;> rfl
@[simp] theorem Tile.popDi_dcache (t : Tile) : t.popDi.dcache = t.dcache := by
  unfold Tile.popDi; split
  · rfl
  · split
    · dsimp only; split <;> rfl
    · dsimp only; split <;> split <;> rfl
@[simp] theorem Tile.popDi_tlb (t : Tile) : t.popDi.tlb = t.tlb := by
  unfold Tile.popDi; split
  · rfl
  · split
    · dsimp only; split <;> rfl
    · dsimp only; split <;> split <;> rfl
@[simp] theorem Tile.popDi_icache (t : Tile) : t.popDi.icache = t.icache := by
  unfold Tile.popDi; split
  · rfl
  · split
    · dsimp only; split <;> rfl
    · dsimp only; split <;> split <;> rfl
@[simp] theorem Tile.popDi_fetchMiss (t : Tile) : t.popDi.fetchMiss = t.fetchMiss := by
  unfold Tile.popDi; split
  · rfl
  · split
    · dsimp only; split <;> rfl
    · dsimp only; split <;> split <;> rfl
@[simp] theorem Tile.popDi_ipref (t : Tile) : t.popDi.ipref = t.ipref := by
  unfold Tile.popDi; split
  · rfl
  · split
    · dsimp only; split <;> rfl
    · dsimp only; split <;> split <;> rfl
@[simp] theorem Tile.popDi_cutFlags (t : Tile) : t.popDi.cutFlags = t.cutFlags := by
  unfold Tile.popDi; split
  · rfl
  · split
    · dsimp only; split <;> rfl
    · dsimp only; split <;> split <;> rfl
@[simp] theorem Tile.popDi_cutOf (t : Tile) : t.popDi.cutOf = t.cutOf := by
  unfold Tile.popDi; split
  · rfl
  · split
    · dsimp only; split <;> rfl
    · dsimp only; split <;> split <;> rfl
@[simp] theorem Tile.popDi_cutMarked (t : Tile) : t.popDi.cutMarked = t.cutMarked := by
  unfold Tile.popDi; split
  · rfl
  · split
    · dsimp only; split <;> rfl
    · dsimp only; split <;> split <;> rfl
@[simp] theorem Tile.popDi_ring (t : Tile) : t.popDi.ring = t.ring := by
  unfold Tile.popDi; split
  · rfl
  · split
    · dsimp only; split <;> rfl
    · dsimp only; split <;> split <;> rfl
@[simp] theorem Tile.popDi_outSeq (t : Tile) : t.popDi.outSeq = t.outSeq := by
  unfold Tile.popDi; split
  · rfl
  · split
    · dsimp only; split <;> rfl
    · dsimp only; split <;> split <;> rfl
@[simp] theorem Tile.popDi_swMiss (t : Tile) : t.popDi.swMiss = t.swMiss := by
  unfold Tile.popDi; split
  · rfl
  · split
    · dsimp only; split <;> rfl
    · dsimp only; split <;> split <;> rfl
@[simp] theorem Tile.popDi_fetchSw (t : Tile) : t.popDi.fetchSw = t.fetchSw := by
  unfold Tile.popDi; split
  · rfl
  · split
    · dsimp only; split <;> rfl
    · dsimp only; split <;> split <;> rfl
@[simp] theorem Tile.popDi_prefetch (t : Tile) : t.popDi.prefetch = t.prefetch := by
  unfold Tile.popDi; split
  · rfl
  · split
    · dsimp only; split <;> rfl
    · dsimp only; split <;> split <;> rfl
@[simp] theorem Tile.popDi_lastLine (t : Tile) : t.popDi.lastLine = t.lastLine := by
  unfold Tile.popDi; split
  · rfl
  · split
    · dsimp only; split <;> rfl
    · dsimp only; split <;> split <;> rfl
@[simp] theorem Tile.popDi_selPark (t : Tile) : t.popDi.selPark = t.selPark := by
  unfold Tile.popDi; split
  · rfl
  · split
    · dsimp only; split <;> rfl
    · dsimp only; split <;> split <;> rfl
@[simp] theorem Tile.popDi_rankCache (t : Tile) : t.popDi.rankCache = t.rankCache := by
  unfold Tile.popDi; split
  · rfl
  · split
    · dsimp only; split <;> rfl
    · dsimp only; split <;> split <;> rfl
@[simp] theorem Tile.popDi_ownerLines (t : Tile) : t.popDi.ownerLines = t.ownerLines := by
  unfold Tile.popDi; split
  · rfl
  · split
    · dsimp only; split <;> rfl
    · dsimp only; split <;> split <;> rfl
@[simp] theorem Tile.popDi_dirtyGroups (t : Tile) : t.popDi.dirtyGroups = t.dirtyGroups := by
  unfold Tile.popDi; split
  · rfl
  · split
    · dsimp only; split <;> rfl
    · dsimp only; split <;> split <;> rfl
@[simp] theorem Tile.popDi_dirtyGranules (t : Tile) : t.popDi.dirtyGranules = t.dirtyGranules := by
  unfold Tile.popDi; split
  · rfl
  · split
    · dsimp only; split <;> rfl
    · dsimp only; split <;> split <;> rfl
@[simp] theorem Tile.popDi_seq (t : Tile) : t.popDi.seq = t.seq := by
  unfold Tile.popDi; split
  · rfl
  · split
    · dsimp only; split <;> rfl
    · dsimp only; split <;> split <;> rfl
@[simp] theorem Tile.popDi_imageOf (t : Tile) : t.popDi.imageOf = t.imageOf := by
  unfold Tile.popDi; split
  · rfl
  · split
    · dsimp only; split <;> rfl
    · dsimp only; split <;> split <;> rfl
@[simp] theorem Tile.popDi_scope (t : Tile) : t.popDi.scope = t.scope := by
  unfold Tile.popDi; split
  · rfl
  · split
    · dsimp only; split <;> rfl
    · dsimp only; split <;> split <;> rfl
@[simp] theorem Tile.popDi_launch (t : Tile) : t.popDi.launch = t.launch := by
  unfold Tile.popDi; split
  · rfl
  · split
    · dsimp only; split <;> rfl
    · dsimp only; split <;> split <;> rfl
@[simp] theorem Tile.popDi_launchIdx (t : Tile) : t.popDi.launchIdx = t.launchIdx := by
  unfold Tile.popDi; split
  · rfl
  · split
    · dsimp only; split <;> rfl
    · dsimp only; split <;> split <;> rfl
@[simp] theorem Tile.popDi_cancelled (t : Tile) : t.popDi.cancelled = t.cancelled := by
  unfold Tile.popDi; split
  · rfl
  · split
    · dsimp only; split <;> rfl
    · dsimp only; split <;> split <;> rfl
@[simp] theorem Tile.popDi_follow (t : Tile) : t.popDi.follow = t.follow := by
  unfold Tile.popDi; split
  · rfl
  · split
    · dsimp only; split <;> rfl
    · dsimp only; split <;> split <;> rfl
@[simp] theorem Tile.popDi_openChunk (t : Tile) : t.popDi.openChunk = t.openChunk := by
  unfold Tile.popDi; split
  · rfl
  · split
    · dsimp only; split <;> rfl
    · dsimp only; split <;> split <;> rfl
@[simp] theorem popSrc_id (t : Tile) (o : Opnd) : (popSrc t o).id = t.id := by
  unfold popSrc; split <;> first | rfl | simp
@[simp] theorem popSrc_run (t : Tile) (o : Opnd) : (popSrc t o).run = t.run := by
  unfold popSrc; split <;> first | rfl | simp
@[simp] theorem popSrc_mode (t : Tile) (o : Opnd) : (popSrc t o).mode = t.mode := by
  unfold popSrc; split <;> first | rfl | simp
@[simp] theorem popSrc_pc (t : Tile) (o : Opnd) : (popSrc t o).pc = t.pc := by
  unfold popSrc; split <;> first | rfl | simp
@[simp] theorem popSrc_x (t : Tile) (o : Opnd) : (popSrc t o).x = t.x := by
  unfold popSrc; split <;> first | rfl | simp
@[simp] theorem popSrc_v (t : Tile) (o : Opnd) : (popSrc t o).v = t.v := by
  unfold popSrc; split <;> first | rfl | simp
@[simp] theorem popSrc_m (t : Tile) (o : Opnd) : (popSrc t o).m = t.m := by
  unfold popSrc; split <;> first | rfl | simp
@[simp] theorem popSrc_la (t : Tile) (o : Opnd) : (popSrc t o).la = t.la := by
  unfold popSrc; split <;> first | rfl | simp
@[simp] theorem popSrc_loops (t : Tile) (o : Opnd) : (popSrc t o).loops = t.loops := by
  unfold popSrc; split <;> first | rfl | simp
@[simp] theorem popSrc_trapBank (t : Tile) (o : Opnd) : (popSrc t o).trapBank = t.trapBank := by
  unfold popSrc; split <;> first | rfl | simp
@[simp] theorem popSrc_wait (t : Tile) (o : Opnd) : (popSrc t o).wait = t.wait := by
  unfold popSrc; split <;> first | rfl | simp
@[simp] theorem popSrc_waitPoint (t : Tile) (o : Opnd) : (popSrc t o).waitPoint = t.waitPoint := by
  unfold popSrc; split <;> first | rfl | simp
@[simp] theorem popSrc_parkNext (t : Tile) (o : Opnd) : (popSrc t o).parkNext = t.parkNext := by
  unfold popSrc; split <;> first | rfl | simp
@[simp] theorem popSrc_waitOps (t : Tile) (o : Opnd) : (popSrc t o).waitOps = t.waitOps := by
  unfold popSrc; split <;> first | rfl | simp
@[simp] theorem popSrc_longBuf (t : Tile) (o : Opnd) : (popSrc t o).longBuf = t.longBuf := by
  unfold popSrc; split <;> first | rfl | simp
@[simp] theorem popSrc_replay (t : Tile) (o : Opnd) : (popSrc t o).replay = t.replay := by
  unfold popSrc; split <;> first | rfl | simp
@[simp] theorem popSrc_passed (t : Tile) (o : Opnd) : (popSrc t o).passed = t.passed := by
  unfold popSrc; split <;> first | rfl | simp
@[simp] theorem popSrc_coreStatus (t : Tile) (o : Opnd) : (popSrc t o).coreStatus = t.coreStatus := by
  unfold popSrc; split <;> first | rfl | simp
@[simp] theorem popSrc_xfaultVa (t : Tile) (o : Opnd) : (popSrc t o).xfaultVa = t.xfaultVa := by
  unfold popSrc; split <;> first | rfl | simp
@[simp] theorem popSrc_xfaultInfo (t : Tile) (o : Opnd) : (popSrc t o).xfaultInfo = t.xfaultInfo := by
  unfold popSrc; split <;> first | rfl | simp
@[simp] theorem popSrc_shadowImg (t : Tile) (o : Opnd) : (popSrc t o).shadowImg = t.shadowImg := by
  unfold popSrc; split <;> first | rfl | simp
@[simp] theorem popSrc_prefetchSw (t : Tile) (o : Opnd) : (popSrc t o).prefetchSw = t.prefetchSw := by
  unfold popSrc; split <;> first | rfl | simp
@[simp] theorem popSrc_pendTrap (t : Tile) (o : Opnd) : (popSrc t o).pendTrap = t.pendTrap := by
  unfold popSrc; split <;> first | rfl | simp
@[simp] theorem popSrc_dispute (t : Tile) (o : Opnd) : (popSrc t o).dispute = t.dispute := by
  unfold popSrc; split <;> first | rfl | simp
@[simp] theorem popSrc_reqSeq (t : Tile) (o : Opnd) : (popSrc t o).reqSeq = t.reqSeq := by
  unfold popSrc; split <;> first | rfl | simp
@[simp] theorem popSrc_classInfo (t : Tile) (o : Opnd) : (popSrc t o).classInfo = t.classInfo := by
  unfold popSrc; split <;> first | rfl | simp
@[simp] theorem popSrc_strayInfo (t : Tile) (o : Opnd) : (popSrc t o).strayInfo = t.strayInfo := by
  unfold popSrc; split <;> first | rfl | simp
@[simp] theorem popSrc_cwaitGen (t : Tile) (o : Opnd) : (popSrc t o).cwaitGen = t.cwaitGen := by
  unfold popSrc; split <;> first | rfl | simp
@[simp] theorem popSrc_trapCause (t : Tile) (o : Opnd) : (popSrc t o).trapCause = t.trapCause := by
  unfold popSrc; split <;> first | rfl | simp
@[simp] theorem popSrc_trapPc (t : Tile) (o : Opnd) : (popSrc t o).trapPc = t.trapPc := by
  unfold popSrc; split <;> first | rfl | simp
@[simp] theorem popSrc_trapVec (t : Tile) (o : Opnd) : (popSrc t o).trapVec = t.trapVec := by
  unfold popSrc; split <;> first | rfl | simp
@[simp] theorem popSrc_replayPc (t : Tile) (o : Opnd) : (popSrc t o).replayPc = t.replayPc := by
  unfold popSrc; split <;> first | rfl | simp
@[simp] theorem popSrc_residueInfo (t : Tile) (o : Opnd) : (popSrc t o).residueInfo = t.residueInfo := by
  unfold popSrc; split <;> first | rfl | simp
@[simp] theorem popSrc_topoInfo (t : Tile) (o : Opnd) : (popSrc t o).topoInfo = t.topoInfo := by
  unfold popSrc; split <;> first | rfl | simp
@[simp] theorem popSrc_passPc (t : Tile) (o : Opnd) : (popSrc t o).passPc = t.passPc := by
  unfold popSrc; split <;> first | rfl | simp
@[simp] theorem popSrc_tileSplit (t : Tile) (o : Opnd) : (popSrc t o).tileSplit = t.tileSplit := by
  unfold popSrc; split <;> first | rfl | simp
@[simp] theorem popSrc_cfgTag (t : Tile) (o : Opnd) : (popSrc t o).cfgTag = t.cfgTag := by
  unfold popSrc; split <;> first | rfl | simp
@[simp] theorem popSrc_bankSucc (t : Tile) (o : Opnd) : (popSrc t o).bankSucc = t.bankSucc := by
  unfold popSrc; split <;> first | rfl | simp
@[simp] theorem popSrc_bankToken (t : Tile) (o : Opnd) : (popSrc t o).bankToken = t.bankToken := by
  unfold popSrc; split <;> first | rfl | simp
@[simp] theorem popSrc_fetchCtl (t : Tile) (o : Opnd) : (popSrc t o).fetchCtl = t.fetchCtl := by
  unfold popSrc; split <;> first | rfl | simp
@[simp] theorem popSrc_counters (t : Tile) (o : Opnd) : (popSrc t o).counters = t.counters := by
  unfold popSrc; split <;> first | rfl | simp
@[simp] theorem popSrc_tokenCfg (t : Tile) (o : Opnd) : (popSrc t o).tokenCfg = t.tokenCfg := by
  unfold popSrc; split <;> first | rfl | simp
@[simp] theorem popSrc_qrecCtl (t : Tile) (o : Opnd) : (popSrc t o).qrecCtl = t.qrecCtl := by
  unfold popSrc; split <;> first | rfl | simp
@[simp] theorem popSrc_qlock (t : Tile) (o : Opnd) : (popSrc t o).qlock = t.qlock := by
  unfold popSrc; split <;> first | rfl | simp
@[simp] theorem popSrc_optSend (t : Tile) (o : Opnd) : (popSrc t o).optSend = t.optSend := by
  unfold popSrc; split <;> first | rfl | simp
@[simp] theorem popSrc_fmt (t : Tile) (o : Opnd) : (popSrc t o).fmt = t.fmt := by
  unfold popSrc; split <;> first | rfl | simp
@[simp] theorem popSrc_scale (t : Tile) (o : Opnd) : (popSrc t o).scale = t.scale := by
  unfold popSrc; split <;> first | rfl | simp
@[simp] theorem popSrc_htPc (t : Tile) (o : Opnd) : (popSrc t o).htPc = t.htPc := by
  unfold popSrc; split <;> first | rfl | simp
@[simp] theorem popSrc_htCtl (t : Tile) (o : Opnd) : (popSrc t o).htCtl = t.htCtl := by
  unfold popSrc; split <;> first | rfl | simp
@[simp] theorem popSrc_touch (t : Tile) (o : Opnd) : (popSrc t o).touch = t.touch := by
  unfold popSrc; split <;> first | rfl | simp
@[simp] theorem popSrc_touchFull (t : Tile) (o : Opnd) : (popSrc t o).touchFull = t.touchFull := by
  unfold popSrc; split <;> first | rfl | simp
@[simp] theorem popSrc_corrCnt (t : Tile) (o : Opnd) : (popSrc t o).corrCnt = t.corrCnt := by
  unfold popSrc; split <;> first | rfl | simp
@[simp] theorem popSrc_discardCnt (t : Tile) (o : Opnd) : (popSrc t o).discardCnt = t.discardCnt := by
  unfold popSrc; split <;> first | rfl | simp
@[simp] theorem popSrc_report (t : Tile) (o : Opnd) : (popSrc t o).report = t.report := by
  unfold popSrc; split <;> first | rfl | simp
@[simp] theorem popSrc_sendQ (t : Tile) (o : Opnd) : (popSrc t o).sendQ = t.sendQ := by
  unfold popSrc; split <;> first | rfl | simp
@[simp] theorem popSrc_barRec (t : Tile) (o : Opnd) : (popSrc t o).barRec = t.barRec := by
  unfold popSrc; split <;> first | rfl | simp
@[simp] theorem popSrc_coreOut (t : Tile) (o : Opnd) : (popSrc t o).coreOut = t.coreOut := by
  unfold popSrc; split <;> first | rfl | simp
@[simp] theorem popSrc_swIn (t : Tile) (o : Opnd) : (popSrc t o).swIn = t.swIn := by
  unfold popSrc; split <;> first | rfl | simp
@[simp] theorem popSrc_weirs (t : Tile) (o : Opnd) : (popSrc t o).weirs = t.weirs := by
  unfold popSrc; split <;> first | rfl | simp
@[simp] theorem popSrc_bq (t : Tile) (o : Opnd) : (popSrc t o).bq = t.bq := by
  unfold popSrc; split <;> first | rfl | simp
@[simp] theorem popSrc_sw (t : Tile) (o : Opnd) : (popSrc t o).sw = t.sw := by
  unfold popSrc; split <;> first | rfl | simp
@[simp] theorem popSrc_copies (t : Tile) (o : Opnd) : (popSrc t o).copies = t.copies := by
  unfold popSrc; split <;> first | rfl | simp
@[simp] theorem popSrc_sub (t : Tile) (o : Opnd) : (popSrc t o).sub = t.sub := by
  unfold popSrc; split <;> first | rfl | simp
@[simp] theorem popSrc_ports (t : Tile) (o : Opnd) : (popSrc t o).ports = t.ports := by
  unfold popSrc; split <;> first | rfl | simp
@[simp] theorem popSrc_chan (t : Tile) (o : Opnd) : (popSrc t o).chan = t.chan := by
  unfold popSrc; split <;> first | rfl | simp
@[simp] theorem popSrc_shadow (t : Tile) (o : Opnd) : (popSrc t o).shadow = t.shadow := by
  unfold popSrc; split <;> first | rfl | simp
@[simp] theorem popSrc_activeImg (t : Tile) (o : Opnd) : (popSrc t o).activeImg = t.activeImg := by
  unfold popSrc; split <;> first | rfl | simp
@[simp] theorem popSrc_carried (t : Tile) (o : Opnd) : (popSrc t o).carried = t.carried := by
  unfold popSrc; split <;> first | rfl | simp
@[simp] theorem popSrc_dcache (t : Tile) (o : Opnd) : (popSrc t o).dcache = t.dcache := by
  unfold popSrc; split <;> first | rfl | simp
@[simp] theorem popSrc_tlb (t : Tile) (o : Opnd) : (popSrc t o).tlb = t.tlb := by
  unfold popSrc; split <;> first | rfl | simp
@[simp] theorem popSrc_icache (t : Tile) (o : Opnd) : (popSrc t o).icache = t.icache := by
  unfold popSrc; split <;> first | rfl | simp
@[simp] theorem popSrc_fetchMiss (t : Tile) (o : Opnd) : (popSrc t o).fetchMiss = t.fetchMiss := by
  unfold popSrc; split <;> first | rfl | simp
@[simp] theorem popSrc_ipref (t : Tile) (o : Opnd) : (popSrc t o).ipref = t.ipref := by
  unfold popSrc; split <;> first | rfl | simp
@[simp] theorem popSrc_cutFlags (t : Tile) (o : Opnd) : (popSrc t o).cutFlags = t.cutFlags := by
  unfold popSrc; split <;> first | rfl | simp
@[simp] theorem popSrc_cutOf (t : Tile) (o : Opnd) : (popSrc t o).cutOf = t.cutOf := by
  unfold popSrc; split <;> first | rfl | simp
@[simp] theorem popSrc_cutMarked (t : Tile) (o : Opnd) : (popSrc t o).cutMarked = t.cutMarked := by
  unfold popSrc; split <;> first | rfl | simp
@[simp] theorem popSrc_ring (t : Tile) (o : Opnd) : (popSrc t o).ring = t.ring := by
  unfold popSrc; split <;> first | rfl | simp
@[simp] theorem popSrc_outSeq (t : Tile) (o : Opnd) : (popSrc t o).outSeq = t.outSeq := by
  unfold popSrc; split <;> first | rfl | simp
@[simp] theorem popSrc_swMiss (t : Tile) (o : Opnd) : (popSrc t o).swMiss = t.swMiss := by
  unfold popSrc; split <;> first | rfl | simp
@[simp] theorem popSrc_fetchSw (t : Tile) (o : Opnd) : (popSrc t o).fetchSw = t.fetchSw := by
  unfold popSrc; split <;> first | rfl | simp
@[simp] theorem popSrc_prefetch (t : Tile) (o : Opnd) : (popSrc t o).prefetch = t.prefetch := by
  unfold popSrc; split <;> first | rfl | simp
@[simp] theorem popSrc_lastLine (t : Tile) (o : Opnd) : (popSrc t o).lastLine = t.lastLine := by
  unfold popSrc; split <;> first | rfl | simp
@[simp] theorem popSrc_selPark (t : Tile) (o : Opnd) : (popSrc t o).selPark = t.selPark := by
  unfold popSrc; split <;> first | rfl | simp
@[simp] theorem popSrc_rankCache (t : Tile) (o : Opnd) : (popSrc t o).rankCache = t.rankCache := by
  unfold popSrc; split <;> first | rfl | simp
@[simp] theorem popSrc_ownerLines (t : Tile) (o : Opnd) : (popSrc t o).ownerLines = t.ownerLines := by
  unfold popSrc; split <;> first | rfl | simp
@[simp] theorem popSrc_dirtyGroups (t : Tile) (o : Opnd) : (popSrc t o).dirtyGroups = t.dirtyGroups := by
  unfold popSrc; split <;> first | rfl | simp
@[simp] theorem popSrc_dirtyGranules (t : Tile) (o : Opnd) : (popSrc t o).dirtyGranules = t.dirtyGranules := by
  unfold popSrc; split <;> first | rfl | simp
@[simp] theorem popSrc_seq (t : Tile) (o : Opnd) : (popSrc t o).seq = t.seq := by
  unfold popSrc; split <;> first | rfl | simp
@[simp] theorem popSrc_imageOf (t : Tile) (o : Opnd) : (popSrc t o).imageOf = t.imageOf := by
  unfold popSrc; split <;> first | rfl | simp
@[simp] theorem popSrc_scope (t : Tile) (o : Opnd) : (popSrc t o).scope = t.scope := by
  unfold popSrc; split <;> first | rfl | simp
@[simp] theorem popSrc_launch (t : Tile) (o : Opnd) : (popSrc t o).launch = t.launch := by
  unfold popSrc; split <;> first | rfl | simp
@[simp] theorem popSrc_launchIdx (t : Tile) (o : Opnd) : (popSrc t o).launchIdx = t.launchIdx := by
  unfold popSrc; split <;> first | rfl | simp
@[simp] theorem popSrc_cancelled (t : Tile) (o : Opnd) : (popSrc t o).cancelled = t.cancelled := by
  unfold popSrc; split <;> first | rfl | simp
@[simp] theorem popSrc_follow (t : Tile) (o : Opnd) : (popSrc t o).follow = t.follow := by
  unfold popSrc; split <;> first | rfl | simp
@[simp] theorem popSrc_openChunk (t : Tile) (o : Opnd) : (popSrc t o).openChunk = t.openChunk := by
  unfold popSrc; split <;> first | rfl | simp

/- giving -/

@[simp] theorem Tile.refetch_id (t : Tile) (p : Binding → Bool) : (t.refetch p).id = t.id := rfl
@[simp] theorem Tile.refetch_run (t : Tile) (p : Binding → Bool) : (t.refetch p).run = t.run := rfl
@[simp] theorem Tile.refetch_mode (t : Tile) (p : Binding → Bool) : (t.refetch p).mode = t.mode := rfl
@[simp] theorem Tile.refetch_pc (t : Tile) (p : Binding → Bool) : (t.refetch p).pc = t.pc := rfl
@[simp] theorem Tile.refetch_x (t : Tile) (p : Binding → Bool) : (t.refetch p).x = t.x := rfl
@[simp] theorem Tile.refetch_v (t : Tile) (p : Binding → Bool) : (t.refetch p).v = t.v := rfl
@[simp] theorem Tile.refetch_m (t : Tile) (p : Binding → Bool) : (t.refetch p).m = t.m := rfl
@[simp] theorem Tile.refetch_la (t : Tile) (p : Binding → Bool) : (t.refetch p).la = t.la := rfl
@[simp] theorem Tile.refetch_loops (t : Tile) (p : Binding → Bool) : (t.refetch p).loops = t.loops := rfl
@[simp] theorem Tile.refetch_intr (t : Tile) (p : Binding → Bool) : (t.refetch p).intr = t.intr := rfl
@[simp] theorem Tile.refetch_trapBank (t : Tile) (p : Binding → Bool) : (t.refetch p).trapBank = t.trapBank := rfl
@[simp] theorem Tile.refetch_wait (t : Tile) (p : Binding → Bool) : (t.refetch p).wait = t.wait := rfl
@[simp] theorem Tile.refetch_waitPoint (t : Tile) (p : Binding → Bool) : (t.refetch p).waitPoint = t.waitPoint := rfl
@[simp] theorem Tile.refetch_parkNext (t : Tile) (p : Binding → Bool) : (t.refetch p).parkNext = t.parkNext := rfl
@[simp] theorem Tile.refetch_waitOps (t : Tile) (p : Binding → Bool) : (t.refetch p).waitOps = t.waitOps := rfl
@[simp] theorem Tile.refetch_longBuf (t : Tile) (p : Binding → Bool) : (t.refetch p).longBuf = t.longBuf := rfl
@[simp] theorem Tile.refetch_replay (t : Tile) (p : Binding → Bool) : (t.refetch p).replay = t.replay := rfl
@[simp] theorem Tile.refetch_passed (t : Tile) (p : Binding → Bool) : (t.refetch p).passed = t.passed := rfl
@[simp] theorem Tile.refetch_coreStatus (t : Tile) (p : Binding → Bool) : (t.refetch p).coreStatus = t.coreStatus := rfl
@[simp] theorem Tile.refetch_xfaultVa (t : Tile) (p : Binding → Bool) : (t.refetch p).xfaultVa = t.xfaultVa := rfl
@[simp] theorem Tile.refetch_xfaultInfo (t : Tile) (p : Binding → Bool) : (t.refetch p).xfaultInfo = t.xfaultInfo := rfl
@[simp] theorem Tile.refetch_shadowImg (t : Tile) (p : Binding → Bool) : (t.refetch p).shadowImg = t.shadowImg := rfl
@[simp] theorem Tile.refetch_prefetchSw (t : Tile) (p : Binding → Bool) : (t.refetch p).prefetchSw = t.prefetchSw := rfl
@[simp] theorem Tile.refetch_pendTrap (t : Tile) (p : Binding → Bool) : (t.refetch p).pendTrap = t.pendTrap := rfl
@[simp] theorem Tile.refetch_dispute (t : Tile) (p : Binding → Bool) : (t.refetch p).dispute = t.dispute := rfl
@[simp] theorem Tile.refetch_reqSeq (t : Tile) (p : Binding → Bool) : (t.refetch p).reqSeq = t.reqSeq := rfl
@[simp] theorem Tile.refetch_classInfo (t : Tile) (p : Binding → Bool) : (t.refetch p).classInfo = t.classInfo := rfl
@[simp] theorem Tile.refetch_strayInfo (t : Tile) (p : Binding → Bool) : (t.refetch p).strayInfo = t.strayInfo := rfl
@[simp] theorem Tile.refetch_cwaitGen (t : Tile) (p : Binding → Bool) : (t.refetch p).cwaitGen = t.cwaitGen := rfl
@[simp] theorem Tile.refetch_trapCause (t : Tile) (p : Binding → Bool) : (t.refetch p).trapCause = t.trapCause := rfl
@[simp] theorem Tile.refetch_trapPc (t : Tile) (p : Binding → Bool) : (t.refetch p).trapPc = t.trapPc := rfl
@[simp] theorem Tile.refetch_trapVec (t : Tile) (p : Binding → Bool) : (t.refetch p).trapVec = t.trapVec := rfl
@[simp] theorem Tile.refetch_replayPc (t : Tile) (p : Binding → Bool) : (t.refetch p).replayPc = t.replayPc := rfl
@[simp] theorem Tile.refetch_residueInfo (t : Tile) (p : Binding → Bool) : (t.refetch p).residueInfo = t.residueInfo := rfl
@[simp] theorem Tile.refetch_topoInfo (t : Tile) (p : Binding → Bool) : (t.refetch p).topoInfo = t.topoInfo := rfl
@[simp] theorem Tile.refetch_passPc (t : Tile) (p : Binding → Bool) : (t.refetch p).passPc = t.passPc := rfl
@[simp] theorem Tile.refetch_tileSplit (t : Tile) (p : Binding → Bool) : (t.refetch p).tileSplit = t.tileSplit := rfl
@[simp] theorem Tile.refetch_cfgTag (t : Tile) (p : Binding → Bool) : (t.refetch p).cfgTag = t.cfgTag := rfl
@[simp] theorem Tile.refetch_bankSucc (t : Tile) (p : Binding → Bool) : (t.refetch p).bankSucc = t.bankSucc := rfl
@[simp] theorem Tile.refetch_bankToken (t : Tile) (p : Binding → Bool) : (t.refetch p).bankToken = t.bankToken := rfl
@[simp] theorem Tile.refetch_fetchCtl (t : Tile) (p : Binding → Bool) : (t.refetch p).fetchCtl = t.fetchCtl := rfl
@[simp] theorem Tile.refetch_counters (t : Tile) (p : Binding → Bool) : (t.refetch p).counters = t.counters := rfl
@[simp] theorem Tile.refetch_inboxInfo (t : Tile) (p : Binding → Bool) : (t.refetch p).inboxInfo = t.inboxInfo := rfl
@[simp] theorem Tile.refetch_tokenCfg (t : Tile) (p : Binding → Bool) : (t.refetch p).tokenCfg = t.tokenCfg := rfl
@[simp] theorem Tile.refetch_qrecCtl (t : Tile) (p : Binding → Bool) : (t.refetch p).qrecCtl = t.qrecCtl := rfl
@[simp] theorem Tile.refetch_qlock (t : Tile) (p : Binding → Bool) : (t.refetch p).qlock = t.qlock := rfl
@[simp] theorem Tile.refetch_optSend (t : Tile) (p : Binding → Bool) : (t.refetch p).optSend = t.optSend := rfl
@[simp] theorem Tile.refetch_fmt (t : Tile) (p : Binding → Bool) : (t.refetch p).fmt = t.fmt := rfl
@[simp] theorem Tile.refetch_scale (t : Tile) (p : Binding → Bool) : (t.refetch p).scale = t.scale := rfl
@[simp] theorem Tile.refetch_htPc (t : Tile) (p : Binding → Bool) : (t.refetch p).htPc = t.htPc := rfl
@[simp] theorem Tile.refetch_htCtl (t : Tile) (p : Binding → Bool) : (t.refetch p).htCtl = t.htCtl := rfl
@[simp] theorem Tile.refetch_touch (t : Tile) (p : Binding → Bool) : (t.refetch p).touch = t.touch := rfl
@[simp] theorem Tile.refetch_touchFull (t : Tile) (p : Binding → Bool) : (t.refetch p).touchFull = t.touchFull := rfl
@[simp] theorem Tile.refetch_corrCnt (t : Tile) (p : Binding → Bool) : (t.refetch p).corrCnt = t.corrCnt := rfl
@[simp] theorem Tile.refetch_discardCnt (t : Tile) (p : Binding → Bool) : (t.refetch p).discardCnt = t.discardCnt := rfl
@[simp] theorem Tile.refetch_inbox (t : Tile) (p : Binding → Bool) : (t.refetch p).inbox = t.inbox := rfl
@[simp] theorem Tile.refetch_report (t : Tile) (p : Binding → Bool) : (t.refetch p).report = t.report := rfl
@[simp] theorem Tile.refetch_sendQ (t : Tile) (p : Binding → Bool) : (t.refetch p).sendQ = t.sendQ := rfl
@[simp] theorem Tile.refetch_barRec (t : Tile) (p : Binding → Bool) : (t.refetch p).barRec = t.barRec := rfl
@[simp] theorem Tile.refetch_coreIn (t : Tile) (p : Binding → Bool) : (t.refetch p).coreIn = t.coreIn := rfl
@[simp] theorem Tile.refetch_coreOut (t : Tile) (p : Binding → Bool) : (t.refetch p).coreOut = t.coreOut := rfl
@[simp] theorem Tile.refetch_swIn (t : Tile) (p : Binding → Bool) : (t.refetch p).swIn = t.swIn := rfl
@[simp] theorem Tile.refetch_weirs (t : Tile) (p : Binding → Bool) : (t.refetch p).weirs = t.weirs := rfl
@[simp] theorem Tile.refetch_bq (t : Tile) (p : Binding → Bool) : (t.refetch p).bq = t.bq := rfl
@[simp] theorem Tile.refetch_emq (t : Tile) (p : Binding → Bool) : (t.refetch p).emq = t.emq := rfl
@[simp] theorem Tile.refetch_sw (t : Tile) (p : Binding → Bool) : (t.refetch p).sw = t.sw := rfl
@[simp] theorem Tile.refetch_copies (t : Tile) (p : Binding → Bool) : (t.refetch p).copies = t.copies := rfl
@[simp] theorem Tile.refetch_sub (t : Tile) (p : Binding → Bool) : (t.refetch p).sub = t.sub := rfl
@[simp] theorem Tile.refetch_ports (t : Tile) (p : Binding → Bool) : (t.refetch p).ports = t.ports := rfl
@[simp] theorem Tile.refetch_chan (t : Tile) (p : Binding → Bool) : (t.refetch p).chan = t.chan := rfl
@[simp] theorem Tile.refetch_shadow (t : Tile) (p : Binding → Bool) : (t.refetch p).shadow = t.shadow := rfl
@[simp] theorem Tile.refetch_activeImg (t : Tile) (p : Binding → Bool) : (t.refetch p).activeImg = t.activeImg := rfl
@[simp] theorem Tile.refetch_carried (t : Tile) (p : Binding → Bool) : (t.refetch p).carried = t.carried := rfl
@[simp] theorem Tile.refetch_dcache (t : Tile) (p : Binding → Bool) : (t.refetch p).dcache = t.dcache := rfl
@[simp] theorem Tile.refetch_tlb (t : Tile) (p : Binding → Bool) : (t.refetch p).tlb = t.tlb := rfl
@[simp] theorem Tile.refetch_icache (t : Tile) (p : Binding → Bool) : (t.refetch p).icache = t.icache := rfl
@[simp] theorem Tile.refetch_fetchMiss (t : Tile) (p : Binding → Bool) : (t.refetch p).fetchMiss = t.fetchMiss := rfl
@[simp] theorem Tile.refetch_ipref (t : Tile) (p : Binding → Bool) : (t.refetch p).ipref = t.ipref := rfl
@[simp] theorem Tile.refetch_cutFlags (t : Tile) (p : Binding → Bool) : (t.refetch p).cutFlags = t.cutFlags := rfl
@[simp] theorem Tile.refetch_cutOf (t : Tile) (p : Binding → Bool) : (t.refetch p).cutOf = t.cutOf := rfl
@[simp] theorem Tile.refetch_cutMarked (t : Tile) (p : Binding → Bool) : (t.refetch p).cutMarked = t.cutMarked := rfl
@[simp] theorem Tile.refetch_ring (t : Tile) (p : Binding → Bool) : (t.refetch p).ring = t.ring := rfl
@[simp] theorem Tile.refetch_outSeq (t : Tile) (p : Binding → Bool) : (t.refetch p).outSeq = t.outSeq := rfl
@[simp] theorem Tile.refetch_swMiss (t : Tile) (p : Binding → Bool) : (t.refetch p).swMiss = t.swMiss := rfl
@[simp] theorem Tile.refetch_fetchSw (t : Tile) (p : Binding → Bool) : (t.refetch p).fetchSw = t.fetchSw := rfl
@[simp] theorem Tile.refetch_prefetch (t : Tile) (p : Binding → Bool) : (t.refetch p).prefetch = t.prefetch := rfl
@[simp] theorem Tile.refetch_lastLine (t : Tile) (p : Binding → Bool) : (t.refetch p).lastLine = t.lastLine := rfl
@[simp] theorem Tile.refetch_selPark (t : Tile) (p : Binding → Bool) : (t.refetch p).selPark = t.selPark := rfl
@[simp] theorem Tile.refetch_rankCache (t : Tile) (p : Binding → Bool) : (t.refetch p).rankCache = t.rankCache := rfl
@[simp] theorem Tile.refetch_ownerLines (t : Tile) (p : Binding → Bool) : (t.refetch p).ownerLines = t.ownerLines := rfl
@[simp] theorem Tile.refetch_dirtyGroups (t : Tile) (p : Binding → Bool) : (t.refetch p).dirtyGroups = t.dirtyGroups := rfl
@[simp] theorem Tile.refetch_dirtyGranules (t : Tile) (p : Binding → Bool) : (t.refetch p).dirtyGranules = t.dirtyGranules := rfl
@[simp] theorem Tile.refetch_seq (t : Tile) (p : Binding → Bool) : (t.refetch p).seq = t.seq := rfl
@[simp] theorem Tile.refetch_imageOf (t : Tile) (p : Binding → Bool) : (t.refetch p).imageOf = t.imageOf := rfl
@[simp] theorem Tile.refetch_scope (t : Tile) (p : Binding → Bool) : (t.refetch p).scope = t.scope := rfl
@[simp] theorem Tile.refetch_launch (t : Tile) (p : Binding → Bool) : (t.refetch p).launch = t.launch := rfl
@[simp] theorem Tile.refetch_launchIdx (t : Tile) (p : Binding → Bool) : (t.refetch p).launchIdx = t.launchIdx := rfl
@[simp] theorem Tile.refetch_cancelled (t : Tile) (p : Binding → Bool) : (t.refetch p).cancelled = t.cancelled := rfl
@[simp] theorem Tile.refetch_follow (t : Tile) (p : Binding → Bool) : (t.refetch p).follow = t.follow := rfl
@[simp] theorem Tile.refetch_openChunk (t : Tile) (p : Binding → Bool) : (t.refetch p).openChunk = t.openChunk := rfl
@[simp] theorem Tile.setScale_id (t : Tile) (n : Nat) (w : Word) : (t.setScale n w).id = t.id := rfl
@[simp] theorem Tile.setScale_run (t : Tile) (n : Nat) (w : Word) : (t.setScale n w).run = t.run := rfl
@[simp] theorem Tile.setScale_mode (t : Tile) (n : Nat) (w : Word) : (t.setScale n w).mode = t.mode := rfl
@[simp] theorem Tile.setScale_pc (t : Tile) (n : Nat) (w : Word) : (t.setScale n w).pc = t.pc := rfl
@[simp] theorem Tile.setScale_x (t : Tile) (n : Nat) (w : Word) : (t.setScale n w).x = t.x := rfl
@[simp] theorem Tile.setScale_v (t : Tile) (n : Nat) (w : Word) : (t.setScale n w).v = t.v := rfl
@[simp] theorem Tile.setScale_m (t : Tile) (n : Nat) (w : Word) : (t.setScale n w).m = t.m := rfl
@[simp] theorem Tile.setScale_la (t : Tile) (n : Nat) (w : Word) : (t.setScale n w).la = t.la := rfl
@[simp] theorem Tile.setScale_loops (t : Tile) (n : Nat) (w : Word) : (t.setScale n w).loops = t.loops := rfl
@[simp] theorem Tile.setScale_intr (t : Tile) (n : Nat) (w : Word) : (t.setScale n w).intr = t.intr := rfl
@[simp] theorem Tile.setScale_trapBank (t : Tile) (n : Nat) (w : Word) : (t.setScale n w).trapBank = t.trapBank := rfl
@[simp] theorem Tile.setScale_wait (t : Tile) (n : Nat) (w : Word) : (t.setScale n w).wait = t.wait := rfl
@[simp] theorem Tile.setScale_waitPoint (t : Tile) (n : Nat) (w : Word) : (t.setScale n w).waitPoint = t.waitPoint := rfl
@[simp] theorem Tile.setScale_parkNext (t : Tile) (n : Nat) (w : Word) : (t.setScale n w).parkNext = t.parkNext := rfl
@[simp] theorem Tile.setScale_waitOps (t : Tile) (n : Nat) (w : Word) : (t.setScale n w).waitOps = t.waitOps := rfl
@[simp] theorem Tile.setScale_longBuf (t : Tile) (n : Nat) (w : Word) : (t.setScale n w).longBuf = t.longBuf := rfl
@[simp] theorem Tile.setScale_replay (t : Tile) (n : Nat) (w : Word) : (t.setScale n w).replay = t.replay := rfl
@[simp] theorem Tile.setScale_passed (t : Tile) (n : Nat) (w : Word) : (t.setScale n w).passed = t.passed := rfl
@[simp] theorem Tile.setScale_coreStatus (t : Tile) (n : Nat) (w : Word) : (t.setScale n w).coreStatus = t.coreStatus := rfl
@[simp] theorem Tile.setScale_xfaultVa (t : Tile) (n : Nat) (w : Word) : (t.setScale n w).xfaultVa = t.xfaultVa := rfl
@[simp] theorem Tile.setScale_xfaultInfo (t : Tile) (n : Nat) (w : Word) : (t.setScale n w).xfaultInfo = t.xfaultInfo := rfl
@[simp] theorem Tile.setScale_shadowImg (t : Tile) (n : Nat) (w : Word) : (t.setScale n w).shadowImg = t.shadowImg := rfl
@[simp] theorem Tile.setScale_prefetchSw (t : Tile) (n : Nat) (w : Word) : (t.setScale n w).prefetchSw = t.prefetchSw := rfl
@[simp] theorem Tile.setScale_pendTrap (t : Tile) (n : Nat) (w : Word) : (t.setScale n w).pendTrap = t.pendTrap := rfl
@[simp] theorem Tile.setScale_dispute (t : Tile) (n : Nat) (w : Word) : (t.setScale n w).dispute = t.dispute := rfl
@[simp] theorem Tile.setScale_reqSeq (t : Tile) (n : Nat) (w : Word) : (t.setScale n w).reqSeq = t.reqSeq := rfl
@[simp] theorem Tile.setScale_classInfo (t : Tile) (n : Nat) (w : Word) : (t.setScale n w).classInfo = t.classInfo := rfl
@[simp] theorem Tile.setScale_strayInfo (t : Tile) (n : Nat) (w : Word) : (t.setScale n w).strayInfo = t.strayInfo := rfl
@[simp] theorem Tile.setScale_cwaitGen (t : Tile) (n : Nat) (w : Word) : (t.setScale n w).cwaitGen = t.cwaitGen := rfl
@[simp] theorem Tile.setScale_trapCause (t : Tile) (n : Nat) (w : Word) : (t.setScale n w).trapCause = t.trapCause := rfl
@[simp] theorem Tile.setScale_trapPc (t : Tile) (n : Nat) (w : Word) : (t.setScale n w).trapPc = t.trapPc := rfl
@[simp] theorem Tile.setScale_trapVec (t : Tile) (n : Nat) (w : Word) : (t.setScale n w).trapVec = t.trapVec := rfl
@[simp] theorem Tile.setScale_replayPc (t : Tile) (n : Nat) (w : Word) : (t.setScale n w).replayPc = t.replayPc := rfl
@[simp] theorem Tile.setScale_residueInfo (t : Tile) (n : Nat) (w : Word) : (t.setScale n w).residueInfo = t.residueInfo := rfl
@[simp] theorem Tile.setScale_topoInfo (t : Tile) (n : Nat) (w : Word) : (t.setScale n w).topoInfo = t.topoInfo := rfl
@[simp] theorem Tile.setScale_passPc (t : Tile) (n : Nat) (w : Word) : (t.setScale n w).passPc = t.passPc := rfl
@[simp] theorem Tile.setScale_tileSplit (t : Tile) (n : Nat) (w : Word) : (t.setScale n w).tileSplit = t.tileSplit := rfl
@[simp] theorem Tile.setScale_cfgTag (t : Tile) (n : Nat) (w : Word) : (t.setScale n w).cfgTag = t.cfgTag := rfl
@[simp] theorem Tile.setScale_bankSucc (t : Tile) (n : Nat) (w : Word) : (t.setScale n w).bankSucc = t.bankSucc := rfl
@[simp] theorem Tile.setScale_bankToken (t : Tile) (n : Nat) (w : Word) : (t.setScale n w).bankToken = t.bankToken := rfl
@[simp] theorem Tile.setScale_fetchCtl (t : Tile) (n : Nat) (w : Word) : (t.setScale n w).fetchCtl = t.fetchCtl := rfl
@[simp] theorem Tile.setScale_counters (t : Tile) (n : Nat) (w : Word) : (t.setScale n w).counters = t.counters := rfl
@[simp] theorem Tile.setScale_inboxInfo (t : Tile) (n : Nat) (w : Word) : (t.setScale n w).inboxInfo = t.inboxInfo := rfl
@[simp] theorem Tile.setScale_tokenCfg (t : Tile) (n : Nat) (w : Word) : (t.setScale n w).tokenCfg = t.tokenCfg := rfl
@[simp] theorem Tile.setScale_qrecCtl (t : Tile) (n : Nat) (w : Word) : (t.setScale n w).qrecCtl = t.qrecCtl := rfl
@[simp] theorem Tile.setScale_qlock (t : Tile) (n : Nat) (w : Word) : (t.setScale n w).qlock = t.qlock := rfl
@[simp] theorem Tile.setScale_optSend (t : Tile) (n : Nat) (w : Word) : (t.setScale n w).optSend = t.optSend := rfl
@[simp] theorem Tile.setScale_fmt (t : Tile) (n : Nat) (w : Word) : (t.setScale n w).fmt = t.fmt := rfl
@[simp] theorem Tile.setScale_htPc (t : Tile) (n : Nat) (w : Word) : (t.setScale n w).htPc = t.htPc := rfl
@[simp] theorem Tile.setScale_htCtl (t : Tile) (n : Nat) (w : Word) : (t.setScale n w).htCtl = t.htCtl := rfl
@[simp] theorem Tile.setScale_touch (t : Tile) (n : Nat) (w : Word) : (t.setScale n w).touch = t.touch := rfl
@[simp] theorem Tile.setScale_touchFull (t : Tile) (n : Nat) (w : Word) : (t.setScale n w).touchFull = t.touchFull := rfl
@[simp] theorem Tile.setScale_corrCnt (t : Tile) (n : Nat) (w : Word) : (t.setScale n w).corrCnt = t.corrCnt := rfl
@[simp] theorem Tile.setScale_discardCnt (t : Tile) (n : Nat) (w : Word) : (t.setScale n w).discardCnt = t.discardCnt := rfl
@[simp] theorem Tile.setScale_inbox (t : Tile) (n : Nat) (w : Word) : (t.setScale n w).inbox = t.inbox := rfl
@[simp] theorem Tile.setScale_report (t : Tile) (n : Nat) (w : Word) : (t.setScale n w).report = t.report := rfl
@[simp] theorem Tile.setScale_sendQ (t : Tile) (n : Nat) (w : Word) : (t.setScale n w).sendQ = t.sendQ := rfl
@[simp] theorem Tile.setScale_barRec (t : Tile) (n : Nat) (w : Word) : (t.setScale n w).barRec = t.barRec := rfl
@[simp] theorem Tile.setScale_coreIn (t : Tile) (n : Nat) (w : Word) : (t.setScale n w).coreIn = t.coreIn := rfl
@[simp] theorem Tile.setScale_coreOut (t : Tile) (n : Nat) (w : Word) : (t.setScale n w).coreOut = t.coreOut := rfl
@[simp] theorem Tile.setScale_swIn (t : Tile) (n : Nat) (w : Word) : (t.setScale n w).swIn = t.swIn := rfl
@[simp] theorem Tile.setScale_weirs (t : Tile) (n : Nat) (w : Word) : (t.setScale n w).weirs = t.weirs := rfl
@[simp] theorem Tile.setScale_bq (t : Tile) (n : Nat) (w : Word) : (t.setScale n w).bq = t.bq := rfl
@[simp] theorem Tile.setScale_emq (t : Tile) (n : Nat) (w : Word) : (t.setScale n w).emq = t.emq := rfl
@[simp] theorem Tile.setScale_sw (t : Tile) (n : Nat) (w : Word) : (t.setScale n w).sw = t.sw := rfl
@[simp] theorem Tile.setScale_copies (t : Tile) (n : Nat) (w : Word) : (t.setScale n w).copies = t.copies := rfl
@[simp] theorem Tile.setScale_sub (t : Tile) (n : Nat) (w : Word) : (t.setScale n w).sub = t.sub := rfl
@[simp] theorem Tile.setScale_ports (t : Tile) (n : Nat) (w : Word) : (t.setScale n w).ports = t.ports := rfl
@[simp] theorem Tile.setScale_chan (t : Tile) (n : Nat) (w : Word) : (t.setScale n w).chan = t.chan := rfl
@[simp] theorem Tile.setScale_shadow (t : Tile) (n : Nat) (w : Word) : (t.setScale n w).shadow = t.shadow := rfl
@[simp] theorem Tile.setScale_activeImg (t : Tile) (n : Nat) (w : Word) : (t.setScale n w).activeImg = t.activeImg := rfl
@[simp] theorem Tile.setScale_carried (t : Tile) (n : Nat) (w : Word) : (t.setScale n w).carried = t.carried := rfl
@[simp] theorem Tile.setScale_dcache (t : Tile) (n : Nat) (w : Word) : (t.setScale n w).dcache = t.dcache := rfl
@[simp] theorem Tile.setScale_tlb (t : Tile) (n : Nat) (w : Word) : (t.setScale n w).tlb = t.tlb := rfl
@[simp] theorem Tile.setScale_icache (t : Tile) (n : Nat) (w : Word) : (t.setScale n w).icache = t.icache := rfl
@[simp] theorem Tile.setScale_fetchMiss (t : Tile) (n : Nat) (w : Word) : (t.setScale n w).fetchMiss = t.fetchMiss := rfl
@[simp] theorem Tile.setScale_ipref (t : Tile) (n : Nat) (w : Word) : (t.setScale n w).ipref = t.ipref := rfl
@[simp] theorem Tile.setScale_cutFlags (t : Tile) (n : Nat) (w : Word) : (t.setScale n w).cutFlags = t.cutFlags := rfl
@[simp] theorem Tile.setScale_cutOf (t : Tile) (n : Nat) (w : Word) : (t.setScale n w).cutOf = t.cutOf := rfl
@[simp] theorem Tile.setScale_cutMarked (t : Tile) (n : Nat) (w : Word) : (t.setScale n w).cutMarked = t.cutMarked := rfl
@[simp] theorem Tile.setScale_ring (t : Tile) (n : Nat) (w : Word) : (t.setScale n w).ring = t.ring := rfl
@[simp] theorem Tile.setScale_outSeq (t : Tile) (n : Nat) (w : Word) : (t.setScale n w).outSeq = t.outSeq := rfl
@[simp] theorem Tile.setScale_swMiss (t : Tile) (n : Nat) (w : Word) : (t.setScale n w).swMiss = t.swMiss := rfl
@[simp] theorem Tile.setScale_fetchSw (t : Tile) (n : Nat) (w : Word) : (t.setScale n w).fetchSw = t.fetchSw := rfl
@[simp] theorem Tile.setScale_prefetch (t : Tile) (n : Nat) (w : Word) : (t.setScale n w).prefetch = t.prefetch := rfl
@[simp] theorem Tile.setScale_lastLine (t : Tile) (n : Nat) (w : Word) : (t.setScale n w).lastLine = t.lastLine := rfl
@[simp] theorem Tile.setScale_selPark (t : Tile) (n : Nat) (w : Word) : (t.setScale n w).selPark = t.selPark := rfl
@[simp] theorem Tile.setScale_rankCache (t : Tile) (n : Nat) (w : Word) : (t.setScale n w).rankCache = t.rankCache := rfl
@[simp] theorem Tile.setScale_ownerLines (t : Tile) (n : Nat) (w : Word) : (t.setScale n w).ownerLines = t.ownerLines := rfl
@[simp] theorem Tile.setScale_dirtyGroups (t : Tile) (n : Nat) (w : Word) : (t.setScale n w).dirtyGroups = t.dirtyGroups := rfl
@[simp] theorem Tile.setScale_dirtyGranules (t : Tile) (n : Nat) (w : Word) : (t.setScale n w).dirtyGranules = t.dirtyGranules := rfl
@[simp] theorem Tile.setScale_seq (t : Tile) (n : Nat) (w : Word) : (t.setScale n w).seq = t.seq := rfl
@[simp] theorem Tile.setScale_imageOf (t : Tile) (n : Nat) (w : Word) : (t.setScale n w).imageOf = t.imageOf := rfl
@[simp] theorem Tile.setScale_scope (t : Tile) (n : Nat) (w : Word) : (t.setScale n w).scope = t.scope := rfl
@[simp] theorem Tile.setScale_launch (t : Tile) (n : Nat) (w : Word) : (t.setScale n w).launch = t.launch := rfl
@[simp] theorem Tile.setScale_launchIdx (t : Tile) (n : Nat) (w : Word) : (t.setScale n w).launchIdx = t.launchIdx := rfl
@[simp] theorem Tile.setScale_cancelled (t : Tile) (n : Nat) (w : Word) : (t.setScale n w).cancelled = t.cancelled := rfl
@[simp] theorem Tile.setScale_follow (t : Tile) (n : Nat) (w : Word) : (t.setScale n w).follow = t.follow := rfl
@[simp] theorem Tile.setScale_openChunk (t : Tile) (n : Nat) (w : Word) : (t.setScale n w).openChunk = t.openChunk := rfl
@[simp] theorem Tile.pushOut_id (t : Tile) (p : Nat) (k : Token) : (t.pushOut p k).id = t.id := by unfold Tile.pushOut; dsimp only; split <;> rfl
@[simp] theorem Tile.pushOut_run (t : Tile) (p : Nat) (k : Token) : (t.pushOut p k).run = t.run := by unfold Tile.pushOut; dsimp only; split <;> rfl
@[simp] theorem Tile.pushOut_mode (t : Tile) (p : Nat) (k : Token) : (t.pushOut p k).mode = t.mode := by unfold Tile.pushOut; dsimp only; split <;> rfl
@[simp] theorem Tile.pushOut_pc (t : Tile) (p : Nat) (k : Token) : (t.pushOut p k).pc = t.pc := by unfold Tile.pushOut; dsimp only; split <;> rfl
@[simp] theorem Tile.pushOut_x (t : Tile) (p : Nat) (k : Token) : (t.pushOut p k).x = t.x := by unfold Tile.pushOut; dsimp only; split <;> rfl
@[simp] theorem Tile.pushOut_v (t : Tile) (p : Nat) (k : Token) : (t.pushOut p k).v = t.v := by unfold Tile.pushOut; dsimp only; split <;> rfl
@[simp] theorem Tile.pushOut_m (t : Tile) (p : Nat) (k : Token) : (t.pushOut p k).m = t.m := by unfold Tile.pushOut; dsimp only; split <;> rfl
@[simp] theorem Tile.pushOut_la (t : Tile) (p : Nat) (k : Token) : (t.pushOut p k).la = t.la := by unfold Tile.pushOut; dsimp only; split <;> rfl
@[simp] theorem Tile.pushOut_loops (t : Tile) (p : Nat) (k : Token) : (t.pushOut p k).loops = t.loops := by unfold Tile.pushOut; dsimp only; split <;> rfl
@[simp] theorem Tile.pushOut_intr (t : Tile) (p : Nat) (k : Token) : (t.pushOut p k).intr = t.intr := by unfold Tile.pushOut; dsimp only; split <;> rfl
@[simp] theorem Tile.pushOut_trapBank (t : Tile) (p : Nat) (k : Token) : (t.pushOut p k).trapBank = t.trapBank := by unfold Tile.pushOut; dsimp only; split <;> rfl
@[simp] theorem Tile.pushOut_wait (t : Tile) (p : Nat) (k : Token) : (t.pushOut p k).wait = t.wait := by unfold Tile.pushOut; dsimp only; split <;> rfl
@[simp] theorem Tile.pushOut_waitPoint (t : Tile) (p : Nat) (k : Token) : (t.pushOut p k).waitPoint = t.waitPoint := by unfold Tile.pushOut; dsimp only; split <;> rfl
@[simp] theorem Tile.pushOut_parkNext (t : Tile) (p : Nat) (k : Token) : (t.pushOut p k).parkNext = t.parkNext := by unfold Tile.pushOut; dsimp only; split <;> rfl
@[simp] theorem Tile.pushOut_waitOps (t : Tile) (p : Nat) (k : Token) : (t.pushOut p k).waitOps = t.waitOps := by unfold Tile.pushOut; dsimp only; split <;> rfl
@[simp] theorem Tile.pushOut_longBuf (t : Tile) (p : Nat) (k : Token) : (t.pushOut p k).longBuf = t.longBuf := by unfold Tile.pushOut; dsimp only; split <;> rfl
@[simp] theorem Tile.pushOut_replay (t : Tile) (p : Nat) (k : Token) : (t.pushOut p k).replay = t.replay := by unfold Tile.pushOut; dsimp only; split <;> rfl
@[simp] theorem Tile.pushOut_passed (t : Tile) (p : Nat) (k : Token) : (t.pushOut p k).passed = t.passed := by unfold Tile.pushOut; dsimp only; split <;> rfl
@[simp] theorem Tile.pushOut_coreStatus (t : Tile) (p : Nat) (k : Token) : (t.pushOut p k).coreStatus = t.coreStatus := by unfold Tile.pushOut; dsimp only; split <;> rfl
@[simp] theorem Tile.pushOut_xfaultVa (t : Tile) (p : Nat) (k : Token) : (t.pushOut p k).xfaultVa = t.xfaultVa := by unfold Tile.pushOut; dsimp only; split <;> rfl
@[simp] theorem Tile.pushOut_xfaultInfo (t : Tile) (p : Nat) (k : Token) : (t.pushOut p k).xfaultInfo = t.xfaultInfo := by unfold Tile.pushOut; dsimp only; split <;> rfl
@[simp] theorem Tile.pushOut_shadowImg (t : Tile) (p : Nat) (k : Token) : (t.pushOut p k).shadowImg = t.shadowImg := by unfold Tile.pushOut; dsimp only; split <;> rfl
@[simp] theorem Tile.pushOut_prefetchSw (t : Tile) (p : Nat) (k : Token) : (t.pushOut p k).prefetchSw = t.prefetchSw := by unfold Tile.pushOut; dsimp only; split <;> rfl
@[simp] theorem Tile.pushOut_pendTrap (t : Tile) (p : Nat) (k : Token) : (t.pushOut p k).pendTrap = t.pendTrap := by unfold Tile.pushOut; dsimp only; split <;> rfl
@[simp] theorem Tile.pushOut_dispute (t : Tile) (p : Nat) (k : Token) : (t.pushOut p k).dispute = t.dispute := by unfold Tile.pushOut; dsimp only; split <;> rfl
@[simp] theorem Tile.pushOut_reqSeq (t : Tile) (p : Nat) (k : Token) : (t.pushOut p k).reqSeq = t.reqSeq := by unfold Tile.pushOut; dsimp only; split <;> rfl
@[simp] theorem Tile.pushOut_classInfo (t : Tile) (p : Nat) (k : Token) : (t.pushOut p k).classInfo = t.classInfo := by unfold Tile.pushOut; dsimp only; split <;> rfl
@[simp] theorem Tile.pushOut_strayInfo (t : Tile) (p : Nat) (k : Token) : (t.pushOut p k).strayInfo = t.strayInfo := by unfold Tile.pushOut; dsimp only; split <;> rfl
@[simp] theorem Tile.pushOut_cwaitGen (t : Tile) (p : Nat) (k : Token) : (t.pushOut p k).cwaitGen = t.cwaitGen := by unfold Tile.pushOut; dsimp only; split <;> rfl
@[simp] theorem Tile.pushOut_trapCause (t : Tile) (p : Nat) (k : Token) : (t.pushOut p k).trapCause = t.trapCause := by unfold Tile.pushOut; dsimp only; split <;> rfl
@[simp] theorem Tile.pushOut_trapPc (t : Tile) (p : Nat) (k : Token) : (t.pushOut p k).trapPc = t.trapPc := by unfold Tile.pushOut; dsimp only; split <;> rfl
@[simp] theorem Tile.pushOut_trapVec (t : Tile) (p : Nat) (k : Token) : (t.pushOut p k).trapVec = t.trapVec := by unfold Tile.pushOut; dsimp only; split <;> rfl
@[simp] theorem Tile.pushOut_replayPc (t : Tile) (p : Nat) (k : Token) : (t.pushOut p k).replayPc = t.replayPc := by unfold Tile.pushOut; dsimp only; split <;> rfl
@[simp] theorem Tile.pushOut_residueInfo (t : Tile) (p : Nat) (k : Token) : (t.pushOut p k).residueInfo = t.residueInfo := by unfold Tile.pushOut; dsimp only; split <;> rfl
@[simp] theorem Tile.pushOut_topoInfo (t : Tile) (p : Nat) (k : Token) : (t.pushOut p k).topoInfo = t.topoInfo := by unfold Tile.pushOut; dsimp only; split <;> rfl
@[simp] theorem Tile.pushOut_passPc (t : Tile) (p : Nat) (k : Token) : (t.pushOut p k).passPc = t.passPc := by unfold Tile.pushOut; dsimp only; split <;> rfl
@[simp] theorem Tile.pushOut_tileSplit (t : Tile) (p : Nat) (k : Token) : (t.pushOut p k).tileSplit = t.tileSplit := by unfold Tile.pushOut; dsimp only; split <;> rfl
@[simp] theorem Tile.pushOut_cfgTag (t : Tile) (p : Nat) (k : Token) : (t.pushOut p k).cfgTag = t.cfgTag := by unfold Tile.pushOut; dsimp only; split <;> rfl
@[simp] theorem Tile.pushOut_bankSucc (t : Tile) (p : Nat) (k : Token) : (t.pushOut p k).bankSucc = t.bankSucc := by unfold Tile.pushOut; dsimp only; split <;> rfl
@[simp] theorem Tile.pushOut_bankToken (t : Tile) (p : Nat) (k : Token) : (t.pushOut p k).bankToken = t.bankToken := by unfold Tile.pushOut; dsimp only; split <;> rfl
@[simp] theorem Tile.pushOut_fetchCtl (t : Tile) (p : Nat) (k : Token) : (t.pushOut p k).fetchCtl = t.fetchCtl := by unfold Tile.pushOut; dsimp only; split <;> rfl
@[simp] theorem Tile.pushOut_counters (t : Tile) (p : Nat) (k : Token) : (t.pushOut p k).counters = t.counters := by unfold Tile.pushOut; dsimp only; split <;> rfl
@[simp] theorem Tile.pushOut_inboxInfo (t : Tile) (p : Nat) (k : Token) : (t.pushOut p k).inboxInfo = t.inboxInfo := by unfold Tile.pushOut; dsimp only; split <;> rfl
@[simp] theorem Tile.pushOut_tokenCfg (t : Tile) (p : Nat) (k : Token) : (t.pushOut p k).tokenCfg = t.tokenCfg := by unfold Tile.pushOut; dsimp only; split <;> rfl
@[simp] theorem Tile.pushOut_qrecCtl (t : Tile) (p : Nat) (k : Token) : (t.pushOut p k).qrecCtl = t.qrecCtl := by unfold Tile.pushOut; dsimp only; split <;> rfl
@[simp] theorem Tile.pushOut_qlock (t : Tile) (p : Nat) (k : Token) : (t.pushOut p k).qlock = t.qlock := by unfold Tile.pushOut; dsimp only; split <;> rfl
@[simp] theorem Tile.pushOut_optSend (t : Tile) (p : Nat) (k : Token) : (t.pushOut p k).optSend = t.optSend := by unfold Tile.pushOut; dsimp only; split <;> rfl
@[simp] theorem Tile.pushOut_fmt (t : Tile) (p : Nat) (k : Token) : (t.pushOut p k).fmt = t.fmt := by unfold Tile.pushOut; dsimp only; split <;> rfl
@[simp] theorem Tile.pushOut_scale (t : Tile) (p : Nat) (k : Token) : (t.pushOut p k).scale = t.scale := by unfold Tile.pushOut; dsimp only; split <;> rfl
@[simp] theorem Tile.pushOut_htPc (t : Tile) (p : Nat) (k : Token) : (t.pushOut p k).htPc = t.htPc := by unfold Tile.pushOut; dsimp only; split <;> rfl
@[simp] theorem Tile.pushOut_htCtl (t : Tile) (p : Nat) (k : Token) : (t.pushOut p k).htCtl = t.htCtl := by unfold Tile.pushOut; dsimp only; split <;> rfl
@[simp] theorem Tile.pushOut_touch (t : Tile) (p : Nat) (k : Token) : (t.pushOut p k).touch = t.touch := by unfold Tile.pushOut; dsimp only; split <;> rfl
@[simp] theorem Tile.pushOut_touchFull (t : Tile) (p : Nat) (k : Token) : (t.pushOut p k).touchFull = t.touchFull := by unfold Tile.pushOut; dsimp only; split <;> rfl
@[simp] theorem Tile.pushOut_corrCnt (t : Tile) (p : Nat) (k : Token) : (t.pushOut p k).corrCnt = t.corrCnt := by unfold Tile.pushOut; dsimp only; split <;> rfl
@[simp] theorem Tile.pushOut_discardCnt (t : Tile) (p : Nat) (k : Token) : (t.pushOut p k).discardCnt = t.discardCnt := by unfold Tile.pushOut; dsimp only; split <;> rfl
@[simp] theorem Tile.pushOut_inbox (t : Tile) (p : Nat) (k : Token) : (t.pushOut p k).inbox = t.inbox := by unfold Tile.pushOut; dsimp only; split <;> rfl
@[simp] theorem Tile.pushOut_report (t : Tile) (p : Nat) (k : Token) : (t.pushOut p k).report = t.report := by unfold Tile.pushOut; dsimp only; split <;> rfl
@[simp] theorem Tile.pushOut_sendQ (t : Tile) (p : Nat) (k : Token) : (t.pushOut p k).sendQ = t.sendQ := by unfold Tile.pushOut; dsimp only; split <;> rfl
@[simp] theorem Tile.pushOut_barRec (t : Tile) (p : Nat) (k : Token) : (t.pushOut p k).barRec = t.barRec := by unfold Tile.pushOut; dsimp only; split <;> rfl
@[simp] theorem Tile.pushOut_coreIn (t : Tile) (p : Nat) (k : Token) : (t.pushOut p k).coreIn = t.coreIn := by unfold Tile.pushOut; dsimp only; split <;> rfl
@[simp] theorem Tile.pushOut_swIn (t : Tile) (p : Nat) (k : Token) : (t.pushOut p k).swIn = t.swIn := by unfold Tile.pushOut; dsimp only; split <;> rfl
@[simp] theorem Tile.pushOut_weirs (t : Tile) (p : Nat) (k : Token) : (t.pushOut p k).weirs = t.weirs := by unfold Tile.pushOut; dsimp only; split <;> rfl
@[simp] theorem Tile.pushOut_bq (t : Tile) (p : Nat) (k : Token) : (t.pushOut p k).bq = t.bq := by unfold Tile.pushOut; dsimp only; split <;> rfl
@[simp] theorem Tile.pushOut_emq (t : Tile) (p : Nat) (k : Token) : (t.pushOut p k).emq = t.emq := by unfold Tile.pushOut; dsimp only; split <;> rfl
@[simp] theorem Tile.pushOut_sw (t : Tile) (p : Nat) (k : Token) : (t.pushOut p k).sw = t.sw := by unfold Tile.pushOut; dsimp only; split <;> rfl
@[simp] theorem Tile.pushOut_streams (t : Tile) (p : Nat) (k : Token) : (t.pushOut p k).streams = t.streams := by unfold Tile.pushOut; dsimp only; split <;> rfl
@[simp] theorem Tile.pushOut_copies (t : Tile) (p : Nat) (k : Token) : (t.pushOut p k).copies = t.copies := by unfold Tile.pushOut; dsimp only; split <;> rfl
@[simp] theorem Tile.pushOut_sub (t : Tile) (p : Nat) (k : Token) : (t.pushOut p k).sub = t.sub := by unfold Tile.pushOut; dsimp only; split <;> rfl
@[simp] theorem Tile.pushOut_ports (t : Tile) (p : Nat) (k : Token) : (t.pushOut p k).ports = t.ports := by unfold Tile.pushOut; dsimp only; split <;> rfl
@[simp] theorem Tile.pushOut_chan (t : Tile) (p : Nat) (k : Token) : (t.pushOut p k).chan = t.chan := by unfold Tile.pushOut; dsimp only; split <;> rfl
@[simp] theorem Tile.pushOut_shadow (t : Tile) (p : Nat) (k : Token) : (t.pushOut p k).shadow = t.shadow := by unfold Tile.pushOut; dsimp only; split <;> rfl
@[simp] theorem Tile.pushOut_activeImg (t : Tile) (p : Nat) (k : Token) : (t.pushOut p k).activeImg = t.activeImg := by unfold Tile.pushOut; dsimp only; split <;> rfl
@[simp] theorem Tile.pushOut_carried (t : Tile) (p : Nat) (k : Token) : (t.pushOut p k).carried = t.carried := by unfold Tile.pushOut; dsimp only; split <;> rfl
@[simp] theorem Tile.pushOut_dcache (t : Tile) (p : Nat) (k : Token) : (t.pushOut p k).dcache = t.dcache := by unfold Tile.pushOut; dsimp only; split <;> rfl
@[simp] theorem Tile.pushOut_tlb (t : Tile) (p : Nat) (k : Token) : (t.pushOut p k).tlb = t.tlb := by unfold Tile.pushOut; dsimp only; split <;> rfl
@[simp] theorem Tile.pushOut_icache (t : Tile) (p : Nat) (k : Token) : (t.pushOut p k).icache = t.icache := by unfold Tile.pushOut; dsimp only; split <;> rfl
@[simp] theorem Tile.pushOut_fetchMiss (t : Tile) (p : Nat) (k : Token) : (t.pushOut p k).fetchMiss = t.fetchMiss := by unfold Tile.pushOut; dsimp only; split <;> rfl
@[simp] theorem Tile.pushOut_ipref (t : Tile) (p : Nat) (k : Token) : (t.pushOut p k).ipref = t.ipref := by unfold Tile.pushOut; dsimp only; split <;> rfl
@[simp] theorem Tile.pushOut_cutFlags (t : Tile) (p : Nat) (k : Token) : (t.pushOut p k).cutFlags = t.cutFlags := by unfold Tile.pushOut; dsimp only; split <;> rfl
@[simp] theorem Tile.pushOut_cutOf (t : Tile) (p : Nat) (k : Token) : (t.pushOut p k).cutOf = t.cutOf := by unfold Tile.pushOut; dsimp only; split <;> rfl
@[simp] theorem Tile.pushOut_cutMarked (t : Tile) (p : Nat) (k : Token) : (t.pushOut p k).cutMarked = t.cutMarked := by unfold Tile.pushOut; dsimp only; split <;> rfl
@[simp] theorem Tile.pushOut_ring (t : Tile) (p : Nat) (k : Token) : (t.pushOut p k).ring = t.ring := by unfold Tile.pushOut; dsimp only; split <;> rfl
@[simp] theorem Tile.pushOut_outSeq (t : Tile) (p : Nat) (k : Token) : (t.pushOut p k).outSeq = t.outSeq := by unfold Tile.pushOut; dsimp only; split <;> rfl
@[simp] theorem Tile.pushOut_swMiss (t : Tile) (p : Nat) (k : Token) : (t.pushOut p k).swMiss = t.swMiss := by unfold Tile.pushOut; dsimp only; split <;> rfl
@[simp] theorem Tile.pushOut_fetchSw (t : Tile) (p : Nat) (k : Token) : (t.pushOut p k).fetchSw = t.fetchSw := by unfold Tile.pushOut; dsimp only; split <;> rfl
@[simp] theorem Tile.pushOut_prefetch (t : Tile) (p : Nat) (k : Token) : (t.pushOut p k).prefetch = t.prefetch := by unfold Tile.pushOut; dsimp only; split <;> rfl
@[simp] theorem Tile.pushOut_lastLine (t : Tile) (p : Nat) (k : Token) : (t.pushOut p k).lastLine = t.lastLine := by unfold Tile.pushOut; dsimp only; split <;> rfl
@[simp] theorem Tile.pushOut_selPark (t : Tile) (p : Nat) (k : Token) : (t.pushOut p k).selPark = t.selPark := by unfold Tile.pushOut; dsimp only; split <;> rfl
@[simp] theorem Tile.pushOut_rankCache (t : Tile) (p : Nat) (k : Token) : (t.pushOut p k).rankCache = t.rankCache := by unfold Tile.pushOut; dsimp only; split <;> rfl
@[simp] theorem Tile.pushOut_ownerLines (t : Tile) (p : Nat) (k : Token) : (t.pushOut p k).ownerLines = t.ownerLines := by unfold Tile.pushOut; dsimp only; split <;> rfl
@[simp] theorem Tile.pushOut_dirtyGroups (t : Tile) (p : Nat) (k : Token) : (t.pushOut p k).dirtyGroups = t.dirtyGroups := by unfold Tile.pushOut; dsimp only; split <;> rfl
@[simp] theorem Tile.pushOut_dirtyGranules (t : Tile) (p : Nat) (k : Token) : (t.pushOut p k).dirtyGranules = t.dirtyGranules := by unfold Tile.pushOut; dsimp only; split <;> rfl
@[simp] theorem Tile.pushOut_seq (t : Tile) (p : Nat) (k : Token) : (t.pushOut p k).seq = t.seq := by unfold Tile.pushOut; dsimp only; split <;> rfl
@[simp] theorem Tile.pushOut_imageOf (t : Tile) (p : Nat) (k : Token) : (t.pushOut p k).imageOf = t.imageOf := by unfold Tile.pushOut; dsimp only; split <;> rfl
@[simp] theorem Tile.pushOut_scope (t : Tile) (p : Nat) (k : Token) : (t.pushOut p k).scope = t.scope := by unfold Tile.pushOut; dsimp only; split <;> rfl
@[simp] theorem Tile.pushOut_launch (t : Tile) (p : Nat) (k : Token) : (t.pushOut p k).launch = t.launch := by unfold Tile.pushOut; dsimp only; split <;> rfl
@[simp] theorem Tile.pushOut_launchIdx (t : Tile) (p : Nat) (k : Token) : (t.pushOut p k).launchIdx = t.launchIdx := by unfold Tile.pushOut; dsimp only; split <;> rfl
@[simp] theorem Tile.pushOut_cancelled (t : Tile) (p : Nat) (k : Token) : (t.pushOut p k).cancelled = t.cancelled := by unfold Tile.pushOut; dsimp only; split <;> rfl
@[simp] theorem Tile.pushOut_follow (t : Tile) (p : Nat) (k : Token) : (t.pushOut p k).follow = t.follow := by unfold Tile.pushOut; dsimp only; split <;> rfl
@[simp] theorem Tile.acceptElem_id (t : Tile) (r : Nat) (w : Word) : (t.acceptElem r w).id = t.id := by
  unfold Tile.acceptElem; split
  · rfl
  · split <;> simp
@[simp] theorem Tile.acceptElem_run (t : Tile) (r : Nat) (w : Word) : (t.acceptElem r w).run = t.run := by
  unfold Tile.acceptElem; split
  · rfl
  · split <;> simp
@[simp] theorem Tile.acceptElem_mode (t : Tile) (r : Nat) (w : Word) : (t.acceptElem r w).mode = t.mode := by
  unfold Tile.acceptElem; split
  · rfl
  · split <;> simp
@[simp] theorem Tile.acceptElem_pc (t : Tile) (r : Nat) (w : Word) : (t.acceptElem r w).pc = t.pc := by
  unfold Tile.acceptElem; split
  · rfl
  · split <;> simp
@[simp] theorem Tile.acceptElem_x (t : Tile) (r : Nat) (w : Word) : (t.acceptElem r w).x = t.x := by
  unfold Tile.acceptElem; split
  · rfl
  · split <;> simp
@[simp] theorem Tile.acceptElem_v (t : Tile) (r : Nat) (w : Word) : (t.acceptElem r w).v = t.v := by
  unfold Tile.acceptElem; split
  · rfl
  · split <;> simp
@[simp] theorem Tile.acceptElem_m (t : Tile) (r : Nat) (w : Word) : (t.acceptElem r w).m = t.m := by
  unfold Tile.acceptElem; split
  · rfl
  · split <;> simp
@[simp] theorem Tile.acceptElem_la (t : Tile) (r : Nat) (w : Word) : (t.acceptElem r w).la = t.la := by
  unfold Tile.acceptElem; split
  · rfl
  · split <;> simp
@[simp] theorem Tile.acceptElem_loops (t : Tile) (r : Nat) (w : Word) : (t.acceptElem r w).loops = t.loops := by
  unfold Tile.acceptElem; split
  · rfl
  · split <;> simp
@[simp] theorem Tile.acceptElem_intr (t : Tile) (r : Nat) (w : Word) : (t.acceptElem r w).intr = t.intr := by
  unfold Tile.acceptElem; split
  · rfl
  · split <;> simp
@[simp] theorem Tile.acceptElem_trapBank (t : Tile) (r : Nat) (w : Word) : (t.acceptElem r w).trapBank = t.trapBank := by
  unfold Tile.acceptElem; split
  · rfl
  · split <;> simp
@[simp] theorem Tile.acceptElem_wait (t : Tile) (r : Nat) (w : Word) : (t.acceptElem r w).wait = t.wait := by
  unfold Tile.acceptElem; split
  · rfl
  · split <;> simp
@[simp] theorem Tile.acceptElem_waitPoint (t : Tile) (r : Nat) (w : Word) : (t.acceptElem r w).waitPoint = t.waitPoint := by
  unfold Tile.acceptElem; split
  · rfl
  · split <;> simp
@[simp] theorem Tile.acceptElem_parkNext (t : Tile) (r : Nat) (w : Word) : (t.acceptElem r w).parkNext = t.parkNext := by
  unfold Tile.acceptElem; split
  · rfl
  · split <;> simp
@[simp] theorem Tile.acceptElem_waitOps (t : Tile) (r : Nat) (w : Word) : (t.acceptElem r w).waitOps = t.waitOps := by
  unfold Tile.acceptElem; split
  · rfl
  · split <;> simp
@[simp] theorem Tile.acceptElem_longBuf (t : Tile) (r : Nat) (w : Word) : (t.acceptElem r w).longBuf = t.longBuf := by
  unfold Tile.acceptElem; split
  · rfl
  · split <;> simp
@[simp] theorem Tile.acceptElem_replay (t : Tile) (r : Nat) (w : Word) : (t.acceptElem r w).replay = t.replay := by
  unfold Tile.acceptElem; split
  · rfl
  · split <;> simp
@[simp] theorem Tile.acceptElem_passed (t : Tile) (r : Nat) (w : Word) : (t.acceptElem r w).passed = t.passed := by
  unfold Tile.acceptElem; split
  · rfl
  · split <;> simp
@[simp] theorem Tile.acceptElem_xfaultVa (t : Tile) (r : Nat) (w : Word) : (t.acceptElem r w).xfaultVa = t.xfaultVa := by
  unfold Tile.acceptElem; split
  · rfl
  · split <;> simp
@[simp] theorem Tile.acceptElem_xfaultInfo (t : Tile) (r : Nat) (w : Word) : (t.acceptElem r w).xfaultInfo = t.xfaultInfo := by
  unfold Tile.acceptElem; split
  · rfl
  · split <;> simp
@[simp] theorem Tile.acceptElem_shadowImg (t : Tile) (r : Nat) (w : Word) : (t.acceptElem r w).shadowImg = t.shadowImg := by
  unfold Tile.acceptElem; split
  · rfl
  · split <;> simp
@[simp] theorem Tile.acceptElem_prefetchSw (t : Tile) (r : Nat) (w : Word) : (t.acceptElem r w).prefetchSw = t.prefetchSw := by
  unfold Tile.acceptElem; split
  · rfl
  · split <;> simp
@[simp] theorem Tile.acceptElem_pendTrap (t : Tile) (r : Nat) (w : Word) : (t.acceptElem r w).pendTrap = t.pendTrap := by
  unfold Tile.acceptElem; split
  · rfl
  · split <;> simp
@[simp] theorem Tile.acceptElem_dispute (t : Tile) (r : Nat) (w : Word) : (t.acceptElem r w).dispute = t.dispute := by
  unfold Tile.acceptElem; split
  · rfl
  · split <;> simp
@[simp] theorem Tile.acceptElem_reqSeq (t : Tile) (r : Nat) (w : Word) : (t.acceptElem r w).reqSeq = t.reqSeq := by
  unfold Tile.acceptElem; split
  · rfl
  · split <;> simp
@[simp] theorem Tile.acceptElem_classInfo (t : Tile) (r : Nat) (w : Word) : (t.acceptElem r w).classInfo = t.classInfo := by
  unfold Tile.acceptElem; split
  · rfl
  · split <;> simp
@[simp] theorem Tile.acceptElem_strayInfo (t : Tile) (r : Nat) (w : Word) : (t.acceptElem r w).strayInfo = t.strayInfo := by
  unfold Tile.acceptElem; split
  · rfl
  · split <;> simp
@[simp] theorem Tile.acceptElem_cwaitGen (t : Tile) (r : Nat) (w : Word) : (t.acceptElem r w).cwaitGen = t.cwaitGen := by
  unfold Tile.acceptElem; split
  · rfl
  · split <;> simp
@[simp] theorem Tile.acceptElem_trapCause (t : Tile) (r : Nat) (w : Word) : (t.acceptElem r w).trapCause = t.trapCause := by
  unfold Tile.acceptElem; split
  · rfl
  · split <;> simp
@[simp] theorem Tile.acceptElem_trapPc (t : Tile) (r : Nat) (w : Word) : (t.acceptElem r w).trapPc = t.trapPc := by
  unfold Tile.acceptElem; split
  · rfl
  · split <;> simp
@[simp] theorem Tile.acceptElem_trapVec (t : Tile) (r : Nat) (w : Word) : (t.acceptElem r w).trapVec = t.trapVec := by
  unfold Tile.acceptElem; split
  · rfl
  · split <;> simp
@[simp] theorem Tile.acceptElem_replayPc (t : Tile) (r : Nat) (w : Word) : (t.acceptElem r w).replayPc = t.replayPc := by
  unfold Tile.acceptElem; split
  · rfl
  · split <;> simp
@[simp] theorem Tile.acceptElem_residueInfo (t : Tile) (r : Nat) (w : Word) : (t.acceptElem r w).residueInfo = t.residueInfo := by
  unfold Tile.acceptElem; split
  · rfl
  · split <;> simp
@[simp] theorem Tile.acceptElem_topoInfo (t : Tile) (r : Nat) (w : Word) : (t.acceptElem r w).topoInfo = t.topoInfo := by
  unfold Tile.acceptElem; split
  · rfl
  · split <;> simp
@[simp] theorem Tile.acceptElem_passPc (t : Tile) (r : Nat) (w : Word) : (t.acceptElem r w).passPc = t.passPc := by
  unfold Tile.acceptElem; split
  · rfl
  · split <;> simp
@[simp] theorem Tile.acceptElem_tileSplit (t : Tile) (r : Nat) (w : Word) : (t.acceptElem r w).tileSplit = t.tileSplit := by
  unfold Tile.acceptElem; split
  · rfl
  · split <;> simp
@[simp] theorem Tile.acceptElem_cfgTag (t : Tile) (r : Nat) (w : Word) : (t.acceptElem r w).cfgTag = t.cfgTag := by
  unfold Tile.acceptElem; split
  · rfl
  · split <;> simp
@[simp] theorem Tile.acceptElem_bankSucc (t : Tile) (r : Nat) (w : Word) : (t.acceptElem r w).bankSucc = t.bankSucc := by
  unfold Tile.acceptElem; split
  · rfl
  · split <;> simp
@[simp] theorem Tile.acceptElem_bankToken (t : Tile) (r : Nat) (w : Word) : (t.acceptElem r w).bankToken = t.bankToken := by
  unfold Tile.acceptElem; split
  · rfl
  · split <;> simp
@[simp] theorem Tile.acceptElem_fetchCtl (t : Tile) (r : Nat) (w : Word) : (t.acceptElem r w).fetchCtl = t.fetchCtl := by
  unfold Tile.acceptElem; split
  · rfl
  · split <;> simp
@[simp] theorem Tile.acceptElem_counters (t : Tile) (r : Nat) (w : Word) : (t.acceptElem r w).counters = t.counters := by
  unfold Tile.acceptElem; split
  · rfl
  · split <;> simp
@[simp] theorem Tile.acceptElem_inboxInfo (t : Tile) (r : Nat) (w : Word) : (t.acceptElem r w).inboxInfo = t.inboxInfo := by
  unfold Tile.acceptElem; split
  · rfl
  · split <;> simp
@[simp] theorem Tile.acceptElem_tokenCfg (t : Tile) (r : Nat) (w : Word) : (t.acceptElem r w).tokenCfg = t.tokenCfg := by
  unfold Tile.acceptElem; split
  · rfl
  · split <;> simp
@[simp] theorem Tile.acceptElem_qrecCtl (t : Tile) (r : Nat) (w : Word) : (t.acceptElem r w).qrecCtl = t.qrecCtl := by
  unfold Tile.acceptElem; split
  · rfl
  · split <;> simp
@[simp] theorem Tile.acceptElem_qlock (t : Tile) (r : Nat) (w : Word) : (t.acceptElem r w).qlock = t.qlock := by
  unfold Tile.acceptElem; split
  · rfl
  · split <;> simp
@[simp] theorem Tile.acceptElem_optSend (t : Tile) (r : Nat) (w : Word) : (t.acceptElem r w).optSend = t.optSend := by
  unfold Tile.acceptElem; split
  · rfl
  · split <;> simp
@[simp] theorem Tile.acceptElem_fmt (t : Tile) (r : Nat) (w : Word) : (t.acceptElem r w).fmt = t.fmt := by
  unfold Tile.acceptElem; split
  · rfl
  · split <;> simp
@[simp] theorem Tile.acceptElem_scale (t : Tile) (r : Nat) (w : Word) : (t.acceptElem r w).scale = t.scale := by
  unfold Tile.acceptElem; split
  · rfl
  · split <;> simp
@[simp] theorem Tile.acceptElem_htPc (t : Tile) (r : Nat) (w : Word) : (t.acceptElem r w).htPc = t.htPc := by
  unfold Tile.acceptElem; split
  · rfl
  · split <;> simp
@[simp] theorem Tile.acceptElem_htCtl (t : Tile) (r : Nat) (w : Word) : (t.acceptElem r w).htCtl = t.htCtl := by
  unfold Tile.acceptElem; split
  · rfl
  · split <;> simp
@[simp] theorem Tile.acceptElem_touch (t : Tile) (r : Nat) (w : Word) : (t.acceptElem r w).touch = t.touch := by
  unfold Tile.acceptElem; split
  · rfl
  · split <;> simp
@[simp] theorem Tile.acceptElem_touchFull (t : Tile) (r : Nat) (w : Word) : (t.acceptElem r w).touchFull = t.touchFull := by
  unfold Tile.acceptElem; split
  · rfl
  · split <;> simp
@[simp] theorem Tile.acceptElem_corrCnt (t : Tile) (r : Nat) (w : Word) : (t.acceptElem r w).corrCnt = t.corrCnt := by
  unfold Tile.acceptElem; split
  · rfl
  · split <;> simp
@[simp] theorem Tile.acceptElem_discardCnt (t : Tile) (r : Nat) (w : Word) : (t.acceptElem r w).discardCnt = t.discardCnt := by
  unfold Tile.acceptElem; split
  · rfl
  · split <;> simp
@[simp] theorem Tile.acceptElem_inbox (t : Tile) (r : Nat) (w : Word) : (t.acceptElem r w).inbox = t.inbox := by
  unfold Tile.acceptElem; split
  · rfl
  · split <;> simp
@[simp] theorem Tile.acceptElem_report (t : Tile) (r : Nat) (w : Word) : (t.acceptElem r w).report = t.report := by
  unfold Tile.acceptElem; split
  · rfl
  · split <;> simp
@[simp] theorem Tile.acceptElem_sendQ (t : Tile) (r : Nat) (w : Word) : (t.acceptElem r w).sendQ = t.sendQ := by
  unfold Tile.acceptElem; split
  · rfl
  · split <;> simp
@[simp] theorem Tile.acceptElem_barRec (t : Tile) (r : Nat) (w : Word) : (t.acceptElem r w).barRec = t.barRec := by
  unfold Tile.acceptElem; split
  · rfl
  · split <;> simp
@[simp] theorem Tile.acceptElem_coreIn (t : Tile) (r : Nat) (w : Word) : (t.acceptElem r w).coreIn = t.coreIn := by
  unfold Tile.acceptElem; split
  · rfl
  · split <;> simp
@[simp] theorem Tile.acceptElem_coreOut (t : Tile) (r : Nat) (w : Word) : (t.acceptElem r w).coreOut = t.coreOut := by
  unfold Tile.acceptElem; split
  · rfl
  · split <;> simp
@[simp] theorem Tile.acceptElem_swIn (t : Tile) (r : Nat) (w : Word) : (t.acceptElem r w).swIn = t.swIn := by
  unfold Tile.acceptElem; split
  · rfl
  · split <;> simp
@[simp] theorem Tile.acceptElem_weirs (t : Tile) (r : Nat) (w : Word) : (t.acceptElem r w).weirs = t.weirs := by
  unfold Tile.acceptElem; split
  · rfl
  · split <;> simp
@[simp] theorem Tile.acceptElem_bq (t : Tile) (r : Nat) (w : Word) : (t.acceptElem r w).bq = t.bq := by
  unfold Tile.acceptElem; split
  · rfl
  · split <;> simp
@[simp] theorem Tile.acceptElem_emq (t : Tile) (r : Nat) (w : Word) : (t.acceptElem r w).emq = t.emq := by
  unfold Tile.acceptElem; split
  · rfl
  · split <;> simp
@[simp] theorem Tile.acceptElem_sw (t : Tile) (r : Nat) (w : Word) : (t.acceptElem r w).sw = t.sw := by
  unfold Tile.acceptElem; split
  · rfl
  · split <;> simp
@[simp] theorem Tile.acceptElem_copies (t : Tile) (r : Nat) (w : Word) : (t.acceptElem r w).copies = t.copies := by
  unfold Tile.acceptElem; split
  · rfl
  · split <;> simp
@[simp] theorem Tile.acceptElem_sub (t : Tile) (r : Nat) (w : Word) : (t.acceptElem r w).sub = t.sub := by
  unfold Tile.acceptElem; split
  · rfl
  · split <;> simp
@[simp] theorem Tile.acceptElem_ports (t : Tile) (r : Nat) (w : Word) : (t.acceptElem r w).ports = t.ports := by
  unfold Tile.acceptElem; split
  · rfl
  · split <;> simp
@[simp] theorem Tile.acceptElem_chan (t : Tile) (r : Nat) (w : Word) : (t.acceptElem r w).chan = t.chan := by
  unfold Tile.acceptElem; split
  · rfl
  · split <;> simp
@[simp] theorem Tile.acceptElem_shadow (t : Tile) (r : Nat) (w : Word) : (t.acceptElem r w).shadow = t.shadow := by
  unfold Tile.acceptElem; split
  · rfl
  · split <;> simp
@[simp] theorem Tile.acceptElem_activeImg (t : Tile) (r : Nat) (w : Word) : (t.acceptElem r w).activeImg = t.activeImg := by
  unfold Tile.acceptElem; split
  · rfl
  · split <;> simp
@[simp] theorem Tile.acceptElem_carried (t : Tile) (r : Nat) (w : Word) : (t.acceptElem r w).carried = t.carried := by
  unfold Tile.acceptElem; split
  · rfl
  · split <;> simp
@[simp] theorem Tile.acceptElem_dcache (t : Tile) (r : Nat) (w : Word) : (t.acceptElem r w).dcache = t.dcache := by
  unfold Tile.acceptElem; split
  · rfl
  · split <;> simp
@[simp] theorem Tile.acceptElem_tlb (t : Tile) (r : Nat) (w : Word) : (t.acceptElem r w).tlb = t.tlb := by
  unfold Tile.acceptElem; split
  · rfl
  · split <;> simp
@[simp] theorem Tile.acceptElem_icache (t : Tile) (r : Nat) (w : Word) : (t.acceptElem r w).icache = t.icache := by
  unfold Tile.acceptElem; split
  · rfl
  · split <;> simp
@[simp] theorem Tile.acceptElem_fetchMiss (t : Tile) (r : Nat) (w : Word) : (t.acceptElem r w).fetchMiss = t.fetchMiss := by
  unfold Tile.acceptElem; split
  · rfl
  · split <;> simp
@[simp] theorem Tile.acceptElem_ipref (t : Tile) (r : Nat) (w : Word) : (t.acceptElem r w).ipref = t.ipref := by
  unfold Tile.acceptElem; split
  · rfl
  · split <;> simp
@[simp] theorem Tile.acceptElem_cutFlags (t : Tile) (r : Nat) (w : Word) : (t.acceptElem r w).cutFlags = t.cutFlags := by
  unfold Tile.acceptElem; split
  · rfl
  · split <;> simp
@[simp] theorem Tile.acceptElem_cutOf (t : Tile) (r : Nat) (w : Word) : (t.acceptElem r w).cutOf = t.cutOf := by
  unfold Tile.acceptElem; split
  · rfl
  · split <;> simp
@[simp] theorem Tile.acceptElem_cutMarked (t : Tile) (r : Nat) (w : Word) : (t.acceptElem r w).cutMarked = t.cutMarked := by
  unfold Tile.acceptElem; split
  · rfl
  · split <;> simp
@[simp] theorem Tile.acceptElem_ring (t : Tile) (r : Nat) (w : Word) : (t.acceptElem r w).ring = t.ring := by
  unfold Tile.acceptElem; split
  · rfl
  · split <;> simp
@[simp] theorem Tile.acceptElem_swMiss (t : Tile) (r : Nat) (w : Word) : (t.acceptElem r w).swMiss = t.swMiss := by
  unfold Tile.acceptElem; split
  · rfl
  · split <;> simp
@[simp] theorem Tile.acceptElem_fetchSw (t : Tile) (r : Nat) (w : Word) : (t.acceptElem r w).fetchSw = t.fetchSw := by
  unfold Tile.acceptElem; split
  · rfl
  · split <;> simp
@[simp] theorem Tile.acceptElem_prefetch (t : Tile) (r : Nat) (w : Word) : (t.acceptElem r w).prefetch = t.prefetch := by
  unfold Tile.acceptElem; split
  · rfl
  · split <;> simp
@[simp] theorem Tile.acceptElem_lastLine (t : Tile) (r : Nat) (w : Word) : (t.acceptElem r w).lastLine = t.lastLine := by
  unfold Tile.acceptElem; split
  · rfl
  · split <;> simp
@[simp] theorem Tile.acceptElem_selPark (t : Tile) (r : Nat) (w : Word) : (t.acceptElem r w).selPark = t.selPark := by
  unfold Tile.acceptElem; split
  · rfl
  · split <;> simp
@[simp] theorem Tile.acceptElem_rankCache (t : Tile) (r : Nat) (w : Word) : (t.acceptElem r w).rankCache = t.rankCache := by
  unfold Tile.acceptElem; split
  · rfl
  · split <;> simp
@[simp] theorem Tile.acceptElem_ownerLines (t : Tile) (r : Nat) (w : Word) : (t.acceptElem r w).ownerLines = t.ownerLines := by
  unfold Tile.acceptElem; split
  · rfl
  · split <;> simp
@[simp] theorem Tile.acceptElem_dirtyGroups (t : Tile) (r : Nat) (w : Word) : (t.acceptElem r w).dirtyGroups = t.dirtyGroups := by
  unfold Tile.acceptElem; split
  · rfl
  · split <;> simp
@[simp] theorem Tile.acceptElem_dirtyGranules (t : Tile) (r : Nat) (w : Word) : (t.acceptElem r w).dirtyGranules = t.dirtyGranules := by
  unfold Tile.acceptElem; split
  · rfl
  · split <;> simp
@[simp] theorem Tile.acceptElem_seq (t : Tile) (r : Nat) (w : Word) : (t.acceptElem r w).seq = t.seq := by
  unfold Tile.acceptElem; split
  · rfl
  · split <;> simp
@[simp] theorem Tile.acceptElem_imageOf (t : Tile) (r : Nat) (w : Word) : (t.acceptElem r w).imageOf = t.imageOf := by
  unfold Tile.acceptElem; split
  · rfl
  · split <;> simp
@[simp] theorem Tile.acceptElem_scope (t : Tile) (r : Nat) (w : Word) : (t.acceptElem r w).scope = t.scope := by
  unfold Tile.acceptElem; split
  · rfl
  · split <;> simp
@[simp] theorem Tile.acceptElem_launch (t : Tile) (r : Nat) (w : Word) : (t.acceptElem r w).launch = t.launch := by
  unfold Tile.acceptElem; split
  · rfl
  · split <;> simp
@[simp] theorem Tile.acceptElem_launchIdx (t : Tile) (r : Nat) (w : Word) : (t.acceptElem r w).launchIdx = t.launchIdx := by
  unfold Tile.acceptElem; split
  · rfl
  · split <;> simp
@[simp] theorem Tile.acceptElem_cancelled (t : Tile) (r : Nat) (w : Word) : (t.acceptElem r w).cancelled = t.cancelled := by
  unfold Tile.acceptElem; split
  · rfl
  · split <;> simp
@[simp] theorem Tile.acceptElem_follow (t : Tile) (r : Nat) (w : Word) : (t.acceptElem r w).follow = t.follow := by
  unfold Tile.acceptElem; split
  · rfl
  · split <;> simp
@[simp] theorem Tile.acceptElem_openChunk (t : Tile) (r : Nat) (w : Word) : (t.acceptElem r w).openChunk = t.openChunk := by
  unfold Tile.acceptElem; split
  · rfl
  · split <;> simp
@[simp] theorem Tile.giveX_id (t : Tile) (c : BitVec 6) (w : Word) : (t.giveX c w).id = t.id := by
  unfold Tile.giveX; dsimp only; split <;> (try split) <;> simp
@[simp] theorem Tile.giveX_run (t : Tile) (c : BitVec 6) (w : Word) : (t.giveX c w).run = t.run := by
  unfold Tile.giveX; dsimp only; split <;> (try split) <;> simp
@[simp] theorem Tile.giveX_mode (t : Tile) (c : BitVec 6) (w : Word) : (t.giveX c w).mode = t.mode := by
  unfold Tile.giveX; dsimp only; split <;> (try split) <;> simp
@[simp] theorem Tile.giveX_pc (t : Tile) (c : BitVec 6) (w : Word) : (t.giveX c w).pc = t.pc := by
  unfold Tile.giveX; dsimp only; split <;> (try split) <;> simp
@[simp] theorem Tile.giveX_v (t : Tile) (c : BitVec 6) (w : Word) : (t.giveX c w).v = t.v := by
  unfold Tile.giveX; dsimp only; split <;> (try split) <;> simp
@[simp] theorem Tile.giveX_m (t : Tile) (c : BitVec 6) (w : Word) : (t.giveX c w).m = t.m := by
  unfold Tile.giveX; dsimp only; split <;> (try split) <;> simp
@[simp] theorem Tile.giveX_la (t : Tile) (c : BitVec 6) (w : Word) : (t.giveX c w).la = t.la := by
  unfold Tile.giveX; dsimp only; split <;> (try split) <;> simp
@[simp] theorem Tile.giveX_loops (t : Tile) (c : BitVec 6) (w : Word) : (t.giveX c w).loops = t.loops := by
  unfold Tile.giveX; dsimp only; split <;> (try split) <;> simp
@[simp] theorem Tile.giveX_intr (t : Tile) (c : BitVec 6) (w : Word) : (t.giveX c w).intr = t.intr := by
  unfold Tile.giveX; dsimp only; split <;> (try split) <;> simp
@[simp] theorem Tile.giveX_trapBank (t : Tile) (c : BitVec 6) (w : Word) : (t.giveX c w).trapBank = t.trapBank := by
  unfold Tile.giveX; dsimp only; split <;> (try split) <;> simp
@[simp] theorem Tile.giveX_wait (t : Tile) (c : BitVec 6) (w : Word) : (t.giveX c w).wait = t.wait := by
  unfold Tile.giveX; dsimp only; split <;> (try split) <;> simp
@[simp] theorem Tile.giveX_waitPoint (t : Tile) (c : BitVec 6) (w : Word) : (t.giveX c w).waitPoint = t.waitPoint := by
  unfold Tile.giveX; dsimp only; split <;> (try split) <;> simp
@[simp] theorem Tile.giveX_parkNext (t : Tile) (c : BitVec 6) (w : Word) : (t.giveX c w).parkNext = t.parkNext := by
  unfold Tile.giveX; dsimp only; split <;> (try split) <;> simp
@[simp] theorem Tile.giveX_waitOps (t : Tile) (c : BitVec 6) (w : Word) : (t.giveX c w).waitOps = t.waitOps := by
  unfold Tile.giveX; dsimp only; split <;> (try split) <;> simp
@[simp] theorem Tile.giveX_replay (t : Tile) (c : BitVec 6) (w : Word) : (t.giveX c w).replay = t.replay := by
  unfold Tile.giveX; dsimp only; split <;> (try split) <;> simp
@[simp] theorem Tile.giveX_passed (t : Tile) (c : BitVec 6) (w : Word) : (t.giveX c w).passed = t.passed := by
  unfold Tile.giveX; dsimp only; split <;> (try split) <;> simp
@[simp] theorem Tile.giveX_xfaultVa (t : Tile) (c : BitVec 6) (w : Word) : (t.giveX c w).xfaultVa = t.xfaultVa := by
  unfold Tile.giveX; dsimp only; split <;> (try split) <;> simp
@[simp] theorem Tile.giveX_xfaultInfo (t : Tile) (c : BitVec 6) (w : Word) : (t.giveX c w).xfaultInfo = t.xfaultInfo := by
  unfold Tile.giveX; dsimp only; split <;> (try split) <;> simp
@[simp] theorem Tile.giveX_shadowImg (t : Tile) (c : BitVec 6) (w : Word) : (t.giveX c w).shadowImg = t.shadowImg := by
  unfold Tile.giveX; dsimp only; split <;> (try split) <;> simp
@[simp] theorem Tile.giveX_prefetchSw (t : Tile) (c : BitVec 6) (w : Word) : (t.giveX c w).prefetchSw = t.prefetchSw := by
  unfold Tile.giveX; dsimp only; split <;> (try split) <;> simp
@[simp] theorem Tile.giveX_pendTrap (t : Tile) (c : BitVec 6) (w : Word) : (t.giveX c w).pendTrap = t.pendTrap := by
  unfold Tile.giveX; dsimp only; split <;> (try split) <;> simp
@[simp] theorem Tile.giveX_dispute (t : Tile) (c : BitVec 6) (w : Word) : (t.giveX c w).dispute = t.dispute := by
  unfold Tile.giveX; dsimp only; split <;> (try split) <;> simp
@[simp] theorem Tile.giveX_reqSeq (t : Tile) (c : BitVec 6) (w : Word) : (t.giveX c w).reqSeq = t.reqSeq := by
  unfold Tile.giveX; dsimp only; split <;> (try split) <;> simp
@[simp] theorem Tile.giveX_classInfo (t : Tile) (c : BitVec 6) (w : Word) : (t.giveX c w).classInfo = t.classInfo := by
  unfold Tile.giveX; dsimp only; split <;> (try split) <;> simp
@[simp] theorem Tile.giveX_strayInfo (t : Tile) (c : BitVec 6) (w : Word) : (t.giveX c w).strayInfo = t.strayInfo := by
  unfold Tile.giveX; dsimp only; split <;> (try split) <;> simp
@[simp] theorem Tile.giveX_cwaitGen (t : Tile) (c : BitVec 6) (w : Word) : (t.giveX c w).cwaitGen = t.cwaitGen := by
  unfold Tile.giveX; dsimp only; split <;> (try split) <;> simp
@[simp] theorem Tile.giveX_trapCause (t : Tile) (c : BitVec 6) (w : Word) : (t.giveX c w).trapCause = t.trapCause := by
  unfold Tile.giveX; dsimp only; split <;> (try split) <;> simp
@[simp] theorem Tile.giveX_trapPc (t : Tile) (c : BitVec 6) (w : Word) : (t.giveX c w).trapPc = t.trapPc := by
  unfold Tile.giveX; dsimp only; split <;> (try split) <;> simp
@[simp] theorem Tile.giveX_trapVec (t : Tile) (c : BitVec 6) (w : Word) : (t.giveX c w).trapVec = t.trapVec := by
  unfold Tile.giveX; dsimp only; split <;> (try split) <;> simp
@[simp] theorem Tile.giveX_replayPc (t : Tile) (c : BitVec 6) (w : Word) : (t.giveX c w).replayPc = t.replayPc := by
  unfold Tile.giveX; dsimp only; split <;> (try split) <;> simp
@[simp] theorem Tile.giveX_residueInfo (t : Tile) (c : BitVec 6) (w : Word) : (t.giveX c w).residueInfo = t.residueInfo := by
  unfold Tile.giveX; dsimp only; split <;> (try split) <;> simp
@[simp] theorem Tile.giveX_topoInfo (t : Tile) (c : BitVec 6) (w : Word) : (t.giveX c w).topoInfo = t.topoInfo := by
  unfold Tile.giveX; dsimp only; split <;> (try split) <;> simp
@[simp] theorem Tile.giveX_passPc (t : Tile) (c : BitVec 6) (w : Word) : (t.giveX c w).passPc = t.passPc := by
  unfold Tile.giveX; dsimp only; split <;> (try split) <;> simp
@[simp] theorem Tile.giveX_tileSplit (t : Tile) (c : BitVec 6) (w : Word) : (t.giveX c w).tileSplit = t.tileSplit := by
  unfold Tile.giveX; dsimp only; split <;> (try split) <;> simp
@[simp] theorem Tile.giveX_cfgTag (t : Tile) (c : BitVec 6) (w : Word) : (t.giveX c w).cfgTag = t.cfgTag := by
  unfold Tile.giveX; dsimp only; split <;> (try split) <;> simp
@[simp] theorem Tile.giveX_bankSucc (t : Tile) (c : BitVec 6) (w : Word) : (t.giveX c w).bankSucc = t.bankSucc := by
  unfold Tile.giveX; dsimp only; split <;> (try split) <;> simp
@[simp] theorem Tile.giveX_bankToken (t : Tile) (c : BitVec 6) (w : Word) : (t.giveX c w).bankToken = t.bankToken := by
  unfold Tile.giveX; dsimp only; split <;> (try split) <;> simp
@[simp] theorem Tile.giveX_fetchCtl (t : Tile) (c : BitVec 6) (w : Word) : (t.giveX c w).fetchCtl = t.fetchCtl := by
  unfold Tile.giveX; dsimp only; split <;> (try split) <;> simp
@[simp] theorem Tile.giveX_counters (t : Tile) (c : BitVec 6) (w : Word) : (t.giveX c w).counters = t.counters := by
  unfold Tile.giveX; dsimp only; split <;> (try split) <;> simp
@[simp] theorem Tile.giveX_inboxInfo (t : Tile) (c : BitVec 6) (w : Word) : (t.giveX c w).inboxInfo = t.inboxInfo := by
  unfold Tile.giveX; dsimp only; split <;> (try split) <;> simp
@[simp] theorem Tile.giveX_qrecCtl (t : Tile) (c : BitVec 6) (w : Word) : (t.giveX c w).qrecCtl = t.qrecCtl := by
  unfold Tile.giveX; dsimp only; split <;> (try split) <;> simp
@[simp] theorem Tile.giveX_qlock (t : Tile) (c : BitVec 6) (w : Word) : (t.giveX c w).qlock = t.qlock := by
  unfold Tile.giveX; dsimp only; split <;> (try split) <;> simp
@[simp] theorem Tile.giveX_optSend (t : Tile) (c : BitVec 6) (w : Word) : (t.giveX c w).optSend = t.optSend := by
  unfold Tile.giveX; dsimp only; split <;> (try split) <;> simp
@[simp] theorem Tile.giveX_fmt (t : Tile) (c : BitVec 6) (w : Word) : (t.giveX c w).fmt = t.fmt := by
  unfold Tile.giveX; dsimp only; split <;> (try split) <;> simp
@[simp] theorem Tile.giveX_htPc (t : Tile) (c : BitVec 6) (w : Word) : (t.giveX c w).htPc = t.htPc := by
  unfold Tile.giveX; dsimp only; split <;> (try split) <;> simp
@[simp] theorem Tile.giveX_htCtl (t : Tile) (c : BitVec 6) (w : Word) : (t.giveX c w).htCtl = t.htCtl := by
  unfold Tile.giveX; dsimp only; split <;> (try split) <;> simp
@[simp] theorem Tile.giveX_touch (t : Tile) (c : BitVec 6) (w : Word) : (t.giveX c w).touch = t.touch := by
  unfold Tile.giveX; dsimp only; split <;> (try split) <;> simp
@[simp] theorem Tile.giveX_touchFull (t : Tile) (c : BitVec 6) (w : Word) : (t.giveX c w).touchFull = t.touchFull := by
  unfold Tile.giveX; dsimp only; split <;> (try split) <;> simp
@[simp] theorem Tile.giveX_corrCnt (t : Tile) (c : BitVec 6) (w : Word) : (t.giveX c w).corrCnt = t.corrCnt := by
  unfold Tile.giveX; dsimp only; split <;> (try split) <;> simp
@[simp] theorem Tile.giveX_discardCnt (t : Tile) (c : BitVec 6) (w : Word) : (t.giveX c w).discardCnt = t.discardCnt := by
  unfold Tile.giveX; dsimp only; split <;> (try split) <;> simp
@[simp] theorem Tile.giveX_inbox (t : Tile) (c : BitVec 6) (w : Word) : (t.giveX c w).inbox = t.inbox := by
  unfold Tile.giveX; dsimp only; split <;> (try split) <;> simp
@[simp] theorem Tile.giveX_report (t : Tile) (c : BitVec 6) (w : Word) : (t.giveX c w).report = t.report := by
  unfold Tile.giveX; dsimp only; split <;> (try split) <;> simp
@[simp] theorem Tile.giveX_sendQ (t : Tile) (c : BitVec 6) (w : Word) : (t.giveX c w).sendQ = t.sendQ := by
  unfold Tile.giveX; dsimp only; split <;> (try split) <;> simp
@[simp] theorem Tile.giveX_barRec (t : Tile) (c : BitVec 6) (w : Word) : (t.giveX c w).barRec = t.barRec := by
  unfold Tile.giveX; dsimp only; split <;> (try split) <;> simp
@[simp] theorem Tile.giveX_coreIn (t : Tile) (c : BitVec 6) (w : Word) : (t.giveX c w).coreIn = t.coreIn := by
  unfold Tile.giveX; dsimp only; split <;> (try split) <;> simp
@[simp] theorem Tile.giveX_swIn (t : Tile) (c : BitVec 6) (w : Word) : (t.giveX c w).swIn = t.swIn := by
  unfold Tile.giveX; dsimp only; split <;> (try split) <;> simp
@[simp] theorem Tile.giveX_weirs (t : Tile) (c : BitVec 6) (w : Word) : (t.giveX c w).weirs = t.weirs := by
  unfold Tile.giveX; dsimp only; split <;> (try split) <;> simp
@[simp] theorem Tile.giveX_emq (t : Tile) (c : BitVec 6) (w : Word) : (t.giveX c w).emq = t.emq := by
  unfold Tile.giveX; dsimp only; split <;> (try split) <;> simp
@[simp] theorem Tile.giveX_sw (t : Tile) (c : BitVec 6) (w : Word) : (t.giveX c w).sw = t.sw := by
  unfold Tile.giveX; dsimp only; split <;> (try split) <;> simp
@[simp] theorem Tile.giveX_copies (t : Tile) (c : BitVec 6) (w : Word) : (t.giveX c w).copies = t.copies := by
  unfold Tile.giveX; dsimp only; split <;> (try split) <;> simp
@[simp] theorem Tile.giveX_sub (t : Tile) (c : BitVec 6) (w : Word) : (t.giveX c w).sub = t.sub := by
  unfold Tile.giveX; dsimp only; split <;> (try split) <;> simp
@[simp] theorem Tile.giveX_ports (t : Tile) (c : BitVec 6) (w : Word) : (t.giveX c w).ports = t.ports := by
  unfold Tile.giveX; dsimp only; split <;> (try split) <;> simp
@[simp] theorem Tile.giveX_chan (t : Tile) (c : BitVec 6) (w : Word) : (t.giveX c w).chan = t.chan := by
  unfold Tile.giveX; dsimp only; split <;> (try split) <;> simp
@[simp] theorem Tile.giveX_shadow (t : Tile) (c : BitVec 6) (w : Word) : (t.giveX c w).shadow = t.shadow := by
  unfold Tile.giveX; dsimp only; split <;> (try split) <;> simp
@[simp] theorem Tile.giveX_activeImg (t : Tile) (c : BitVec 6) (w : Word) : (t.giveX c w).activeImg = t.activeImg := by
  unfold Tile.giveX; dsimp only; split <;> (try split) <;> simp
@[simp] theorem Tile.giveX_carried (t : Tile) (c : BitVec 6) (w : Word) : (t.giveX c w).carried = t.carried := by
  unfold Tile.giveX; dsimp only; split <;> (try split) <;> simp
@[simp] theorem Tile.giveX_dcache (t : Tile) (c : BitVec 6) (w : Word) : (t.giveX c w).dcache = t.dcache := by
  unfold Tile.giveX; dsimp only; split <;> (try split) <;> simp
@[simp] theorem Tile.giveX_tlb (t : Tile) (c : BitVec 6) (w : Word) : (t.giveX c w).tlb = t.tlb := by
  unfold Tile.giveX; dsimp only; split <;> (try split) <;> simp
@[simp] theorem Tile.giveX_icache (t : Tile) (c : BitVec 6) (w : Word) : (t.giveX c w).icache = t.icache := by
  unfold Tile.giveX; dsimp only; split <;> (try split) <;> simp
@[simp] theorem Tile.giveX_fetchMiss (t : Tile) (c : BitVec 6) (w : Word) : (t.giveX c w).fetchMiss = t.fetchMiss := by
  unfold Tile.giveX; dsimp only; split <;> (try split) <;> simp
@[simp] theorem Tile.giveX_ipref (t : Tile) (c : BitVec 6) (w : Word) : (t.giveX c w).ipref = t.ipref := by
  unfold Tile.giveX; dsimp only; split <;> (try split) <;> simp
@[simp] theorem Tile.giveX_cutFlags (t : Tile) (c : BitVec 6) (w : Word) : (t.giveX c w).cutFlags = t.cutFlags := by
  unfold Tile.giveX; dsimp only; split <;> (try split) <;> simp
@[simp] theorem Tile.giveX_cutOf (t : Tile) (c : BitVec 6) (w : Word) : (t.giveX c w).cutOf = t.cutOf := by
  unfold Tile.giveX; dsimp only; split <;> (try split) <;> simp
@[simp] theorem Tile.giveX_cutMarked (t : Tile) (c : BitVec 6) (w : Word) : (t.giveX c w).cutMarked = t.cutMarked := by
  unfold Tile.giveX; dsimp only; split <;> (try split) <;> simp
@[simp] theorem Tile.giveX_ring (t : Tile) (c : BitVec 6) (w : Word) : (t.giveX c w).ring = t.ring := by
  unfold Tile.giveX; dsimp only; split <;> (try split) <;> simp
@[simp] theorem Tile.giveX_swMiss (t : Tile) (c : BitVec 6) (w : Word) : (t.giveX c w).swMiss = t.swMiss := by
  unfold Tile.giveX; dsimp only; split <;> (try split) <;> simp
@[simp] theorem Tile.giveX_fetchSw (t : Tile) (c : BitVec 6) (w : Word) : (t.giveX c w).fetchSw = t.fetchSw := by
  unfold Tile.giveX; dsimp only; split <;> (try split) <;> simp
@[simp] theorem Tile.giveX_prefetch (t : Tile) (c : BitVec 6) (w : Word) : (t.giveX c w).prefetch = t.prefetch := by
  unfold Tile.giveX; dsimp only; split <;> (try split) <;> simp
@[simp] theorem Tile.giveX_lastLine (t : Tile) (c : BitVec 6) (w : Word) : (t.giveX c w).lastLine = t.lastLine := by
  unfold Tile.giveX; dsimp only; split <;> (try split) <;> simp
@[simp] theorem Tile.giveX_selPark (t : Tile) (c : BitVec 6) (w : Word) : (t.giveX c w).selPark = t.selPark := by
  unfold Tile.giveX; dsimp only; split <;> (try split) <;> simp
@[simp] theorem Tile.giveX_rankCache (t : Tile) (c : BitVec 6) (w : Word) : (t.giveX c w).rankCache = t.rankCache := by
  unfold Tile.giveX; dsimp only; split <;> (try split) <;> simp
@[simp] theorem Tile.giveX_ownerLines (t : Tile) (c : BitVec 6) (w : Word) : (t.giveX c w).ownerLines = t.ownerLines := by
  unfold Tile.giveX; dsimp only; split <;> (try split) <;> simp
@[simp] theorem Tile.giveX_dirtyGroups (t : Tile) (c : BitVec 6) (w : Word) : (t.giveX c w).dirtyGroups = t.dirtyGroups := by
  unfold Tile.giveX; dsimp only; split <;> (try split) <;> simp
@[simp] theorem Tile.giveX_dirtyGranules (t : Tile) (c : BitVec 6) (w : Word) : (t.giveX c w).dirtyGranules = t.dirtyGranules := by
  unfold Tile.giveX; dsimp only; split <;> (try split) <;> simp
@[simp] theorem Tile.giveX_seq (t : Tile) (c : BitVec 6) (w : Word) : (t.giveX c w).seq = t.seq := by
  unfold Tile.giveX; dsimp only; split <;> (try split) <;> simp
@[simp] theorem Tile.giveX_imageOf (t : Tile) (c : BitVec 6) (w : Word) : (t.giveX c w).imageOf = t.imageOf := by
  unfold Tile.giveX; dsimp only; split <;> (try split) <;> simp
@[simp] theorem Tile.giveX_scope (t : Tile) (c : BitVec 6) (w : Word) : (t.giveX c w).scope = t.scope := by
  unfold Tile.giveX; dsimp only; split <;> (try split) <;> simp
@[simp] theorem Tile.giveX_launch (t : Tile) (c : BitVec 6) (w : Word) : (t.giveX c w).launch = t.launch := by
  unfold Tile.giveX; dsimp only; split <;> (try split) <;> simp
@[simp] theorem Tile.giveX_launchIdx (t : Tile) (c : BitVec 6) (w : Word) : (t.giveX c w).launchIdx = t.launchIdx := by
  unfold Tile.giveX; dsimp only; split <;> (try split) <;> simp
@[simp] theorem Tile.giveX_cancelled (t : Tile) (c : BitVec 6) (w : Word) : (t.giveX c w).cancelled = t.cancelled := by
  unfold Tile.giveX; dsimp only; split <;> (try split) <;> simp
@[simp] theorem Tile.giveX_follow (t : Tile) (c : BitVec 6) (w : Word) : (t.giveX c w).follow = t.follow := by
  unfold Tile.giveX; dsimp only; split <;> (try split) <;> simp

/- Codes that name a register or a port -/

theorem Opnd.place_reg (c : BitVec 6) (h : c.toNat < 32) : (Opnd.x c).place = .reg c.toNat := by
  unfold Opnd.place; dsimp only; rw [if_pos h]

theorem Opnd.place_port (c : BitVec 6) (h : 32 ≤ c.toNat) (h2 : c.toNat < 40) : (Opnd.x c).place = .port (c.toNat - 32) := by
  unfold Opnd.place; dsimp only; rw [if_neg (by omega), if_pos h2]

theorem Tile.setFlags_none (t : Tile) : t.setFlags 0#64 = t := by
  unfold Tile.setFlags
  rw [show (0#64 &&& flagMask) = 0#64 from BitVec.zero_and, BitVec.or_zero]

/-- Asking sources none of which answers finds nothing. -/
theorem scanSrcs_none {α : Type} (g : Tile → Opnd → Option α) (l : List Opnd) (h : ∀ o ∈ l, ∀ t, g t o = none) (t : Tile) : scanSrcs g t l = none := by
  induction l generalizing t with
  | nil => rfl
  | cons a r ih =>
    rw [scanSrcs, h a List.mem_cons_self]
    exact ih (fun o ho => h o (List.mem_cons_of_mem _ ho)) _

/-- Operands that are registers of the core pass the check of the bindings. -/
theorem checkBindings_regs (s : State) (srcs dsts : List Opnd) (h : ∀ o ∈ srcs ++ dsts, (∃ n, o.place = .reg n) ∨ (∃ n, o.place = .vreg n)) :
    checkBindings srcs dsts s = .ok ((), s) := by
  obtain ⟨e, -⟩ | ⟨-, hb⟩ := checkBindings_cases srcs dsts s
  · exact e
  · obtain hb | hb := hb <;> obtain ⟨o, ho, hx⟩ := List.any_eq_true.mp hb <;>
      obtain ⟨n, e⟩ | ⟨n, e⟩ := h o (List.mem_append.mpr (by first | exact .inl ho | exact .inr ho)) <;>
      (unfold Tile.streamBad at hx; rw [e] at hx; exact absurd hx (by simp))

/-- Operands that are registers of the core pass every check. -/
theorem checkOperands_regs (s : State) (srcs dsts : List Opnd) (h : ∀ o ∈ srcs ++ dsts, (∃ n, o.place = .reg n) ∨ (∃ n, o.place = .vreg n)) :
    checkOperands srcs dsts s = .ok ((), s) := by
  have hs : ∀ o ∈ srcs, (∃ n, o.place = .reg n) ∨ (∃ n, o.place = .vreg n) := fun o ho => h o (List.mem_append_left _ ho)
  have hd : ∀ o ∈ dsts, (∃ n, o.place = .reg n) ∨ (∃ n, o.place = .vreg n) := fun o ho => h o (List.mem_append_right _ ho)
  have a3 : (srcs ++ dsts).any s.tile.widthBad = false := by
    rw [List.any_eq_false]; intro o ho
    obtain ⟨n, e⟩ | ⟨n, e⟩ := h o ho <;> (unfold Tile.widthBad; rw [e]; exact Bool.false_ne_true)
  have a4 : scanSrcs availSrc s.tile srcs = none :=
    scanSrcs_none _ _ (fun o ho t => by obtain ⟨n, e⟩ | ⟨n, e⟩ := hs o ho <;> (unfold availSrc; rw [e])) _
  have a5 : scanSrcs (examineSrc s.tile) s.tile srcs = none :=
    scanSrcs_none _ _ (fun o ho t => by obtain ⟨n, e⟩ | ⟨n, e⟩ := hs o ho <;> (unfold examineSrc; rw [e])) _
  have a6 : dsts.findSome? (raiseDst s) = none := by
    rw [List.findSome?_eq_none_iff]; intro o ho
    obtain ⟨n, e⟩ | ⟨n, e⟩ := hd o ho <;> (unfold raiseDst; rw [e])
  have a7 : dsts.findSome? (roomDst s.tile) = none := by
    rw [List.findSome?_eq_none_iff]; intro o ho
    obtain ⟨n, e⟩ | ⟨n, e⟩ := hd o ho <;> (unfold roomDst; rw [e])
  unfold checkOperands
  rw [Exec.bind_ok (checkBindings_regs s srcs dsts h), Exec.bind_ok (look_apply id s)]
  simp only [id_eq]
  rw [Exec.bind_ok (demand_true _ _ (by rw [a3]; rfl))]
  simp only [a4, a5, a6, a7]
  rfl

end Sys2Proof.Machine
end

