-- ==== Sys2Proof/Tests/Slice0.lean ====
section
/-! SUPPORT. Tests of the model: words decoded against the encodings of the spec, ill-formed terms, one-step tests, and witnesses for the
hypotheses of the statements. -/
section
open Sys2Proof Sys2Proof.Machine
set_option maxRecDepth 8000
set_option Elab.async false
set_option linter.unusedVariables false

/- Decoding: the words stand field by field as chapter 10 of the spec lays them out -/

/-- The parcels of an instruction decode to it, and its encoding gives them back, with the park bit that they have. -/
abbrev Spells (l : List Parcel) (i : Instr) : Prop :=
  decode (parcelAt l 0) (parcelAt l 1) (parcelAt l 2) = .ok i ∧ encode ((parcelAt l 0).extractLsb' 31 1) i = l

/-- The same for a word of the switch. -/
abbrev SpellsSwitch (w : BitVec 64) (i : Instr) : Prop := decodeSwitch w = .ok i ∧ encode 0 i = halves w

theorem test_decode_scalar_1 :
    Spells [0b0_000001_000101_000110_000111_0000000] (.add 5 6 7) ∧
    Spells [0b1_000001_000101_000110_000111_0000001] (.sub 5 6 7) ∧
    Spells [0b0_000001_000101_000110_000111_0000010] (.mul 5 6 7) ∧
    Spells [0b1_000001_000101_000110_000111_0000011] (.mulh 5 6 7) ∧
    Spells [0b0_000001_000101_000110_000111_0000100] (.mulhu 5 6 7) ∧
    Spells [0b1_000001_000101_000110_000111_0000101] (.div 5 6 7) ∧
    Spells [0b0_000001_000101_000110_000111_0000110] (.divu 5 6 7) ∧
    Spells [0b1_000001_000101_000110_000111_0000111] (.rem 5 6 7) ∧
    Spells [0b0_000001_000101_000110_000111_0001000] (.remu 5 6 7) ∧
    Spells [0b1_000001_000101_000110_000111_0010000] (.and 5 6 7) ∧
    Spells [0b0_000001_000101_000110_000111_0010001] (.or 5 6 7) ∧
    Spells [0b1_000001_000101_000110_000111_0010010] (.xor 5 6 7) ∧
    Spells [0b0_000001_000101_000110_000111_0010011] (.andn 5 6 7) ∧
    Spells [0b1_000001_000101_000110_000111_0010100] (.orn 5 6 7) ∧
    Spells [0b0_000001_000101_000110_000111_0010101] (.xnor 5 6 7) ∧
    Spells [0b1_000001_000101_000110_000111_0011000] (.shl 5 6 7) ∧
    Spells [0b0_000001_000101_000110_000111_0011001] (.shr 5 6 7) ∧
    Spells [0b1_000001_000101_000110_000111_0011010] (.sar 5 6 7) ∧
    Spells [0b0_000001_000101_000110_000111_0011011] (.rol 5 6 7) ∧
    Spells [0b1_000001_000101_000110_000111_0100000] (.min 5 6 7) ∧
    Spells [0b0_000001_000101_000110_000111_0100001] (.max 5 6 7) ∧
    Spells [0b1_000001_000101_000110_000111_0100010] (.minu 5 6 7) ∧
    Spells [0b0_000001_000101_000110_000111_0100011] (.maxu 5 6 7) ∧
    Spells [0b1_000001_000101_000110_000111_0101000] (.seq 5 6 7) :=
  ⟨⟨rfl, rfl⟩, ⟨rfl, rfl⟩, ⟨rfl, rfl⟩, ⟨rfl, rfl⟩, ⟨rfl, rfl⟩, ⟨rfl, rfl⟩, ⟨rfl, rfl⟩, ⟨rfl, rfl⟩, ⟨rfl, rfl⟩, ⟨rfl, rfl⟩, ⟨rfl, rfl⟩, ⟨rfl, rfl⟩, ⟨rfl, rfl⟩, ⟨rfl, rfl⟩, ⟨rfl, rfl⟩, ⟨rfl, rfl⟩, ⟨rfl, rfl⟩, ⟨rfl, rfl⟩, ⟨rfl, rfl⟩, ⟨rfl, rfl⟩, ⟨rfl, rfl⟩, ⟨rfl, rfl⟩, ⟨rfl, rfl⟩, ⟨rfl, rfl⟩⟩

theorem test_decode_scalar_2 :
    Spells [0b0_000001_000101_000110_000111_0101001] (.sne 5 6 7) ∧
    Spells [0b1_000001_000101_000110_000111_0101010] (.slt 5 6 7) ∧
    Spells [0b0_000001_000101_000110_000111_0101011] (.sltu 5 6 7) ∧
    Spells [0b1_000001_000101_000110_000111_0101100] (.sel 5 6 7) ∧
    Spells [0b0_000001_000101_000110_0000000110000] (.clz 5 6) ∧
    Spells [0b1_000001_000101_000110_0000000110001] (.ctz 5 6) ∧
    Spells [0b0_000001_000101_000110_0000000110010] (.popc 5 6) ∧
    Spells [0b1_000001_000101_000110_0000000110011] (.brev 5 6) ∧
    Spells [0b0_000001_000101_000110_0000000110100] (.bswap 5 6) ∧
    Spells [0b1_000010_000101_000110_1101010111100] (.addImm 5 6 6844) ∧
    Spells [0b0_000011_000101_000110_1101010111100] (.mulImm 5 6 6844) ∧
    Spells [0b1_000100_000101_000110_1101010111100] (.andImm 5 6 6844) ∧
    Spells [0b0_000101_000101_000110_1101010111100] (.orImm 5 6 6844) ∧
    Spells [0b1_000110_000101_000110_1101010111100] (.xorImm 5 6 6844) ∧
    Spells [0b0_000111_000101_000110_1101010111100] (.seqImm 5 6 6844) ∧
    Spells [0b1_001000_000101_000110_1101010111100] (.sneImm 5 6 6844) ∧
    Spells [0b0_001001_000101_000110_1101010111100] (.sltImm 5 6 6844) ∧
    Spells [0b1_001010_000101_000110_1101010111100] (.sltuImm 5 6 6844) ∧
    Spells [0b0_001011_000101_000110_0000000_001011] (.shlImm 5 6 11) ∧
    Spells [0b1_001011_000101_000110_0000001_001011] (.shrImm 5 6 11) ∧
    Spells [0b0_001011_000101_000110_0000010_001011] (.sarImm 5 6 11) ∧
    Spells [0b1_001011_000101_000110_0000011_001011] (.rolImm 5 6 11) ∧
    Spells [0b0_001100_000101_000110_0000000_010001] (.sext 5 6 17) ∧
    Spells [0b1_001100_000101_000110_0000001_010001] (.zext 5 6 17) :=
  ⟨⟨rfl, rfl⟩, ⟨rfl, rfl⟩, ⟨rfl, rfl⟩, ⟨rfl, rfl⟩, ⟨rfl, rfl⟩, ⟨rfl, rfl⟩, ⟨rfl, rfl⟩, ⟨rfl, rfl⟩, ⟨rfl, rfl⟩, ⟨rfl, rfl⟩, ⟨rfl, rfl⟩, ⟨rfl, rfl⟩, ⟨rfl, rfl⟩, ⟨rfl, rfl⟩, ⟨rfl, rfl⟩, ⟨rfl, rfl⟩, ⟨rfl, rfl⟩, ⟨rfl, rfl⟩, ⟨rfl, rfl⟩, ⟨rfl, rfl⟩, ⟨rfl, rfl⟩, ⟨rfl, rfl⟩, ⟨rfl, rfl⟩, ⟨rfl, rfl⟩⟩

theorem test_decode_scalar_3 :
    Spells [0b0_001101_000101_000110_0_000011_001001] (.extr 5 6 3 9) ∧
    Spells [0b1_001101_000101_000110_1_000011_001001] (.insr 5 6 3 9) ∧
    Spells [0b0_001110_000101_1010101101010100011] (.li 5 350883) ∧
    Spells [0b1_001111_000101_1010101101010100011] (.addpc 5 350883) :=
  ⟨⟨rfl, rfl⟩, ⟨rfl, rfl⟩, ⟨rfl, rfl⟩, ⟨rfl, rfl⟩⟩

theorem test_decode_branch :
    Spells [0b0_010000_000110_000111_1001000110100] (.beq 6 7 4660) ∧
    Spells [0b1_010001_000110_000111_1001000110100] (.bne 6 7 4660) ∧
    Spells [0b0_010010_000110_000111_1001000110100] (.blt 6 7 4660) ∧
    Spells [0b1_010011_000110_000111_1001000110100] (.bge 6 7 4660) ∧
    Spells [0b0_010100_000110_000111_1001000110100] (.bltu 6 7 4660) ∧
    Spells [0b1_010101_000110_000111_1001000110100] (.bgeu 6 7 4660) ∧
    Spells [0b0_010110_000100_1010101101010100011] (.bz 4 350883) ∧
    Spells [0b1_010111_000100_1010101101010100011] (.bnz 4 350883) ∧
    Spells [0b0_011000_1101010111100110111100011] (.jmp 28036579) ∧
    Spells [0b1_011001_1101010111100110111100011] (.call 28036579) ∧
    Spells [0b0_011010_000000_000110_0_010110100011] (.callr 6 1443) ∧
    Spells [0b1_011011_000110_000000_0101010111100] (.loop 6 2748) ∧
    Spells [0b0_011100_000101_000110_1101010111100] (.ldb 5 6 6844) ∧
    Spells [0b1_011101_000101_000110_1101010111100] (.ldbu 5 6 6844) ∧
    Spells [0b0_011110_000101_000110_1101010111100] (.ldh 5 6 6844) ∧
    Spells [0b1_011111_000101_000110_1101010111100] (.ldhu 5 6 6844) :=
  ⟨⟨rfl, rfl⟩, ⟨rfl, rfl⟩, ⟨rfl, rfl⟩, ⟨rfl, rfl⟩, ⟨rfl, rfl⟩, ⟨rfl, rfl⟩, ⟨rfl, rfl⟩, ⟨rfl, rfl⟩, ⟨rfl, rfl⟩, ⟨rfl, rfl⟩, ⟨rfl, rfl⟩, ⟨rfl, rfl⟩, ⟨rfl, rfl⟩, ⟨rfl, rfl⟩, ⟨rfl, rfl⟩, ⟨rfl, rfl⟩⟩

theorem test_decode_memory :
    Spells [0b0_100000_000101_000110_1101010111100] (.ldw 5 6 6844) ∧
    Spells [0b1_100001_000101_000110_1101010111100] (.ldwu 5 6 6844) ∧
    Spells [0b0_100010_000101_000110_1101010111100] (.ldd 5 6 6844) ∧
    Spells [0b1_100011_000101_000110_1101010111100] (.stb 5 6 6844) ∧
    Spells [0b0_100100_000101_000110_1101010111100] (.sth 5 6 6844) ∧
    Spells [0b1_100101_000101_000110_1101010111100] (.stw 5 6 6844) ∧
    Spells [0b0_100110_000101_000110_1101010111100] (.std 5 6 6844) ∧
    Spells [0b1_100111_00011_000110_101_000_10011100] (.vld 3 6 5 156) ∧
    Spells [0b0_100111_00011_000110_101_001_10011100] (.vst 3 6 5 156) ∧
    Spells [0b1_100111_00011_000110_101_010_000111_00] (.vlds 3 6 5 7) ∧
    Spells [0b0_100111_00011_000110_101_011_000111_00] (.vsts 3 6 5 7) ∧
    Spells [0b1_100111_00011_000110_101_100_01110_000] (.vldx 3 6 5 14) ∧
    Spells [0b0_100111_00011_000110_101_101_01110_000] (.vstx 3 6 5 14) :=
  ⟨⟨rfl, rfl⟩, ⟨rfl, rfl⟩, ⟨rfl, rfl⟩, ⟨rfl, rfl⟩, ⟨rfl, rfl⟩, ⟨rfl, rfl⟩, ⟨rfl, rfl⟩, ⟨rfl, rfl⟩, ⟨rfl, rfl⟩, ⟨rfl, rfl⟩, ⟨rfl, rfl⟩, ⟨rfl, rfl⟩, ⟨rfl, rfl⟩⟩

theorem test_decode_atomic_sync_1 :
    Spells [0b1_101000_000101_000110_000111_0000000] (.amoSwap 5 6 7) ∧
    Spells [0b0_101000_000101_000110_000111_0000001] (.amoAdd 5 6 7) ∧
    Spells [0b1_101000_000101_000110_000111_0000010] (.amoAnd 5 6 7) ∧
    Spells [0b0_101000_000101_000110_000111_0000011] (.amoOr 5 6 7) ∧
    Spells [0b1_101000_000101_000110_000111_0000100] (.amoXor 5 6 7) ∧
    Spells [0b0_101000_000101_000110_000111_0000101] (.amoMin 5 6 7) ∧
    Spells [0b1_101000_000101_000110_000111_0000110] (.amoMax 5 6 7) ∧
    Spells [0b0_101000_000101_000110_000111_0000111] (.amoMinu 5 6 7) ∧
    Spells [0b1_101000_000101_000110_000111_0001000] (.amoMaxu 5 6 7) ∧
    Spells [0b0_101000_000101_000110_000111_0001001] (.amoFadd 5 6 7) ∧
    Spells [0b1_101000_000101_000110_000111_0010000] (.cas 5 6 7) ∧
    Spells [0b0_101000_000000_000110_000111_0100001] (.redAdd 6 7) ∧
    Spells [0b1_101000_000000_000110_000111_0100010] (.redAnd 6 7) ∧
    Spells [0b0_101000_000000_000110_000111_0100011] (.redOr 6 7) ∧
    Spells [0b1_101000_000000_000110_000111_0100100] (.redXor 6 7) ∧
    Spells [0b0_101000_000000_000110_000111_0100101] (.redMin 6 7) ∧
    Spells [0b1_101000_000000_000110_000111_0100110] (.redMax 6 7) ∧
    Spells [0b0_101000_000000_000110_000111_0100111] (.redMinu 6 7) ∧
    Spells [0b1_101000_000000_000110_000111_0101000] (.redMaxu 6 7) ∧
    Spells [0b0_101000_000000_000110_000111_0101001] (.redFadd 6 7) ∧
    Spells [0b1_101000_001010_000110_000111_0110001] (.redfAdd 10 6 7) ∧
    Spells [0b0_101000_001010_000110_000111_0110010] (.redfAnd 10 6 7) ∧
    Spells [0b1_101000_001010_000110_000111_0110011] (.redfOr 10 6 7) ∧
    Spells [0b0_101000_001010_000110_000111_0110100] (.redfXor 10 6 7) :=
  ⟨⟨rfl, rfl⟩, ⟨rfl, rfl⟩, ⟨rfl, rfl⟩, ⟨rfl, rfl⟩, ⟨rfl, rfl⟩, ⟨rfl, rfl⟩, ⟨rfl, rfl⟩, ⟨rfl, rfl⟩, ⟨rfl, rfl⟩, ⟨rfl, rfl⟩, ⟨rfl, rfl⟩, ⟨rfl, rfl⟩, ⟨rfl, rfl⟩, ⟨rfl, rfl⟩, ⟨rfl, rfl⟩, ⟨rfl, rfl⟩, ⟨rfl, rfl⟩, ⟨rfl, rfl⟩, ⟨rfl, rfl⟩, ⟨rfl, rfl⟩, ⟨rfl, rfl⟩, ⟨rfl, rfl⟩, ⟨rfl, rfl⟩, ⟨rfl, rfl⟩⟩

theorem test_decode_atomic_sync_2 :
    Spells [0b1_101000_001010_000110_000111_0110101] (.redfMin 10 6 7) ∧
    Spells [0b0_101000_001010_000110_000111_0110110] (.redfMax 10 6 7) ∧
    Spells [0b1_101000_001010_000110_000111_0110111] (.redfMinu 10 6 7) ∧
    Spells [0b0_101000_001010_000110_000111_0111000] (.redfMaxu 10 6 7) ∧
    Spells [0b1_101000_001010_000110_000111_0111001] (.redfFadd 10 6 7) ∧
    Spells [0b0_101001_0000000000000000000000000] (.fence) ∧
    Spells [0b1_101001_000000_000001_000011_0000001] (.xfence 1 3) ∧
    Spells [0b0_101001_000000_000110_000111_0000010] (.waitge 6 7) ∧
    Spells [0b1_101001_000000_000110_000111_0000011] (.waitne 6 7) ∧
    Spells [0b0_101001_000000_000110_000111_0000100] (.barinit 6 7) ∧
    Spells [0b1_101001_000000_000110_0000000000101] (.bararv 6) ∧
    Spells [0b0_101001_000000_000110_000111_0000110] (.barwt 6 7) :=
  ⟨⟨rfl, rfl⟩, ⟨rfl, rfl⟩, ⟨rfl, rfl⟩, ⟨rfl, rfl⟩, ⟨rfl, rfl⟩, ⟨rfl, rfl⟩, ⟨rfl, rfl⟩, ⟨rfl, rfl⟩, ⟨rfl, rfl⟩, ⟨rfl, rfl⟩, ⟨rfl, rfl⟩, ⟨rfl, rfl⟩⟩

theorem test_decode_copy_stream :
    Spells [0b1_101010_000000_000110_0000000000000] (.copy 6) ∧
    Spells [0b0_101010_000000_000110_0000000000001] (.copys 6) ∧
    Spells [0b1_101010_000000_000110_0000000000010] (.copyg 6) ∧
    Spells [0b0_101010_000010_000110_000111_0001000] (.ipref 2 6 7) ∧
    Spells [0b1_101010_000000_000110_0000000001001] (.dpref 6) ∧
    Spells [0b0_101010_000000_000110_0000000001010] (.cflush 6) ∧
    Spells [0b1_101010_000000_000110_0000000001011] (.cinv 6) ∧
    Spells [0b0_101011_0_110_000110_1001_1100_1_1_00000] (.sbind 6 6 9 12 1 1) ∧
    Spells [0b1_101011_1_110_000110_1001_1100_1_1_00000] (.sbindv 6 6 9 12 1 1) ∧
    Spells [0b0_101011_1_110_000000000000000000001] (.sdrain 1 6) ∧
    Spells [0b1_101011_1_110_000101_000000000000010] (.sstat 1 6 5) ∧
    Spells [0b0_101011_1_110_0000000000000000_101_11] (.eos 1 6 5) :=
  ⟨⟨rfl, rfl⟩, ⟨rfl, rfl⟩, ⟨rfl, rfl⟩, ⟨rfl, rfl⟩, ⟨rfl, rfl⟩, ⟨rfl, rfl⟩, ⟨rfl, rfl⟩, ⟨rfl, rfl⟩, ⟨rfl, rfl⟩, ⟨rfl, rfl⟩, ⟨rfl, rfl⟩, ⟨rfl, rfl⟩⟩

theorem test_decode_vector_t64_1 :
    Spells [0b0_101100_00011_01010_01110_101_0000000, 0b00000_100_000_00000_0000000000000000] (.vadd 3 10 14 5 4) ∧
    Spells [0b1_101100_00011_01010_01110_101_0000001, 0b00000_100_000_00000_0000000000000000] (.vsub 3 10 14 5 4) ∧
    Spells [0b0_101100_00011_01010_01110_101_0000010, 0b00000_100_000_00000_0000000000000000] (.vmul 3 10 14 5 4) ∧
    Spells [0b1_101100_00011_01010_01110_101_0000011, 0b00000_100_000_00000_0000000000000000] (.vdiv 3 10 14 5 4) ∧
    Spells [0b0_101100_00011_01010_01110_101_0000100, 0b01100_100_000_00000_0000000000000000] (.vfma 3 10 14 12 5 4) ∧
    Spells [0b1_101100_00011_01010_01110_101_0000101, 0b01100_100_000_00000_0000000000000000] (.vfms 3 10 14 12 5 4) ∧
    Spells [0b0_101100_00011_01010_01110_101_0000110, 0b01100_100_000_00000_0000000000000000] (.vfnma 3 10 14 12 5 4) ∧
    Spells [0b1_101100_00011_01010_00000_101_0000111, 0b00000_100_000_00000_0000000000000000] (.vsqrt 3 10 5 4) ∧
    Spells [0b0_101100_00011_01010_01110_101_0001000, 0b00000_000_000_00000_0000000000000000] (.vmin 3 10 14 5) ∧
    Spells [0b1_101100_00011_01010_01110_101_0001001, 0b00000_000_000_00000_0000000000000000] (.vmax 3 10 14 5) ∧
    Spells [0b0_101100_00011_01010_00000_101_0001010, 0b00000_000_000_00000_0000000000000000] (.vabs 3 10 5) ∧
    Spells [0b1_101100_00011_01010_00000_101_0001011, 0b00000_000_000_00000_0000000000000000] (.vneg 3 10 5) ∧
    Spells [0b0_101100_00011_01010_01110_101_0001100, 0b00000_000_000_00000_0000000000000000] (.vcpys 3 10 14 5) ∧
    Spells [0b1_101100_00100_01010_01110_101_0001101, 0b00000_000_000_00000_0000000000000000] (.vcmpEq 4 10 14 5) ∧
    Spells [0b0_101100_00100_01010_01110_101_0001101, 0b00000_000_000_00001_0000000000000000] (.vcmpNe 4 10 14 5) ∧
    Spells [0b1_101100_00100_01010_01110_101_0001101, 0b00000_000_000_00010_0000000000000000] (.vcmpLt 4 10 14 5) ∧
    Spells [0b0_101100_00100_01010_01110_101_0001101, 0b00000_000_000_00011_0000000000000000] (.vcmpLe 4 10 14 5) ∧
    Spells [0b1_101100_00100_01010_01110_101_0001101, 0b00000_000_000_00100_0000000000000000] (.vcmpUn 4 10 14 5) ∧
    Spells [0b0_101100_00100_01010_01110_101_0001101, 0b00000_000_000_00101_0000000000000000] (.vcmpOrd 4 10 14 5) ∧
    Spells [0b1_101100_00011_01010_00000_101_0001110, 0b00000_000_000_00000_0000000000000000] (.vclass 3 10 5) ∧
    Spells [0b0_101100_00011_01010_00000_101_0001111, 0b00000_100_011_00001_0000000000000000] (.vcvti 3 10 5 4 3 1) ∧
    Spells [0b1_101100_00011_01010_00000_101_0010000, 0b00000_100_011_00001_0000000000000000] (.vcvtf 3 10 5 4 3 1) ∧
    Spells [0b0_101100_00011_01010_00000_101_0010001, 0b00000_100_000_00000_0000000000000000] (.vrndp 3 10 5 4) ∧
    Spells [0b1_101100_00011_01010_00000_101_0010010, 0b00000_100_000_00000_0000000000000000] (.vredf 3 10 5 4) :=
  ⟨⟨rfl, rfl⟩, ⟨rfl, rfl⟩, ⟨rfl, rfl⟩, ⟨rfl, rfl⟩, ⟨rfl, rfl⟩, ⟨rfl, rfl⟩, ⟨rfl, rfl⟩, ⟨rfl, rfl⟩, ⟨rfl, rfl⟩, ⟨rfl, rfl⟩, ⟨rfl, rfl⟩, ⟨rfl, rfl⟩, ⟨rfl, rfl⟩, ⟨rfl, rfl⟩, ⟨rfl, rfl⟩, ⟨rfl, rfl⟩, ⟨rfl, rfl⟩, ⟨rfl, rfl⟩, ⟨rfl, rfl⟩, ⟨rfl, rfl⟩, ⟨rfl, rfl⟩, ⟨rfl, rfl⟩, ⟨rfl, rfl⟩, ⟨rfl, rfl⟩⟩

theorem test_decode_vector_t64_2 :
    Spells [0b0_101100_00011_01010_00000_101_0010011, 0b00000_000_011_00000_0000000000000000] (.vscan 3 10 5 0 3) :=
  ⟨rfl, rfl⟩

theorem test_decode_vector_int_1 :
    Spells [0b0_101101_00011_01010_01110_101_00000_10] (.viadd 3 10 14 5 2) ∧
    Spells [0b1_101101_00011_01010_01110_101_00001_10] (.visub 3 10 14 5 2) ∧
    Spells [0b0_101101_00011_01010_01110_101_00010_10] (.vimul 3 10 14 5 2) ∧
    Spells [0b1_101101_00011_01010_01110_101_00011_10] (.vimulh 3 10 14 5 2) ∧
    Spells [0b0_101101_00011_01010_01110_101_00100_10] (.vand 3 10 14 5 2) ∧
    Spells [0b1_101101_00011_01010_01110_101_00101_10] (.vor 3 10 14 5 2) ∧
    Spells [0b0_101101_00011_01010_01110_101_00110_10] (.vxor 3 10 14 5 2) ∧
    Spells [0b1_101101_00011_01010_01110_101_00111_10] (.vshl 3 10 14 5 2) ∧
    Spells [0b0_101101_00011_01010_01110_101_01000_10] (.vshr 3 10 14 5 2) ∧
    Spells [0b1_101101_00011_01010_01110_101_01001_10] (.vsar 3 10 14 5 2) ∧
    Spells [0b0_101101_00011_01010_01110_101_01010_10] (.vimin 3 10 14 5 2) ∧
    Spells [0b1_101101_00011_01010_01110_101_01011_10] (.vimax 3 10 14 5 2) ∧
    Spells [0b0_101101_00011_01010_01110_101_01100_10] (.vicmpEq 3 10 14 5 2) ∧
    Spells [0b1_101101_00011_01010_01110_101_01101_10] (.vicmpNe 3 10 14 5 2) ∧
    Spells [0b0_101101_00011_01010_01110_101_01110_10] (.vicmpLt 3 10 14 5 2) ∧
    Spells [0b1_101101_00011_01010_01110_101_01111_10] (.vicmpGe 3 10 14 5 2) ∧
    Spells [0b0_101101_00011_01010_01110_101_10000_10] (.vicmpLtu 3 10 14 5 2) ∧
    Spells [0b1_101101_00011_01010_01110_101_10001_10] (.vicmpGeu 3 10 14 5 2) ∧
    Spells [0b0_101110_00011_01010_01110_101_00000_10] (.vsel 3 10 14 5 2) ∧
    Spells [0b1_101110_00011_01010_01110_101_00001_10] (.vperm 3 10 14 5 2) ∧
    Spells [0b0_101110_00011_01010_1_0110_101_00010_10] (.vslide 3 10 1 6 5 2) ∧
    Spells [0b1_101110_00011_01010_00000_101_00011_10] (.vcomp 3 10 5 2) ∧
    Spells [0b0_101110_00011_01010_00000_101_00100_10] (.vexpd 3 10 5 2) ∧
    Spells [0b1_101110_00000_01010_00000_101_0010111] (.vredx 10 5) :=
  ⟨⟨rfl, rfl⟩, ⟨rfl, rfl⟩, ⟨rfl, rfl⟩, ⟨rfl, rfl⟩, ⟨rfl, rfl⟩, ⟨rfl, rfl⟩, ⟨rfl, rfl⟩, ⟨rfl, rfl⟩, ⟨rfl, rfl⟩, ⟨rfl, rfl⟩, ⟨rfl, rfl⟩, ⟨rfl, rfl⟩, ⟨rfl, rfl⟩, ⟨rfl, rfl⟩, ⟨rfl, rfl⟩, ⟨rfl, rfl⟩, ⟨rfl, rfl⟩, ⟨rfl, rfl⟩, ⟨rfl, rfl⟩, ⟨rfl, rfl⟩, ⟨rfl, rfl⟩, ⟨rfl, rfl⟩, ⟨rfl, rfl⟩, ⟨rfl, rfl⟩⟩

theorem test_decode_vector_int_2 :
    Spells [0b0_101110_00011_00101_00110_0000011000] (.mand 3 5 6) ∧
    Spells [0b1_101110_00011_00101_00110_0000011100] (.mor 3 5 6) ∧
    Spells [0b0_101110_00011_00101_00110_0000100000] (.mxor 3 5 6) ∧
    Spells [0b1_101110_00011_00101_000000000100100] (.mnot 3 5) ∧
    Spells [0b0_101111_010011_01101_101_00000000000] (.vmovx 19 13 5) ∧
    Spells [0b1_101111_010011_01101_101_00000000001] (.vmovv 19 13 5) ∧
    Spells [0b0_101111_010011_01101_00000000000010] (.vbcast 19 13) ∧
    Spells [0b1_101111_0000000000000000000000011] (.laz) ∧
    Spells [0b0_101111_010011_0000000000000000100] (.laadd 19) ∧
    Spells [0b1_101111_010011_00000000_010_00000101] (.lard 19 2) ∧
    Spells [0b0_101111_010011_00110_00000000000110] (.mpopc 19 6) ∧
    Spells [0b1_101111_010011_00111_00000000000111] (.mfirst 19 7) :=
  ⟨⟨rfl, rfl⟩, ⟨rfl, rfl⟩, ⟨rfl, rfl⟩, ⟨rfl, rfl⟩, ⟨rfl, rfl⟩, ⟨rfl, rfl⟩, ⟨rfl, rfl⟩, ⟨rfl, rfl⟩, ⟨rfl, rfl⟩, ⟨rfl, rfl⟩, ⟨rfl, rfl⟩, ⟨rfl, rfl⟩⟩

theorem test_decode_matrix_queue :
    Spells [0b0_110000_000110_000111_010_110_0000000] (.mform 6 7 2 6) ∧
    Spells [0b1_110000_000110_000111_000_110_0000001] (.mldb 6 7 6) ∧
    Spells [0b0_110000_000110_000111_000_110_0000010] (.mma 6 7 6) ∧
    Spells [0b1_110000_000000000000000_011_0000011] (.mzero 3) ∧
    Spells [0b0_110000_000110_000000000_011_0000100] (.mwin 6 3) ∧
    Spells [0b1_110000_000110_000111_010_011_0000101] (.mdrn 6 7 2 3) ∧
    Spells [0b0_110000_0000000000000000000000110] (.msync) ∧
    Spells [0b1_110000_000101_0000000000000000111] (.mstat 5) ∧
    Spells [0b0_110001_100001_100011_100110_0000000] (.qsel 33 35 38) ∧
    Spells [0b1_110001_100010_100100_100111_0000001] (.qfilt 34 36 39) ∧
    Spells [0b0_110001_000101_100011_0000000000010] (.qpeek 5 35) ∧
    Spells [0b1_110001_000101_100100_0000000000011] (.qtry 5 36) ∧
    Spells [0b0_110001_100101_000000000000_101_0100] (.qend 37 5) ∧
    Spells [0b1_110001_000101_100110_0000000000101] (.qlvl 5 38) ∧
    Spells [0b0_110001_000000_000110_0000000000110] (.bqpush 6) :=
  ⟨⟨rfl, rfl⟩, ⟨rfl, rfl⟩, ⟨rfl, rfl⟩, ⟨rfl, rfl⟩, ⟨rfl, rfl⟩, ⟨rfl, rfl⟩, ⟨rfl, rfl⟩, ⟨rfl, rfl⟩, ⟨rfl, rfl⟩, ⟨rfl, rfl⟩, ⟨rfl, rfl⟩, ⟨rfl, rfl⟩, ⟨rfl, rfl⟩, ⟨rfl, rfl⟩, ⟨rfl, rfl⟩⟩

theorem test_decode_message_system_1 :
    Spells [0b1_110010_000110_000111_001001_1_100101] (.msg 6 7 9 1 37) ∧
    Spells [0b0_110011_000110_0000000000000000000] (.jmpr 6) ∧
    Spells [0b1_110011_0000000000000000000000001] (.ret) ∧
    Spells [0b0_110011_000000000000_101001_0000010] (.trap 41) ∧
    Spells [0b1_110011_0000000000000000000000011] (.tret) ∧
    Spells [0b0_110011_0000000000000000000000100] (.exit) ∧
    Spells [0b1_110011_0000000000000000000000101] (.idle) ∧
    Spells [0b0_110011_0000000000000000000001000] (.hret) ∧
    Spells [0b1_110011_000110_000111_001001_0001001] (.hset 6 7 9) ∧
    Spells [0b0_110011_000110_000111_0000000001010] (.hmask 6 7) ∧
    Spells [0b1_110011_000110_0000000000000010000] (.spawn 6) ∧
    Spells [0b0_110011_000110_0000000000000010001] (.cancel 6) ∧
    Spells [0b1_110011_000110_0000000000000010010] (.cwait 6) ∧
    Spells [0b0_110011_000110_0000000000000011000] (.cfgld 6) ∧
    Spells [0b1_110011_0000000000000000000011001] (.cfgswp) ∧
    Spells [0b0_110011_000101_0000000000000011010] (.cfgdrn 5) ∧
    Spells [0b1_110011_000110_000111_0000000011011] (.bankpass 6 7) ∧
    Spells [0b0_110011_000110_000111_0000000100000] (.tlbinv 6 7) ∧
    Spells [0b1_110011_000110_000111_000010_0100001] (.ifence 6 7 2) ∧
    Spells [0b0_110011_000110_000111_0000000101000] (.toporeq 6 7) ∧
    Spells [0b1_110011_000101_000111_0000000101001] (.topogen 5 7) ∧
    Spells [0b0_110011_000110_0000000000000110000] (.preempt 6) ∧
    Spells [0b1_110011_000110_0000000000000110001] (.resume 6) ∧
    Spells [0b0_110011_000000_000111_001101_0110010] (.fmtset 7 13) :=
  ⟨⟨rfl, rfl⟩, ⟨rfl, rfl⟩, ⟨rfl, rfl⟩, ⟨rfl, rfl⟩, ⟨rfl, rfl⟩, ⟨rfl, rfl⟩, ⟨rfl, rfl⟩, ⟨rfl, rfl⟩, ⟨rfl, rfl⟩, ⟨rfl, rfl⟩, ⟨rfl, rfl⟩, ⟨rfl, rfl⟩, ⟨rfl, rfl⟩, ⟨rfl, rfl⟩, ⟨rfl, rfl⟩, ⟨rfl, rfl⟩, ⟨rfl, rfl⟩, ⟨rfl, rfl⟩, ⟨rfl, rfl⟩, ⟨rfl, rfl⟩, ⟨rfl, rfl⟩, ⟨rfl, rfl⟩, ⟨rfl, rfl⟩, ⟨rfl, rfl⟩⟩

theorem test_decode_message_system_2 :
    Spells [0b1_110011_000110_000111_0000000110011] (.ownset 6 7) ∧
    Spells [0b0_110011_000110_000111_0000000110100] (.rankset 6 7) ∧
    Spells [0b1_110100_000101_0000000_000001111000] (.crr 5 120) ∧
    Spells [0b0_110101_000000_000110_0_000100000000] (.crw 6 256) ∧
    Spells [0b1_110101_000001_000110_0_000000100000] (.crs 6 32) ∧
    Spells [0b0_110101_000010_000110_0_000101111111] (.crc 6 383) :=
  ⟨⟨rfl, rfl⟩, ⟨rfl, rfl⟩, ⟨rfl, rfl⟩, ⟨rfl, rfl⟩, ⟨rfl, rfl⟩, ⟨rfl, rfl⟩⟩

theorem test_decode_long :
    Spells [0b0_111110_000101_000110_000000_0000000, 0b10001001101010111100110111101111] (.addImm32 5 6 2309737967) ∧
    Spells [0b1_111110_000101_000110_000000_0000001, 0b10001001101010111100110111101111] (.andImm32 5 6 2309737967) ∧
    Spells [0b0_111110_000101_000110_000000_0000010, 0b10001001101010111100110111101111] (.orImm32 5 6 2309737967) ∧
    Spells [0b1_111110_000101_000110_000000_0000011, 0b10001001101010111100110111101111] (.xorImm32 5 6 2309737967) ∧
    Spells [0b0_111110_000101_000000_000000_0000100, 0b10001001101010111100110111101111] (.liImm32 5 2309737967) ∧
    Spells [0b1_111110_000101_000110_000000_0000101, 0b10001001101010111100110111101111] (.lddImm32 5 6 2309737967) ∧
    Spells [0b0_111110_000101_000110_000000_0000110, 0b10001001101010111100110111101111] (.stdImm32 5 6 2309737967) ∧
    Spells [0b1_111111_000101_000000_000000_0000000, 0b10001001101010111100110111100000, 0b00000001001000110100010101100111] (.liw 5 81985529216486880) ∧
    Spells [0b0_111111_000000_000000_000000_0000001, 0b10001001101010111100110111100000, 0b00000001001000110100010101100111] (.brl 81985529216486880) ∧
    Spells [0b1_111111_000000_000000_000000_0000010, 0b10001001101010111100110111100000, 0b00000001001000110100010101100111] (.calll 81985529216486880) ∧
    Spells [0b0_111111_000101_000000_000000_0000011, 0b10001001101010111100110111101100, 0b00000001001000110100010101100111] (.addpcLong 5 81985529216486892) :=
  ⟨⟨rfl, rfl⟩, ⟨rfl, rfl⟩, ⟨rfl, rfl⟩, ⟨rfl, rfl⟩, ⟨rfl, rfl⟩, ⟨rfl, rfl⟩, ⟨rfl, rfl⟩, ⟨rfl, rfl⟩, ⟨rfl, rfl⟩, ⟨rfl, rfl⟩, ⟨rfl, rfl⟩⟩

theorem test_decode_switch :
    SpellsSwitch 0b0000000000_000_0_0000000000000000_0000_000_000_000_000_000_000_000_000_000_000 (.snop) ∧
    SpellsSwitch 0b0000000000_000_0_0000000000000000_0001_000_000_000_000_000_000_000_010_100_011 (.route 163 0) ∧
    SpellsSwitch 0b0000000000_000_1_0001001000110100_0010_000_000_000_000_000_000_000_010_100_011 (.routen 163 1 4660) ∧
    SpellsSwitch 0b0000000000_000_0_1010101111001101_0011_000_000_000_000_000_000_000_010_100_011 (.sjmp 163 0 43981) ∧
    SpellsSwitch 0b0000000000_101_0_0000000100100011_0100_000_000_000_000_000_000_000_010_100_011 (.sbnz 163 0 291 5) ∧
    SpellsSwitch 0b0000000000_000_1_0000000001110111_0101_000_000_000_000_000_000_000_000_000_000 (.sbq 0 1 119) ∧
    SpellsSwitch 0b0000000000_110_0_0000000000000011_0110_000_000_000_000_000_000_000_000_000_000 (.swaitm 0 0 3 6) ∧
    SpellsSwitch 0b0000000000_000_1_0000000000001001_0111_000_000_000_000_000_000_000_010_100_011 (.smcast 163 9) ∧
    SpellsSwitch 0b0000000000_000_0_0000000000000000_1000_000_000_000_000_000_000_000_000_000_000 (.shalt) :=
  ⟨⟨rfl, rfl⟩, ⟨rfl, rfl⟩, ⟨rfl, rfl⟩, ⟨rfl, rfl⟩, ⟨rfl, rfl⟩, ⟨rfl, rfl⟩, ⟨rfl, rfl⟩, ⟨rfl, rfl⟩, ⟨rfl, rfl⟩⟩

/- The encodings that chapters 10 to 26 of the spec print -/

/-- Encodings printed in the spec, part 1. -/
theorem test_decode_printed_1 :
    Spells [0x0208_2080] (.add 1 1 1) ∧
    Spells [0x6600_0001] (.ret) ∧
    Spells [0x1C08_0005] (.li 1 5) ∧
    Spells [0x7E00_0002, 0xFFFF_FFF4, 0xFFFF_FFFF] (.calll 0xFFFFFFFFFFFFFFF4) ∧
    Spells [0x6600_0004] (.exit) ∧
    Spells [0x3610_0003] (.loop 2 3) ∧
    Spells [0x0228_8202] (.mul 5 4 4) ∧
    Spells [0x0239_0481] (.sub 7 8 9) ∧
    Spells [0x1208_5FFB] (.sltImm 1 2 0x1FFB) ∧
    Spells [0x1618_608C] (.sarImm 3 3 12) ∧
    Spells [0x1A30_4210] (.extr 6 2 8 16) ∧
    Spells [0x2A20_BFF6] (.bgeu 4 5 0x1FF6) ∧
    Spells [0x2E27_FFFD] (.bnz 4 0x7FFFD) ∧
    Spells [0x3401_8007] (.callr 12 7) ∧
    Spells [0x6660_0000] (.jmpr 12) ∧
    Spells [0x5830_8092, 0x0000_0000] (.vredf 3 1 1 0) ∧
    Spells [0x5E00_0003] (.laz) ∧
    Spells [0x5C00_8097] (.vredx 1 1) ∧
    Spells [0x5E30_0005] (.lard 6 0) ∧
    Spells [0x4028_400C] (.ldw 5 2 12) ∧
    Spells [0x4C38_7FF8] (.std 7 3 0x1FF8) ∧
    Spells [0x4E21_0001] (.vld 2 4 0 1) ∧
    Spells [0x5031_4581] (.amoAdd 6 10 11) ∧
    Spells [0x5031_4590] (.cas 6 10 11) ∧
    Spells [0x5200_2001] (.xfence 1 0) ∧
    Spells [0x5200_0101] (.xfence 0 2) ∧
    Spells [0x5201_8682] (.waitge 12 13) ∧
    Spells [0x5411_C788] (.ipref 2 14 15) :=
  ⟨⟨rfl, rfl⟩, ⟨rfl, rfl⟩, ⟨rfl, rfl⟩, ⟨rfl, rfl⟩, ⟨rfl, rfl⟩, ⟨rfl, rfl⟩, ⟨rfl, rfl⟩, ⟨rfl, rfl⟩, ⟨rfl, rfl⟩, ⟨rfl, rfl⟩, ⟨rfl, rfl⟩, ⟨rfl, rfl⟩, ⟨rfl, rfl⟩, ⟨rfl, rfl⟩, ⟨rfl, rfl⟩, ⟨rfl, rfl⟩, ⟨rfl, rfl⟩, ⟨rfl, rfl⟩, ⟨rfl, rfl⟩, ⟨rfl, rfl⟩, ⟨rfl, rfl⟩, ⟨rfl, rfl⟩, ⟨rfl, rfl⟩, ⟨rfl, rfl⟩, ⟨rfl, rfl⟩, ⟨rfl, rfl⟩, ⟨rfl, rfl⟩, ⟨rfl, rfl⟩⟩

/-- Encodings printed in the spec, part 2. -/
theorem test_decode_printed_2 :
    Spells [0x6050_0081] (.mldb 10 0 1) ∧
    Spells [0x6000_0003] (.mzero 0) ∧
    Spells [0x6058_0102] (.mma 11 0 2) ∧
    Spells [0x6061_A005] (.mdrn 12 13 0 0) ∧
    Spells [0x6000_0006] (.msync) ∧
    Spells [0x630C_7000] (.qsel 33 35 32) ∧
    Spells [0x6324_6381] (.qfilt 36 35 7) ∧
    Spells [0x6214_0002] (.qpeek 2 32) ∧
    Spells [0x624C_C003] (.qtry 9 38) ∧
    Spells [0x6308_0014] (.qend 33 1) ∧
    Spells [0x622C_6005] (.qlvl 5 35) ∧
    Spells [0x6200_6006] (.bqpush 3) ∧
    Spells [0x6828_0020] (.crr 5 0x20) ∧
    Spells [0x6A00_C020] (.crw 6 0x20) ∧
    Spells [0x6A10_C020] (.crc 6 0x20) ∧
    Spells [0x6600_0282] (.trap 5) ∧
    Spells [0x6600_0003] (.tret) ∧
    Spells [0x6600_0005] (.idle) ∧
    Spells [0x6620_0010] (.spawn 4) ∧
    Spells [0x6630_0018] (.cfgld 6) ∧
    Spells [0x6600_0019] (.cfgswp) ∧
    Spells [0x6638_001A] (.cfgdrn 7) ∧
    Spells [0x6610_601B] (.bankpass 2 3) ∧
    Spells [0x6641_21A1] (.ifence 8 9 3) ∧
    Spells [0x6651_6029] (.topogen 10 11) ∧
    Spells [0x6650_0028] (.toporeq 10 0) ∧
    Spells [0x6608_4189] (.hset 1 2 3) ∧
    Spells [0x6600_0008] (.hret) :=
  ⟨⟨rfl, rfl⟩, ⟨rfl, rfl⟩, ⟨rfl, rfl⟩, ⟨rfl, rfl⟩, ⟨rfl, rfl⟩, ⟨rfl, rfl⟩, ⟨rfl, rfl⟩, ⟨rfl, rfl⟩, ⟨rfl, rfl⟩, ⟨rfl, rfl⟩, ⟨rfl, rfl⟩, ⟨rfl, rfl⟩, ⟨rfl, rfl⟩, ⟨rfl, rfl⟩, ⟨rfl, rfl⟩, ⟨rfl, rfl⟩, ⟨rfl, rfl⟩, ⟨rfl, rfl⟩, ⟨rfl, rfl⟩, ⟨rfl, rfl⟩, ⟨rfl, rfl⟩, ⟨rfl, rfl⟩, ⟨rfl, rfl⟩, ⟨rfl, rfl⟩, ⟨rfl, rfl⟩, ⟨rfl, rfl⟩, ⟨rfl, rfl⟩, ⟨rfl, rfl⟩⟩

/-- Encodings printed in the spec, part 3. -/
theorem test_decode_printed_3 :
    Spells [0x6608_400A] (.hmask 1 2) ∧
    Spells [0xDE5A_0002] (.vbcast 11 8) ∧
    Spells [0x2C48_000F] (.bz 9 15) ∧
    Spells [0x2049_A018] (.beq 9 13 24) ∧
    Spells [0x5820_A004, 0x1000_0000] (.vfma 2 1 8 2 0 0) ∧
    Spells [0x5821_2002, 0x0000_0000] (.vmul 2 2 8 0 0) ∧
    Spells [0x5F08_8000] (.vmovx 33 2 0) ∧
    Spells [0x030C_0011] (.or 33 32 0) ∧
    Spells [0x5000_6821] (.redAdd 3 16) ∧
    Spells [0x7CA0_0004, 0xFFF0_0000] (.liImm32 20 0xFFF00000) ∧
    Spells [0x5A21_081B] (.vxor 2 2 2 0 3) ∧
    Spells [0x5B11_0817] (.vor 17 2 2 0 3) ∧
    Spells [0x1651_4044] (.shrImm 10 10 4) ∧
    Spells [0x5200_A686] (.barwt 5 13) ∧
    Spells [0x5200_C005] (.bararv 6) ∧
    Spells [0x5726_8820] (.sbindv 1 13 1 0 0 1) ∧
    Spells [0x560A_8800] (.sbind 0 21 1 0 0 0) ∧
    Spells [0xA402_6007] (.blt 0 19 7) ∧
    Spells [0x4F05_0105] (.vst 16 20 0 5) ∧
    Spells [0x64DB_8E85] (.msg 27 28 29 0 5) ∧
    Spells [0x5873_8010, 0x0080_0000] (.vcvtf 7 7 0 0 4 0) ∧
    Spells [0x5202_0003] (.waitne 16 0) ∧
    Spells [0x5F88_5801] (.vmovv 49 1 3) ∧
    Spells [0x5402_C000] (.copy 22) ∧
    Spells [0x08D6_200F] (.andImm 26 49 15) :=
  ⟨⟨rfl, rfl⟩, ⟨rfl, rfl⟩, ⟨rfl, rfl⟩, ⟨rfl, rfl⟩, ⟨rfl, rfl⟩, ⟨rfl, rfl⟩, ⟨rfl, rfl⟩, ⟨rfl, rfl⟩, ⟨rfl, rfl⟩, ⟨rfl, rfl⟩, ⟨rfl, rfl⟩, ⟨rfl, rfl⟩, ⟨rfl, rfl⟩, ⟨rfl, rfl⟩, ⟨rfl, rfl⟩, ⟨rfl, rfl⟩, ⟨rfl, rfl⟩, ⟨rfl, rfl⟩, ⟨rfl, rfl⟩, ⟨rfl, rfl⟩, ⟨rfl, rfl⟩, ⟨rfl, rfl⟩, ⟨rfl, rfl⟩, ⟨rfl, rfl⟩, ⟨rfl, rfl⟩⟩

/-- Switch words printed in the spec. -/
theorem test_decode_printed_switch :
    SpellsSwitch 0x0004_0000_4400_0020 (.route 0x04000020 1) ∧
    SpellsSwitch 0x0000_0040_8000_0020 (.routen 0x20 0 16) ∧
    SpellsSwitch 0x0004_0019_C000_0120 (.smcast 0x120 6) ∧
    SpellsSwitch 0x0004_0018_8000_0120 (.routen 0x120 1 6) ∧
    SpellsSwitch 0x0010_000D_8000_0020 (.swaitm 0x20 0 3 2) ∧
    SpellsSwitch 0x0000_0001_4000_0000 (.sbq 0 0 0) ∧
    SpellsSwitch 0x0000_0002_0000_0000 (.shalt) ∧
    SpellsSwitch 0x0038_0001_8100_0000 (.swaitm 0x01000000 0 0 7) ∧
    SpellsSwitch 0x0004_0041_C000_0248 (.smcast 0x248 16) ∧
    SpellsSwitch 0x003C_0001_8000_0248 (.swaitm 0x248 1 0 7) ∧
    SpellsSwitch 0x0038_0005_8200_0000 (.swaitm 0x02000000 0 1 7) ∧
    SpellsSwitch 0x003C_000D_8400_0020 (.swaitm 0x04000020 1 3 7) ∧
    SpellsSwitch 0x0000_0008_8400_0000 (.routen 0x04000000 0 2) :=
  ⟨⟨rfl, rfl⟩, ⟨rfl, rfl⟩, ⟨rfl, rfl⟩, ⟨rfl, rfl⟩, ⟨rfl, rfl⟩, ⟨rfl, rfl⟩, ⟨rfl, rfl⟩, ⟨rfl, rfl⟩, ⟨rfl, rfl⟩, ⟨rfl, rfl⟩, ⟨rfl, rfl⟩, ⟨rfl, rfl⟩, ⟨rfl, rfl⟩⟩

/-- Words that the spec prints as illegal: an unallocated major, an XFENCE of class W, an input named twice with MC clear. -/
theorem test_decode_printed_illegal :
    decode 0x6C000000 0 0 = .error .major ∧ decodeSwitch 0x0000_0000_4400_0020 = .error .switchWord ∧
    (match decode 0x5200_A001 0 0 with | .error e => Reject.cls e == 5 | .ok _ => false) = true := ⟨rfl, rfl, rfl⟩

/- Ill-formed terms: each check of WellFormed.lean refuses one -/

/-- Operand codes (R197, R198, R216 class 4). -/
theorem test_ill_formed_operands :
    [Instr.add 5 6 51, .add 48 6 7, .add 49 6 7, .add 5 6 48, .add 32 48 7, .add 0 48 7, .sel 32 6 7, .ldd 5 51 0, .vadd 24 1 2 0 0, .vld 16 6 0 0,
      .vcmpEq 8 1 2 0, .mand 8 1 2, .mpopc 5 8, .qsel 31 33 34, .qsel 32 33 33, .cas 32 6 7, .crr 49 0x20, .lard 48 0, .vmovv 6 16 0].all (fun i => !wellFormed i) = true := by decide

/-- Raw fields, immediates and rounding codes (R174, R199, R216 class 5, R217, R242). -/
theorem test_ill_formed_raw :
    [Instr.sext 5 6 0, .zext 5 6 0, .extr 5 6 1 0, .insr 5 6 33 32, .loop 6 0, .loop 6 0x1000, .xfence 5 0, .xfence 0 5, .ipref 0 6 7, .ipref 4 6 7, .eos 0 1 0,
      .vadd 1 2 3 0 5, .vadd 1 2 3 0 6, .vcvti 1 2 0 0 0 0, .vcvti 1 2 0 0 5 0, .vscan 1 2 0 1 1, .vslide 1 2 0 8 0 3, .lard 5 5, .qend 32 0,
      .ifence 6 7 4, .fmtset 6 16, .crr 5 0x21, .crw 5 0x180, .brl 2, .calll 1].all (fun i => !wellFormed i) = true := by decide

/-- Switch words (R219, R220). -/
theorem test_ill_formed_switch :
    [Instr.route 5 0, .route 0x04000020 0, .routen 3 0 0, .swaitm 0 0 3 0, .smcast 3 0, .smcast 3 65].all (fun i => !wellFormed i) = true ∧
    wellFormed (.route 0x04000020 1) = true ∧ wellFormed (.smcast 3 64) = true := by decide

/- States for the tests -/

/-- The state after reset with a value in a scalar register of the current tile. -/
def withX (s : State) (n : Nat) (w : Word) : State := onTile s (fun t => { t with x := vset t.x n w })

/-- A state with tokens in the core-input queue of a port. -/
def portTokens (s : State) (p : Nat) (l : List Token) : State := onTile s (fun t => { t with coreIn := vset t.coreIn p l })

/-- Partition 0 holds field 0, and owns the first stripe. -/
def parted : State := { State.reset with parts := [(0, { fields := 1 })], stripes := [(0, 0)] }

/-- The same with page tables that map the first 1 GiB of the global window, and of code-window slot 0, to the first 1 GiB of memory, with
every permission; the tables stand at 0x200000, 0x400000 and 0x401000. -/
def mapped : State :=
  let s := updField parted 0 (fun f => { f with xlateRoot := 0x200001 })
  let s := writeD s 0x200000 0x400003
  let s := writeD s (0x200000 + 8 * bitsOf 0xFF40000000000000#64 56 39) 0x401003
  let s := writeD s 0x400000 0xDD
  writeD s 0x401000 0xDD

/-- The same with a live module in slot 1, whose signature table lists one function of class 7 at offset 0x10. -/
def modular : State :=
  let s := updField mapped 0 (fun f => { f with modBase := 0x500001 })
  let s := writeD s 0x500040 2
  let s := writeD s (0x500040 + 16) (at_ 32 1 ||| at_ 0 0x100)
  let s := writeD s (0x200000 + 8 * bitsOf 0xFF40000100000000#64 56 39) 0x401003
  let s := writeD s (0x401000 + 8 * bitsOf 0xFF40000100000000#64 38 30) 0xDD
  writeD s 0x100 (at_ 32 7 ||| at_ 0 0x10)

/-- The same with the line of that table in the tile's first-level cache, and the leaf that maps it in its buffer. -/
def tagged : State := primeFetch modular 0xFF40000100000100#64 (bytesOf 8 (at_ 32 7 ||| at_ 0 0x10).toNat)

/-- A state in which the network interface of tile 1 holds a request of the current tile's thread. -/
def heldBack (s : State) : State := updTile s 1 (fun t => { t with ring := [.req { tile := s.tile.id, op := .store 8 0xFF80000040000000#64 7, entry := 0 }] })

/-- Doublewords written into the current tile's scratch from an offset up. -/
def scratched (s : State) (off : Nat) : List Word → State
  | [] => s
  | w :: r => scratched (writeD s (scratchKey s.tile.id off) w) (off + 8) r

/-- The descriptor of a pattern of 4 doublewords at 0x10000, in the scratch of tile 0 at 0x100, which x1 names. -/
def described (s : State) : State := scratched (withX s 1 0xFFFFFFFFFFF00100#64) 0x100 [1, 0x10000, 4, 0, 8]

/-- A tile with a stream register bound. -/
def bound (s : State) (r : Nat) (b : Binding) : State := onTile s (fun t => { t with streams := [(r, b)] })

/-- `modular` with one tile image in module 1, of 0x1000 bytes of code, and a scope table in which scope 5 is live under the root. -/
def launchable : State :=
  let s := updField modular 0 (fun f => { f with scopeBase := 0x600001 })
  let s := updPart s 0 (fun p => { p with scopes := [5] })
  let s := writeD s 0x600050 (at_ 32 7 ||| at_ 16 1)
  let s := writeD s 0x500048 0x1000
  let s := writeD s 0x500060 0x700000
  writeD s 0x500068 1

/-- The doublewords of a legal record for module 1, of one task of one thread, in the root's scope. -/
def record1 : List Word := [0x101, at_ 32 1, 0, 0, 0, 0, 0, 0, 0, 1]

/-- The same with a tile image at 0x701000, of no scratch bank and no switch program, which image 0 of module 1 names. -/
def imaged (s : State) : State := writeD (writeD (writeD s 0x700000 0x701000) 0x701000 1) 0x701008 1

/- One-step tests: what the rules give for a few values, worked out by hand from the rule cited -/

/-- The value of x5 after an instruction from reset with x6 and x7 given. -/
def x5After (i : Instr) (a b : Word) : Option Word :=
  match exec i (withX (withX State.reset 6 a) 7 b) with
  | .next t => some (t.tile.xGet 5)
  | _ => none

/-- R234, R235: wraps, signs and the corners of the divisions. -/
theorem test_two_source :
    x5After (.add 5 6 7) 0xFFFFFFFFFFFFFFFF 2 = some 1 ∧ x5After (.sub 5 6 7) 1 2 = some 0xFFFFFFFFFFFFFFFF ∧
    x5After (.mulh 5 6 7) 0xFFFFFFFFFFFFFFFF 2 = some 0xFFFFFFFFFFFFFFFF ∧ x5After (.mulhu 5 6 7) 0xFFFFFFFFFFFFFFFF 2 = some 1 ∧
    x5After (.div 5 6 7) 9 0 = some 0xFFFFFFFFFFFFFFFF ∧ x5After (.rem 5 6 7) 9 0 = some 9 ∧
    x5After (.div 5 6 7) 0x8000000000000000 0xFFFFFFFFFFFFFFFF = some 0x8000000000000000 ∧
    x5After (.div 5 6 7) 0xFFFFFFFFFFFFFFF9 2 = some 0xFFFFFFFFFFFFFFFD ∧ x5After (.rem 5 6 7) 0xFFFFFFFFFFFFFFF9 2 = some 0xFFFFFFFFFFFFFFFF ∧
    x5After (.sar 5 6 7) 0x8000000000000000 0x43 = some 0xF000000000000000 ∧ x5After (.rol 5 6 7) 0x8000000000000001 1 = some 3 ∧
    x5After (.min 5 6 7) 1 0xFFFFFFFFFFFFFFFF = some 0xFFFFFFFFFFFFFFFF ∧ x5After (.minu 5 6 7) 1 0xFFFFFFFFFFFFFFFF = some 1 ∧
    x5After (.slt 5 6 7) 0xFFFFFFFFFFFFFFFF 0 = some 1 ∧ x5After (.sltu 5 6 7) 0xFFFFFFFFFFFFFFFF 0 = some 0 := by decide +kernel

/-- R236, R238 to R243: bit counts, reversals, fields and constants. -/
theorem test_unary_immediate :
    x5After (.clz 5 6) 0 0 = some 64 ∧ x5After (.ctz 5 6) 8 0 = some 3 ∧ x5After (.popc 5 6) 0xF0F0 0 = some 8 ∧
    x5After (.brev 5 6) 1 0 = some 0x8000000000000000 ∧ x5After (.bswap 5 6) 0x0102030405060708 0 = some 0x0807060504030201 ∧
    x5After (.addImm 5 6 0x1FFF) 5 0 = some 4 ∧ x5After (.sext 5 6 8) 0x80 0 = some 0xFFFFFFFFFFFFFF80 ∧
    x5After (.zext 5 6 8) 0x180 0 = some 0x80 ∧ x5After (.extr 5 6 4 8) 0xABCD 0 = some 0xBC ∧
    x5After (.liw 5 0x123456789ABCDEF0) 0 0 = some 0x123456789ABCDEF0 ∧ x5After (.liImm32 5 0x80000000) 0 0 = some 0xFFFFFFFF80000000 :=
  by decide +kernel

/-- R197: x0 reads as 0 and takes no value. -/
theorem test_x0 : (match exec (.add 0 6 7) (withX (withX State.reset 6 5) 7 6) with | .next t => t.tile.xGet 0 == 0 | _ => false) = true := by
  decide +kernel

/-- Chapter 9: 1.0 is 0x3FFFC00000000000; 1.0 + 1.0 is 2.0, and 0 · ∞ is the canonical NaN with NV (R171, R173). -/
theorem test_t64 :
    addT64 0 0x3FFFC00000000000 0x3FFFC00000000000 = (0x4000400000000000, 0) ∧ mulT64 0 0 (infT64 false) = (0x7FFFE00000000000, fNV) := by
  decide +kernel

/-- The walk of chapter 2: the tables map 0x123456789ABC to 0x23_4578_9ABC in a 2 MiB page, and a store sets D in the leaf. The chapter
stores a doubleword, which R41 refuses at that address; four bytes are stored here. -/
def walkExample : State :=
  let s := { State.reset with parts := [(0, { fields := 1 })], stripes := [(2, 0), (5, 0)] }
  let s := updField s 0 (fun f => { f with xlateRoot := 0x1000000001 })
  writeD (writeD (writeD s 0x1000000120 0x1000200003) 0x1000200688 0x1000201003) 0x1000201598 0x234560004D

/-- The example that closes chapter 2. -/
theorem test_walk_example :
    (let p := (perform walkExample 0 .user (.store 4 0x0000123456789ABC 77)).st
     readNum p 0x23457_89ABC 4 == 77 && readD p 0x1000201598 == 0x23456000CD#64) = true := by decide +kernel

/-- R204: a branch counts from its own address; R246: CALL links the next instruction. -/
theorem test_control :
    (match exec (.beq 6 6 0x1FFE) State.reset with | .next t => t.tile.pc == State.reset.tile.pc - 8 | _ => false) = true ∧
    (match exec (.call 3) State.reset with | .next t => t.tile.pc == State.reset.tile.pc + 12 && t.tile.xGet 31 == State.reset.tile.pc + 4 | _ => false) = true := by
  decide +kernel

/-- R216: an unallocated major raises ILLEGAL with class 1 in a step; the step is a next state. -/
theorem test_illegal_step :
    (match step (State.reset.withFetchWord 32 0x6C000000) with
     | .next t => bitsOf t.tile.trapCause 3 0 == 1 && bitsOf t.tile.trapCause 11 8 == 1
     | _ => false) = true := by decide +kernel

/-- A step from reset runs the word at the pc. -/
theorem test_step :
    (match step (State.reset.withFetchWord 32 0x04209FFF) with | .next t => t.tile.xGet 4 == 0xFFFFFFFFFFFFFFFF | _ => false) = true := by
  decide +kernel

/-- The lanes of the example of chapter 13: 2^47, 1.0, -2^47, 1.0, and +0. -/
def treeExample : State := onTile State.reset (fun t => { t with
  v := vset t.v 1 (ofLanes [0x4017400000000000, 0x3FFFC00000000000, 0xC017400000000000, 0x3FFFC00000000000]), m := vset t.m 1 0xF7 })

/-- VREDF (R193, R263) in that example: 1.0 with NX, and +0 under m1. -/
theorem test_vredf :
    (match exec (.vredf 2 1 0 0) treeExample with | .next t => t.tile.vGet 2 == ofLanes [0x3FFFC00000000000] && t.tile.coreStatus == fNX | _ => false) = true ∧
    (match exec (.vredf 3 1 1 0) treeExample with | .next t => t.tile.vGet 3 == 0 | _ => false) = true := by decide +kernel

/-- VREDX and LARD (R192, R270) in that example: 2.0, and 1.0 under m1. -/
theorem test_vredx :
    (match exec (.vredx 1 0) treeExample with | .next t => (laRound 0 t.tile.la).1 == 0x4000400000000000#64 | _ => false) = true ∧
    (match exec (.vredx 1 1) treeExample with | .next t => laRound 0 t.tile.la == (0x3FFFC00000000000#64, 0) | _ => false) = true := by decide +kernel

/-- VCOMP and VEXPD (R268) in the example of chapter 13, with 16 to 23 for a0 to a7 and 32 to 39 for d0 to d7. -/
theorem test_vcomp_vexpd :
    (let s := onTile State.reset (fun t => { t with m := vset t.m 2 0x65, v := vset (vset t.v 1 (ofLanes [16, 17, 18, 19, 20, 21, 22, 23])) 3 (ofLanes [32, 33, 34, 35, 36, 37, 38, 39]) })
     (match exec (.vcomp 4 1 2 3) s with | .next t => t.tile.vGet 4 == ofLanes [16, 18, 21, 22] | _ => false) &&
     (match exec (.vexpd 3 1 2 3) s with | .next t => t.tile.vGet 3 == ofLanes [16, 33, 17, 35, 36, 18, 19, 39] | _ => false)) = true := by decide +kernel

/- The hypotheses of the statements can be met -/

namespace WTwoSourceResults1
def s := State.reset
/-- The hypotheses of a clause of TwoSourceResults can be met. -/
theorem witness_two_source_results_1 :
    Ready [.x 1, .x 33] [.x 2] (portTokens s 1 [{ payload := 5, res := residueOf 5 }]) ∧
    Ready [.x 31] [] s ∧
    s.tile.dispute = none ∧
    Issuable s (.mr (.add 5 48 31) 0 0 0) :=
  ⟨by delta Ready; rfl, by delta Ready; rfl, by rfl, by refine ⟨?_, ?_, ?_⟩ <;> decide⟩
end WTwoSourceResults1

namespace WUnaryResults1
/-- The hypotheses of a clause of UnaryResults can be met. -/
theorem witness_unary_results_1 :
    Ready [.x 1] [.x 31] State.reset ∧
    State.reset.tile.dispute = none ∧
    Issuable State.reset (.mr (.clz 5 48) 0 0 0) :=
  ⟨by delta Ready; rfl, by rfl, by refine ⟨?_, ?_, ?_⟩ <;> decide⟩
end WUnaryResults1

namespace WSelectExtendResults1
/-- The hypotheses of a clause of SelectExtendResults can be met. -/
theorem witness_select_extend_results_1 :
    Ready [.x 1] [.x 31] State.reset ∧
    State.reset.tile.dispute = none ∧
    ((63#6).toNat + widthOf 1#6 ≤ 64 ∧ (0#6).toNat + widthOf 0#6 ≤ 64 ∧ 0 < (63#6).toNat) ∧
    Issuable State.reset (.mr (.insr 5 48 63 1) 0 0 0) :=
  ⟨by delta Ready; rfl, by rfl, by decide, by refine ⟨?_, ?_, ?_⟩ <;> decide⟩
end WSelectExtendResults1

namespace WImmediateConstantResults1
/-- The hypotheses of a clause of ImmediateConstantResults can be met. -/
theorem witness_immediate_constant_results_1 :
    Ready [.x 1] [.x 31] State.reset ∧
    State.reset.tile.dispute = none ∧
    Ready [] [.x 0] State.reset ∧
    Issuable State.reset (.mr (.addImm 5 48 7) 0 0 0) :=
  ⟨by delta Ready; rfl, by rfl, by delta Ready; rfl, by refine ⟨?_, ?_, ?_⟩ <;> decide⟩
end WImmediateConstantResults1

namespace WScalarOperands1
def s := portTokens State.reset 7 [{ payload := 5, res := residueOf 5 }]
/-- The hypotheses of a clause of ScalarOperands can be met. -/
theorem witness_scalar_operands_1 :
    (vget s.tile.coreIn ((39#6).toNat - 32) [] = [{ payload := 5, res := residueOf 5 }] ∧ vget State.reset.tile.coreIn ((32#6).toNat - 32) [] = []) :=
  by decide
end WScalarOperands1

namespace WScalarOperands2
def k : Token := { kind := .marker, payload := 3 }
def s := portTokens State.reset 0 [k]
/-- The hypotheses of a clause of ScalarOperands can be met. -/
theorem witness_scalar_operands_2 :
    (vget s.tile.coreIn ((32#6).toNat - 32) [] = [k] ∧ k.kind = .marker) :=
  by decide
end WScalarOperands2

namespace WScalarOperands3
def s := onTile State.reset (fun t => { t with id := 257 })
/-- The hypotheses of a clause of ScalarOperands can be met. -/
theorem witness_scalar_operands_3 :
    (bitOf s.tile.tokenCfg 16 = false ∧ isSendPort s.tile.id ((39#6).toNat - 32) = false ∧ isSendPort s.tile.id 0 = false) :=
  by decide
end WScalarOperands3

namespace WBranchResults1
/-- The hypotheses of a clause of BranchResults can be met. -/
theorem witness_branch_results_1 :
    Ready [.x 1, .x 0] [] State.reset ∧
    Ready [.x 31] [] State.reset :=
  ⟨by delta Ready; rfl, by delta Ready; rfl⟩
end WBranchResults1

namespace WJumpCallResults1
def s := withX State.reset 31 0xFF40000000000100#64
/-- The hypotheses of a clause of JumpCallResults can be met. -/
theorem witness_jump_call_results_1 :
    Ready [.x 31] [] s ∧
    ((valueOf s 31).toNat % 4 = 0 ∧ (s.tile.xGet 31).toNat % 4 = 0 ∧ slotCheck s s.tile (s.tile.pc + 4 * 4) = none ∧ slotCheck s s.tile (valueOf s 31) = none) :=
  ⟨by delta Ready; rfl, by decide⟩
end WJumpCallResults1

namespace WJumpCallResults2
def s := withX State.reset 31 0xFF40000000000102#64
/-- The hypotheses of a clause of JumpCallResults can be met. -/
theorem witness_jump_call_results_2 :
    Ready [.x 31] [] s ∧
    ((valueOf s 31).toNat % 4 ≠ 0 ∧ (s.tile.xGet 31).toNat % 4 ≠ 0) :=
  ⟨by delta Ready; rfl, by decide⟩
end WJumpCallResults2

namespace WJumpCallResults3
def s := withX State.reset 31 0xFF40000200000000#64
/-- The hypotheses of a clause of JumpCallResults can be met. -/
theorem witness_jump_call_results_3 :
    Ready [.x 31] [] s ∧
    ((valueOf s 31).toNat % 4 = 0 ∧ slotCheck s s.tile (valueOf s 31) = some 3 ∧ slotOf (valueOf s 31) = some 2 ∧ slotOf s.tile.pc ≠ some 2 ∧ slotCheck s s.tile (s.tile.pc + 0x200000000#64) = some 3) :=
  ⟨by delta Ready; rfl, by decide⟩
end WJumpCallResults3

namespace WJumpCallResults4
def g := withX tagged 5 0xFF40000100000010#64
/-- The hypotheses of a clause of JumpCallResults can be met. -/
theorem witness_jump_call_results_4 :
    Ready [.x 5] [] g ∧
    ((valueOf g 5).toNat % 4 = 0 ∧ slotCheck g g.tile (valueOf g 5) = none ∧ 7#12 ≠ 4095#12) ∧
    classTag (classSeen g (valueOf g 5)) (valueOf g 5) = .tag (some (7#12).toNat) :=
  ⟨by delta Ready; rfl, by decide, by rfl⟩
end WJumpCallResults4

namespace WJumpCallResults5
def g := withX tagged 5 0xFF40000100000014#64
/-- The hypotheses of a clause of JumpCallResults can be met. -/
theorem witness_jump_call_results_5 :
    ((valueOf g 5).toNat % 4 = 0 ∧ slotCheck g g.tile (valueOf g 5) = none) ∧
    classTag (classSeen g (valueOf g 5)) (valueOf g 5) = .tag none :=
  ⟨by decide, by rfl⟩
end WJumpCallResults5

namespace WJumpCallResults6
def g := withX State.reset 5 0xFF40000000000010#64
def h := withX modular 5 0xFF40000100000010#64
/-- The hypotheses of a clause of JumpCallResults can be met. -/
theorem witness_jump_call_results_6 :
    (slotOf g.tile.pc = some 0 ∧ slotCheck g g.tile (valueOf g 5) = none ∧ slotCheck h h.tile (valueOf h 5) = none) ∧
    classTag (classSeen g (valueOf g 5)) (valueOf g 5) = .empty ∧
    ((match classTag (classSeen h (valueOf h 5)) (valueOf h 5) with | .blocked lo hi (.wait _ _ _ _) => lo == 0 && hi == 1 | _ => false) = true) :=
  ⟨by decide, by rfl, by rfl⟩
end WJumpCallResults6

namespace WLoopResults1
/-- The hypotheses of a clause of LoopResults can be met. -/
theorem witness_loop_results_1 :
    Ready [.x 1] [] State.reset ∧
    (State.reset.tile.loops.depth ≠ 4) :=
  ⟨by delta Ready; rfl, by decide⟩
end WLoopResults1

namespace WLoopResults2
def s := onTile State.reset (fun t => { t with loops := { t.loops with depth := 4 } })
/-- The hypotheses of a clause of LoopResults can be met. -/
theorem witness_loop_results_2 :
    Ready [.x 1] [] s ∧
    (s.tile.loops.depth = 4) :=
  ⟨by delta Ready; rfl, by decide⟩
end WLoopResults2

namespace WLoopResults3
def e : LoopEntry := { start := 0xFF40000000000004, len := 1, count := 2, level := 0 }
def s : State := { onTile State.reset (fun t => { t with loops := { t.loops with depth := 1, entries := vset t.loops.entries 0 e } }) with arg := [0xFF40000000000004] }
/-- The hypotheses of a clause of LoopResults can be met. -/
theorem witness_loop_results_3 :
    (0 < s.tile.loops.depth ∧ s.tile.loops.top = e ∧ e.level = s.tile.loops.level ∧ BitVec.ofNat 64 0xFF40000000000004 = e.start - 4 + BitVec.ofNat 64 (e.len * 4)) :=
  by decide
end WLoopResults3

namespace WLocalAccessResults1
def s := withX (withX State.reset 1 0xFFFFFFFFFFF00000#64) 2 0x1122334455667788#64
/-- The hypotheses of a clause of LocalAccessResults can be met. -/
theorem witness_local_access_results_1 :
    Ready [.x 1, .x 2] [] s ∧
    Ready [.x 1] [.x 3] s ∧
    (InScratch s (valueOf s 1 + 0) 8 ∧ poisoned s (homeOf s (valueOf s 1 + 0)) = false ∧ Memory.wf s.mem = true) ∧
    Unheld s :=
  ⟨by delta Ready; rfl, by delta Ready; rfl, by delta InScratch; decide, by rfl⟩
end WLocalAccessResults1

namespace WLocalAccessResults2
def s := withX State.reset 1 0xFFFFFFFFFFFFFFF8#64
/-- The hypotheses of a clause of LocalAccessResults can be met. -/
theorem witness_local_access_results_2 :
    (InScratch s (valueOf s 1) 8 ∧ InScratch s (valueOf s 1 + 7) 1 ∧ poisoned s (homeOf s (valueOf s 1)) = false) ∧
    Unheld s :=
  ⟨by delta InScratch; decide, by rfl⟩
end WLocalAccessResults2

namespace WLocalAccessResults3
def s := heldBack (withX State.reset 1 0xFFFFFFFFFFF00000#64)
/-- The hypotheses of a clause of LocalAccessResults can be met. -/
theorem witness_local_access_results_3 :
    Ready [.x 1] [.x 3] s ∧
    (heldBehind s s.tile.id).isSome = true ∧
    ¬ Unheld s ∧
    (InScratch s (valueOf s 1 + (0#13).signExtend 64) 8 ∧ poisoned s (homeOf s (valueOf s 1 + (0#13).signExtend 64)) = false) :=
  ⟨by delta Ready; rfl, by rfl, by delta Unheld; decide, by delta InScratch; decide⟩
end WLocalAccessResults3

namespace WAccessAtHome1
def va := 0x10000#64
/-- The hypotheses of a clause of AccessAtHome can be met. -/
theorem witness_access_at_home_1 :
    ((match resolve mapped 0 .user { kind := .read } va 8 with | .ok (tg, u) => targetKey tg == some 0x10000 && blockOf u 0 va tg false == .free && !poisoned u 0x10000 | _ => false) = true) ∧
    ((match resolve mapped 0 .user { kind := .write } va 8 with | .ok (tg, u) => Memory.wf u.mem && targetKey tg == some 0x10000 && blockOf u 0 va tg false == .free | _ => false) = true) ∧
    ((match resolve mapped 0 .user { kind := .read } 0x0200000000000000#64 8 with | .error _ => true | _ => false) = true) ∧
    heldBehind mapped 0 = none :=
  ⟨by decide +kernel, by decide +kernel, by decide +kernel, by decide +kernel⟩
end WAccessAtHome1

namespace WVectorAccess1
def s := withX State.reset 1 0xFFFFFFFFFFF00040#64
def vas := lanesAt (fun j => valueOf s 1 + (0#8).signExtend 64 * 64 + BitVec.ofNat 64 (8 * j))
/-- The hypotheses of a clause of VectorAccess can be met. -/
theorem witness_vector_access_1 :
    Ready [.x 1] [] s ∧
    Ready [.x 1, .v 3] [] s ∧
    Unheld s ∧
    LanesInScratch s (s.tile.mGet 0) vas ∧
    s.tile.mGet (0#3).toNat ≠ 0 ∧
    (3#5).toNat < 16 :=
  ⟨by delta Ready; rfl, by delta Ready; rfl, by rfl, by delta LanesInScratch InScratch; decide, by decide, by decide⟩
end WVectorAccess1

namespace WVectorAccess2
def s := withX mapped 1 0x10000#64
def vas := lanesAt (fun j => valueOf s 1 + BitVec.ofNat 64 j * valueOf s 2)
/-- The hypotheses of a clause of VectorAccess can be met. -/
theorem witness_vector_access_2 :
    Ready [.x 1, .x 2] [] s ∧
    Ready [.x 1, .v 3] [] s ∧
    Ready [.x 1, .v 3, .v 4] [] s ∧
    ((LongOp.vload vas (s.tile.mGet 0)).short = false ∧ (LongOp.vstore vas (s.tile.mGet 0) (lanes (vectorOf s 3))).short = false) ∧
    Issuable s (.vload vas (s.tile.mGet 0)) ∧
    Issuable s (.vstore vas (s.tile.mGet 0) (lanes (vectorOf s 3))) :=
  ⟨by delta Ready; rfl, by delta Ready; rfl, by delta Ready; rfl, by decide, by refine ⟨?_, ?_, ?_⟩ <;> decide, by refine ⟨?_, ?_, ?_⟩ <;> decide⟩
end WVectorAccess2

namespace WLongResultCommit1
def e : LongEntry := { op := .load 8 false 0x10000, dst := .x 5, res := .word 77 }
def s : State := { onTile State.reset (fun t => { t with longBuf := [e] }) with arg := [0] }
/-- The hypotheses of a clause of LongResultCommit can be met. -/
theorem witness_long_result_commit_1 :
    (s.arg = [0] ∧ s.tile.longBuf[0]? = some e ∧ e.returned = false ∧ e.res ≠ .pending) :=
  by decide
end WLongResultCommit1

namespace WLongResultCommit2
def e : LongEntry := { op := .load 8 false 0x10000, dst := .x 5, res := .word 77, returned := true }
def s := onTile State.reset (fun t => { t with longBuf := [{ e with res := .word 3 }, e], wait := some .park })
/-- The hypotheses of a clause of LongResultCommit can be met. -/
theorem witness_long_result_commit_2 :
    (s.tile.wait = some .park ∧ s.tile.longBuf ≠ [] ∧ (∀ e ∈ s.tile.longBuf, e.returned = true ∧ e.res ≠ .poison ∧ e.failed = false)) :=
  by decide
end WLongResultCommit2

namespace WLongResultCommit3
def e : LongEntry := { op := .load 8 false 0x10000, dst := .x 5, res := .word 77 }
def s := onTile State.reset (fun t => { t with longBuf := [e], wait := some .park })
/-- The hypotheses of a clause of LongResultCommit can be met. -/
theorem witness_long_result_commit_3 :
    (s.tile.wait = some .park ∧ ∃ e ∈ s.tile.longBuf, e.returned = false) :=
  by decide
end WLongResultCommit3

namespace WLocalAtomicResults1
def s := withX (withX State.reset 1 0xFFFFFFFFFFFFFFF8#64) 2 7
/-- The hypotheses of a clause of LocalAtomicResults can be met. -/
theorem witness_local_atomic_results_1 :
    Ready [.x 1, .x 2] [.x 3] s ∧
    Ready [.x 1, .x 2] [] s ∧
    Ready [.x 1] [] s ∧
    (InScratch s (valueOf s 1) 8 ∧ poisoned s (homeOf s (valueOf s 1)) = false) ∧
    Unheld s :=
  ⟨by delta Ready; rfl, by delta Ready; rfl, by delta Ready; rfl, by delta InScratch; decide, by rfl⟩
end WLocalAtomicResults1

namespace WLongOperationIssue1
def s := withX (withX mapped 1 0x10000#64) 2 0xFF80000000000010#64
/-- The hypotheses of a clause of LongOperationIssue can be met. -/
theorem witness_long_operation_issue_1 :
    Ready [.x 1] [] s ∧
    Ready [.x 1, .x 2] [] s ∧
    Ready [.x 1, .x 3, .x 2] [] s ∧
    (isLocal (valueOf s 1 + (0#13).signExtend 64) = false ∧ isLocal (valueOf s 1) = false ∧ forwardOk s (valueOf s 2) = true ∧ (4#6).toNat < 32 ∧ 32 ≤ (32#6).toNat) ∧
    Issuable s (.load 8 false (valueOf s 1 + 0)) ∧
    Issuable s (.store 8 (valueOf s 1 + 0) 5) ∧
    Issuable s (.amo .add (valueOf s 1) 0) ∧
    Issuable s (.cas (valueOf s 1) 0 0) ∧
    Issuable s (.red .add (valueOf s 1) 0) ∧
    Issuable s (.redf .add (valueOf s 1) 0 (valueOf s 2) none) ∧
    Issuable s (.barinit (valueOf s 1) 0) ∧
    Issuable s (.bararv (valueOf s 1)) :=
  ⟨by delta Ready; rfl, by delta Ready; rfl, by delta Ready; rfl, by decide, by refine ⟨?_, ?_, ?_⟩ <;> decide, by refine ⟨?_, ?_, ?_⟩ <;> decide, by refine ⟨?_, ?_, ?_⟩ <;> decide, by refine ⟨?_, ?_, ?_⟩ <;> decide, by refine ⟨?_, ?_, ?_⟩ <;> decide, by refine ⟨?_, ?_, ?_⟩ <;> decide, by refine ⟨?_, ?_, ?_⟩ <;> decide, by refine ⟨?_, ?_, ?_⟩ <;> decide⟩
end WLongOperationIssue1

namespace WLongOperationIssue2
def s := withX (withX mapped 1 0xFFFFFFFFFFF00008#64) 2 0xFF80000040000010#64
/-- The hypotheses of a clause of LongOperationIssue can be met. -/
theorem witness_long_operation_issue_2 :
    Ready [.x 1, .x 3, .x 2] [] s ∧
    ((valueOf s 1).toNat % 16 ≠ 0 ∧ (valueOf s 2).toNat % 16 = 0 ∧ (match regionOf (valueOf s 2) with | .ok (.place r _) => decide (tileCount s (partNo s s.tile.id) ≤ r) | _ => false) = true ∧ isLocal (valueOf s 1) = true ∧ InScratch s (valueOf s 1) 8) ∧
    Unheld s :=
  ⟨by delta Ready; rfl, by delta InScratch; decide, by rfl⟩
end WLongOperationIssue2

namespace WLongOperationIssue3
def s := withX (withX mapped 1 0x10000#64) 3 0x20000#64
/-- The hypotheses of a clause of LongOperationIssue can be met. -/
theorem witness_long_operation_issue_3 :
    Ready [.x 1, .x 2, .x 3] [] s ∧
    ((valueOf s 3).toNat % 16 = 0 ∧ (valueOf s 3).toNat < 2 ^ 55) :=
  ⟨by delta Ready; rfl, by decide⟩
end WLongOperationIssue3

namespace WBarrierArrival1
/-- The hypotheses of a clause of BarrierArrival can be met. -/
theorem witness_barrier_arrival_1 :
    ((match resolve mapped 0 .user { kind := .atomic, noDevice := true, ownerAtomic := true } 0x10000#64 8 with | .ok (tg, u) => Memory.wf u.mem && targetKey tg == some 0x10000 && blockOf u 0 0x10000#64 tg true == .free && !poisoned u 0x10000 | _ => false) = true) ∧
    heldBehind mapped 0 = none :=
  ⟨by rfl, by decide +kernel⟩
end WBarrierArrival1

namespace WAtomicAndBarrierAtOwner1
/-- The hypotheses of a clause of AtomicAndBarrierAtOwner can be met. -/
theorem witness_atomic_and_barrier_at_owner_1 :
    ((match resolve mapped 0 .user { kind := .atomic, noDevice := true, ownerAtomic := true } 0x10000#64 8 with | .ok (tg, u) => Memory.wf u.mem && targetKey tg == some 0x10000 && blockOf u 0 0x10000#64 tg true == .free && !poisoned u 0x10000 | _ => false) = true) ∧
    (field (5#64 <<< 32) 63 32 = 5 ∧ field (5#64 <<< 32) 63 32 ≠ 4) ∧
    (heldBehind mapped 0 = none) :=
  ⟨by rfl, by decide, by decide +kernel⟩
end WAtomicAndBarrierAtOwner1

namespace WWaitFenceResults1
def s := withX (withX State.reset 1 0xFFFFFFFFFFF00010#64) 2 7
/-- The hypotheses of a clause of WaitFenceResults can be met. -/
theorem witness_wait_fence_results_1 :
    Ready [.x 1, .x 2] [] s ∧
    (s.tile.waitOps.find? (fun w => w.ctx == s.tile.ctx && w.pc == s.tile.pc) = none ∧ windowClosed s s.tile.id (.load 8 false (valueOf s 1)) = false ∧
      [AccKind.read, .atomic].all (fun k => !walkStalls s s.tile.id (valueOf s 1) k s.tile.mode) = true) ∧
    ([AccKind.read, .atomic].all (fun k => match resolve s s.tile.id s.tile.mode { kind := k, noDevice := true } (valueOf s 1) 8 with | .ok (tg, u) => (targetKey tg).isSome && blockOf u 0 (valueOf s 1) tg false == .free && (targetKey tg).all (fun pa => !poisoned u pa) | _ => false) = true) ∧
    Unheld s :=
  ⟨by delta Ready; rfl, by decide, by rfl, by rfl⟩
end WWaitFenceResults1

namespace WWaitFenceResults2
def s := onTile State.reset (fun t => { t with wait := some .wait })
/-- The hypotheses of a clause of WaitFenceResults can be met. -/
theorem witness_wait_fence_results_2 :
    (s.tile.wait = some .wait) :=
  by decide
end WWaitFenceResults2

namespace WWaitFenceResults3
def s := State.reset
/-- The hypotheses of a clause of WaitFenceResults can be met. -/
theorem witness_wait_fence_results_3 :
    (1#6).toNat ≤ 4 ∧
    (∀ c, c ≤ 4 → SourceDone (fenceBegun s 1) c) ∧
    (∀ c, c ≤ 4 → SourceDone (fenceBegun s c) c) :=
  ⟨by decide, by
  intro c h
  match c with
  | 0 => exact fun e h => absurd (show e ∈ ([] : List LongEntry) from h) List.not_mem_nil
  | 1 => exact ⟨fun e h => absurd (show e ∈ ([] : List (Nat × Binding)) from h) List.not_mem_nil, rfl⟩
  | 2 => exact fun e h => absurd (show e ∈ ([] : List (Nat × CopySlot)) from h) List.not_mem_nil
  | 3 => exact ⟨rfl, rfl, rfl⟩
  | 4 => trivial
  | n + 5 => omega, by
  intro c h
  match c with
  | 0 => exact fun e h => absurd (show e ∈ ([] : List LongEntry) from h) List.not_mem_nil
  | 1 => exact ⟨fun e h => absurd (show e ∈ ([] : List (Nat × Binding)) from h) List.not_mem_nil, rfl⟩
  | 2 => exact fun e h => absurd (show e ∈ ([] : List (Nat × CopySlot)) from h) List.not_mem_nil
  | 3 => exact ⟨rfl, rfl, rfl⟩
  | 4 => trivial
  | n + 5 => omega⟩
end WWaitFenceResults3

namespace WWaitFenceResults4
def e : LongEntry := { op := .load 8 false 0x10000, dst := .x 5 }
def s := onTile State.reset (fun t => { t with longBuf := [e] })
/-- The hypotheses of a clause of WaitFenceResults can be met. -/
theorem witness_wait_fence_results_4 :
    (e ∈ s.tile.longBuf ∧ e.res = .pending ∧ e.op.isAccess = true) :=
  by decide
end WWaitFenceResults4

namespace WWaitFenceResults5
def f : MemFault := { cause := .xlate, va := 5 }
def e : Nat × Binding := (3, { out := true, fault := some f, pat := {} })
def s := onTile State.reset (fun t => { t with streams := [e] })
/-- The hypotheses of a clause of WaitFenceResults can be met. -/
theorem witness_wait_fence_results_5 :
    (s.tile.streams = [e] ∧ e.2.out = true ∧ e.2.fault = some f) :=
  by decide
end WWaitFenceResults5

namespace WWaitFenceResults6
def p : RimPort := { idle := false, active := [2], toRim := [{ payload := 5, res := residueOf 5 }] }
def s := onTile State.reset (fun t => { t with ports := [(0, p)] })
def f := onTile s (fun t => { t with wait := some .fence })
def d : DLine := { line := 4, dirty := true }
/-- The hypotheses of a clause of WaitFenceResults can be met. -/
theorem witness_wait_fence_results_6 :
    (s.tile.streams = [] ∧ (fenceBegun s 1).tile.sinkBusy ≠ none) ∧
    (s.tile.wait ≠ some .fence ∧ f.tile.wait = some .fence) :=
  ⟨by decide, by decide⟩
end WWaitFenceResults6

namespace WStreamResults1
def s := described State.reset
def p : Pattern := { dims := 1, base := 0x10000, c0 := 4, s0 := 8 }
/-- The hypotheses of a clause of StreamResults can be met. -/
theorem witness_stream_results_1 :
    Ready [.x 1] [] s ∧
    StreamIdle s 7 ∧
    StreamIdle s 15 ∧
    DescriptorAt s (valueOf s 1) 16 8 ∧
    (patternOf (descriptorOf s (valueOf s 1) 8) (fmtPacked (vget s.tile.fmt 0 0)) = some p ∧ p.stage = false ∧ patternAligned p (fmtBytes (vget s.tile.fmt 0 0)) = true) :=
  ⟨by delta Ready; rfl, ⟨fun b h => (nomatch (show (none : Option Binding) = some b from h)), by rfl⟩, ⟨fun b h => (nomatch (show (none : Option Binding) = some b from h)), by rfl⟩, by delta DescriptorAt Unheld; decide, by decide⟩
end WStreamResults1

namespace WStreamResults2
def s := scratched (described State.reset) 0x100 [5]
def p : Pattern := { dims := 1, base := 0x10000, c0 := 4, s0 := 8, stage := true }
/-- The hypotheses of a clause of StreamResults can be met. -/
theorem witness_stream_results_2 :
    (patternOf (descriptorOf s (valueOf s 1) 8) (fmtPacked (vget s.tile.fmt 2 0)) = some p ∧ p.stage = true ∧ isInt64 (vget s.tile.fmt 2 0) = false) :=
  by decide
end WStreamResults2

namespace WStreamResults3
def b : Binding := { out := true, pat := { c0 := 4 }, fmtN := 15, scaleN := some 15, count := 9 }
def s := bound State.reset 15 b
/-- The hypotheses of a clause of StreamResults can be met. -/
theorem witness_stream_results_3 :
    Ready [] [.x 5] s ∧
    (s.tile.stream ((7#3).toNat + 8) = some b ∧ b.fault = none ∧ b.fmtN < 16 ∧ (∀ k, b.scaleN = some k → k < 16) ∧ b.out = true ∧ b.pat.stage = false) :=
  ⟨by delta Ready; rfl, by decide⟩
end WStreamResults3

namespace WStreamResults4
def s := State.reset
/-- The hypotheses of a clause of StreamResults can be met. -/
theorem witness_stream_results_4 :
    Ready [] [.x 5] s ∧
    (s.tile.stream 0 = none ∧ s.tile.stream 15 = none) :=
  ⟨by delta Ready; rfl, by decide⟩
end WStreamResults4

namespace WStreamResults5
def p : Pattern := { dims := 2, c0 := 3, c1 := 2, s0 := 8, s1 := 64 }
def q : Pos := { i0 := 2 }
/-- The hypotheses of a clause of StreamResults can be met. -/
theorem witness_stream_results_5 :
    (q.done = false ∧ 1 < p.dims ∧ q.i0 ≠ 0 ∧ q.i1 + 1 < p.c1 ∧ p.c0 ≤ q.i0 + 1 ∧ (2 : Nat) ≤ p.dims) :=
  by decide
end WStreamResults5

namespace WStreamResults6
def p : Pattern := { dims := 1, c0 := 3 }
/-- The hypotheses of a clause of StreamResults can be met. -/
theorem witness_stream_results_6 :
    (({ i0 := 1 } : Pos).done = false ∧ 1 + 1 < p.c0 ∧ p.c0 ≤ 2 + 1 ∧ p.dims = 1 ∧ ({ done := true } : Pos).done = true) :=
  by decide
end WStreamResults6

namespace WStreamResults7
def p : Pattern := { dims := 2, c0 := 3, c1 := 2 }
/-- The hypotheses of a clause of StreamResults can be met. -/
theorem witness_stream_results_7 :
    (({} : Pos).done = false ∧ 1 < p.dims ∧ ({} : Pos).i0 = 0) :=
  by decide
end WStreamResults7

namespace WStreamResults8
def f : MemFault := { cause := .xlate, va := 5 }
def b : Binding := { pat := { c0 := 4 }, ahead := [{ fault := some f }], held := [] }
def s := bound State.reset 3 b
/-- The hypotheses of a clause of StreamResults can be met. -/
theorem witness_stream_results_8 :
    StreamIdle s 3 ∧
    (s.tile.stream ((3#3).toNat + 0) = some b ∧ b.fault = none ∧ b.out = false ∧ b.pat.stage = false ∧ ((b.ahead.head?).bind (·.fault)).isSome = true) :=
  ⟨⟨fun c h => by obtain rfl : b = c := Option.some.inj (show some b = some c from h); decide, by rfl⟩, by decide⟩
end WStreamResults8

namespace WQueueResults1
def k : Token := { payload := 5, res := residueOf 5 }
def s := portTokens (portTokens (onTile State.reset (fun t => { t with id := 257 })) 0 [k, k]) 7 [{ k with payload := 6 }]
/-- The hypotheses of a clause of QueueResults can be met. -/
theorem witness_queue_results_1 :
    (32 ≤ (39#6).toNat ∧ (39#6).toNat < 40 ∧ 32 ≤ (32#6).toNat ∧ (32#6).toNat < 40 ∧ (33#6).toNat = 33 ∧ s.tile.locked (portNo 33) = false ∧ vget s.tile.coreIn (qselInput s.tile (portNo 33) (portNo 32) (portNo 39)) [] = [k, k] ∧ sendTrap s (portNo 33) = none ∧ (vget s.tile.coreOut (portNo 33) []).length < 4) :=
  by decide
end WQueueResults1

namespace WQueueResults2
def k : Token := { payload := 5, kind := .err }
def s := onTile (portTokens (portTokens (onTile State.reset (fun t => { t with id := 257 })) 0 [k, k]) 7 [k]) (fun t => t.setLock 1 (0x8000 + 0x2000 + 7*1024 + 5))
/-- The hypotheses of a clause of QueueResults can be met. -/
theorem witness_queue_results_2 :
    (s.tile.locked (portNo 33) = true ∧ (s.tile.lock (portNo 33)).testBit 14 = false ∧ lockSrc (s.tile.lock (portNo 33)) = portNo 39) :=
  by decide
end WQueueResults2

namespace WQueueResults3
def s := onTile State.reset (fun t => { t with id := 257 }.setLock 1 (0xC000 + 5))
def u := onTile State.reset (fun t => { t with id := 257 }.setLock 1 (0x8000 + 5 * 1024 + 5))
/-- The hypotheses of a clause of QueueResults can be met. -/
theorem witness_queue_results_3 :
    (s.tile.locked (portNo 33) = true ∧ (s.tile.lock (portNo 33)).testBit 14 = true) ∧
    (u.tile.locked (portNo 33) = true ∧ lockSrc (u.tile.lock (portNo 33)) ≠ portNo 32 ∧ lockSrc (u.tile.lock (portNo 33)) ≠ portNo 34) :=
  ⟨by decide, by decide⟩
end WQueueResults3

namespace WQueueResults4
def k : Token := { payload := 5, kind := .data, res := residueOf 5 }
def s := portTokens (onTile State.reset (fun t => { t with id := 257 })) 3 [k, k]
/-- The hypotheses of a clause of QueueResults can be met. -/
theorem witness_queue_results_4 :
    (32 ≤ (35#6).toNat ∧ (35#6).toNat < 40 ∧ (0#6).toNat < 32 ∧ s.tile.locked (portNo 35) = false ∧ s.tile.locked (clockwise (portNo 35)) = false ∧ vget s.tile.coreIn (portNo 35) [] = [k, k] ∧ valueOf s 0 = 0 ∧ sendTrap s (clockwise (portNo 35)) = none ∧ (vget s.tile.coreOut (clockwise (portNo 35)) []).length < 4) :=
  by decide
end WQueueResults4

namespace WQueueResults5
def k : Token := { payload := 5, res := residueOf 5, level := 3 }
def s := portTokens State.reset 7 [k, k]
/-- The hypotheses of a clause of QueueResults can be met. -/
theorem witness_queue_results_5 :
    Ready [.x 39] [.x 5] s ∧
    Ready [] [.x 5] s ∧
    (vget s.tile.coreIn (portNo 39) [] = k :: [k] ∧ [k].length < 4 ∧ k.level < 8 ∧ vget s.tile.coreIn (portNo 32) [] = []) :=
  ⟨by delta Ready; rfl, by delta Ready; rfl, by decide⟩
end WQueueResults5

namespace WQueueResults6
def k : Token := { kind := .marker, level := 7 }
def s := portTokens State.reset 7 [k, { k with kind := .config }]
/-- The hypotheses of a clause of QueueResults can be met. -/
theorem witness_queue_results_6 :
    (k.kind = .marker ∧ vget s.tile.coreIn (portNo 39) [] = k :: [{ k with kind := .config }]) ∧
    (k.payload.toNat % 255 = k.res ∧ ({ k with payload := 6 } : Token).payload.toNat % 255 ≠ ({ k with payload := 6 } : Token).res) :=
  ⟨by decide, by decide⟩
end WQueueResults6

namespace WQueueResults7
def s := onTile State.reset (fun t => { t with id := 257 })
/-- The hypotheses of a clause of QueueResults can be met. -/
theorem witness_queue_results_7 :
    Ready [.x 1] [.x 50] s ∧
    (32 ≤ (39#6).toNat ∧ (39#6).toNat < 40 ∧ sendTrap s (portNo 39) = none ∧ s.tile.locked (portNo 39) = false ∧ (vget s.tile.coreOut (portNo 39) []).length < 4) :=
  ⟨by delta Ready; rfl, by decide⟩
end WQueueResults7

namespace WQueueResults8
def k : Token := { payload := 5, res := residueOf 5 }
def s := onTile (portTokens (onTile State.reset (fun t => { t with id := 257 })) 3 [k, k]) (fun t => t.setLock 3 (0xC000 + 3 * 1024 + 5))
def u := onTile (portTokens (onTile State.reset (fun t => { t with id := 257 })) 3 [k, k]) (fun t => t.setLock (clockwise 3) (0xC000 + 3 * 1024 + 5))
/-- The hypotheses of a clause of QueueResults can be met. -/
theorem witness_queue_results_8 :
    (s.tile.streamBad false (.x 5) = false ∧ s.tile.widthBad (.x 5) = false ∧ s.tile.locked (portNo 35) = true ∧ (s.tile.lock (portNo 35)).testBit 14 = true ∧
      lockSrc (s.tile.lock (portNo 35)) = portNo 35 ∧ vget s.tile.coreIn (portNo 35) [] = [k, k] ∧ sendTrap s (portNo 35) = none ∧
      (vget s.tile.coreOut (portNo 35) []).length < 4) ∧
    (u.tile.locked (portNo 35) = false ∧ u.tile.locked (clockwise (portNo 35)) = true ∧ lockSrc (u.tile.lock (clockwise (portNo 35))) = portNo 35 ∧
      sendTrap u (clockwise (portNo 35)) = none ∧ (vget u.tile.coreOut (clockwise (portNo 35)) []).length < 4) :=
  ⟨by decide, by decide⟩
end WQueueResults8

namespace WQueueResults9
def k : Token := { payload := 5, res := residueOf 5 }
def s := onTile (portTokens (onTile State.reset (fun t => { t with id := 257 })) 3 [k, k]) (fun t => t.setLock (clockwise 3) (0x8000 + 5))
/-- The hypotheses of a clause of QueueResults can be met. -/
theorem witness_queue_results_9 :
    (∀ p, p = portNo 35 ∨ p = clockwise (portNo 35) → s.tile.locked p = true → (s.tile.lock p).testBit 14 = false ∨ lockSrc (s.tile.lock p) ≠ portNo 35) ∧
    ((0#6).toNat < 32 ∧ vget s.tile.coreIn (portNo 35) [] = k :: [k] ∧ valueOf s 0 = 0 ∧ s.tile.locked (clockwise (portNo 35)) = true) :=
  ⟨by rintro p (rfl | rfl) <;> decide, by decide⟩
end WQueueResults9

namespace WMessageSend1
def s := withX (withX (withX mapped 1 3) 2 0xFFFFFFFFFFF00100#64) 3 63
/-- The hypotheses of a clause of MessageSend can be met. -/
theorem witness_message_send_1 :
    Ready [.x 1, .x 2, .x 3] [] s ∧
    ((valueOf s 3).toNat ≤ 63 ∧ DescriptorAt s (valueOf s 2) 8 63 ∧ (valueOf s 2).toNat % 2 ^ 20 < s.tile.tileSplit * 65536 ∧ 3 < tileCount s (partNo s s.tile.id) ∧ routeClosed s s.tile.id (rankSeen s s.tile.id (partNo s s.tile.id) 3).tile = false ∧ sendUsed s.tile.sendQ + 63 + 1 ≤ 128 ∧ rankOf s s.tile.id < 2 ^ 16) :=
  ⟨by delta Ready; rfl, by delta DescriptorAt Unheld; decide⟩
end WMessageSend1

namespace WMessageSend2
def s := withX (withX (withX mapped 1 3) 2 0xFFFFFFFFFFF00100#64) 3 64
/-- The hypotheses of a clause of MessageSend can be met. -/
theorem witness_message_send_2 :
    Ready [.x 1, .x 2, .x 3] [] s ∧
    (63 < (valueOf s 3).toNat) :=
  ⟨by delta Ready; rfl, by decide⟩
end WMessageSend2

namespace WMessageSend3
def s := withX (withX (withX mapped 1 3) 2 0xFFFFFFFFFFF00100#64) 3 63
def w := onTile s (fun t => { t with sendQ := [{ dest := 3, field := 0, part := 0, words := List.replicate 66 0 }] })
def c := updField s 0 (fun f => { f with resetState := 1 })
/-- The hypotheses of a clause of MessageSend can be met. -/
theorem witness_message_send_3 :
    Ready [.x 1, .x 2, .x 3] [] s ∧
    ((valueOf s 3).toNat ≤ 63 ∧ (valueOf s 2).toNat % 8 = 0 ∧ isLocal (valueOf s 2) = true ∧ (valueOf s 2).toNat % 2 ^ 20 + 8 * 63 ≤ s.tile.tileSplit * 65536) ∧
    (3 < tileCount w (partNo w w.tile.id) ∧ routeClosed w w.tile.id (rankSeen w w.tile.id (partNo w w.tile.id) 3).tile = false ∧ 128 < sendUsed w.tile.sendQ + 63 + 1) ∧
    (3 < tileCount c (partNo c c.tile.id) ∧ routeClosed c c.tile.id (rankSeen c c.tile.id (partNo c c.tile.id) 3).tile = true) :=
  ⟨by delta Ready; rfl, by decide, by decide, by decide⟩
end WMessageSend3

namespace WMessageSend4
def s := withX (withX (withX mapped 1 5000) 2 0xFFFFFFFFFFF00104#64) 3 63
def t := withX (withX (withX mapped 1 5000) 2 0xFFFFFFFFFFFFFFF8#64) 3 63
def u := withX (withX (withX mapped 1 5000) 2 0xFFFFFFFFFFF00100#64) 3 63
/-- The hypotheses of a clause of MessageSend can be met. -/
theorem witness_message_send_4 :
    Ready [.x 1, .x 2, .x 3] [] s ∧
    (valueOf s 2).toNat % 8 ≠ 0 ∧
    (isLocal (valueOf t 2) = true ∧ (valueOf t 2).toNat % 8 = 0 ∧ t.tile.tileSplit * 65536 < (valueOf t 2).toNat % 2 ^ 20 + 8 * 63) ∧
    tileCount u (partNo u u.tile.id) ≤ (valueOf u 1).toNat :=
  ⟨by delta Ready; rfl, by decide, by decide, by decide⟩
end WMessageSend4

namespace WHandlerResults1
def s := withX (withX (withX State.reset 1 0) 2 0xFF40000000000200#64) 3 0x83
/-- The hypotheses of a clause of HandlerResults can be met. -/
theorem witness_handler_results_1 :
    Ready [.x 1, .x 2, .x 3] [] s ∧
    ((valueOf s 1).toNat ≤ 63 ∧ valueOf s 3 &&& ~~~0xA3#64 = 0 ∧ bitOf (valueOf s 3) 7 = true ∧ (valueOf s 2).toNat % 4 = 0) :=
  ⟨by delta Ready; rfl, by decide⟩
end WHandlerResults1

namespace WHandlerResults2
def s := withX (withX State.reset 1 63) 2 1
/-- The hypotheses of a clause of HandlerResults can be met. -/
theorem witness_handler_results_2 :
    Ready [.x 1, .x 2] [] s ∧
    ((valueOf s 1).toNat ≤ 63 ∧ (valueOf s 2).toNat ≤ 1) :=
  ⟨by delta Ready; rfl, by decide⟩
end WHandlerResults2

namespace WHandlerResults3
def s : State := { onTile State.reset (fun t => { t with htCtl := vset t.htCtl 63 0xC0 }) with arg := [63] }
/-- The hypotheses of a clause of HandlerResults can be met. -/
theorem witness_handler_results_3 :
    (s.arg = [63] ∧ s.tile.htPending 63 = true ∧ s.tile.htValid 63 = true) :=
  by decide
end WHandlerResults3

namespace WHandlerResults4
def m : InMsg := { chan := 5, words := [7] }
def s := onTile State.reset (fun t => { t with run := .running, htCtl := vset (vset t.htCtl 5 0x80) 9 0x80, htPc := vset t.htPc 5 0x100, inbox := [{ m with chan := 9 }, m], waitPoint := true })
/-- The hypotheses of a clause of HandlerResults can be met. -/
theorem witness_handler_results_4 :
    ((∀ q ∈ s.tile.inbox, q.sel = false) ∧ s.tile.selectPoint = true ∧ s.tile.report = none ∧ s.tile.selectable = some 5 ∧ s.tile.inbox.find? (fun q => q.chan == 5) = some m ∧ s.tile.longBuf = [] ∧ s.tile.run = .running) :=
  by decide
end WHandlerResults4

namespace WHandlerResults5
def h : Interrupted := { pc := 0x40, bank := Vector.replicate 8 7, loops := {}, chan := 5 }
def s := onTile State.reset (fun t => { t with intr := some h, inbox := [{ chan := 5 }] })
/-- The hypotheses of a clause of HandlerResults can be met. -/
theorem witness_handler_results_5 :
    (s.tile.intr = some h ∧ h.report = false ∧ bitsOf s.tile.trapCause 3 0 = 0 ∧ s.tile.longBuf = [] ∧ (s.tile.endHandler h).select = none) :=
  by decide
end WHandlerResults5

namespace WHandlerResults6
/-- The hypotheses of a clause of HandlerResults can be met. -/
theorem witness_handler_results_6 :
    (State.reset.tile.intr = none) :=
  by decide
end WHandlerResults6

namespace WEngineCommandResults1
def b : Binding := { pat := { c0 := 128, c1 := 128, dims := 2, stage := true } }
def s := bound State.reset 15 b
/-- The hypotheses of a clause of EngineCommandResults can be met. -/
theorem witness_engine_command_results_1 :
    Ready [.x 1, .x 2] [] s ∧
    Ready [.x 1] [] s ∧
    Ready [] [.x 5] s ∧
    (StagingInput s 7 b ∧ Stageable s 7 (128 * 128) b ∧ Stageable s 7 0 b ∧ valueOf s 1 = 0 ∧ (valueOf s 2).toInt = 0 ∧ s.tile.sub.queue.length < 8) :=
  ⟨by delta Ready; rfl, by delta Ready; rfl, by delta Ready; rfl, by delta Stageable StagingInput; decide⟩
end WEngineCommandResults1

namespace WEngineCommandResults2
def b : Binding := { pat := { c0 := 128, c1 := 128, dims := 2, stage := true } }
def s := withX (withX (bound State.reset 15 b) 1 (at_ 8 128 ||| at_ 0 128)) 2 1
/-- The hypotheses of a clause of EngineCommandResults can be met. -/
theorem witness_engine_command_results_2 :
    (field (valueOf s 1) 63 16 = 0 ∧ 1 ≤ field (valueOf s 1) 7 0 ∧ field (valueOf s 1) 7 0 ≤ 128 ∧ 1 ≤ field (valueOf s 1) 15 8 ∧ field (valueOf s 1) 15 8 ≤ 128 ∧ (valueOf s 2).toNat ≤ 1) :=
  by decide
end WEngineCommandResults2

namespace WEngineCommandResults3
def b : Binding := { pat := { c0 := 128, c1 := 128, dims := 2, stage := true } }
def s := withX (withX (bound State.reset 8 b) 1 (at_ 8 128 ||| at_ 0 1)) 2 31
/-- The hypotheses of a clause of EngineCommandResults can be met. -/
theorem witness_engine_command_results_3 :
    (field (valueOf s 1) 63 16 = 0 ∧ field (valueOf s 1) 7 6 = 0 ∧ 1 ≤ field (valueOf s 1) 5 0 ∧ field (valueOf s 1) 5 0 ≤ 32 ∧ 1 ≤ field (valueOf s 1) 15 8 ∧ field (valueOf s 1) 15 8 ≤ 128 ∧ (valueOf s 2).toNat < 32 ∧ (valueOf s 2).toNat + 1 ≤ 32 ∧ StagingInput s 0 b ∧ Stageable s 0 128 b) :=
  by delta Stageable StagingInput; decide
end WEngineCommandResults3

namespace WEngineCommandResults4
def b : Binding := { pat := { c0 := 128, c1 := 128, dims := 2, stage := true } }
def s := withX (withX (bound State.reset 8 b) 1 (at_ 8 16 ||| at_ 0 48)) 2 (-524288)
/-- The hypotheses of a clause of EngineCommandResults can be met. -/
theorem witness_engine_command_results_4 :
    (field (valueOf s 1) 63 13 = 0 ∧ field (valueOf s 1) 7 6 = 0 ∧ 1 ≤ field (valueOf s 1) 5 0 ∧ field (valueOf s 1) 5 0 ≤ 48 ∧ field (valueOf s 1) 12 8 ≤ 16 ∧ -524288 ≤ (valueOf s 2).toInt ∧ (valueOf s 2).toInt < 524288 ∧ StagingInput s 0 b ∧ Stageable s 0 0 b) :=
  by delta Stageable StagingInput; decide
end WEngineCommandResults4

namespace WEngineCommandResults5
def s := withX State.reset 1 0x1FFFFFFFF#64
/-- The hypotheses of a clause of EngineCommandResults can be met. -/
theorem witness_engine_command_results_5 :
    (field (valueOf s 1) 63 33 = 0) :=
  by decide
end WEngineCommandResults5

namespace WEngineCommandResults6
def s := withX (withX mapped 1 0xFFFFFFFFFFF00000#64) 2 (at_ 32 128 ||| at_ 0 1024)
/-- The hypotheses of a clause of EngineCommandResults can be met. -/
theorem witness_engine_command_results_6 :
    (field (valueOf s 2) 63 40 = 0 ∧ 1 ≤ field (valueOf s 2) 39 32 ∧ field (valueOf s 2) 39 32 ≤ 128 ∧ (valueOf s 1).toNat % 8 = 0 ∧ ((valueOf s 2).extractLsb' 0 32).toInt % 8 = 0 ∧ extentErr s s.tile.id (some (((valueOf s 1).toNat : Int) + min 0 (3 * 1024), ((valueOf s 1).toNat : Int) + max 0 (3 * 1024) + 8 * 128 - 1)) = none) :=
  by decide
end WEngineCommandResults6

namespace WEngineCommandResults7
def s := onTile State.reset (fun t => { t with sub := { t.sub with started := true, draining := 1, queue := [.drn 2 0x10000 8 1 0 .user, .ldb 0 2 3 true (0, none, false), .zero 1], staged := (List.range 7).map (fun i => ({ elem := { g := i } })) } })
/-- The hypotheses of a clause of EngineCommandResults can be met. -/
theorem witness_engine_command_results_7 :
    (s.tile.sub.started = true ∧ s.tile.sub.discard = false ∧ s.tile.dispute = none ∧ s.tile.sub.waiting = .ldb 0 2 3 true (0, none, false) :: [.zero 1] ∧ 2 * 3 ≤ s.tile.sub.staged.length) :=
  by decide
end WEngineCommandResults7

namespace WEngineCommandResults8
def e : PlaneElem := { g := 3 }
def ac : Acc := { a := 5, wb := some 0 }
def s := onTile State.reset (fun t => { t with sub := { t.sub with started := true, queue := [.mma 0 1 2 4 (0, none, false)], staged := [{ elem := e }, { elem := e }], b := [(0, e), (129, e), (128, e)], acc := [(4*128, ac), (5*128, ac), (7*128+3, ac), (8*128, ac)] } })
/-- The hypotheses of a clause of EngineCommandResults can be met. -/
theorem witness_engine_command_results_8 :
    (s.tile.sub.started = true ∧ s.tile.sub.discard = false ∧ s.tile.dispute = none ∧ s.tile.sub.waiting = .mma 0 1 2 4 (0, none, false) :: [] ∧ 1 * 2 ≤ s.tile.sub.staged.length) :=
  by decide
end WEngineCommandResults8

namespace WEngineCommandResults9
def c : Acc := { a := 5, wb := some (-4) }
/-- The hypotheses of a clause of EngineCommandResults can be met. -/
theorem witness_engine_command_results_9 :
    (c.wb = some (-4) ∧ (-4 : Int) ≤ -2 ∧ (c.a + 1 * (3 * 2 ^ ((-2 : Int) - -4).toNat : Nat)).natAbs < 2 ^ 191) :=
  by decide
end WEngineCommandResults9

namespace WEngineCommandResults10
def e : LongEntry := { op := .mr (.add 5 48 31) 4 0 2, dst := .x 5 }
def s : State := { onTile State.reset (fun t => { t with longBuf := [e], sub := { t.sub with finished := 3, drains := [{ cmd := 3, va := 0x10008, w := 5, mode := .user }] } }) with arg := [0] }
/-- The hypotheses of a clause of EngineCommandResults can be met. -/
theorem witness_engine_command_results_10 :
    (s.arg = [0] ∧ s.tile.longBuf[0]? = some e ∧ e.res = .pending ∧ 2 ≤ s.tile.sub.finished ∧ (∀ d ∈ s.tile.sub.drains, 2 < d.cmd)) :=
  by decide
end WEngineCommandResults10

namespace WEngineCommandResults11
def s := onTile State.reset (fun t => { t with sub := { t.sub with queue := List.replicate 8 (.zero 1) } })
def c : Acc := { a := 5, wb := some 4, pinned := true }
def d : Acc := { a := 2 ^ 191 - 1, wb := some 4, pinned := true }
/-- The hypotheses of a clause of EngineCommandResults can be met. -/
theorem witness_engine_command_results_11 :
    Ready [.x 1, .x 2] [] s ∧
    (8 ≤ s.tile.sub.queue.length) ∧
    SourceDone State.reset 3 ∧
    (c.wb = some 4 ∧ c.pinned = true ∧ (0 : Int) < 4 ∧ (c.a + 1 * (33 / 2 ^ ((4 : Int) - 0).toNat : Nat)).natAbs < 2 ^ 191) ∧
    (2 ^ 191 ≤ (d.a + 1 * (33 / 2 ^ ((4 : Int) - 0).toNat : Nat)).natAbs) :=
  ⟨by delta Ready; rfl, by decide, ⟨rfl, rfl, rfl⟩, by decide, by decide⟩
end WEngineCommandResults11

namespace WCopyResults1
def d := [at_ 2 0, 0x20000, 0x30000, 0, 64]
def s := scratched (withX mapped 1 0xFFFFFFFFFFF00100#64) 0x100 d
def w := descriptorOf s (valueOf s 1) 10
/-- The hypotheses of a clause of CopyResults can be met. -/
theorem witness_copy_results_1 :
    Ready [.x 1] [] s ∧
    (smFind s.tile.copies 0 = none ∧ DescriptorAt s (valueOf s 1) 16 10 ∧ copyBad 0 w = false ∧ extentErr s s.tile.id (extent w (w.getD 1 0) (w.getD 5 0)) = none ∧ extentErr s s.tile.id (extent w (w.getD 2 0) (w.getD 6 0)) = none ∧ w.getD 4 0 ≠ 0 ∧ w.getD 3 0 = 0) :=
  ⟨by delta Ready; rfl, by delta DescriptorAt Unheld; decide⟩
end WCopyResults1

namespace WCopyResults2
def d := [at_ 2 0, 0x20000, 0x30000, 0x40000, 64]
def s := scratched (withX mapped 1 0xFFFFFFFFFFF00100#64) 0x100 d
def w := descriptorOf s (valueOf s 1) 10
/-- The hypotheses of a clause of CopyResults can be met. -/
theorem witness_copy_results_2 :
    (copyBad 0 w = false ∧ w.getD 3 0 ≠ 0) ∧
    ((match checkCounter (w.getD 3 0) s with | .ok _ => true | .error _ => false) = true) :=
  ⟨by decide, by rfl⟩
end WCopyResults2

namespace WCopyResults3
def s := scratched (withX mapped 1 0xFFFFFFFFFFF00100#64) 0x100 [1, 0x20000, 0x30000, 0, at_ 32 3 ||| 16, 64, 32, at_ 32 10, at_ 32 3]
def w := descriptorOf s (valueOf s 1) 10
/-- The hypotheses of a clause of CopyResults can be met. -/
theorem witness_copy_results_3 :
    (copyBad 1 w = false ∧ extentErr s s.tile.id (extent w (w.getD 1 0) (w.getD 5 0)) = none ∧ extentErr s s.tile.id (extent w (w.getD 2 0) (w.getD 6 0)) = none ∧ w.getD 3 0 = 0) :=
  by decide
end WCopyResults3

namespace WCopyResults4
def s := scratched (withX mapped 1 0xFFFFFFFFFFF00100#64) 0x100 [2, 0x20000, 0x30000, 0, at_ 32 3 ||| 16, 64, 32]
def w := descriptorOf s (valueOf s 1) 10
/-- The hypotheses of a clause of CopyResults can be met. -/
theorem witness_copy_results_4 :
    (copyBad 2 w = false ∧ extentErr s s.tile.id (extent w (w.getD 2 0) (w.getD 6 0)) = none ∧ w.getD 3 0 = 0) :=
  by decide
end WCopyResults4

namespace WCopyResults5
def s := scratched (withX mapped 1 0xFFFFFFFFFFF00100#64) 0x100 [0x10, 0x20000, 0x30000, 0, 64]
def w := descriptorOf s (valueOf s 1) 10
/-- The hypotheses of a clause of CopyResults can be met. -/
theorem witness_copy_results_5 :
    (copyBad 0 w = true ∧ copyBad 1 w = true ∧ copyBad 2 w = true) :=
  by decide
end WCopyResults5

namespace WCopyResults6
def s := onTile State.reset (fun t => { t with copies := (List.range 32).map (fun i => (i, {})) })
/-- The hypotheses of a clause of CopyResults can be met. -/
theorem witness_copy_results_6 :
    Ready [.x 1] [] s ∧
    ((List.range 32).all (fun j => (smFind s.tile.copies j).isSome) = true) :=
  ⟨by delta Ready; rfl, by decide⟩
end WCopyResults6

namespace WCopyResults7
def s := scratched (withX mapped 1 0xFFFFFFFFFFF00100#64) 0x100 [0, 0x20000, 0x30000, 0, 0]
def w := descriptorOf s (valueOf s 1) 10
/-- The hypotheses of a clause of CopyResults can be met. -/
theorem witness_copy_results_7 :
    (smFind s.tile.copies 31 = none ∧ copyBad 0 w = false ∧ w.getD 4 0 = 0 ∧ w.getD 3 0 = 0) :=
  by decide
end WCopyResults7

namespace WCopyResults8
def s : State := { onTile State.reset (fun t => { t with copies := [(31, {})] }) with arg := [31] }
/-- The hypotheses of a clause of CopyResults can be met. -/
theorem witness_copy_results_8 :
    (s.arg = [31] ∧ smFind s.tile.copies 31 = some {} ∧ ({} : CopySlot).arrived = false ∧ requestHeld s s.tile.id (scratchSource s s.tile.id ({} : CopySlot).desc) = false) :=
  by decide
end WCopyResults8

namespace WCopyResults9
def s : State := { onTile State.reset (fun t => { t with copies := [(31, { desc := [0, 0xFFFFFFFFFFF00100#64, 0x30000, 0, 64], lead := some {} })] }) with arg := [31] }
def c : CopySlot := { desc := [0, 0xFFFFFFFFFFF00100#64, 0x30000, 0, 64], lead := some {} }
/-- The hypotheses of a clause of CopyResults can be met. -/
theorem witness_copy_results_9 :
    (smFind s.tile.copies 31 = some c ∧ c.arrived = false ∧ c.lead.isSome = true ∧ scratchSource s s.tile.id c.desc = some 0 ∧
      requestHeld s s.tile.id (scratchSource s s.tile.id c.desc) = false) :=
  by decide
end WCopyResults9

namespace WFetchCacheResults1
def s := withX mapped 1 0x10008
/-- The hypotheses of a clause of FetchCacheResults can be met. -/
theorem witness_fetch_cache_results_1 :
    Ready [.x 1] [] s ∧
    Ready [.x 1, .x 2] [] s ∧
    ((quietLine s (valueOf s 1)).isSome = true ∧ valueOf s 2 = 0 ∧ walkStalls s s.tile.id (valueOf s 1) .read s.tile.mode = false) :=
  ⟨by delta Ready; rfl, by delta Ready; rfl, by decide +kernel⟩
end WFetchCacheResults1

namespace WFetchCacheResults2
def s := withX State.reset 1 0xFFFFFFFFFFF00000#64
/-- The hypotheses of a clause of FetchCacheResults can be met. -/
theorem witness_fetch_cache_results_2 :
    (quietLine s (valueOf s 1) = none) :=
  by decide
end WFetchCacheResults2

namespace WFetchCacheResults3
def s := withX (withX State.reset 1 0xFF40000000000044#64) 2 0xBFFFFFFFFFFFBC#64
/-- The hypotheses of a clause of FetchCacheResults can be met. -/
theorem witness_fetch_cache_results_3 :
    Ready [.x 1, .x 2] [] s ∧
    (valueOf s 2 ≠ 0 ∧ s.tile.ipref.length < 4 ∧ (valueOf s 1).toNat + (valueOf s 2).toNat ≤ 2 ^ 64) :=
  ⟨by delta Ready; rfl, by decide⟩
end WFetchCacheResults3

namespace WFetchCacheResults4
def s := withX (onTile State.reset (fun t => { t with ipref := List.replicate 4 ⟨0, 63, 2⟩ })) 2 4
/-- The hypotheses of a clause of FetchCacheResults can be met. -/
theorem witness_fetch_cache_results_4 :
    (valueOf s 2 ≠ 0 ∧ 4 ≤ s.tile.ipref.length) :=
  by decide
end WFetchCacheResults4

namespace WFetchCacheResults5
def s := (match exec (.dpref 1) (withX mapped 1 0x10008) with | .next t => t | _ => State.reset)
/-- The hypotheses of a clause of FetchCacheResults can be met. -/
theorem witness_fetch_cache_results_5 :
    (s.tile.tlb ≠ []) :=
  by decide
end WFetchCacheResults5

namespace WFetchCacheResults6
def va : Word := 0xFF40000000000040
def w := walk mapped (partNo mapped 0) (getField mapped 0).xlateRoot 0xFF40000000000000
/-- The hypotheses of a clause of FetchCacheResults can be met. -/
theorem witness_fetch_cache_results_6 :
    ((match w with | .ok l => (leafPa l 0xFF40000000000000 / 4096 * 4096 + va.toNat % 4096) / 64 == 1 | .error _ => false) = true ∧ 1 ≤ 4096 ∧
      fenceDrops mapped 0 va.toNat 64 { pa := 1, bytes := 0 } = true ∧ fenceDrops mapped 0 va.toNat 64 { pa := 2, bytes := 0 } = false) :=
  by decide +kernel
end WFetchCacheResults6

namespace WControlRegisterResults1
def s := State.reset
/-- The hypotheses of a clause of ControlRegisterResults can be met. -/
theorem witness_control_register_results_1 :
    Ready [.x 1] [] s ∧
    Ready [] [.x 5] s ∧
    (crAccess 0x20 = some .all ∧ crMayWrite s.tile .all = true ∧ crBreaks s 0x20 0 = false ∧ crBreaks s 0x20 (s.tile.coreStatus ||| 0) = false ∧ s.tile.longBuf = []) :=
  ⟨by delta Ready; rfl, by delta Ready; rfl, by decide⟩
end WControlRegisterResults1

namespace WControlRegisterResults2
def s := onTile State.reset (fun t => { t with longBuf := [{ op := .mr .snop 0 0 0 }], mode := .supervisor })
/-- The hypotheses of a clause of ControlRegisterResults can be met. -/
theorem witness_control_register_results_2 :
    (crAccess 0x50 = some .sup ∧ crMayWrite s.tile .sup = true ∧ crBreaks s 0x50 8 = false ∧ s.tile.longBuf ≠ []) :=
  by decide
end WControlRegisterResults2

namespace WControlRegisterResults3
def s := State.reset
/-- The hypotheses of a clause of ControlRegisterResults can be met. -/
theorem witness_control_register_results_3 :
    (crAccess 0x21 = none ∧ crAccess 0xFFF = none ∧ crAccess 0xA8 = some .sup ∧ crMayWrite s.tile .sup = false ∧ crAccess 0x9E = some .fixed ∧ s.tile.streamBad false (.x 5) = false ∧ s.tile.streamBad true (.x 5) = false ∧ crAccess 0x4C = some .passPc ∧ crMayWrite s.tile .passPc = false) :=
  by decide
end WControlRegisterResults3

namespace WControlRegisterResults4
def s := withX State.reset 1 0x400
/-- The hypotheses of a clause of ControlRegisterResults can be met. -/
theorem witness_control_register_results_4 :
    (crBreaks s 0x20 (s.tile.coreStatus ||| valueOf s 1) = true ∧ crBreaks s 0x20 (valueOf s 1) = true) :=
  by decide
end WControlRegisterResults4

namespace WControlRegisterResults5
def s := onTile State.reset (fun t => { t with loops := { t.loops with depth := 4 } })
/-- The hypotheses of a clause of ControlRegisterResults can be met. -/
theorem witness_control_register_results_5 :
    (s.tile.loops.depth = 4 ∧ crBreaks s 0xB3 4 = false ∧ crBreaks s 0xBB 0x10000 = false ∧ crBreaks State.reset 0x90 5 = false) :=
  by decide
end WControlRegisterResults5

namespace WTrapEntry1
def s := onTile State.reset (fun t => { t with pc := 0xFFFFFFFFFFFFFFFE#64, mode := .supervisor, x := Vector.ofFn (fun i : Fin 32 => BitVec.ofNat 64 i.val), trapBank := Vector.ofFn (fun i : Fin 8 => BitVec.ofNat 64 (100 + i.val)) })
def i : TrapInfo := { cause := .illegal, cls := 15, tcode := 63, port := 7, next := true }
/-- The hypotheses of a clause of TrapEntry can be met. -/
theorem witness_trap_entry_1 :
    (s.tile.longBuf = [] ∧ field s.tile.trapCause 3 0 = 0 ∧ i.cls < 16 ∧ i.tcode < 64 ∧ i.port < 8) :=
  by decide
end WTrapEntry1

namespace WTrapEntry2
def s := onTile State.reset (fun t => { t with pc := 0x1000 })
def f := mkFault 0 0 0 .read 0x1234 { prot := true, sub := 4 }
def i : TrapInfo := { cause := .prot, fault := some f }
/-- The hypotheses of a clause of TrapEntry can be met. -/
theorem witness_trap_entry_2 :
    (i.fault = some f ∧ i.va = none ∧ i.info = none) :=
  by decide
end WTrapEntry2

namespace WTrapEntry3
def s := onTile State.reset (fun t => { t with trapCause := 1 })
/-- The hypotheses of a clause of TrapEntry can be met. -/
theorem witness_trap_entry_3 :
    (s.tile.longBuf = [] ∧ field s.tile.trapCause 3 0 ≠ 0) :=
  by decide
end WTrapEntry3

namespace WTrapEntry4
def s := onTile State.reset (fun t => { t with longBuf := [{ op := .mr .snop 0 0 0 }] })
/-- The hypotheses of a clause of TrapEntry can be met. -/
theorem witness_trap_entry_4 :
    (∃ e ∈ s.tile.longBuf, e.returned = false) :=
  by decide
end WTrapEntry4

namespace WTrapReturn1
def s := onTile State.reset (fun t => { t with trapCause := 0x20000001, mode := .supervisor, trapPc := 0x1234 })
/-- The hypotheses of a clause of TrapReturn can be met. -/
theorem witness_trap_return_1 :
    (field s.tile.trapCause 3 0 ≠ 0 ∧ s.tile.mode = .supervisor ∧ field s.tile.trapCause 31 31 = 0 ∧ s.tile.replay = []) :=
  by decide
end WTrapReturn1

namespace WTrapReturn2
def s := onTile State.reset (fun t => { t with trapCause := 0x80000001, run := .running, mode := .supervisor, trapPc := 0x1234 })
/-- The hypotheses of a clause of TrapReturn can be met. -/
theorem witness_trap_return_2 :
    (field s.tile.trapCause 3 0 ≠ 0 ∧ s.tile.mode = .supervisor ∧ field s.tile.trapCause 31 31 = 1 ∧ field s.tile.trapCause 30 30 = 0 ∧ s.tile.longBuf = [] ∧ s.tile.run = .running) :=
  by decide
end WTrapReturn2

namespace WTrapReturn3
def s := State.reset
/-- The hypotheses of a clause of TrapReturn can be met. -/
theorem witness_trap_return_3 :
    (field s.tile.trapCause 3 0 = 0 ∧ field (onTile s (fun t => { t with trapCause := 15 })).tile.trapCause 3 0 ≠ 0 ∧ s.tile.mode = .user) :=
  by decide
end WTrapReturn3

namespace WThreadSystemResults1
def b : Binding := { out := true, pat := { c0 := 4 } }
def s := bound State.reset 15 b
/-- The hypotheses of a clause of ThreadSystemResults can be met. -/
theorem witness_thread_system_results_1 :
    (s.tile.intr = none ∧ s.tile.longBuf = [] ∧ (∀ e ∈ s.tile.streams, e.2.out = true → e.2.fault = none ∧ e.2.held = [])) :=
  by decide
end WThreadSystemResults1

namespace WThreadSystemResults2
def b : Binding := { pat := { c0 := 4 } }
def b2 : Binding := { out := true, held := [], pat := { c0 := 4 } }
def s := onTile State.reset (fun t => { t with streams := [(3, b), (5, b2)] })
/-- The hypotheses of a clause of ThreadSystemResults can be met. -/
theorem witness_thread_system_results_2 :
    (s.tile.intr = none) :=
  by decide
end WThreadSystemResults2

namespace WThreadSystemResults3
def s := onTile State.reset (fun t => { t with intr := some { pc := 0, bank := Vector.replicate 8 0, loops := {} } })
/-- The hypotheses of a clause of ThreadSystemResults can be met. -/
theorem witness_thread_system_results_3 :
    (s.tile.intr.isSome = true) :=
  by decide
end WThreadSystemResults3

namespace WThreadSystemResults4
def s := scratched (withX launchable 1 0xFFFFFFFFFFF00100#64) 0x100 record1
def r := descriptorOf s (valueOf s 1) 32
def b := (scopeCheck s 0 s.tile.scope (recScope r)).2
def v := noteScope b 0 (recScope r)
/-- The hypotheses of a clause of ThreadSystemResults can be met. -/
theorem witness_thread_system_results_4 :
    Ready [.x 1] [] s ∧
    DescriptorAt s (valueOf s 1) 256 32 ∧
    (scopeCheck s 0 s.tile.scope (recScope r)).1 = .runs ∧
    (recordBad v 0 r = none ∧ (queueOf v 0 (56 + recPrio r)).length < 64) :=
  ⟨by delta Ready; rfl, by delta DescriptorAt Unheld; decide, by rfl, by decide +kernel⟩
end WThreadSystemResults4

namespace WThreadSystemResults5
def s := scratched (withX launchable 1 0xFFFFFFFFFFF00100#64) 0x100 (0x102 :: record1.drop 1)
def r := descriptorOf s (valueOf s 1) 32
def q := scopeCheck s 0 s.tile.scope (recScope r)
/-- The hypotheses of a clause of ThreadSystemResults can be met. -/
theorem witness_thread_system_results_5 :
    q.1 = .runs ∧
    recordBad (noteScope q.2 0 (recScope r)) 0 r = some 0 :=
  ⟨by rfl, by decide +kernel⟩
end WThreadSystemResults5

namespace WThreadSystemResults6
def s := scratched (withX (onTile launchable (fun t => { t with scope := 5 })) 1 0xFFFFFFFFFFF00100#64) 0x100 (0x900000101 :: record1.drop 1)
def r := descriptorOf s (valueOf s 1) 32
/-- The hypotheses of a clause of ThreadSystemResults can be met. -/
theorem witness_thread_system_results_6 :
    (scopeCheck s 0 s.tile.scope (recScope r)).1 = .bad :=
  by rfl
end WThreadSystemResults6

namespace WThreadSystemResults7
def s := writeD (scratched (withX (onTile launchable (fun t => { t with scope := 5 })) 1 0xFFFFFFFFFFF00100#64) 0x100 (0x500000101 :: record1.drop 1)) 0x600050 (at_ 32 7 ||| at_ 16 3)
def r := descriptorOf s (valueOf s 1) 32
/-- The hypotheses of a clause of ThreadSystemResults can be met. -/
theorem witness_thread_system_results_7 :
    (scopeCheck s 0 s.tile.scope (recScope r)).1 = .cancelled :=
  by rfl
end WThreadSystemResults7

namespace WThreadSystemResults8
def s := withX (withX launchable 1 5) 2 6
def u := (scopeWalk 0 s.tile.scope 65536 5 s).2
def v := (scopeGet u 0 (scopeVa u 0 5)).2
/-- The hypotheses of a clause of ThreadSystemResults can be met. -/
theorem witness_thread_system_results_8 :
    Ready [.x 1] [] s ∧
    s.tile.mode = .user ∧
    ((scopeWalk 0 s.tile.scope 65536 5 s).1.toOption = some true ∧ (scopeWalk 0 s.tile.scope 65536 6 s).1.toOption = some true) ∧
    ((scopeGet u 0 (scopeVa u 0 5)).1.toOption.any (fun w => field w 16 16 == 1 && field w 17 17 == 0) && (scopeGet u 0 (scopeVa u 0 6)).1.toOption.any (fun w => field w 16 16 == 0)) = true ∧
    ((cancelScope v 0 5).1.toOption = some () ∧ (cancelScope v 0 5).2.tile.cancelled = false) :=
  ⟨by delta Ready; rfl, by rfl, by decide +kernel, by decide +kernel, by decide +kernel⟩
end WThreadSystemResults8

namespace WThreadSystemResults9
def s := withX (onTile { launchable with launches := [(3, { live := true, placed := true, swapped := [0], threads := [0], scopes := [5] })] } (fun t => { t with scope := 5, launch := 3 })) 1 5
def u := (scopeWalk 0 s.tile.scope 65536 5 s).2
/-- The hypotheses of a clause of ThreadSystemResults can be met. -/
theorem witness_thread_system_results_9 :
    ((scopeWalk 0 s.tile.scope 65536 5 s).1.toOption = some true ∧ (cancelScope (scopeGet u 0 (scopeVa u 0 5)).2 0 5).1.toOption = some () ∧
      (cancelScope (scopeGet u 0 (scopeVa u 0 5)).2 0 5).2.tile.cancelled = true) :=
  by decide +kernel
end WThreadSystemResults9

namespace WThreadSystemResults10
def s := withX (onTile launchable (fun t => { t with scope := 5 })) 1 6
/-- The hypotheses of a clause of ThreadSystemResults can be met. -/
theorem witness_thread_system_results_10 :
    s.tile.mode = .user ∧
    (scopeWalk 0 s.tile.scope 65536 6 s).1.toOption = some false :=
  ⟨by rfl, by decide +kernel⟩
end WThreadSystemResults10

namespace WThreadSystemResults11
def s := scratched (withX (onTile (updField launchable 0 (fun f => { f with scopeBase := 0x40000001 })) (fun t => { t with scope := 5 })) 1 0xFFFFFFFFFFF00100#64) 0x100 (0x600000101 :: record1.drop 1)
def r := descriptorOf s (valueOf s 1) 32
/-- The hypotheses of a clause of ThreadSystemResults can be met. -/
theorem witness_thread_system_results_11 :
    (recScope r = 6 ∧ s.tile.mode = .user ∧ s.tile.wait ≠ some .wait) ∧
    ((scopeWalk 0 s.tile.scope 65536 6 s).1.toOption = none ∧ (scopeGet s 0 (scopeVa s 0 6)).1.toOption = none ∧ (scopeGet s 0 (scopeVa s 0 6 + 8)).1.toOption = none) ∧
    ((match (scopeCheck s 0 s.tile.scope (recScope r)).1 with | .unread _ => true | _ => false) = true) ∧
    (partHeld s 0 (scopeVa s 0 6) = false ∧ (match partReadD s 0 (scopeVa s 0 6) with | .error _ => true | .ok _ => false) = true) :=
  ⟨by decide, by decide +kernel, by rfl, by decide +kernel⟩
end WThreadSystemResults11

namespace WThreadSystemResults12
def s := writeD (withX launchable 1 5) 0x600058 6
def va := scopeVa s 0 5
/-- The hypotheses of a clause of ThreadSystemResults can be met. -/
theorem witness_thread_system_results_12 :
    (va = 0x600050 ∧ s.tile.wait ≠ some .wait ∧ partHeld s 0 va = false) ∧
    ((scopeGet s 0 va).1.toOption.any (fun st => field st 16 16 == 1 && field st 63 32 == 7) && (scopeGet (scopeGet s 0 va).2 0 (va + 8)).1.toOption == some 6) = true :=
  ⟨by decide, by decide +kernel⟩
end WThreadSystemResults12

namespace WThreadSystemResults13
def s := onTile (writeD (withX launchable 1 5) 0x600058 6) (fun t => { t with wait := some .wait, cwaitGen := 6 })
/-- The hypotheses of a clause of ThreadSystemResults can be met. -/
theorem witness_thread_system_results_13 :
    (s.tile.wait = some .wait ∧ field (at_ 32 6 ||| at_ 16 1) 16 16 = 1 ∧ field (at_ 32 6 ||| at_ 16 1) 63 32 = field s.tile.cwaitGen 31 0) :=
  by decide
end WThreadSystemResults13

namespace WThreadSystemResults14
def s := onTile (withX (withX State.reset 1 15) 2 0) (fun t => { t with cfgTag := 9, bankToken := vset t.bankToken 15 9, bankSucc := vset t.bankSucc 15 4 })
/-- The hypotheses of a clause of ThreadSystemResults can be met. -/
theorem witness_thread_system_results_14 :
    Ready [.x 1, .x 2] [] s ∧
    (15 < s.tile.tileSplit ∧ vget s.tile.bankToken 15 0 = s.tile.cfgTag ∧ bankBusy s 0 15 9 = false ∧ vget s.tile.bankSucc 15 0 = 4) :=
  ⟨by delta Ready; rfl, by decide⟩
end WThreadSystemResults14

namespace WThreadSystemResults15
def f : MemFault := { cause := .xlate, va := 5 }
def s := onTile State.reset (fun t => { t with sub := { t.sub with held := some f } })
/-- The hypotheses of a clause of ThreadSystemResults can be met. -/
theorem witness_thread_system_results_15 :
    (s.tile.intr = none ∧ s.tile.longBuf = [] ∧ s.tile.streams = [] ∧ s.tile.sub.held = some f) :=
  by decide
end WThreadSystemResults15

namespace WConfigurationResults1
def s := withX (writeD (writeD launchable 0x700000 0x1001) 0x700008 1) 1 0x700000
/-- The hypotheses of a clause of ConfigurationResults can be met. -/
theorem witness_configuration_results_1 :
    Ready [.x 1] [] s ∧
    Unheld s ∧
    ((valueOf s 1).toNat % 64 = 0) ∧
    ((match readImage s.tile.mode (valueOf s 1) 64 s with | .ok (ws, v) => imageBad v s.tile.id ws == false | _ => false) = true) :=
  ⟨by delta Ready; rfl, by rfl, by decide, by rfl⟩
end WConfigurationResults1

namespace WConfigurationResults2
def s := WConfigurationResults1.s
def va : Word := 0xFF80000000100000
def gone := updTile s 1 (fun t => { t with run := .killed })
def cut := updTile s 1 (fun t => { t with ring := [.access 0 0 .snop []] })
def walked := updField s 0 (fun f => { f with walkQ := [{ tile := 1, page := 5 }] })
/-- The hypotheses of a clause of ConfigurationResults can be met. -/
theorem witness_configuration_results_2 :
    ((match readImage .user 0x1000000000040 64 s with | .error (.fault _) => true | _ => false) = true) ∧
    ((match readImage .user 0x700000 64 { s with poison := [0x1C000] } with | .error .poison => true | _ => false) = true) ∧
    ((match readImage .user va 64 gone with | .error .err => true | _ => false) = true) ∧
    ((match readImage .user va 64 cut with | .error .held => true | _ => false) = true) ∧
    ((match readImage .user 0x700000 64 walked with | .error (.walk v) => v == 0x700000 | _ => false) = true) :=
  ⟨by rfl, by rfl, by rfl, by rfl, by rfl⟩
end WConfigurationResults2

namespace WConfigurationResults3
def k : Token := { payload := 5 }
def s := onTile State.reset (fun t => { t with carried := [0, 7], coreOut := vset t.coreOut 7 [k], coreIn := vset t.coreIn 0 [k], swIn := vset t.swIn 7 [k] })
/-- The hypotheses of a clause of ConfigurationResults can be met. -/
theorem witness_configuration_results_3 :
    Ready [] [.x 5] s ∧
    (s.tile.carried = [0, 7] ∧ s.tile.inputHeld 7 ≠ []) :=
  ⟨by delta Ready; rfl, by decide⟩
end WConfigurationResults3

namespace WConfigurationResults4
def ws := 0x1001 :: (at_ 32 0x40 ||| 1) :: List.replicate 62 (0:Word)
def s := onTile launchable (fun t => { t with shadow := some ws })
def e := moduleRead s (fieldOf s.tile.id) (imgModule ws)
/-- The hypotheses of a clause of ConfigurationResults can be met. -/
theorem witness_configuration_results_4 :
    (s.tile.intr = none ∧ s.tile.longBuf = [] ∧ s.tile.shadow = some ws ∧ s.tile.sw.st = .halted ∧ s.tile.streams = [] ∧ s.tile.carried = [] ∧ moduleState e.1 ≠ 3) ∧
    ((∀ i ∈ List.range 8, vget s.tile.coreOut i [] = []) ∧ ∀ i ∈ List.range 8, s.tile.inputHeld i = []) ∧
    preloadBehind s s.tile.id ws = false ∧
    ((match activate e.2 s.tile.id ws with | .ok v => !sealed v s.tile.id | _ => false) = true) :=
  ⟨by decide, by decide, by rfl, by rfl⟩
end WConfigurationResults4

namespace WConfigurationResults5
def s := State.reset
/-- The hypotheses of a clause of ConfigurationResults can be met. -/
theorem witness_configuration_results_5 :
    (s.tile.intr = none ∧ s.tile.longBuf = [] ∧ s.tile.shadow = none) :=
  by decide
end WConfigurationResults5

namespace WConfigurationResults6
def s := scratched (withX (withX (updCSet parted 7 (fun c => { c with en := true, part := 0 })) 1 0xFFFFFFFFFFF00100#64) 2 7) 0x100 [at_ 0 1 ||| at_ 8 1 ||| at_ 16 100 ||| at_ 32 100, 1, 0xFEDCBA9876543210]
def d := descriptorOf s (valueOf s 1) 16
def u := updCSet s 7 (fun c => { c with pend := true })
/-- The hypotheses of a clause of ConfigurationResults can be met. -/
theorem witness_configuration_results_6 :
    Ready [.x 1, .x 2] [] s ∧
    Ready [.x 2] [.x 5] s ∧
    DescriptorAt s (valueOf s 1) 64 16 ∧
    (valueOf s 2 = 7 ∧ setGranted s 7 = true ∧ topoBad (s.fleetId % 16) d = false ∧ (getCSet s 7).pend = false) ∧
    (setGranted u 7 = true ∧ (getCSet u 7).pend = true) :=
  ⟨by delta Ready; rfl, by delta Ready; rfl, by delta DescriptorAt Unheld; decide, by decide, by decide⟩
end WConfigurationResults6

namespace WConfigurationResults7
def s := withX (withX State.reset 2 8) 3 7
/-- The hypotheses of a clause of ConfigurationResults can be met. -/
theorem witness_configuration_results_7 :
    Ready [.x 2] [.x 5] s ∧
    (7 < (valueOf s 2).toNat ∧ valueOf s 3 = 7 ∧ setGranted s 7 = false) :=
  ⟨by delta Ready; rfl, by decide⟩
end WConfigurationResults7

namespace WSupervisorResults1
def s := onTile (withX State.reset 1 0x1212) (fun t => { t with mode := .supervisor })
/-- The hypotheses of a clause of SupervisorResults can be met. -/
theorem witness_supervisor_results_1 :
    Ready [.x 1] [] s ∧
    (fmtLegal (valueOf s 1) = true ∧ isInt64 (valueOf s 1) = false ∧ s.tile.mode = .supervisor) :=
  ⟨by delta Ready; rfl, by decide⟩
end WSupervisorResults1

namespace WSupervisorResults2
def s := onTile (withX (withX parted 1 255) 2 (at_ 16 1)) (fun t => { t with mode := .supervisor })
/-- The hypotheses of a clause of SupervisorResults can be met. -/
theorem witness_supervisor_results_2 :
    Ready [.x 1, .x 2] [] s ∧
    ((valueOf s 1).toNat ≤ 255 ∧ field (valueOf s 2) 63 17 = 0 ∧ field (valueOf s 2) 15 0 < tileCount s (partNo s s.tile.id) ∧ s.tile.mode = .supervisor) :=
  ⟨by delta Ready; rfl, by decide⟩
end WSupervisorResults2

namespace WSupervisorResults3
def s := onTile (withX (withX parted 1 1) 2 (at_ 16 1)) (fun t => { t with mode := .supervisor })
def u : State := { s with net := [{ tile := 1, dest := 1, field := 0, part := 0, words := [] }] }
/-- The hypotheses of a clause of SupervisorResults can be met. -/
theorem witness_supervisor_results_3 :
    Ready [.x 1, .x 2] [] s ∧
    ((valueOf s 1).toNat < tileCount s 0 ∧ field (valueOf s 2) 63 17 = 0 ∧ field (valueOf s 2) 15 8 < 192 ∧ partOfTile s (tileAt (field (valueOf s 2) 7 0) (field (valueOf s 2) 15 8)) = some 0) ∧
    (field (valueOf s 2) 16 16 = 1 ∧ s.tile.mode = .supervisor) ∧
    ¬ ((∃ m ∈ s.net, m.tile = (rankEntry s 0 1).tile) ∨ ∃ m, NiItem.msg m ∈ (getTile s (rankEntry s 0 1).tile).ring) ∧
    (∃ m ∈ u.net, m.tile = (rankEntry u 0 1).tile) :=
  ⟨by delta Ready; rfl, by decide, by decide, by
      rintro (h | ⟨m, h⟩)
      · exact absurd h (by decide)
      · exact absurd (show NiItem.msg m ∈ ([] : List NiItem) from h) List.not_mem_nil, by decide⟩
end WSupervisorResults3

namespace WSupervisorResults4
def s := scratched (onTile (withX launchable 1 0xFFFFFFFFFFF00100#64) (fun t => { t with mode := .supervisor })) 0x100 [1, 5, 0x800000, 0x900000, 4]
def d := descriptorOf s (valueOf s 1) 8
def q := scopeCheck s 0 0 5
def below (v : State) := subtreeOf 0 5 (getPart v 0).scopes v
def lost := updField s 0 (fun f => { f with scopeBase := 0x40000001 })
/-- The hypotheses of a clause of SupervisorResults can be met. -/
theorem witness_supervisor_results_4 :
    Ready [.x 1] [] s ∧
    DescriptorAt s (valueOf s 1) 64 8 ∧
    (preemptBad d = false ∧ s.tile.mode = .supervisor ∧ field (d.getD 1 0) 15 0 = 5) ∧
    q.1 = .runs ∧
    (below q.2).1.toOption = some [5] ∧
    (scopeCheck s 0 0 6).1 = .bad ∧
    ((match (scopeCheck lost 0 0 5).1 with | .unread _ => true | _ => false) = true ∧ (below lost).1.toOption = none) :=
  ⟨by delta Ready; rfl, by delta DescriptorAt Unheld; decide, by decide, by rfl, by decide +kernel, by rfl, ⟨by rfl, by decide +kernel⟩⟩
end WSupervisorResults4

namespace WSupervisorResults5
def d : List Word := [1, 5, 0x800000, 0x900000, 4]
def s := onTile { launchable with launches := [(3, { live := true, placed := true, swapped := [0, 1], threads := [0], tiles := [0], scopes := [5] })] } (fun t => { t with scope := 5, launch := 3 })
def cut := onTile s (fun t => { t with cutOf := some 2 })
/-- The hypotheses of a clause of SupervisorResults can be met. -/
theorem witness_supervisor_results_5 :
    ((∀ t ∈ regionTiles s 0 [5], (getTile s t).cutOf = none) ∧ (regionTiles s 0 [5]).length ≤ (d.getD 4 0).toNat ∧ 0 ∈ regionTiles s 0 [5]) ∧
    (∃ t ∈ regionTiles cut 0 [5], (getTile cut t).cutOf.isSome = true) ∧
    ((d.set 4 0).getD 4 0).toNat < (regionTiles s 0 [5]).length :=
  ⟨by decide, by decide, by decide⟩
end WSupervisorResults5

namespace WSupervisorResults6
def s := writeD (onTile (withX launchable 1 0x800000) (fun t => { t with mode := .supervisor })) 0x800000 (at_ 16 5 ||| 1)
def bad : State := { s with poison := [0x20000] }
/-- The hypotheses of a clause of SupervisorResults can be met. -/
theorem witness_supervisor_results_6 :
    Ready [.x 1] [] s ∧
    ((valueOf s 1).toNat % 2 ^ 21 = 0 ∧ s.tile.mode = .supervisor) ∧
    ((match (imageLoads s.tile.id (valueOf s 1) 8 s).1 with | .ok _ => true | _ => false) = true) ∧
    ((match (imageLoads s.tile.id 0x1000000000000 8 s).1 with | .error (some _) => true | _ => false) = true) ∧
    ((match (imageLoads s.tile.id (valueOf s 1) 8 bad).1 with | .error none => true | _ => false) = true) :=
  ⟨by delta Ready; rfl, by decide, by decide +kernel, by decide +kernel, by decide +kernel⟩
end WSupervisorResults6

namespace WRegisterStoreSteps1
def s : State := { State.reset with arg := [8] }
/-- The hypotheses of a clause of RegisterStoreSteps can be met. -/
theorem witness_register_store_steps_1 :
    (s.arg = [8]) :=
  by decide
end WRegisterStoreSteps1

namespace WRegisterStoreSteps2
def s : State := { State.reset with arg := [0, 15, 5] }
/-- The hypotheses of a clause of RegisterStoreSteps can be met. -/
theorem witness_register_store_steps_2 :
    (s.arg = [0, 15, 5]) :=
  by decide
end WRegisterStoreSteps2

namespace WRegisterStoreSteps3
def s : State := { onTile State.reset (fun t => { t with tileSplit := 8 }) with arg := [7, 65535] }
/-- The hypotheses of a clause of RegisterStoreSteps can be met. -/
theorem witness_register_store_steps_3 :
    (s.arg = [7, 65535] ∧ 7 < s.tile.tileSplit) :=
  by decide
end WRegisterStoreSteps3

namespace WRegisterStoreSteps4
def s : State := { State.reset with arg := [0, 0, 0x80 + 50] }
/-- The hypotheses of a clause of RegisterStoreSteps can be met. -/
theorem witness_register_store_steps_4 :
    (s.arg = [0, 0, 0x80 + 50] ∧ 0 < interSize s / 2 ^ 30 ∧ field (smGet 0x3E s.stripes 0) 5 0 = 62) :=
  by decide
end WRegisterStoreSteps4

namespace WRegisterStoreSteps5
def s : State := { State.reset with localUnits := [(3 * 4096 + 44, 63)], arg := [1, 3, 44, 50] }
/-- The hypotheses of a clause of RegisterStoreSteps can be met. -/
theorem witness_register_store_steps_5 :
    (s.arg = [1, 3, 44, 50] ∧ localUnitExists s 3 44 = true ∧ localUnitExists s 3 46 = false ∧ field (smGet 0x3E s.localUnits (3 * 4096 + 44)) 5 0 = 63 ∧ 50 % 64 ≠ 63) :=
  by decide
end WRegisterStoreSteps5

namespace WRegisterStoreSteps6
def s : State := { State.reset with presentFields := 0xFFFFFFFFFFFE#48, arg := [0, 3, 0] }
/-- The hypotheses of a clause of RegisterStoreSteps can be met. -/
theorem witness_register_store_steps_6 :
    (s.arg = [0, 3, 0] ∧ (3 : Nat).testBit 0 = true ∧ fieldPresent s 0 = false) :=
  by decide
end WRegisterStoreSteps6

namespace WRegisterStoreSteps7
def s : State := { parted with arg := [0, 3, 0] }
/-- The hypotheses of a clause of RegisterStoreSteps can be met. -/
theorem witness_register_store_steps_7 :
    (connected ((List.range 48).filter (3 : Nat).testBit) = true ∧ fieldBusy s 1 = false ∧ (∀ f ∈ List.range 48, (3 : Nat).testBit f = true → fieldPresent s f = true ∧ ∀ e ∈ s.parts, e.1 ≠ 0 → e.2.fields.getLsbD f = false)) :=
  by decide
end WRegisterStoreSteps7

namespace WRegisterStoreSteps8
def r : QRec := { words := record1, deps := [1], aging := 4 }
def s : State := { updField parted 1 (fun f => { f with queues := [(63, [r])] }) with arg := [0, 0, 1, 1] }
/-- The hypotheses of a clause of RegisterStoreSteps can be met. -/
theorem witness_register_store_steps_8 :
    (s.arg = [0, 0, 1, 1] ∧ partFields s 0 = [0] ∧ (getField s 1).queues = ([(63, [r])] : SMap (List QRec))) :=
  by decide
end WRegisterStoreSteps8

namespace WRegisterStoreSteps9
def s : State := { State.reset with arg := [63, 0x10000 + 5 + 2^24 * 63] }
/-- The hypotheses of a clause of RegisterStoreSteps can be met. -/
theorem witness_register_store_steps_9 :
    (s.arg = [63, 0x10000 + 5 + 2 ^ 24 * 63] ∧ (0x10000 + 5 + 2 ^ 24 * 63 : Nat).testBit 16 = true ∧ (0x10000 + 5 + 2 ^ 24 * 63) / 2 ^ 32 % 64 < (0x10000 + 5 + 2 ^ 24 * 63) / 2 ^ 24 % 64) :=
  by decide
end WRegisterStoreSteps9

namespace WRegisterStoreSteps10
def s : State := { State.reset with arg := [511, 0x100 + 47] }
/-- The hypotheses of a clause of RegisterStoreSteps can be met. -/
theorem witness_register_store_steps_10 :
    (s.arg = [511, 0x100 + 47]) :=
  by decide
end WRegisterStoreSteps10

namespace WRegisterStoreSteps11
def s : State := { parted with arg := [0, 55, 2^32 + 511 + 2^16*0] }
/-- The hypotheses of a clause of RegisterStoreSteps can be met. -/
theorem witness_register_store_steps_11 :
    (s.arg = [0, 55, 2 ^ 32 + 511 + 2 ^ 16 * 0]) :=
  by decide
end WRegisterStoreSteps11

namespace WRegisterStoreSteps12
def s : State := { updCSet parted 1 (fun c => { c with en := true, conduits := 8 }) with arg := [0, 0x2F] }
/-- The hypotheses of a clause of RegisterStoreSteps can be met. -/
theorem witness_register_store_steps_12 :
    (s.arg = [0, 0x2F] ∧ (getCSet s 1).en = true ∧ 0x2F % 16 &&& (getCSet s 1).conduits ≠ 0 ∧ (0x2F : Nat).testBit 5 = true) :=
  by decide
end WRegisterStoreSteps12

namespace WRegisterStoreSteps13
def s : State := { parted with arg := [0xFFFFFE0000000000 + 47 * 2 ^ 32 + 0x1028, 2^64-1] }
/-- The hypotheses of a clause of RegisterStoreSteps can be met. -/
theorem witness_register_store_steps_13 :
    (s.arg = [0xFFFFFE0000000000 + 47 * 2 ^ 32 + 0x1028, 2 ^ 64 - 1]) :=
  by decide
end WRegisterStoreSteps13

namespace WRegisterStoreSteps14
def s : State := { State.reset with arg := [5, 3] }
def c : State := { updCSet parted 1 (fun c => { c with en := true, conduits := 8 }) with arg := [0, 0x27] }
/-- The hypotheses of a clause of RegisterStoreSteps can be met. -/
theorem witness_register_store_steps_14 :
    (s.arg = [5, 3] ∧ (3 : Nat).testBit 16 = false) ∧
    (c.arg = [0, 0x27] ∧ ∀ j ∈ List.range 8, j ≠ 0 → (getCSet c j).en = true → 0x27 % 16 &&& (getCSet c j).conduits = 0) :=
  ⟨by decide, by decide⟩
end WRegisterStoreSteps14

namespace WServiceSteps1
def s : State := { State.reset with arg := [0, 0] }
def c : State := { State.reset with arg := [1, 23] }
def e : State := { onTile State.reset (fun t => { t with dcache := [{ line := 4, dirty := false }] }) with arg := [6, 0, 4] }
/-- The hypotheses of a clause of ServiceSteps can be met. -/
theorem witness_service_steps_1 :
    (s.arg = [0, 0] ∧ (allTiles s).filter (· == 0) = [0]) ∧
    (c.arg = [1, 23] ∧ 23 < 24) ∧
    (e.arg = [6, e.tile.id, 4] ∧ ({ State.reset with arg := [5, 0, 2] } : State).arg = [5, State.reset.tile.id, 2]) :=
  ⟨by decide +kernel, by decide, by decide⟩
end WServiceSteps1

namespace WServiceSteps2
def s := updField State.reset 0 (fun f => { f with quarCtl := 0x1201001, suspect := [(0, 1)] })
/-- A launch runs on the tile. -/
def s1 : State := { s with
  tile := { s.tile with launch := 5 }, launches := [(5, { tiles := [0], threads := [0], swapped := [0], part := 3, placed := true })]
  parts := [(3, { fields := 1 })] }
/-- Its cut has saved the tile in its place. -/
def s2 : State := { s1 with cuts := [(7, { launch := 5, stay := true, tiles := [0], saved := [0] })] }
/-- The hypotheses of a clause of ServiceSteps can be met: no launch is there, one waits, one has been saved, or the row has its bypass. -/
theorem witness_service_steps_2 :
    (field (getField s (fieldOf s.tile.id)).quarCtl 24 24 = 1 ∧ field (getField s (fieldOf s.tile.id)).quarCtl 7 0 ≤ field (suspectOf s s.tile.id) 7 0 ∧
      field (suspectOf s s.tile.id) 8 8 = 0 ∧ smFind (getField s 0).bypass (rowOf s.tile.id) = none ∧ launchesOn s ((partOfField s 0).getD 64) [0] = []) ∧
    (launchesOn s1 ((partOfField s1 0).getD 64) [0] = [5] ∧ stays s1 5 = false ∧ launchesOn s2 ((partOfField s2 0).getD 64) [0] = [5] ∧ stays s2 5 = true) ∧
    smFind (getField (updField s 0 (fun f => { f with bypass := [(0, 4)] })) 0).bypass (rowOf s.tile.id) ≠ none :=
  ⟨by decide, by decide, by decide⟩
end WServiceSteps2

namespace WServiceSteps3
def s : State := { State.reset with arg := [0, 1] }
/-- The update is under way. -/
def u : State := updField s 0 (fun f => { f with updating := some 1 })
/-- A placement on the field waits to swap. -/
def s1 : State := { u with tile := { s.tile with launch := 5 }, launches := [(5, { tiles := [0], threads := [0], placed := true })] }
/-- A wavelength of conduit 1 is recalibrated. -/
def l : State := { State.reset with conduits := [(1, { lambda := 4 })], arg := [1, 0, 3] }
def m : State := { State.reset with conduits := [(1, { lambda := 4, recal := some (true, 3) })], arg := [1, 0, 3] }
/-- The hypotheses of the clauses on FIRMWARE_UPDATE, WAVELENGTH_RECALIBRATE and RANK_TABLE_FILL can be met. -/
theorem witness_service_steps_3 :
    (s.arg = [0, 1] ∧ (getField s 0).updating = none) ∧
    (u.arg = [0, 1] ∧ (getField u 0).updating = some 1 ∧ placing u 0 = false) ∧ (s1.arg = [0, 1] ∧ (getField s1 0).updating = some 1 ∧ placing s1 0 = true) ∧
    (l.arg = [1, 0, 3] ∧ (getConduit l 1).recal = none ∧ 3 < (getConduit l 1).lambda) ∧ (m.arg = [1, 0, 3] ∧ (getConduit m 1).recal = some (true, 3)) ∧
    (({ parted with arg := [5] } : State).arg = [5] ∧ 5 < tileCount parted (partNo parted 0)) := by decide
end WServiceSteps3

namespace WFetchSwitchSteps1
def e : TlbEntry := { vaBase := 0xFF40000000001000, log2 := 12, pte := 0x1055#64 }
def s := onTile (writeD mapped 0x1048 0x77) (fun t => { t with fetchMiss := some { va := 0xFF40000000001044#64 }, tlb := [e] })
def m : FetchMiss := { va := 0xFF40000000001044#64 }
/-- The hypotheses of a clause of FetchSwitchSteps can be met. -/
theorem witness_fetch_switch_steps_1 :
    (s.tile.fetchMiss = some m ∧ m.fault = none ∧ s.tile.swMiss = none ∧ walkPending s s.tile.id false = false ∧ execLeaf s s.tile.id m.va s.tile.mode = some e ∧ paErr s (partNo s s.tile.id) (leafPa e m.va) e.level = none ∧ poisoned s (leafPa e m.va) = false) :=
  by decide
end WFetchSwitchSteps1

namespace WFetchSwitchSteps2
def r : WalkReq := { page := 5, tile := 0 }
def s : State := { updField State.reset 3 (fun f => { f with walkQ := [r, { r with page := 6 }, { r with tile := 1 }], walks := List.replicate 31 { r with page := 9 } }) with arg := [3] }
/-- The hypotheses of a clause of FetchSwitchSteps can be met. -/
theorem witness_fetch_switch_steps_2 :
    (s.arg = [3] ∧ (getField s 3).walkQ = r :: [{ r with page := 6 }, { r with tile := 1 }] ∧ (getField s 3).walks.length < 32) :=
  by decide
end WFetchSwitchSteps2

namespace WFetchSwitchSteps3
def r : WalkReq := { page := 5, tile := 0 }
def m : FetchMiss := { va := 0x5008 }
def s : State := { onTile (updField State.reset 3 (fun f => { f with walks := [r] })) (fun t => { t with fetchMiss := some m }) with arg := [3] }
/-- The hypotheses of a clause of FetchSwitchSteps can be met. -/
theorem witness_fetch_switch_steps_3 :
    ((match translateTile (updField s 3 (fun a => { a with walks := [] })) s.tile.id (BitVec.ofNat 64 (r.page * 4096)) .exec r.mode with | .error x => true | .ok _ => false) = true) ∧
    (s.arg = [3] ∧ (getField s 3).walks = [r] ∧ r.tile = s.tile.id ∧ r.forSwitch = false ∧ s.tile.fetchMiss = some m ∧ m.va.toNat / 4096 = r.page) :=
  ⟨by rfl, by decide⟩
end WFetchSwitchSteps3

namespace WFetchSwitchSteps4
def s : State := { onTile mapped (fun t => { t with fetchCtl := 0, prefetchSw := some 0x80, prefetch := some 0x40 }) with arg := [0x80, 1] }
def u : State := { s with arg := [0x80] }
/-- The hypotheses of a clause of FetchSwitchSteps can be met. -/
theorem witness_fetch_switch_steps_4 :
    (s.arg = (0x80#64).toNat :: (if true then [1] else []) ∧ s.tile.prefetchSw = some 0x80#64 ∧ field s.tile.fetchCtl 7 0 = 0 ∧ slotOf (0x80#64 : Word) = none) ∧
    (u.arg = (0x80#64).toNat :: (if false then [1] else []) ∧ u.tile.prefetch ≠ some 0x80#64) :=
  ⟨by decide, by decide⟩
end WFetchSwitchSteps4

namespace WFetchSwitchSteps5
def va : Word := 0xFF40000100000004
def s : State := { onTile (writeD modular 0x500048 0x1000) (fun t => { t with fetchCtl := 1, prefetch := some va }) with arg := [va.toNat] }
def s0 : State := onTile s (fun t => { t with prefetch := none })
def w : State := (moduleRead s0 (fieldOf s.tile.id) 1).2
def a := 0xFF40000100000040
/-- The hypotheses of a clause of FetchSwitchSteps can be met. -/
theorem witness_fetch_switch_steps_5 :
    (s.arg = [va.toNat] ∧ field s.tile.fetchCtl 7 0 = 1 ∧ a = va.toNat / 64 * 64 + 64 ∧ s.tile.prefetch = some va ∧ slotOf va = some 1) ∧
    (a < prefetchEnd s0 s.tile.id va ∧ fetchBad w s.tile.id (BitVec.ofNat 64 a) = none ∧ walkStalls w s.tile.id (BitVec.ofNat 64 a) .exec s.tile.mode = false) ∧
    ((match translateTile w s.tile.id (BitVec.ofNat 64 a) .exec s.tile.mode with | .ok (pa, u) => poisoned u pa == false && u.tile.id == s.tile.id | .error _ => false) = true) :=
  ⟨by decide, by decide +kernel, by decide +kernel⟩
end WFetchSwitchSteps5

namespace WFetchSwitchSteps6
def r : IprefRange := { next := 0x1000000000000FC0, last := 0x1000000000002000, level := 1 }
def s := onTile State.reset (fun t => { t with ipref := [r, r] })
/-- The hypotheses of a clause of FetchSwitchSteps can be met. -/
theorem witness_fetch_switch_steps_6 :
    (s.tile.ipref = r :: [r] ∧ (fetchBad s s.tile.id (BitVec.ofNat 64 r.next)).isSome = true) :=
  by decide
end WFetchSwitchSteps6

namespace WFetchSwitchSteps7
def s := primeFetch (onTile State.reset (fun t => { t with sw := { base := 0xFF40000000000040#64, len := 1, st := .running } })) 0xFF40000000000040#64 [1, 0, 0, 0, 1, 0, 0, 0]
/-- The hypotheses of a clause of FetchSwitchSteps can be met. -/
theorem witness_fetch_switch_steps_7 :
    (s.tile.sw.st = .running ∧ s.tile.sw.word = none ∧ s.tile.sw.pc < s.tile.sw.len) ∧
    ((match fetchAt s s.tile.id s.tile.sw.wordVa s.tile.mode with | .bits b off => (match decodeSwitch (b.extractLsb' (8 * off) 64) with | .ok i => true | .error _ => false) | _ => false) = true) :=
  ⟨by decide, by rfl⟩
end WFetchSwitchSteps7

namespace WFetchSwitchSteps8
def s := onTile State.reset (fun t => { t with run := .running, pc := 0x1003, trapVec := 0x40, sw := { st := .illegal } })
/-- The hypotheses of a clause of FetchSwitchSteps can be met. -/
theorem witness_fetch_switch_steps_8 :
    (s.tile.sw.st = .illegal ∧ s.tile.intr = none ∧ field s.tile.trapCause 3 0 = 0 ∧ s.tile.run = .running ∧ s.tile.wait = none ∧ s.tile.longBuf = []) :=
  by decide
end WFetchSwitchSteps8

namespace WFetchSwitchSteps9
def f : MemFault := { cause := .xlate }
def s := onTile State.reset (fun t => { t with sw := { st := .fetchFault f } })
/-- The hypotheses of a clause of FetchSwitchSteps can be met. -/
theorem witness_fetch_switch_steps_9 :
    (s.tile.sw.st = .fetchFault f) :=
  by decide
end WFetchSwitchSteps9

namespace WFetchSwitchSteps10
def s := onTile State.reset (fun t => { t with sw := { st := .running, word := some (.routen 0 0 5), rem := 0, pc := 3 } })
/-- The hypotheses of a clause of FetchSwitchSteps can be met. -/
theorem witness_fetch_switch_steps_10 :
    (s.tile.sw.word = some (.routen 0 0 5)) :=
  by decide
end WFetchSwitchSteps10

namespace WFetchSwitchSteps11
def s := onTile State.reset (fun t => { t with sw := { st := .running, word := some (.smcast 1 5), moved := [5,0,0,0,0,0,0,0,0,0], pc := 3 } })
/-- The hypotheses of a clause of FetchSwitchSteps can be met. -/
theorem witness_fetch_switch_steps_11 :
    (s.tile.sw.word = some (.smcast 1 5)) :=
  by decide
end WFetchSwitchSteps11

namespace WFetchSwitchSteps12
def s : State := { onTile State.reset (fun t => { t with run := .running, trapVec := 0x40 }) with arg := [15, 254, 300, 300, 7] }
/-- The hypotheses of a clause of FetchSwitchSteps can be met. -/
theorem witness_fetch_switch_steps_12 :
    (s.arg = [15, 254, 300, 300, 7] ∧ s.tile.run = .running ∧ 300 % 255 ≠ 254 ∧ 254 < 255 ∧ 15 < 16 ∧ buddyOf s s.tile.id = some 1 ∧ 1 ≠ s.tile.id ∧ s.tile.longBuf = [] ∧ field s.tile.trapCause 3 0 = 0) ∧
    ((254 : Nat) ≠ 300 ∧ 254 % 255 = 254 ∧ (7 : Nat) ≠ 300 ∧ 7 % 255 ≠ 254) :=
  ⟨by decide, by decide⟩
end WFetchSwitchSteps12

namespace WFetchSwitchSteps13
def q : OwnerReq := { tile := 1, op := .store 8 0xFFFFFFFFFFF00000#64 7, entry := 0, seq := 5 }
def e : LongEntry := { op := .store 8 0xFFFFFFFFFFF00000#64 7 }
def s := updTile (onTile State.reset (fun t => { t with ring := [.req q, .req { q with seq := 6 }] })) 1 (fun t => { t with longBuf := [e] })
def u := onTile s (fun t => { t with ring := [] })
def p := performNow u q.tile q.mode q.op
def w := updTile u 2 (fun t => { t with ring := [.req { q with seq := 4 }] })
/-- The hypotheses of a clause of FetchSwitchSteps can be met. -/
theorem witness_fetch_switch_steps_13 :
    (s.tile.ring = .req q :: [.req { q with seq := 6 }] ∧ s.tile.cutMarked = false ∧ q.op.isAccess = true) ∧
    ((latestOf ((heldReqs u q.tile q.launch).filter (fun e => decide (e.1 < q.seq)))).isNone = true) ∧
    ((latestOf ((heldReqs w q.tile q.launch).filter (fun e => decide (e.1 < q.seq)))).isSome = true) ∧
    ((p.res != .pending && (getTile p.st 1).launch == q.launch && (getTile p.st 1).longBuf[0]? == some e && e.res == .pending) = true) :=
  ⟨by decide, by decide +kernel, by decide +kernel, by decide +kernel⟩
end WFetchSwitchSteps13

namespace WFetchSwitchSteps14
def q : OwnerReq := { tile := 1, op := .bararv 0xFFFFFFFFFFF00000#64, entry := 0 }
def s := onTile State.reset (fun t => { t with ring := [.req q, .req { q with op := .red .add 0xFFFFFFFFFFF00000#64 1 }], cutMarked := true })
def t := onTile s (fun t => { t with cutMarked := false })
/-- The hypotheses of a clause of FetchSwitchSteps can be met. -/
theorem witness_fetch_switch_steps_14 :
    (s.tile.cutMarked = true ∧ t.tile.cutMarked = false ∧ q.op.isArrival = true ∧ (LongOp.redf .add 0 0 0 (some 0)).isForward = true ∧ (!(LongOp.red .add 0 1).isAccess && !(LongOp.red .add 0 1).isArrival && !(LongOp.red .add 0 1).isForward) = true) :=
  by decide
end WFetchSwitchSteps14

namespace WFetchSwitchSteps15
def va : Word := 0xFF40000000001000
def r : WalkReq := { page := va.toNat / 4096, tile := 0 }
def s : State := { updField mapped 0 (fun f => { f with walks := [r] }) with arg := [0] }
def u : State := updField s 0 (fun a => { a with walks := [] })
/-- The hypotheses of a clause of FetchSwitchSteps can be met. -/
theorem witness_fetch_switch_steps_15 :
    (s.arg = [0] ∧ (getField s 0).walks = [r] ∧ r.tile = s.tile.id ∧ r.kind = 2 ∧ va = BitVec.ofNat 64 (r.page * 4096) ∧ bufferedLeaf u s.tile.id va .exec r.mode = none) ∧
    Sys2Proof.Machine.Inv s ∧
    ((match walkOf u (fieldOf s.tile.id) (partNo s s.tile.id) va with | .ok (e, _) => permErr e.pte .exec r.mode == none && paErr s (partNo s s.tile.id) (leafPa e va) e.level == none | .error _ => false) = true) :=
  ⟨by decide, by delta Sys2Proof.Machine.Inv; decide +kernel, by decide +kernel⟩
end WFetchSwitchSteps15

namespace WFetchSwitchSteps16
def e : TlbEntry := { vaBase := 0xFF40000000001000, log2 := 12, pte := 0x1055#64 }
def r : IprefRange := { next := 0xFF40000000001040, last := 0xFF40000000001050, level := 3 }
def s := onTile mapped (fun t => { t with ipref := [r], tlb := [e] })
def w := updField (onTile mapped (fun t => { t with ipref := [r] })) 0 (fun f => { f with walkQ := [{ page := 5, tile := 1 }] })
/-- The hypotheses of a clause of FetchSwitchSteps can be met. -/
theorem witness_fetch_switch_steps_16 :
    (s.tile.ipref = r :: [] ∧ r.next < 2 ^ 64 ∧ r.next % 64 = 0 ∧ r.next ≤ r.last ∧ r.last < r.next + 64 ∧ 1 ≤ r.level ∧ r.level ≤ 3 ∧ fetchBad s s.tile.id (BitVec.ofNat 64 r.next) = none) ∧
    (bufferedLeaf s s.tile.id (BitVec.ofNat 64 r.next) .exec s.tile.mode = some e ∧ paErr s (partNo s s.tile.id) (leafPa e (BitVec.ofNat 64 r.next)) e.level = none ∧
      poisoned s (leafPa e (BitVec.ofNat 64 r.next)) = false) ∧
    (w.tile.ipref = r :: [] ∧ walkStalls w w.tile.id (BitVec.ofNat 64 r.next) .exec w.tile.mode = true) :=
  ⟨by decide, by decide, by decide⟩
end WFetchSwitchSteps16

namespace WFetchSwitchSteps17
def v : State := onTile State.reset (fun t => { t with dispute := some { unit := 1, value := 9 } })
def c : State := updCluster State.reset 0 (fun c => { c with l2 := [{ pa := 7, bytes := 3 }] })
/-- The hypotheses of a clause of FetchSwitchSteps can be met. -/
theorem witness_fetch_switch_steps_17 :
    Ready [.x 1, .x 2] [.x 3] v ∧
    (v.tile.dispute = some { unit := 1, value := 9 }) ∧
    (lineFind (getCluster c (clusterOf 0)).l2 7 = some 3 ∧ lineFind (getCluster c (clusterOf 0)).l2 8 = none ∧ lineFind (getField c (fieldOf 0)).l3 8 = none) :=
  ⟨by delta Ready; rfl, by rfl, by decide⟩
end WFetchSwitchSteps17

namespace WStreamCopyEngineSteps1
def b : Binding := { pat := { base := 0x10000, c0 := 4, s0 := 8 }, ahead := List.replicate 63 {} }
def s : State := { bound (writeD mapped 0x10000 0x77) 7 b with arg := [7] }
/-- The hypotheses of a clause of StreamCopyEngineSteps can be met. -/
theorem witness_stream_copy_engine_steps_1 :
    (s.arg = [7] ∧ s.tile.stream 7 = some b ∧ b.out = false ∧ b.pat.stage = false ∧ s.tile.cutMarked = false ∧ deferred s .streamElementFetch = false ∧ b.refused = false ∧ b.fetchPos.done = false ∧ b.ahead.length < 64 ∧ (∀ e ∈ b.ahead, e.fault = none) ∧ behindElem s (elemAddr b.pat b.width b.fetchPos).1 s.tile.outSeq = false ∧ walkStalls s s.tile.id (elemAddr b.pat b.width b.fetchPos).1 .read b.mode = false) ∧
    ((match reachElem s 7 b .read (elemAddr b.pat b.width b.fetchPos).1 (max 1 (b.width / 8)) (elemIndex b.pat b.fetchPos) with | .ok tg u => (readAt u tg (max 1 (b.width / 8))).2.tile.stream 7 == some b | _ => false) = true) :=
  ⟨by decide +kernel, by decide +kernel⟩
end WStreamCopyEngineSteps1

namespace WStreamCopyEngineSteps2
def b : Binding := { pat := { base := 0x40000000, c0 := 4, s0 := 8 } }
def s : State := { bound mapped 7 b with arg := [7] }
/-- The hypotheses of a clause of StreamCopyEngineSteps can be met. -/
theorem witness_stream_copy_engine_steps_2 :
    (s.arg = [7] ∧ s.tile.cutMarked = false ∧ deferred s .streamElementFetch = false ∧ behindElem s (elemAddr b.pat b.width b.fetchPos).1 s.tile.outSeq = false ∧ walkStalls s s.tile.id (elemAddr b.pat b.width b.fetchPos).1 .read b.mode = false) ∧
    ((match reachElem s 7 b .read (elemAddr b.pat b.width b.fetchPos).1 (max 1 (b.width / 8)) (elemIndex b.pat b.fetchPos) with | .fault f => true | _ => false) = true) :=
  ⟨by decide +kernel, by decide +kernel⟩
end WStreamCopyEngineSteps2

namespace WStreamCopyEngineSteps3
def e : OutElem := { va := 0x10002, width := 16, raw := 0x12345 }
def b : Binding := { pat := { base := 0x10000, c0 := 4, s0 := 8 }, out := true, held := [e, e] }
def s : State := { bound (writeD mapped 0x10000 0xFFFFFFFFFFFFFFFF) 7 b with arg := [7], undef := [⟨0x10000, 0x10008, 0⟩] }
/-- The hypotheses of a clause of StreamCopyEngineSteps can be met. -/
theorem witness_stream_copy_engine_steps_3 :
    (s.tile.stream 7 = some b ∧ b.held = e :: [e] ∧ b.out = true ∧ deferred s .streamElementPerform = false ∧ b.fault = none ∧ b.refused = false ∧ 8 ≤ e.width ∧ e.width % 8 = 0 ∧ behindElem s e.va e.seq = false ∧ walkStalls s s.tile.id e.va .write b.mode = false) ∧
    ((match reachElem s 7 b .write e.va (max 1 (e.width / 8)) e.idx with | .ok tg u => (match targetKey tg with | some pa => pa == 0x10002 && u.tile.stream 7 == some b | none => false) | _ => false) = true) :=
  ⟨by decide +kernel, by decide +kernel⟩
end WStreamCopyEngineSteps3

namespace WStreamCopyEngineSteps12
def e : OutElem := { va := 0x40000000, width := 16, raw := 0x12345 }
def b : Binding := { pat := { base := 0x40000000, c0 := 4, s0 := 8 }, out := true, held := [e] }
def s : State := { bound mapped 7 b with arg := [7] }
/-- The hypotheses of a clause of StreamCopyEngineSteps can be met. -/
theorem witness_stream_copy_engine_steps_12 :
    (s.arg = [7] ∧ b.out = true ∧ deferred s .streamElementPerform = false ∧ b.fault = none ∧ b.refused = false ∧ b.held = e :: [] ∧ behindElem s e.va e.seq = false ∧ walkStalls s s.tile.id e.va .write b.mode = false) ∧
    ((match reachElem s 7 b .write e.va (max 1 (e.width / 8)) e.idx with | .fault _ => true | _ => false) = true) :=
  ⟨by decide +kernel, by decide +kernel⟩
end WStreamCopyEngineSteps12

namespace WStreamCopyEngineSteps4
def f : MemFault := { cause := .xlate }
def p : Pos := { i0 := 1 }
def b : Binding := { refused := true, ahead := [{ raw := 1 }, { at_ := p, fault := some f }], fetchPos := { i0 := 2 } }
def s : State := { bound mapped 7 b with arg := [7] }
/-- The hypotheses of a clause of StreamCopyEngineSteps can be met. -/
theorem witness_stream_copy_engine_steps_4 :
    (s.tile.stream 7 = some b ∧ b.refused = true ∧ (getField s (fieldOf s.tile.id)).updating = none ∧ b.ahead.find? (fun x => x.fault.isSome) = some { at_ := p, fault := some f }) :=
  by decide
end WStreamCopyEngineSteps4

namespace WStreamCopyEngineSteps5
def d := [at_ 2 0, 0x20001, 0x30003, 0x40000, 64]
def s := writeD (scratched (withX mapped 1 0xFFFFFFFFFFF00100#64) 0x100 d) 0x20000 0x0807060504030201
def s1 := match exec (.copy 1) s with | .next t => (match exec .copyRequestArrival { t with arg := [0] } with | .next u => { u with arg := [0] } | _ => s) | _ => s
def c := (smFind s1.tile.copies 0).getD {}
def l := c.lead.getD {}
def src := c.desc.getD 1 0 + BitVec.ofNat 64 l.col
/-- The hypotheses of a clause of StreamCopyEngineSteps can be met. -/
theorem witness_stream_copy_engine_steps_5 :
    ((smFind s1.tile.copies 0).isSome && c.lead.isSome) = true ∧
    (s1.arg = [0] ∧ c.arrived = true ∧ l.fault = none ∧ field (c.desc.getD 0 0) 1 0 = 0 ∧ (∀ p ∈ c.pieces, p.spout < 64 ∨ p.closed = true) ∧ imagedScratch s1 0 src = false ∧ walkStalls s1 s1.tile.id src .read c.mode = false) ∧
    ((match copyHomes s1 0 c.mode 0 src (sectorDst c.desc l.row l.col).2 with | (.ok hs, _) => hs.length == 29 && hs.headD 0 == 0x20001 | _ => false) = true) :=
  ⟨by rfl, by decide +kernel, by decide +kernel⟩
end WStreamCopyEngineSteps5

namespace WStreamCopyEngineSteps11
open WStreamCopyEngineSteps5 in
def s2 := match exec .spoutSector s1 with | .next t => { t with arg := [0, (((smFind t.tile.copies 0).getD {}).pieces.headD {}).num] } | _ => s1
def c := (smFind s2.tile.copies 0).getD {}
def p := c.pieces.headD {}
def q := p.queue.headD {}
/-- The hypotheses of a clause of StreamCopyEngineSteps can be met. -/
theorem witness_stream_copy_engine_steps_11 :
    (s2.arg = [0, p.num] ∧ c.arrived = true ∧ p.num = (c.pieces.headD {}).num ∧ p.uncounted < 256 ∧ p.queue ≠ [] ∧ p.fault = none ∧ q.homes ≠ []) ∧
    (homesHeld s2 s2.tile.id p.spout q.homes = false ∧ spoutTurn s2 p.spout s2.tile.id = true ∧ sectorWaits s2 0 c q = false ∧ walkStalls s2 s2.tile.id q.dst .write c.mode = false ∧ walkStalls s2 s2.tile.id q.src .read c.mode = false) ∧
    ((match readHomes s2 q.homes with | some (bytes, u) => (match copyDest u 0 c.mode p.idx q.dst q.n with | (.ok tgs, v) => !customBad v c tgs && tgs.all (fun tg => !spoutHeld s2 s2.tile.id p.spout ((targetKey tg).getD 0)) && bytes.length == 29 && tgs.length == 29 | _ => false) | none => false) = true) ∧
    ((match copyHomes s2 0 c.mode p.idx q.src q.n with | (.ok hs, _) => hs.length == 29 && !homesHeld s2 0 p.spout hs | _ => false) = true) :=
  ⟨by decide +kernel, by decide +kernel, by decide +kernel, by decide +kernel⟩
end WStreamCopyEngineSteps11

namespace WStreamCopyEngineSteps6
def c : CopySlot := { desc := [0, 0x20001, 0x30003, 0x40000, 64], arrived := true, owed := [(3, 0), (4, 1)] }
def s : State := { onTile mapped (fun t => { t with copies := [(5, c)] }) with arg := [5] }
/-- The hypotheses of a clause of StreamCopyEngineSteps can be met. -/
theorem witness_stream_copy_engine_steps_6 :
    (smFind s.tile.copies 5 = some c ∧ c.owed = (3, 0) :: [(4, 1)] ∧ c.counterFault = false ∧ c.desc.getD 3 0 ≠ 0 ∧ ({ c with desc := [] } : CopySlot).desc.getD 3 0 = 0 ∧ imagedScratch s 5 (c.desc.getD 3 0) = false ∧ (getField s (fieldOf s.tile.id)).updating = none) ∧
    ((let p := performNow s s.tile.id c.mode (.red .add (c.desc.getD 3 0) 3); p.res == .ack && smFind p.st.tile.copies 5 == some c) = true) :=
  ⟨by decide, by decide +kernel⟩
end WStreamCopyEngineSteps6

namespace WStreamCopyEngineSteps7
def s : State := { updTile State.reset (memberTile 0 5) (fun t => { t with sub := { t.sub with queue := [.zero 1] } }) with arg := [0] }
/-- The hypotheses of a clause of StreamCopyEngineSteps can be met. -/
theorem witness_stream_copy_engine_steps_7 :
    (s.arg = [0] ∧ (∀ k ∈ List.range 8, (getTile s (memberTile 0 k)).sub.started = false) ∧ arbiterPick s 0 = some 5) :=
  by decide
end WStreamCopyEngineSteps7

namespace WStreamCopyEngineSteps8
def b : Binding := { pat := { base := 0x10000, c0 := 128, c1 := 128, dims := 2, stage := true } }
def q : List MCmd := [.zero 3, .mma 7 1 2 0 (0, none, false)]
def s : State := { onTile (bound mapped 15 b) (fun t => { t with sub := { t.sub with queue := q, staged := [{}] } }) with arg := [] }
def va : Word := (elemAddr b.pat b.width b.pos).1
/-- The hypotheses of a clause of StreamCopyEngineSteps can be met. -/
theorem witness_stream_copy_engine_steps_8 :
    (s.tile.sub.held = none ∧ s.tile.cutMarked = false ∧ deferred s .stagingElement = false ∧ s.tile.sub.nextElem = some (15, (0, none, false), {}, [.zero 3]) ∧ s.tile.stream 15 = some b) ∧
    (behindElem s va s.tile.outSeq = false ∧ behindDrain s [.zero 3] va = false ∧ walkStalls s s.tile.id va .read b.mode = false) ∧
    ((match reachElem s 15 b .read va (max 1 (b.width / 8)) (elemIndex b.pat b.pos) with | .ok tg u => (readAt u tg (max 1 (b.width / 8))).2.tile.sub == s.tile.sub | _ => false) = true) :=
  ⟨by decide +kernel, by decide +kernel, by decide +kernel⟩
end WStreamCopyEngineSteps8

namespace WStreamCopyEngineSteps9
def d : DrainWord := { va := 0x10008, w := 0x123456789ABCDEF0, cmd := 4 }
def e : DrainWord := { va := 0x10010, w := 5, cmd := 4 }
def s := onTile mapped (fun t => { t with sub := { t.sub with drains := [d, e] } })
/-- The hypotheses of a clause of StreamCopyEngineSteps can be met. -/
theorem witness_stream_copy_engine_steps_9 :
    (s.tile.sub.drains = d :: [e] ∧ s.tile.sub.held = none ∧ deferred s .drainWritePerform = false ∧ windowClosed s s.tile.id (.store 8 d.va d.w) = false ∧ walkStalls s s.tile.id d.va .write d.mode = false ∧ (∃ x ∈ [e], x.cmd = d.cmd)) ∧
    ((match resolve s s.tile.id d.mode { kind := .write, noDevice := true } d.va 8 with | .ok (tg, u) => targetKey tg == some 0x10008 && blockOf u s.tile.id d.va tg false == .free && u.tile.sub == s.tile.sub | _ => false) = true) :=
  ⟨by decide +kernel, by decide +kernel⟩
end WStreamCopyEngineSteps9

namespace WStreamCopyEngineSteps13
def d : DrainWord := { va := 0x40000000, w := 5 }
def s := onTile mapped (fun t => { t with run := .exited, sub := { t.sub with drains := [d] } })
/-- The hypotheses of a clause of StreamCopyEngineSteps can be met. -/
theorem witness_stream_copy_engine_steps_13 :
    (s.tile.sub.drains = d :: [] ∧ s.tile.sub.held = none ∧ deferred s .drainWritePerform = false ∧ windowClosed s s.tile.id (.store 8 d.va d.w) = false ∧ walkStalls s s.tile.id d.va .write d.mode = false ∧ s.tile.run = .exited) ∧
    ((match resolve s s.tile.id d.mode { kind := .write, noDevice := true } d.va 8 with | .ok _ => false | .error _ => true) = true) :=
  ⟨by decide +kernel, by decide +kernel⟩
end WStreamCopyEngineSteps13

namespace WStreamCopyEngineSteps10
def s := onTile mapped (fun t => { t with sub := { t.sub with held := some { cause := .xlate }, drains := [{ va := 0x10008, w := 5 }] } })
/-- The hypotheses of a clause of StreamCopyEngineSteps can be met. -/
theorem witness_stream_copy_engine_steps_10 :
    (s.tile.sub.held.isSome = true ∧ (getField s (fieldOf s.tile.id)).updating = none) :=
  by decide
end WStreamCopyEngineSteps10

namespace WStreamCopyEngineSteps14
def b : Binding := { pat := { base := 0xFF80000000100000, c0 := 4, s0 := 8 } }
def s : State := { updTile (bound mapped 7 b) 1 (fun t => { t with ring := [.access 0 0 .snop []] }) with arg := [7] }
def w : State := updTile (bound mapped 7 b) 1 (fun t => { t with ring := [.access 0 0 .streamElementFetch [7]] })
def f := updField State.reset 0 (fun f => { f with updating := some 1 })
/-- The hypotheses of a clause of StreamCopyEngineSteps can be met. -/
theorem witness_stream_copy_engine_steps_14 :
    (s.tile.stream 7 = some b ∧ deferred s .streamElementFetch = false ∧ behindElem s (elemAddr b.pat b.width b.fetchPos).1 s.tile.outSeq = false ∧
      walkStalls s s.tile.id (elemAddr b.pat b.width b.fetchPos).1 .read b.mode = false) ∧
    ((match reachElem s 7 b .read (elemAddr b.pat b.width b.fetchPos).1 (max 1 (b.width / 8)) (elemIndex b.pat b.fetchPos) with | .held h => h == 1 | _ => false) = true) ∧
    (ownTurn { w with arg := [7] } .streamElementFetch = some 1 ∧ deferred { updTile w 1 (fun t => { t with ring := [] }) with arg := [7] } .streamElementFetch = false) ∧
    (getField f (fieldOf f.tile.id)).updating ≠ none :=
  ⟨by decide +kernel, by decide +kernel, by decide +kernel, by decide⟩
end WStreamCopyEngineSteps14

namespace WStreamCopyEngineSteps15
def c : CopySlot := { desc := [0, 0x20001, 0x30003, 0xFFFFFFFFFFF00100#64, 64], arrived := true, owed := [(3, 0)] }
def s : State := { onTile mapped (fun t => { t with copies := [(5, c)], cutOf := some 2 }) with arg := [5], cuts := [(2, { saved := [0] })] }
/-- The hypotheses of a clause of StreamCopyEngineSteps can be met. -/
theorem witness_stream_copy_engine_steps_15 :
    (smFind s.tile.copies 5 = some c ∧ c.owed = (3, 0) :: [] ∧ c.counterFault = false ∧ c.desc.getD 3 0 ≠ 0 ∧ imagedScratch s 5 (c.desc.getD 3 0) = true ∧ 5 < 32) :=
  by decide
end WStreamCopyEngineSteps15

namespace WNetworkSteps1
def m : OutMsg := { tile := 0, field := 1, words := [at_ 48 3 ||| at_ 0 5, 7] }
def o : OutMsg := { m with tile := 9 }
def s : State := { onTile (updField State.reset 0 (fun f => { f with incTable := [(1, 3)] })) (fun t => { t with run := .running, htCtl := vset t.htCtl 5 0x80 }) with net := [o, m, o] }
def full : Tile := { s.tile with inbox := List.replicate 27 { chan := 5, words := List.replicate 17 0 } }
/-- The hypotheses of a clause of NetworkSteps can be met. -/
theorem witness_network_steps_1 :
    (s.net = [o] ++ m :: [o] ∧ (∀ x ∈ [o] ++ [o], x.tile ≠ s.tile.id) ∧ m.tile = s.tile.id ∧ messageEdge s m = none ∧ s.tile.ring = [] ∧ field (m.words.headD 0) 5 0 = 5) ∧
    (stale (smGet 0 (getField s 0).incTable m.field) (field (m.words.headD 0) 63 48) = false ∧ stale 4 (field (m.words.headD 0) 63 48) = true ∧ s.tile.run ≠ .killed ∧ s.tile.cutMarked = false ∧ s.tile.htValid 5 = true ∧ s.tile.htValid 6 = false ∧ s.tile.htPending 6 = false) ∧
    (inboxRoom s.tile.inbox false 16 = true ∧ inboxRoom s.tile.inbox true 16 = true ∧ inboxRoom full.inbox false 16 = false) :=
  ⟨by decide +kernel, by decide, by decide⟩
end WNetworkSteps1

namespace WNetworkSteps2
def m : OutMsg := { dest := 3, field := 0, part := 0, words := [5, 7] }
def s := onTile (updField (updPart parted 0 (fun p => { p with ranks := [(3, { tile := 9 })] })) 0 (fun f => { f with inc := 2 })) (fun t => { t with sendQ := [m, m] })
/-- The hypotheses of a clause of NetworkSteps can be met. -/
theorem witness_network_steps_2 :
    (s.arg = [] ∧ s.tile.sendQ = m :: [m] ∧ m.words = 5 :: [7] ∧ s.tile.longBuf = [] ∧ (rankSeen s s.tile.id m.part m.dest).transit = false) :=
  by decide
end WNetworkSteps2

namespace WNetworkSteps3
def k : Token := { payload := 5, res := residueOf 5 }
def s : State := { onTile parted (fun t => { t with id := 257, run := .running, coreOut := vset t.coreOut 5 [k, k] }) with arg := [5] }
/-- The hypotheses of a clause of NetworkSteps can be met. -/
theorem witness_network_steps_3 :
    (s.arg = [5] ∧ vget s.tile.coreOut 5 [] = k :: [k] ∧ farInput s.tile.id 5 = some (258, 7) ∧ crossesField s.tile.id 1 = false ∧ s.tile.run ≠ .killed ∧ s.tile.cutMarked = false ∧ sealed s 258 = false ∧ s.deadLinks.contains (s.tile.id * 8 + 5) = false ∧ s.tile.sw.leavesFree 5 = true ∧ linkRoom s s.tile.id 5 = true) :=
  by decide
end WNetworkSteps3

namespace WNetworkSteps4
def s : State := { onTile State.reset (fun t => t.setLock 3 0xE005 |>.setLock 2 0x2001) with arg := [3] }
/-- The hypotheses of a clause of NetworkSteps can be met. -/
theorem witness_network_steps_4 :
    (s.arg = [3] ∧ (s.tile.lock 3).testBit 15 = true) :=
  by decide
end WNetworkSteps4

namespace WNetworkSteps5
def k : Token := { payload := 5, res := residueOf 5, inc := 4, route := 9 }
def s : State := { onTile (updField State.reset 0 (fun f => { f with incTable := [(1, 4)] })) (fun t => { t with id := 31, cfgTag := 0x1007, weirs := [(1, { inflight := [k, k] })] }) with arg := [1] }
/-- The hypotheses of a clause of NetworkSteps can be met. -/
theorem witness_network_steps_5 :
    (s.arg = [1] ∧ (s.tile.weir 1).inflight = k :: [k] ∧ (s.tile.weir 1).fifo = [] ∧ (s.tile.weir 1).ring = [] ∧ (s.tile.weir 1).ringCap = 0 ∧ s.tile.run ≠ .killed ∧ (vget s.tile.swIn 1 []).length < 4 ∧ k.isCut = false ∧ (neighbour s.tile.id 1).map fieldOf = some 1 ∧ stale (smGet 0 (getField s 0).incTable 1) k.inc = false ∧ residueOf k.payload = k.res) :=
  by decide
end WNetworkSteps5

namespace WNetworkSteps6
def k : Token := { payload := 5 }
def s : State := { onTile State.reset (fun t => { t with weirs := [(1, { ring := [k, k], fifo := List.replicate 63 k, ringCap := 128 })] }) with arg := [1] }
/-- The hypotheses of a clause of NetworkSteps can be met. -/
theorem witness_network_steps_6 :
    (s.arg = [1] ∧ (s.tile.weir 1).ring = k :: [k] ∧ k.isCut = false ∧ (s.tile.weir 1).fifo.length < 64) :=
  by decide
end WNetworkSteps6

namespace WNetworkSteps7
def s : State := { onTile parted (fun t => { t with id := 257, run := .killed, cfgTag := 9 }) with arg := [0] }
/-- The hypotheses of a clause of NetworkSteps can be met. -/
theorem witness_network_steps_7 :
    (s.arg = [0] ∧ s.tile.run = .killed ∧ linkRoom s s.tile.id 0 = true ∧ (farInput s.tile.id 0).isSome = true ∧ crossesField s.tile.id 0 = false ∧ ((farInput s.tile.id 0).all (fun e => !sealed s e.1)) = true) :=
  by decide
end WNetworkSteps7

namespace WNetworkSteps8
def m : OutMsg := { tile := 0, field := 1, src := 32, mask := 3, words := [5] }
def s : State := { State.reset with net := [m] }
def w : OutMsg := { tile := 0, field := 0, src := 0, dest := 0, part := 0, sup := true, words := (at_ 48 0 ||| at_ 32 0xFFFF ||| at_ 16 (1 + 1) ||| at_ 0 5) :: [7].map (BitVec.ofNat 64) }
def x : OutMsg := { w with field := 1 }
/-- The hypotheses of a clause of NetworkSteps can be met. -/
theorem witness_network_steps_8 :
    (s.net = [] ++ m :: [] ∧ m.tile = s.tile.id ∧ messageEdge s m = some 0 ∧ s.tile.ring = []) ∧
    (fieldPresent State.reset 0 = true ∧ fieldPresent State.reset (fieldOf 0) = true ∧ (getField State.reset 0).inc = 0 ∧ 5 < 64 ∧ supOpen State.reset w = true ∧ supOpen State.reset x = false) :=
  ⟨by decide +kernel, by decide +kernel⟩
end WNetworkSteps8

namespace WCisternPortSteps1
def s : State := { State.reset with arg := [2 ^ 45 + 5] }
/-- The hypotheses of a clause of CisternPortSteps can be met. -/
theorem witness_cistern_port_steps_1 :
    (s.arg = [2 ^ 45 + 5] ∧ cisternOf s (2 ^ 45 + 5) = none ∧ cisternOf { s with arg := [2 ^ 39] } (2 ^ 39 * 64) = none) :=
  by decide
end WCisternPortSteps1

namespace WCisternPortSteps2
def a : Nat := 0x6000005
def o : Nat := ((cisternOf State.reset a).getD (9, 0)).2
def s : State := { updCistern State.reset 0 (fun c => { c with fills := [o / 64] }) with arg := [a] }
/-- The hypotheses of a clause of CisternPortSteps can be met. -/
theorem witness_cistern_port_steps_2 :
    (s.arg = [a] ∧ cisternOf s a = some (0, o) ∧ o / 64 ∈ (getCistern s 0).fills ∧ trafficHeld s (presentFor s s.tile.id) s.tile.id (edgeTile 0 s.tile.id) = false) :=
  by decide +kernel
end WCisternPortSteps2

namespace WCisternPortSteps3
def d : List Word := [at_ 16 5 ||| at_ 4 1 ||| at_ 2 1 ||| 1, 0x10000, 2, 0, 8, 0, 0, 0x3FFFC00000000000]
def k : Token := { kind := .marker, level := 1, route := 5 }
def s : State := { onTile mapped (fun t => { t with ports := [(3, { active := d, idle := false, ahead := [k], pos := { done := true } })] }) with arg := [3] }
/-- The hypotheses of a clause of CisternPortSteps can be met. -/
theorem witness_cistern_port_steps_3 :
    (s.arg = [3] ∧ s.tile.sourceActive 3 = true ∧ (s.tile.rimOut 3).cut = false ∧ deferred s .streamPortSourceElement = false ∧ RimPort.reads { s.tile.rimOut 3 with ahead := [] } = false ∧ (s.tile.weir 3).room = true ∧ (s.tile.rimOut 3).ahead = k :: []) :=
  by decide
end WCisternPortSteps3

namespace WCisternPortSteps4
def d : List Word := [at_ 16 5 ||| at_ 4 1 ||| at_ 2 1 ||| 1, 0x10000, 2, 0, 8, 0, 0, 0x3FFFC00000000000]
def s : State := { onTile (writeD mapped 0x10008 0x77) (fun t => { t with ports := [(3, { active := d, idle := false, pos := { i0 := 1 } })] }) with arg := [3] }
/-- The hypotheses of a clause of CisternPortSteps can be met. -/
theorem witness_cistern_port_steps_4 :
    (s.arg = [3] ∧ deferred s .streamPortSourceElement = false ∧ s.tile.sourceActive 3 = true ∧ (s.tile.rimOut 3).cut = false ∧ (s.tile.rimOut 3).fault = none ∧ (s.tile.rimOut 3).ahead = [] ∧ (s.tile.rimOut 3).pos.done = false) ∧
    ((match reachPort s s.tile.id 3 d .read (s.tile.rimOut 3).pos with | .ok tg u => (readAt u tg (max 1 (portWidth d / 8))).2.tile.ports == s.tile.ports && (readAt u tg (max 1 (portWidth d / 8))).2.tile.weirs == s.tile.weirs && (readAt u tg (max 1 (portWidth d / 8))).2.tile.id == s.tile.id | _ => false) = true) :=
  ⟨by decide, by decide +kernel⟩
end WCisternPortSteps4

namespace WCisternPortSteps5
def d : List Word := [at_ 16 5 ||| at_ 2 1 ||| 1, 0x40000000, 2, 0, 8, 0, 0, 0x3FFFC00000000000]
def s : State := { onTile mapped (fun t => { t with ports := [(3, { active := d, idle := false })] }) with arg := [3] }
/-- The hypotheses of a clause of CisternPortSteps can be met. -/
theorem witness_cistern_port_steps_5 :
    (s.arg = [3] ∧ deferred s .streamPortSourceElement = false ∧ s.tile.sourceActive 3 = true ∧ (s.tile.rimOut 3).cut = false ∧ (s.tile.rimOut 3).fault = none ∧ (s.tile.rimOut 3).ahead = [] ∧ (s.tile.rimOut 3).pos.done = false) ∧
    ((match reachPort s s.tile.id 3 (s.tile.rimOut 3).active .read (s.tile.rimOut 3).pos with | .fault f => true | _ => false) = true) :=
  ⟨by decide, by decide +kernel⟩
end WCisternPortSteps5

namespace WCisternPortSteps6
def d : List Word := [at_ 16 5 ||| at_ 2 1 ||| 3, 0x10000, 2, 0, 8, 0, 0, 0x3FFFC00000000000]
def k : Token := { payload := 0x123, res := residueOf 0x123 }
def s : State := { onTile mapped (fun t => { t with ports := [(3, { active := d, idle := false, toRim := [k, k] })] }) with arg := [3] }
/-- The hypotheses of a clause of CisternPortSteps can be met. -/
theorem witness_cistern_port_steps_6 :
    (s.arg = [3] ∧ deferred s .streamPortSinkToken = false ∧ (s.tile.rimOut 3).toRim = k :: [k] ∧ (s.tile.rimOut 3).idle = false ∧ bitOf (imgD d 0) 1 = true ∧ residueOf k.payload = k.res ∧ k.kind = .data ∧ (s.tile.rimOut 3).cut = false ∧ (s.tile.rimOut 3).fault = none ∧ (s.tile.rimOut 3).pos.done = false ∧ 8 ≤ portWidth d ∧ portWidth d % 8 = 0) ∧
    ((match reachPort s s.tile.id 3 d .write (s.tile.rimOut 3).pos with | .ok tg u => u.tile.ports == s.tile.ports && targetKey tg == some 0x10000 | _ => false) = true) :=
  ⟨by decide +kernel, by decide +kernel⟩
end WCisternPortSteps6

namespace WCisternPortSteps8
def k : Token := { kind := .err }
def s : State := { onTile State.reset (fun t => { t with ports := [(3, { toRim := [k, k], fault := some { cause := .xlate } })] }) with arg := [3] }
/-- The hypotheses of clauses of CisternPortSteps can be met. -/
theorem witness_cistern_port_steps_8 :
    (s.arg = [3] ∧ deferred s .streamPortSinkToken = false ∧ (getField s (fieldOf s.tile.id)).updating = none ∧ (s.tile.rimOut 3).toRim = k :: [k] ∧ (s.tile.rimOut 3).idle = true ∧ k.isCut = false ∧ (s.tile.rimOut 3).fault = some { cause := .xlate }) :=
  by decide
end WCisternPortSteps8

namespace WCisternPortSteps7
def k : Token := { payload := 0x123, res := residueOf 0x123, dest := 5 }
def n := (List.range 65536).find? (fun i => (conduitFacing i 0).isSome || (conduitFacing i 1).isSome || (conduitFacing i 2).isSome || (conduitFacing i 3).isSome) |>.getD 0
def dr := (List.range 4).find? (fun d => (conduitFacing n d).isSome) |>.getD 0
def c := (conduitFacing n dr).getD 0
def s : State := { onTile State.reset (fun t => { t with id := n, ports := [(dr, { toRim := [k, k] })] }) with arg := [dr] }
/-- The hypotheses of a clause of CisternPortSteps can be met. -/
theorem witness_cistern_port_steps_7 :
    (conduitFacing n dr = some c ∧ (s.tile.rimOut dr).toRim = k :: [k] ∧ residueOf k.payload = k.res ∧ chunkTokens (smGet [] (getConduit s c).sendQ k.dest) < 65536) :=
  by decide +kernel
end WCisternPortSteps7

namespace WCisternPortSteps9
def d : List Word := [at_ 16 5 ||| at_ 2 1 ||| 1, 0xFF80000000100000#64, 2, 0, 8, 0, 0, 0x3FFFC00000000000]
def e : List Word := [at_ 16 5 ||| at_ 2 1 ||| 3, 0xFF80000000100000#64, 2, 0, 8, 0, 0, 0x3FFFC00000000000]
def k : Token := { payload := 0x123, res := residueOf 0x123 }
def s : State := { updTile (onTile mapped (fun t => { t with ports := [(3, { active := d, idle := false })] })) 1 (fun t => { t with run := .killed }) with arg := [3] }
def h : State := { updTile (onTile mapped (fun t => { t with ports := [(3, { active := e, idle := false, toRim := [k] })] })) 1 (fun t => { t with ring := [.access 0 0 .snop []] }) with arg := [3] }
/-- The hypotheses of a clause of CisternPortSteps can be met. -/
theorem witness_cistern_port_steps_9 :
    (s.tile.sourceActive 3 = true ∧ (s.tile.rimOut 3).pos.done = false) ∧
    ((match reachPort s s.tile.id 3 d .read (s.tile.rimOut 3).pos with | .gone u => u.tile.ports == s.tile.ports && u.tile.id == s.tile.id | _ => false) = true) ∧
    ((h.tile.rimOut 3).toRim = k :: [] ∧ (h.tile.rimOut 3).idle = false ∧ bitOf (imgD e 0) 1 = true ∧ residueOf k.payload = k.res ∧ deferred h .streamPortSinkToken = false) ∧
    ((match reachPort h h.tile.id 3 e .write (h.tile.rimOut 3).pos with | .held u => u == 1 | _ => false) = true) :=
  ⟨by decide, by decide +kernel, by decide +kernel, by decide +kernel⟩
end WCisternPortSteps9

namespace WCisternPortSteps10
def a : Nat := 0x6000005
def o : Nat := ((cisternOf State.reset a).getD (9, 0)).2
def s : State := { updField State.reset 0 (fun f => { f with resetState := 1 }) with arg := [a] }
/-- The hypotheses of a clause of CisternPortSteps can be met. -/
theorem witness_cistern_port_steps_10 :
    (s.arg = [a] ∧ cisternOf s a = some (0, o) ∧ trafficHeld s (presentFor s s.tile.id) s.tile.id (edgeTile 0 s.tile.id) = true) :=
  by decide +kernel
end WCisternPortSteps10

namespace WSwitchResults1
def k : Token := { payload := 5, res := 5 }
def i : Instr := .route (3#30 <<< 24) 0
def s : State := onTile State.reset (fun t => { t with swIn := vset t.swIn 2 [k, k] })
/-- The hypotheses of a clause of SwitchResults can be met. -/
theorem witness_switch_results_1 :
    (Routable s i ∧ Routable s (.routen (3#30 <<< 24) 0 3)) :=
  by delta Routable; decide
end WSwitchResults1

namespace WSwitchResults2
def k : Token := { payload := 5, res := 5 }
def s : State := onTile State.reset (fun t => { t with sw := { t.sw with len := 16, st := .running, word := some (.routen 3 0 3), rem := 2 }, swIn := vset t.swIn 2 [k, k], bq := [true, false] })
/-- The hypotheses of a clause of SwitchResults can be met. -/
theorem witness_switch_results_2 :
    (Routable s (.sjmp (3#30 <<< 24) 0 9) ∧ Routable s (.sbnz (3#30 <<< 24) 0 9 2) ∧ SoundHead s 2 k [k] ∧ Routable s (.sbq (3#30 <<< 24) 0 9) ∧ s.tile.bq = true :: [false]) :=
  by delta Routable SoundHead; decide
end WSwitchResults2

namespace WSwitchResults3
def k : Token := { kind := .marker, level := 3 }
def s : State := onTile State.reset (fun t => { t with swIn := vset t.swIn 2 [k, k] })
/-- The hypotheses of a clause of SwitchResults can be met. -/
theorem witness_switch_results_3 :
    (wordIllegal s.tile (.swaitm 0 0 2 3) = false ∧ s.tile.sw.rem = 0 ∧ s.tile.emq.length < 8 ∧ (∀ b ∈ branches 0, b.2 ≠ 2) ∧ s.tile.fifo 2 = k :: [k] ∧ k.kind = .marker ∧ residueOf k.payload = k.res ∧ 3 ≤ k.level) :=
  by decide
end WSwitchResults3

namespace WSwitchResults4
def k : Token := { kind := .marker, level := 3 }
def s : State := onTile State.reset (fun t => { t with swIn := vset t.swIn 2 [k, k] })
/-- The hypotheses of a clause of SwitchResults can be met. -/
theorem witness_switch_results_4 :
    (wordIllegal s.tile (.swaitm (3#30 <<< 24) 0 2 3) = false ∧ s.tile.sw.rem = 0 ∧ s.tile.emq.length < 8 ∧ (∃ b ∈ branches (3#30 <<< 24), b.2 = 2) ∧ s.tile.fifo 2 = k :: [k] ∧ Routable s (.swaitm (3#30 <<< 24) 0 2 3)) :=
  by delta Routable; decide
end WSwitchResults4

namespace WSwitchResults5
def k : Token := { payload := 5, res := 5 }
def s : State := onTile State.reset (fun t => { t with swIn := vset t.swIn 2 [k, k] })
/-- The hypotheses of a clause of SwitchResults can be met. -/
theorem witness_switch_results_5 :
    (wordIllegal s.tile (.smcast (3#30 <<< 24) 2) = false ∧ branches (3#30 <<< 24) = [(8, 2)] ∧ SoundHead s 2 k [k] ∧ branchRoom s (8, 2) = true ∧ s.tile.sw.moved = [] ∧ s.tile.sw.movedBy 8 < 2) :=
  by delta SoundHead; decide
end WSwitchResults5

namespace WSwitchResults6
def k : Token := { payload := 5, res := 5 }
def s : State := onTile State.reset (fun t => { t with swIn := vset t.swIn 2 [k, k] })
/-- The hypotheses of a clause of SwitchResults can be met. -/
theorem witness_switch_results_6 :
    (SoundHead s 2 k [k] ∧ farInput s.tile.id 1 = some (1, 3) ∧ crossesField s.tile.id (1 % 4) = false ∧ s.deadLinks.contains (s.tile.id * 8 + 1) = false ∧ sealed s 1 = false) :=
  by delta SoundHead; decide
end WSwitchResults6

namespace WSwitchResults7
def k : Token := { payload := 5, res := 6 }
def s : State := onTile State.reset (fun t => { t with swIn := vset t.swIn 2 [k] })
/-- The hypotheses of a clause of SwitchResults can be met. -/
theorem witness_switch_results_7 :
    (s.tile.fifo 2 = k :: [] ∧ residueOf k.payload ≠ k.res) :=
  by decide
end WSwitchResults7

namespace WSwitchResults8
def s : State := onTile State.reset (fun t => { t with id := 0 })
/-- The hypotheses of a clause of SwitchResults can be met. -/
theorem witness_switch_results_8 :
    (wordIllegal s.tile (.route (1#30 <<< (3 * 3)) 0) = true) :=
  by decide
end WSwitchResults8

namespace WSwitchResults9
def s : State := { State.reset with time := 3 }
/-- The hypotheses of a clause of SwitchResults can be met. -/
theorem witness_switch_results_9 :
    (wordIllegal s.tile (.route (3#30 <<< 24) 0) = false ∧ (∃ b ∈ branches (3#30 <<< 24), s.tile.fifo b.2 = [] ∨ branchRoom s b = false)) :=
  by decide
end WSwitchResults9

namespace WSwitchResults10
def k : Token := { payload := 5, res := 5 }
def sel : BitVec 30 := (3#30 <<< 24) ||| (3#30 <<< 3)
def s : State := onTile State.reset (fun t => { t with swIn := vset t.swIn 2 [k, k] })
/-- The hypotheses of a clause of SwitchResults can be met. -/
theorem witness_switch_results_10 :
    (wordIllegal s.tile (.smcast sel 2) = false ∧ branches sel = [(1, 2), (8 + 2 / 4, 2)] ∧ farInput s.tile.id 1 = some (1, 3) ∧ crossesField s.tile.id (1 % 4) = false ∧
      s.deadLinks.contains (s.tile.id * 8 + 1) = false ∧ sealed s 1 = false ∧ 1 ≠ s.tile.id ∧ s.tile.sw.moved = [] ∧ s.tile.sw.movedBy 1 < 2) ∧
    (∀ k ∈ s.tile.fifo 2, residueOf k.payload = k.res ∧ k.route = s.tile.routeId) :=
  ⟨by decide, by decide⟩
end WSwitchResults10

namespace WSwitchResults11
def k : Token := { kind := .marker, payload := 5, level := 3 }
def s : State := onTile State.reset (fun t => { t with swIn := vset t.swIn 2 [k] })
/-- The hypotheses of a clause of SwitchResults can be met. -/
theorem witness_switch_results_11 :
    (wordIllegal s.tile (.swaitm 0 0 2 3) = false ∧ s.tile.sw.rem = 0 ∧ s.tile.emq.length < 8 ∧ branches 0 = [] ∧ s.tile.fifo 2 = k :: [] ∧ residueOf k.payload ≠ k.res) :=
  by decide
end WSwitchResults11

namespace WPlacementSteps1
def r : List Word := [0x101, 0x100000011, 0, 0, 0, 0, 0, 0, 0, 1] ++ List.replicate 22 0
def bad : List Word := 0x102 :: r.drop 1
def at_ (w : List Word) (n : Nat) : State :=
  { updField launchable 0 (fun f => { f with windows := [(3, [(0, (List.range 32).zip w)])], queues := [(3, List.replicate n { words := r })] }) with arg := [0, 3] }
/-- The hypotheses of a clause of PlacementSteps can be met. -/
theorem witness_placement_steps_1 :
    ((at_ r 0).arg = [0, 3] ∧ smGet 0 (getField (at_ r 0) 0).windowNext 3 = 0 ∧ fullSlot (at_ r 0) 0 3 = some r ∧ recordBad (noteScope (at_ r 0) 0 (recScope r)) 0 r = none ∧ (queueOf (at_ r 0) 0 3).length < 64) ∧
    (fullSlot (at_ r 64) 0 3 = some r ∧ 64 ≤ (queueOf (at_ r 64) 0 3).length) ∧
    (fullSlot (at_ bad 0) 0 3 = some bad ∧ (recordBad (noteScope (at_ bad 0) 0 (recScope bad)) 0 bad).isSome = true) :=
  ⟨by decide +kernel, by decide +kernel, by decide +kernel⟩
end WPlacementSteps1

namespace WPlacementSteps2
def r : List Word := [0x2000101, 0x100000011, 0, 0, 0, 0, 0, 0, 0, 1, 0, 0, 0, 0x8000, 7, 0x9000, 9] ++ List.replicate 15 0
def h : QRec := { words := r, aging := 4 }
def at_ (w : Word) : State := { writeD (updField launchable 0 (fun f => { f with queues := [(3, [h])] })) 0x8000 w with arg := [0, 3, 0] }
/-- The hypotheses of a clause of PlacementSteps can be met. -/
theorem witness_placement_steps_2 :
    ((at_ 7).arg = [0, 3, 0] ∧ queueOf (at_ 7) 0 3 = h :: [] ∧ 0 < recNdep h.words ∧ 0 ∉ h.deps) ∧
    ((match partReadD (at_ 7) 0 (recD h.words (0x68 + 16 * 0)) .user with | .ok (w, _) => w == 7#64 && decide ((recD h.words (0x70 + 16 * 0)).toNat ≤ w.toNat) | .error _ => false) = true) ∧
    ((match partReadD (at_ 6) 0 (recD h.words (0x68 + 16 * 0)) .user with | .ok (w, _) => decide (w.toNat < (recD h.words (0x70 + 16 * 0)).toNat) | .error _ => false) = true) :=
  ⟨by decide +kernel, by decide +kernel, by decide +kernel⟩
end WPlacementSteps2

namespace WPlacementSteps3
def r : List Word := [0x101, 0x100000011, 0, 0, 0, 0, 0, 0, 0, 1] ++ List.replicate 22 0
def at_ (w : List Word) : State := { updField launchable 0 (fun f => { f with queues := [(3, [{ words := w, aging := 6 }])] }) with arg := [0, 3] }
def dep : List Word := 0x2000101 :: r.drop 1
/-- The hypotheses of a clause of PlacementSteps can be met. -/
theorem witness_placement_steps_3 :
    ((at_ r).arg = [0, 3] ∧ queueOf (at_ r) 0 3 = { words := r, aging := 6 } :: [] ∧ headMet (at_ r) 0 { words := r, aging := 6 } = true) ∧
    ((at_ dep).arg = [0, 3] ∧ queueOf (at_ dep) 0 3 = { words := dep, aging := 6 } :: [] ∧ headMet (at_ dep) 0 { words := dep, aging := 6 } = false) :=
  ⟨by decide +kernel, by decide +kernel⟩
end WPlacementSteps3

namespace WPlacementSteps4
def r : List Word := [0x101, 0x100000011, 0, 0, 0, 0, 0, 0, 0, 1] ++ List.replicate 22 0
def h : QRec := { words := r, aging := 7, agingStart := some 2 }
def s : State := { imaged (updField launchable 0 (fun f => { f with queues := [(3, [h])] })) with arg := [0] }
def s1 : State := updField s 0 (fun f => { f with queues := [] })
def s2 : State := updField s 0 (fun f => { f with resetState := 1 })
def v (s : State) : State := takeHolds (headReads (stampHeads (dropHeads s 0) 0) 0) 0
/-- The hypotheses of a clause of PlacementSteps can be met. -/
theorem witness_placement_steps_4 :
    (s.arg = [0] ∧ takesLaunches s 0 = true) ∧
    ((match select (v s) 0 with | (some q, u) => q == 3 && (match queueOf u 0 3 with | [a] => findPlace u 0 3 a.words == some [[0]] | _ => false) | _ => false) = true) ∧
    (s1.arg = [0] ∧ takesLaunches s1 0 = true ∧ (select (v s1) 0).1 = none) ∧
    (s2.arg = [0] ∧ takesLaunches s2 0 = false) :=
  ⟨by decide +kernel, by decide +kernel, by decide +kernel, by decide +kernel⟩
end WPlacementSteps4

namespace WPlacementSteps5
def r : List Word := [0x101, 0x100000011, 0, 0, 0, 0, 0, 0, 0, 1] ++ List.replicate 22 0
def h : QRec := { words := r, aging := 7 }
def s : State := { imaged (updField launchable 0 (fun f => { f with queues := [(3, [h])], holds := [(3, [5])] })) with arg := [0, 3] }
def b : State := updTile s 5 (fun t => { t with launch := 9 })
/-- The hypotheses of a clause of PlacementSteps can be met. -/
theorem witness_placement_steps_5 :
    (s.arg = [0, 3] ∧ smFind (getField s 0).holds 3 = some [5] ∧ queueOf s 0 3 = h :: [] ∧ takesLaunches s 0 = true ∧ [5].all (tileFree s) = true) ∧
    (claimsFree s ((partOfField s 0).getD 64) h.words [5] = true) ∧
    (b.arg = [0, 3] ∧ smFind (getField b 0).holds 3 = some [5] ∧ queueOf b 0 3 = h :: [] ∧ tileFree b 5 = false) :=
  ⟨by decide +kernel, by decide +kernel, by decide +kernel⟩
end WPlacementSteps5

namespace WPlacementSteps6
def r : List Word := [0x101, 0x100000011, 0, 0, 0, 0, 0, 0, 0, 1] ++ List.replicate 22 0
def h : QRec := { words := r, vf := 7 }
def s : State := { imaged (updField launchable 0 (fun f => { f with queues := [(3, [h])] })) with arg := [0] }
def m : List Word × State := moduleRead s 0 (recModule h.words)
/-- The hypotheses of a clause of PlacementSteps can be met. -/
theorem witness_placement_steps_6 :
    (moduleState m.1 = 2) ∧
    ((match loadImages s 0 h.words [(0, 0, 5)] with | .ok l => l.length == 1 | .error _ => false) = true) ∧
    ((allocTasks ((partOfField s 0).getD 64) 0 (recScope h.words) [] 1 (popHead m.2 0 3)).1 = some ([1], [1#16])) :=
  ⟨by decide +kernel, by decide +kernel, by decide +kernel⟩
end WPlacementSteps6

namespace WPlacementSteps7
def r : List Word := [0x101, 0x100000011, 0, 0, 0, 0, 0, 0, 0, 1] ++ List.replicate 22 0
def h : QRec := { words := r, vf := 7 }
def s0 : State := { imaged (updField launchable 0 (fun f => { f with queues := [(3, [h])] })) with arg := [0] }
def p : State := { place s0 0 3 h [[0]] with arg := [s0.nextLaunch] }
def id : Nat := s0.nextLaunch
/-- The hypotheses of a clause of PlacementSteps can be met. -/
theorem witness_placement_steps_7 :
    ((p.arg == [id] && (getLaunch p id).live && (getLaunch p id).placed && !(launchCancelled p (getLaunch p id)) && p.tile.launch == id && (getLaunch p id).threads == [0] && (getLaunch p id).swapped == [] && swapReady p id p.tile.id) = true) ∧
    ((match swapTiles id ((getLaunch p id).tiles.filter (swapReady p id)) p with | .ok u => u.tile.run == .running | .error _ => false) = true) ∧
    ((match swapTile p id p.tile.id with | .ok u => u.tile.run == .running | .error _ => false) = true) :=
  ⟨by decide +kernel, by decide +kernel, by decide +kernel⟩
end WPlacementSteps7

namespace WPlacementSteps8
def r : List Word := [0x101, 0x100000011, 0, 0, 0, 0, 0, 0, 0, 1] ++ List.replicate 22 0

def h (a : Nat) (b : Option Nat) : QRec := { words := r, aging := a, agingStart := b }
def hi : QRec := { words := (0x101 ||| 0x3000) :: r.drop 1 }
def at_ (x y : QRec) : State := { imaged (updField launchable 0 (fun f => { f with queues := [(3, [x]), (5, [y])] })) with arg := [0] }
def one : State := { imaged (updField launchable 0 (fun f => { f with queues := [(3, [h 7 (some 2)])] })) with arg := [0] }
def elig (u : State) (x : Nat) (k : QRec) : Bool := headMet u 0 k && k.late.isNone && scopeLive u 0 (recScope k.words) && (findPlace u 0 x k.words).isSome
def ready (v : State) (x y : QRec) : Bool :=
  headWaits v 0 && (match freeScope v ((partOfField v 0).getD 64) 0 with
    | (some _, u) => (getField u 0).queues == [(3, [x]), (5, [y])] && elig u 3 x && elig u 5 y | _ => false)
/-- The hypotheses of a clause of PlacementSteps can be met. -/
theorem witness_placement_steps_8 :
    ((headWaits one 0 && (match freeScope one ((partOfField one 0).getD 64) 0 with | (some _, u) => (getField u 0).queues == [(3, [h 7 (some 2)])] && elig u 3 (h 7 (some 2)) | _ => false)) = true) ∧
    (isAged (h 7 (some 2)) = true ∧ isAged (h 0 none) = false) ∧
    (ready (at_ (h 7 (some 2)) (h 7 (some 3))) (h 7 (some 2)) (h 7 (some 3)) = true) ∧
    (ready (at_ (h 7 (some 3)) (h 7 (some 2))) (h 7 (some 3)) (h 7 (some 2)) = true) ∧
    (ready (at_ (h 7 (some 2)) (h 0 none)) (h 7 (some 2)) (h 0 none) = true) ∧
    (ready (at_ hi (h 0 none)) hi (h 0 none) = true ∧ isAged hi = false ∧ effPrio (h 0 none) < effPrio hi) ∧
    (ready (at_ (h 0 none) hi) (h 0 none) hi = true) :=
  ⟨by decide +kernel, by decide +kernel, by decide +kernel, by decide +kernel, by decide +kernel, by decide +kernel, by decide +kernel⟩
end WPlacementSteps8

namespace WPlacementSteps9
def r : List Word := [0x101, 0x100000011, 0, 0, 0, 0, 0, 0, 0, 1] ++ List.replicate 22 0
def rf : List Word := [0x101 ||| 0x8000, 0x100000011, 0, 0, 0, 0, 0, 0, 0, 1] ++ List.replicate 22 0
def at_ (w : List Word) : State :=
  updTile { State.reset with launches := [(4, { words := w, tiles := [0], live := true, placed := true })] } 0
    (fun t => { t with launch := 4, shadow := some [1], swIn := vset t.swIn 0 [errToken t] })
/-- The hypotheses of a clause of PlacementSteps can be met. -/
theorem witness_placement_steps_9 :
    ((getTile (at_ r) 0).shadow = some [1] ∧ (getTile (at_ r) 0).inq ≠ 0 ∧ recFollow (getLaunch (at_ r) 4).words = false) ∧
    ((getTile (at_ rf) 0).shadow = some [1] ∧ (getTile (at_ rf) 0).inq ≠ 0 ∧ recFollow (getLaunch (at_ rf) 4).words = true) :=
  ⟨by decide +kernel, by decide +kernel⟩
end WPlacementSteps9

namespace WTaskEndSteps1
def s : State := onTile { parted with launches := [(3, { placed := true, threads := [0] })] } (fun t => { t with run := .exited, sw := { t.sw with st := .halted }, launch := 3, cfgTag := 9, inbox := [{ chan := 1 }, { chan := 2 }], bankToken := vset (vset t.bankToken 5 9) 6 8, touch := [1] })
/-- The hypotheses of a clause of TaskEndSteps can be met. -/
theorem witness_task_end_steps_1 :
    (mayRetire s.tile = true ∧ s.tile.follow = none) :=
  by decide +kernel
end WTaskEndSteps1

namespace WTaskEndSteps2
def s : State := onTile { parted with launches := [(3, { placed := true, threads := [0] })] } (fun t => { t with run := .exited, sw := { t.sw with st := .halted }, launch := 3, follow := some 4 })
/-- The hypotheses of a clause of TaskEndSteps can be met. -/
theorem witness_task_end_steps_2 :
    (mayRetire s.tile = true ∧ s.tile.follow = some 4 ∧ mayRetire { s.tile with sw := { s.tile.sw with st := .running } } = false ∧ s.tile.run = .exited) :=
  by decide
end WTaskEndSteps2

namespace WTaskEndSteps3
def r : List Word := [0x101, 0x100000011, 0, 0, 0, 0, 0, 0, 0, 1, 0, 0x8000, 0x9000] ++ List.replicate 19 0
def s : State := { launchable with arg := [3], launches := [(3, { words := r, placed := true, threads := [5], tiles := [5], scopes := [5], tags := [7], code := 5, faultVa := 77, faultInfo := 78, detail := 9 })] }
def w : State := updTile s 5 (fun t => { t with copies := [(32, { launch := 3 })] })
/-- The hypotheses of a clause of TaskEndSteps can be met. -/
theorem witness_task_end_steps_3 :
    (s.arg = [3] ∧ (getLaunch s 3).live = true ∧ (getLaunch s 3).placed = true) ∧
    (launchDone s 3 = true) ∧
    (w.arg = [3] ∧ (getLaunch w 3).live = true ∧ (getLaunch w 3).placed = true ∧ threadsDone w 3 = true ∧ workLeft w 3 = true) ∧
    ((match partWriteWords s 0 (recD r 0x60) .user [at_ 32 9 ||| at_ 16 5 ||| at_ 0 5, 1, 77, 78] with | .ok u => (match partIncrement u 0 (recD r 0x58) .user with | .ok v => (complete s 0 r 5 9 5 1 77 78).mem == v.mem | .error _ => false) | .error _ => false) = true) :=
  ⟨by decide +kernel, by decide +kernel, by decide +kernel, by decide +kernel⟩
end WTaskEndSteps3

namespace WTaskEndSteps4
def s : State := { writeD launchable 0x600050 (at_ 32 7 ||| at_ 16 1) with arg := [0, 5] }
/-- The same with scope 6 live under scope 5. -/
def kid : State := writeD (updPart s 0 (fun p => { p with scopes := [5, 6] })) 0x600060 (at_ 16 1 ||| 5)
/-- The same with no scope table that can be reached. -/
def lost : State := updField s 0 (fun f => { f with scopeBase := 0xFFFFFF0000001 })
/-- The hypotheses of a clause of TaskEndSteps can be met. -/
theorem witness_task_end_steps_4 :
    (s.arg = [0, 5] ∧ (partFields s 0).headD 0 = 0 ∧ 5 ∈ (getPart s 0).scopes ∧ s.launches.length = 0 ∧ (getPart s 0).scopes.filter (· ≠ 5) = []) ∧
    ((match scopeGet s 0 (scopeVa s 0 5) with | (.ok st, v) => (match scopePut v 0 (scopeVa s 0 5) (st &&& ~~~0x10000#64) with | (.ok _, w) => (match scopePut w 0 (scopeVa s 0 5 + 8) (at_ 0 (field st 63 32)) with | (.ok _, _) => true | _ => false) | _ => false) | _ => false) = true) ∧
    (kid.arg = [0, 5] ∧ (getPart kid 0).scopes.filter (· ≠ 5) = [6] ∧ (childLeft 0 5 [6] kid).1 = true) ∧
    ((match scopeGet kid 0 (scopeVa kid 0 6) with | (.ok st, _) => field st 15 0 == 5 && field st 15 0 != 7 | _ => false) = true) ∧
    ((match scopeGet lost 0 (scopeVa lost 0 5) with | (.error (some _), _) => true | _ => false) = true) ∧
    (partHeld s 0 (scopeVa s 0 5) = false ∧ (match partReadD s 0 (scopeVa s 0 5), partWriteD s 0 (scopeVa s 0 5) 1 with | .ok _, .ok _ => true | _, _ => false) = true) :=
  ⟨by decide +kernel, by decide +kernel, by decide +kernel, by decide +kernel, by decide +kernel, by decide +kernel⟩
end WTaskEndSteps4

namespace WTaskEndSteps5
def s : State := onTile { parted with launches := [(3, { placed := true, threads := [0] })] } (fun t => { t with cancelled := true, launch := 3, inbox := [{ chan := 1 }] , sendQ := [{ dest := 1 }], longBuf := [{ op := .load 8 false 0, res := .ack, returned := true }] })
/-- The hypotheses of a clause of TaskEndSteps can be met. -/
theorem witness_task_end_steps_5 :
    (s.tile.cancelled = true ∧ s.tile.cutOf = none ∧ s.tile.killPoint = true ∧ s.tile.run ≠ .retired ∧ s.tile.run ≠ .killed ∧ s.tile.launch ≠ 0 ∧ s.tile.barRec = []) :=
  by decide
end WTaskEndSteps5

namespace WTaskEndSteps6
def s : State := onTile { mapped with launches := [(3, { placed := true, threads := [0] })] } (fun t => { t with cancelled := true, launch := 3, barRec := [(0x10000, 0)] })
/-- The hypotheses of a clause of TaskEndSteps can be met. -/
theorem witness_task_end_steps_6 :
    (s.tile.cancelled = true ∧ s.tile.cutOf = none ∧ s.tile.killPoint = true ∧ s.tile.run ≠ .retired ∧ s.tile.run ≠ .killed ∧ s.tile.launch ≠ 0 ∧ s.tile.barRec = [(0x10000, 0)]) :=
  by decide
end WTaskEndSteps6

namespace WTaskEndSteps7
def s : State := onTile parted (fun t => { t with cancelled := true, launch := 3, wait := some .park, run := .running })
/-- The hypotheses of a clause of TaskEndSteps can be met. -/
theorem witness_task_end_steps_7 :
    (s.tile.cancelled = true ∧ s.tile.launch ≠ 0 ∧ s.tile.run ≠ .retired ∧ s.tile.run ≠ .killed ∧ s.tile.killPoint = false) :=
  by decide
end WTaskEndSteps7

namespace WTaskEndSteps8
def s : State := { onTile { parted with launches := [(3, { placed := true, threads := [0] })] } (fun t => { t with launch := 3, cfgTag := 9, bankToken := vset t.bankToken 2 9, inbox := [{ chan := 1 }] }) with arg := [0] }
def k : State := { onTile s (fun t => { t with run := .killed }) with arg := [1] }
/-- The hypotheses of a clause of TaskEndSteps can be met. -/
theorem witness_task_end_steps_8 :
    (s.arg = [0] ∧ s.tile.run ≠ .killed ∧ s.tile.barRec = []) ∧
    (k.arg = [1] ∧ k.tile.run = .killed ∧ k.tile.launch ≠ 0 ∧ (getLaunch k k.tile.launch).live = true) :=
  ⟨by decide +kernel, by decide +kernel⟩
end WTaskEndSteps8

namespace WTaskEndSteps9
def s : State := onTile { parted with cuts := [(1, { tiles := [0] })] } (fun t => { t with cutOf := some 1 })
/-- The hypotheses of a clause of TaskEndSteps can be met. -/
theorem witness_task_end_steps_9 :
    (s.tile.cutOf.isSome = true ∧ s.tile.cutMarked = false ∧ s.tile.killPoint = true ∧ s.tile.longBuf = []) :=
  by decide
end WTaskEndSteps9

namespace WTaskEndSteps10
def s : State := { onTile { mapped with cuts := [(1, { tiles := [0], image := 0x800000, done := 0x9000, incr := true })] } (fun t => { t with cutOf := some 1, cutMarked := true, tileSplit := 0, imageOf := 0x800000 }) with arg := [1] }
def c : Cut := smGet {} s.cuts 1
/-- The same with an image that no page maps. -/
def c1 : Cut := { c with image := 0x40000000 }
def lost : State := { s with cuts := [(1, c1)] }
/-- The hypotheses of a clause of TaskEndSteps can be met. -/
theorem witness_task_end_steps_10 :
    (s.tile.cutOf = some 1 ∧ s.tile.id ∉ c.saved ∧ c.launch = 0 ∧ ({ c with launch := 7 } : Cut).launch ≠ 0) ∧
    (readyToSave { s with tile := { s.tile with cutMarked := false } } { s.tile with cutMarked := false } = false) ∧
    (readyToSave s s.tile = true ∧ readyToSave lost lost.tile = true) ∧
    ((match (saveTile 1 c s.tile.unstage).run.run (onTile s Tile.unstage) with | (.ok _, _) => true | _ => false) = true) ∧
    ((match (saveTile 1 c1 s.tile.unstage).run.run (onTile lost Tile.unstage) with | (.error _, _) => true | _ => false) = true) ∧
    ((match (imageLoad c.asTile (c.image + 8)).run.run s with
      | (.ok seq, s1) => seq == 0 && (match (saveRecord c.asTile s.tile (32 * 1) (recordVa c.image (c.tiles.findIdx (· == s.tile.id))) (seq + 1)
          (!(c.incr && s.tile.imageOf == c.image && s.tile.imageOf != 0 && s.tile.seq == seq))).run.run s1 with | (.ok _, _) => true | _ => false)
      | _ => false) = true) :=
  ⟨by decide +kernel, by decide +kernel, by decide +kernel, by decide +kernel, by decide +kernel, by decide +kernel⟩
end WTaskEndSteps10

namespace WTaskEndSteps11
def s : State := { onTile { mapped with cuts := [(1, { tiles := [0], saved := [0], image := 0x800000, done := 0x9000 })] } (fun t => { t with cutOf := some 1, cutMarked := true, launch := 3, x := vset t.x 5 99 }) with arg := [1] }
def c : Cut := smGet {} s.cuts 1
def c1 : Cut := { c with image := 0x40000000 }
def lost : State := { s with cuts := [(1, c1)] }
/-- The hypotheses of a clause of TaskEndSteps can be met. -/
theorem witness_task_end_steps_11 :
    (s.arg = [1] ∧ smFind s.cuts 1 = some c ∧ c.resume = false ∧ c.saved.length = c.tiles.length ∧ c.launch = 0 ∧ (getTile s 0).run ≠ .killed) ∧
    ((match (saveHeader 1 c).run.run s with | (.ok _, _) => true | _ => false) = true) ∧
    (smFind lost.cuts 1 = some c1 ∧ (match (saveHeader 1 c1).run.run lost with | (.error _, _) => true | _ => false) = true) ∧
    ((smGet {} ({ s with cuts := [(4, {})] } : State).cuts 4).tiles = [] ∧ (smGet {} ({ s with cuts := [(4, {})] } : State).cuts 4).launch = 0) :=
  ⟨by decide +kernel, by decide +kernel, by decide +kernel, by decide +kernel⟩
end WTaskEndSteps11

namespace WTaskEndSteps13
def s : State := onTile parted (fun t => { t with cutOf := some 1, cfgTag := 5 })
/-- The hypotheses of clauses of TaskEndSteps can be met. -/
theorem witness_task_end_steps_13 :
    (s.tile.cutOf.isSome = true ∧ (2 : Nat) < 8 ∧ 4095 ≠ s.tile.routeId ∧ (vget s.tile.swIn 2 []).length < 4) :=
  by decide
end WTaskEndSteps13

namespace WTaskEndSteps12
def c : Cut := { image := 0x40000000, done := 0xA000, resume := true }
def s : State := { mapped with cuts := [(2, c)], arg := [2] }
def g : State := { s with cuts := smErase s.cuts 2 }
/-- The hypotheses of a clause of TaskEndSteps can be met. -/
theorem witness_task_end_steps_12 :
    (s.arg = [2] ∧ smFind s.cuts 2 = some c ∧ c.resume = true) ∧
    ((match (resumeRegion c).run.run g with | (.error (some _), _) => true | _ => false) = true) ∧
    (sealed s 0 = false) ∧
    ((match (imageStore 0 0xA000 (at_ 32 0 ||| at_ 0 5)).run.run s with | (.ok _, _) => true | _ => false) = true) ∧
    ((match (imageStore 0 0x40000000 (at_ 32 0 ||| at_ 0 5)).run.run s with | (.error (some _), _) => true | _ => false) = true) :=
  ⟨by decide +kernel, by decide +kernel, by decide +kernel, by decide +kernel, by decide +kernel⟩
end WTaskEndSteps12

namespace WTaskEndSteps14
def c : Cut := { image := 0x800000, done := 0xA000, resume := true }
def hdr (w : Word) : State := { writeD mapped 0x800000 w with cuts := [(2, c)], arg := [2] }
def good : State := hdr (at_ 32 1 ||| 1)
def bad : State := hdr (at_ 32 1 ||| 2)
/-- An image of no record at all. -/
def none_ : State := hdr 1
def busy : State := updTile good 0 (fun t => { t with cutOf := some 9 })
def g (s : State) : State := { s with cuts := smErase s.cuts 2 }
/-- The header and the map that a resume reads, and the machine after it. -/
def read (s : State) : Option (List Word × List Word × State) :=
  match (imageLoads c.asTile c.image 8).run.run (g s) with
  | (.ok h, u) => (match (imageLoads c.asTile (c.image + 64) (field (imgD h 0) 63 32)).run.run u with
    | (.ok map, v) => some (h, map, v)
    | _ => none)
  | _ => none
/-- The hypotheses of a clause of TaskEndSteps can be met. -/
theorem witness_task_end_steps_14 :
    ((match read good with | some (h, map, v) => map == [0] && (getTile v 0).cutOf.isNone && !headerBad v c h map | none => false) = true) ∧
    ((match read none_ with | some (h, map, v) => map == [] && !headerBad v c h map && (match (loadAll c ((List.range (field (imgD h 0) 63 32)).zip map)).run.run v with | (.ok ts, _) => ts == [] | _ => false) | none => false) = true) ∧
    ((match read bad with | some (h, map, v) => map == [0] && (getTile v 0).cutOf.isNone && headerBad v c h map | none => false) = true) ∧
    ((match read busy with | some (_, map, v) => map == [0] && (getTile v 0).cutOf.isSome | none => false) = true) ∧
    ((match (resumeRegion c).run.run (g none_), (resumeRegion c).run.run (g bad) with | (.ok (.ok _), _), (.ok (.error _), _) => true | _, _ => false) = true) :=
  ⟨by decide +kernel, by decide +kernel, by decide +kernel, by decide +kernel, by decide +kernel⟩
end WTaskEndSteps14

namespace WFieldLoaderSteps1
def s : State := { updField parted 0 (fun f => { f with resetState := 1, inc := 65535, queues := [(1, [{}])], holds := [(1, [3])], supQ := [(1, 2)] }) with arg := [0] }
/-- The hypotheses of a clause of FieldLoaderSteps can be met. -/
theorem witness_field_loader_steps_1 :
    (s.arg = [0] ∧ s.cuts.length = 0 ∧ (getField s 0).resetState = 1) :=
  by decide
end WFieldLoaderSteps1

namespace WFieldLoaderSteps2
def s : State := { updField { parted with presentFields := 1 } 0 (fun f => { f with resetState := 2, inc := 5, incTable := [(0, 5)] }) with arg := [0] }
def t : State := updField s 0 (fun f => { f with incTable := [(0, 4)] })
/-- The hypotheses of a clause of FieldLoaderSteps can be met. -/
theorem witness_field_loader_steps_2 :
    (s.arg = [0] ∧ (getField s 0).resetState = 2 ∧ (∀ g ∈ List.range 48, fieldPresent s g = true → smGet 0 (getField s g).incTable 0 = (getField s 0).inc)) ∧
    (t.arg = [0] ∧ (getField t 0).resetState = 2 ∧ fieldPresent t 0 = true ∧ smGet 0 (getField t 0).incTable 0 ≠ (getField t 0).inc) :=
  ⟨by decide +kernel, by decide +kernel⟩
end WFieldLoaderSteps2

namespace WFieldLoaderSteps3
def at_ (on : Bool) : State := { updVf parted 7 (fun v => { v with loadBusy := true, en := on, part := 0, loadReq := [(0, 1), (3, 0x8000)] }) with arg := [7] }
/-- The hypotheses of a clause of FieldLoaderSteps can be met. -/
theorem witness_field_loader_steps_3 :
    ((at_ true).arg = [7] ∧ (getVf (at_ true) 7).loadBusy = true ∧ (getVf (at_ true) 7).en = true) ∧
    ((at_ false).arg = [7] ∧ (getVf (at_ false) 7).loadBusy = true ∧ (getVf (at_ false) 7).en = false) :=
  ⟨by decide +kernel, by decide +kernel⟩
end WFieldLoaderSteps3

namespace WFieldLoaderSteps4
def j : LoadJob := { vf := 7, words := [1, 0, 0, 0x8000, 0x9000, 0, 0, 0], index := 2 }
def s : State := updPart (updVf modular 7 (fun v => { v with loadBusy := true })) 0 (fun p => { p with loads := [j, j] })
/-- The hypotheses of a clause of FieldLoaderSteps can be met. -/
theorem witness_field_loader_steps_4 :
    (jobField s 0 = 0 ∧ (reqD j 0x20).toNat % 16 = 0 ∧ reqD j 0x18 ≠ 0) ∧
    ((match partWriteWords s 0 (reqD j 0x20) .user [at_ 32 5 ||| at_ 8 2 ||| at_ 0 3, BitVec.ofNat 64 (field ((moduleEntry s 0 2).headD 0) 63 32)] with | .ok u => (match partIncrement u 0 (reqD j 0x18) .user with | .ok v => (endJob s 0 j 3 5).mem == v.mem | .error _ => false) | .error _ => false) = true) :=
  ⟨by decide +kernel, by decide +kernel⟩
end WFieldLoaderSteps4

namespace WFieldLoaderSteps5
def j : LoadJob := { vf := 7, words := [0x31, 0x20000, 0, 0x8000, 0x9000, 0, 0, 0] }
def r (s : State) : State := updJob s 0 (fun a => { a with pages := a.pages ++ [] })
def k : LoadJob := { j with pages := j.pages ++ [] }
def s : State := { updPart modular 0 (fun p => { p with loads := [j] }) with arg := [0] }
/-- The same while the firmware of the field is updated. -/
def late : State := updField s 0 (fun f => { f with updating := some 1 })
/-- A request that reads the scratch of a tile that a cut has stopped. -/
def jh : LoadJob := { vf := 7, words := [0x20001, 0xFF80000000000000, 0, 0x8000, 0x9000, 0, 0, 0] }
def held : State := onTile { updPart modular 0 (fun p => { p with loads := [jh] }) with arg := [0] } (fun t => { t with cutOf := some 1, cutMarked := true })
/-- The hypotheses of a clause of FieldLoaderSteps can be met. -/
theorem witness_field_loader_steps_5 :
    (s.arg = [0] ∧ jobOf s 0 = some j ∧ reqOp j ≠ 3 ∧ (getField s (jobField s 0)).updating = none ∧ j.stage = 0) ∧
    (jobHeld (r s) (jobField (r s) 0) k = false ∧ jobRefused (r s) 0 k = some 2) ∧
    (late.arg = [0] ∧ jobOf late 0 = some j ∧ (getField late (jobField late 0)).updating.isSome = true) ∧
    (held.arg = [0] ∧ jobOf held 0 = some jh ∧ reqOp jh ≠ 3 ∧ (getField held (jobField held 0)).updating = none ∧ jobHeld (r held) (jobField (r held) 0) { jh with pages := jh.pages ++ [] } = true) :=
  ⟨by decide +kernel, by decide +kernel, by decide +kernel, by decide +kernel⟩
end WFieldLoaderSteps5

namespace WFieldLoaderSteps6
def j : LoadJob := { vf := 7, words := [0x11, 0x20000, 0, 0x8000, 0x9000, 0, 0, 0] }
def r (s : State) : State := updJob s 0 (fun a => { a with pages := a.pages ++ [] })
def k : LoadJob := { j with pages := j.pages ++ [] }
def s : State := { updPart (writeD modular 0x20000 2) 0 (fun p => { p with loads := [j] }) with arg := [0] }
/-- The hypotheses of a clause of FieldLoaderSteps can be met. -/
theorem witness_field_loader_steps_6 :
    (s.arg = [0] ∧ jobOf s 0 = some j ∧ reqOp j ≠ 3 ∧ (getField s (jobField s 0)).updating = none ∧ j.stage = 0) ∧
    (jobHeld (r s) (jobField (r s) 0) k = false ∧ jobRefused (r s) 0 k = none) ∧
    ((match checkLoad (r s) 0 (jobField (r s) 0) k with | (.error (c, d), _) => c == 3 && d == 0 | _ => false) = true) :=
  ⟨by decide +kernel, by decide +kernel, by decide +kernel⟩
end WFieldLoaderSteps6

namespace WFieldLoaderSteps7
def j : LoadJob := { vf := 7, words := [0x20001, 0x20000, 0, 0x8000, 0x9000, 0, 0, 0] }
def r (s : State) : State := updJob s 0 (fun a => { a with pages := a.pages ++ [] })
def k : LoadJob := { j with pages := j.pages ++ [] }
def s : State := { updPart (writeD (writeD (writeD modular 0x20000 0x10001) 0x20008 64) 0x20010 0x21000) 0 (fun p => { p with loads := [j] }) with arg := [0] }
/-- The hypotheses of a clause of FieldLoaderSteps can be met. -/
theorem witness_field_loader_steps_7 :
    (s.arg = [0] ∧ jobOf s 0 = some j ∧ reqOp j ≠ 3 ∧ (getField s (jobField s 0)).updating = none ∧ j.stage = 0) ∧
    (jobHeld (r s) (jobField (r s) 0) k = false ∧ jobRefused (r s) 0 k = none) ∧
    ((match checkLoad (r s) 0 (jobField (r s) 0) k with | (.ok m, _) => m.index == 2 | _ => false) = true) :=
  ⟨by decide +kernel, by decide +kernel, by decide +kernel⟩
end WFieldLoaderSteps7

namespace WFieldLoaderSteps8
def j : LoadJob := { vf := 7, words := [0x20001, 0x20000, 0, 0x8000, 0x9000, 0, 0, 0], stage := 1, index := 1, header := [1, 64, 0x21000, 0, 0, 0, 0, 0x22000] }
def r (s : State) : State := updJob s 0 (fun a => { a with pages := a.pages ++ [] })
def k : LoadJob := { j with pages := j.pages ++ [] }
def s : State := { updPart (writeD modular 0x21000 0x77) 0 (fun p => { p with loads := [j] }) with arg := [0] }
def pages (k : LoadJob) : Except (Option XErr) (List Nat) × State := loadPages (r s) 0 (jobField (r s) 0) k 0 k.pages (((imgD k.header 1).toNat + 4095) / 4096)
/-- The same for a segment that no page maps. -/
def lost : LoadJob := { k with header := [1, 64, 0x40000000, 0, 0, 0, 0, 0x22000] }
/-- The same for a data section that no page maps. -/
def lostData : LoadJob := { k with header := [1, 64, 0x21000, 0, 0, 0, 0, 0x40000000] }
/-- The same for a slot that no page maps, and none taken for it. -/
def more : LoadJob := { k with index := 9, pages := [] }
/-- The hypotheses of a clause of FieldLoaderSteps can be met. -/
theorem witness_field_loader_steps_8 :
    (s.arg = [0] ∧ jobOf s 0 = some j ∧ reqOp j ≠ 3 ∧ (getField s (jobField s 0)).updating = none ∧ j.stage = 1 ∧ reqOp j ≠ 2) ∧
    (jobHeld (r s) (jobField (r s) 0) k = false) ∧
    ((match pages k with | (.ok _, u) => (match (loadData u (jobField (r s) 0) k (imgD k.header 7) (2 ^ 32)).1 with | .ok _ => true | .error _ => false) | _ => false) = true) ∧
    ((match pages lostData with | (.ok _, u) => (match (loadData u (jobField (r s) 0) lostData (imgD lostData.header 7) (2 ^ 32)).1 with | .ok _ => false | .error _ => true) | _ => false) = true) ∧
    ((match pages lost with | (.error (some _), _) => true | _ => false) = true) ∧
    ((match pages more with | (.error none, _) => true | _ => false) = true) :=
  ⟨by decide +kernel, by decide +kernel, by decide +kernel, by decide +kernel, by decide +kernel, by decide +kernel⟩
end WFieldLoaderSteps8

namespace WFieldLoaderSteps9
def j : LoadJob := { vf := 7, words := [1, 0, 0, 0x8000, 0x9000, 0, 0, 0], index := 2 }
def at_ (n : Nat) : State := { updPart modular 0 (fun p => { p with loads := [{ j with stage := n }] }) with arg := [0] }
def ok (n : Nat) : Bool :=
  jobOf (at_ n) 0 == some { j with stage := n } && (getField (at_ n) (jobField (at_ n) 0)).updating.isNone &&
    !jobHeld (updJob (at_ n) 0 (fun a => { a with pages := a.pages ++ [] })) 0 { j with stage := n, pages := j.pages ++ [] }
/-- The hypotheses of a clause of FieldLoaderSteps can be met. -/
theorem witness_field_loader_steps_9 :
    ((at_ 4).arg = [0] ∧ reqOp j ≠ 3 ∧ jobField (updJob (at_ 4) 0 (fun a => { a with pages := a.pages ++ [] })) 0 = 0) ∧
    (ok 2 = true ∧ ok 3 = true ∧ ok 4 = true) :=
  ⟨by decide +kernel, by decide +kernel⟩
end WFieldLoaderSteps9

namespace WFieldLoaderSteps10
def j : LoadJob := { vf := 7, words := [0x10003, 0, 0, 0x8000, 0x9000, 0, 0, 0] }
def j2 : LoadJob := { vf := 7, words := [0x20003, 0, 0, 0x8000, 0x9000, 0, 0, 0] }
def at_ (j : LoadJob) : State := { updPart modular 0 (fun p => { p with loads := [j] }) with arg := [0] }
/-- The hypotheses of a clause of FieldLoaderSteps can be met. -/
theorem witness_field_loader_steps_10 :
    ((at_ j).arg = [0] ∧ jobField (at_ j) 0 = 0 ∧ jobOf (at_ j) 0 = some j ∧ reqOp j = 3 ∧ j.stage = 0 ∧ jobRefused (at_ j) 0 { j with index := field (reqD j 0) 27 16 } = none ∧ moduleState (moduleEntry (at_ j) 0 (field (reqD j 0) 27 16)) = 2) ∧
    (jobField (at_ j2) 0 = 0 ∧ jobOf (at_ j2) 0 = some j2 ∧ reqOp j2 = 3 ∧ j2.stage = 0 ∧ jobRefused (at_ j2) 0 { j2 with index := field (reqD j2 0) 27 16 } = none ∧ moduleState (moduleEntry (at_ j2) 0 (field (reqD j2 0) 27 16)) ≠ 2) :=
  ⟨by decide +kernel, by decide +kernel⟩
end WFieldLoaderSteps10

namespace WFieldLoaderSteps11
def j : LoadJob := { vf := 7, words := [0x10003, 0, 0, 0x8000, 0x9000, 0, 0, 0], stage := 1, index := 1, old := [2, 0x100] }
def s : State := { updPart modular 0 (fun p => { p with loads := [j] }) with arg := [0] }
def u : State := onTile s (fun t => { t with touch := [1] })
/-- The hypotheses of a clause of FieldLoaderSteps can be met. -/
theorem witness_field_loader_steps_11 :
    (s.arg = [0] ∧ jobField s 0 = 0 ∧ jobOf s 0 = some j ∧ reqOp j = 3 ∧ j.stage = 1 ∧ moduleReferenced s 0 j.index = false) ∧
    (u.arg = [0] ∧ jobField u 0 = 0 ∧ jobOf u 0 = some j ∧ moduleReferenced u 0 j.index = true) :=
  ⟨by decide +kernel, by decide +kernel⟩
end WFieldLoaderSteps11

namespace WFieldLoaderSteps12
def j : LoadJob := { words := [2], graph := [1, 2], stage := 1 }
def s : State := { updPart mapped 0 (fun p => { p with loads := [j] }) with arg := [0] }
/-- The hypotheses of a clause of FieldLoaderSteps can be met. -/
theorem witness_field_loader_steps_12 :
    (s.arg = [0] ∧ jobOf s 0 = some j ∧ reqOp j = 2 ∧ j.stage = 1 ∧ (getField s (jobField s 0)).updating = none ∧ jobHeld s (jobField s 0) j = false) ∧
    ((match loadPages s 0 0 j 0 j.pages (((imgD j.header 1).toNat + 4095) / 4096) with | (.ok _, _) => true | _ => false) = true) :=
  ⟨by decide +kernel, by decide +kernel⟩
end WFieldLoaderSteps12

namespace WCollectiveSteps1
def c : Coll := { words := [0, 0, 0x100, 2, 0, 0, 0, 0], nodes := [[(true, 1), (false, 1)], [(true, 2), (true, 3), (true, 4)]], leaves := [1, 2, 3, 4], outs := [(1, [(0, (7, 0)), (1, (7, 0))])] }
def at_ (c : Coll) (n e : Nat) : State := { parted with colls := [(5, c)], launches := [(5, { threads := [0, 9] })], arg := [5, n, e] }
/-- The machine when node `n` has combined element `e`, and the collective then. -/
def after (s : State) (c : Coll) (n e : Nat) : Coll × State :=
  let vs := ((c.nodes.getD n []).map (childValue s c e)).filterMap (fun x => x)
  let r := combineChildren c vs
  let d := if c.kind ∈ [0, 1, 4] ∧ n < c.nodes.length then
    { c with outs := smSet c.outs n (smSet (smGet [] c.outs n) e r.1), flags := c.flags ||| r.2.toNat / 16 } else c
  (d, { s with colls := smSet s.colls 5 d })
def base (c : Coll) (n e : Nat) : Bool :=
  (at_ c n e).arg == [5, n, e] && smFind (at_ c n e).colls 5 == some c && decide (e < c.count) && (getLaunch (at_ c n e) 5).code == 0 &&
    !(nodeTile (at_ c n e) 5 n).any (sealed (at_ c n e)) && (c.nodes.getD n []).all (fun h => (childValue (at_ c n e) c e h).isSome)
/-- The root's element, delivered or not. -/
def out (c : Coll) (e : Nat) : Option (State × Flags) := deliverElem (after (at_ c 0 e) c 0 e).2 (after (at_ c 0 e) c 0 e).1 e
def waits (c : Coll) (e : Nat) : Bool := awaitsFleet (after (at_ c 0 e) c 0 e).2 (after (at_ c 0 e) c 0 e).1 e
/-- A gather of which another module has a member, and a group that this module has no node of. -/
def away : Coll := { c with words := [3, 0, 0x100, 2, 0, 0, 0, 0], leaves := [1, 2 ^ 33 + 1] }
/-- A result that no scratch takes. -/
def far : Coll := { c with words := [0, 0, 0x10000000, 2, 0, 0, 0, 0] }
/-- The hypotheses of a clause of CollectiveSteps can be met. -/
theorem witness_collective_steps_1 :
    (base c 1 1 = true ∧ c.kind ∈ [0, 1, 4]) ∧
    ((c.nodes.getD 1 []).map (childValue (at_ c 1 1) c 1) = [(0#64, 0#64), (0, 0), (0, 0)].map some) ∧
    (base c 0 0 = true ∧ waits c 0 = false ∧ (out c 0).isSome = true ∧ 0 + 1 < c.count) ∧
    (base c 0 1 = true ∧ waits c 1 = false ∧ (out c 1).isSome = true ∧ 1 + 1 = c.count) ∧
    (base far 0 0 = true ∧ waits far 0 = false ∧ out far 0 = none) ∧
    (base away 0 0 = true ∧ away.kind ∉ [0, 1, 4] ∧ waits away 0 = true) :=
  ⟨by decide +kernel, by decide +kernel, by decide +kernel, by decide +kernel, by decide +kernel, by decide +kernel⟩
end WCollectiveSteps1

namespace WCollectiveSteps2
def c : Coll := { words := [0, 0, 0, 2, 0, 0, 0, 0], nodes := [[(true, 1), (true, 1048577)]], leaves := [1], outs := [(1, [(0, (7, 8))])] }
def p : Coll := { c with words := [0x100, 0, 0, 2, 0, 0, 0, 0], nodes := [[(true, 1)]], root := (false, 0) }
def at_ (c : Coll) : State := { parted with colls := [(5, c)], launches := [(5, { threads := [0, 9] })], arg := [5, 1, 0] }
def id_ (c : Coll) : State := { at_ c with arg := [5] }
/-- The hypotheses of a clause of CollectiveSteps can be met. -/
theorem witness_collective_steps_2 :
    ((at_ c).arg = [5, 1, 0] ∧ smFind (at_ c).colls 5 = some c ∧ smFind (smGet [] c.outs 1) 0 = some (7#64, 8#64) ∧ c.pair = false) ∧
    ((at_ p).arg = [5, 1, 0] ∧ smFind (at_ p).colls 5 = some p ∧ p.pair = true) ∧
    ((id_ c).arg = [5] ∧ smFind (id_ c).colls 5 = some c ∧ (∃ h ∈ c.root :: c.nodes.flatten, h.1 = true ∧ 2 ^ 20 ≤ h.2)) ∧
    ((id_ p).arg = [5] ∧ smFind (id_ p).colls 5 = some p ∧ (∀ h ∈ p.root :: p.nodes.flatten, h.1 = false ∨ h.2 < 2 ^ 20)) :=
  ⟨by decide +kernel, by decide +kernel, by decide +kernel, by decide +kernel⟩
end WCollectiveSteps2

namespace WCollectiveSteps3
def c : Coll := { words := [0, 0, 0x1000, 2, 0, 0, 0, 0], leaves := [1], descVa := 0x8000, flags := 3 }
def lapped : Coll := { c with words := [0, 0, 0, 2, 0, 0, 0, 0] }
def s : State := { mapped with colls := [(5, c)], launches := [(5, { field := 0 })] }
def ok (c : Coll) (code : Nat) : Bool :=
  match partWriteD { s with colls := smErase s.colls 5 } (getLaunch s 5).field (c.descVa + 0x28) (at_ 16 (c.flags % 64) ||| at_ 8 c.reruns ||| at_ 0 code) with
  | .ok _ => true | .error _ => false
/-- The hypotheses of a clause of CollectiveSteps can be met. -/
theorem witness_collective_steps_3 :
    (overlaps c = false ∧ c.reruns = 0 ∧ ok c 2 = true ∧ ok c 1 = true) ∧
    (overlaps lapped = true ∧ ok lapped 2 = true) :=
  ⟨by decide +kernel, by decide +kernel⟩
end WCollectiveSteps3

namespace WCollectiveSteps4
def l : Launch := { words := (List.replicate 9 0) ++ [4095], threads := [0], tiles := [0], fields := [0] }
def s : State := { mapped with launches := [(5, l)], arg := [5, 1] }
/-- The only tile has been killed. -/
def dead : State := onTile s (fun t => { t with run := .killed, launch := 5 })
/-- The same where another launch follows it. -/
def led : State := onTile dead (fun t => { t with follow := some 6 })
/-- The same where no field is present. -/
def gone : State := { dead with presentFields := 0 }
/-- The hypotheses of a clause of CollectiveSteps can be met. -/
theorem witness_collective_steps_4 :
    (s.arg = [5, 1] ∧ (getLaunch s 5).live = true ∧ isCollective (getLaunch s 5) = true ∧ smFind s.colls 5 = none ∧ (getLaunch s 5).code = 0 ∧ ∀ t ∈ (getLaunch s 5).threads, sealed s t = false) ∧
    (isCollective (getLaunch dead 5) = true ∧ smFind dead.colls 5 = none ∧ (∃ t ∈ (getLaunch dead 5).threads, sealed dead t = true) ∧ recFollow (getLaunch dead 5).words = false ∧ (∀ t ∈ (getLaunch dead 5).tiles, (getTile dead t).follow = none) ∧ placeColl dead 5 = none) ∧
    ((∃ t ∈ (getLaunch led 5).threads, sealed led t = true) ∧ (∃ t ∈ (getLaunch led 5).tiles, (getTile led t).follow.isSome = true)) ∧
    (placeLater dead (getLaunch dead 5) = true) ∧
    (placeColl gone 5 = none ∧ placeLater gone (getLaunch gone 5) = false) :=
  ⟨by decide +kernel, by decide +kernel, by decide +kernel, by decide +kernel, by decide +kernel⟩
end WCollectiveSteps4

namespace WCollectiveSteps5
def l : Launch := { words := [0x101, at_ 32 1, 0, 0, 0, 0, 0, 0, 0, 4095], tiles := [0], threads := [0], swapped := [0], fields := [0], scopes := [1], tags := [1] }
/-- The only tile of a collective has been killed, and other tiles are free. -/
def s : State :=
  let u := writeD (writeD (imaged launchable) 0x53FFE0 0x700000) 0x53FFE8 1
  { u with tile := { u.tile with run := .killed, launch := 5 }, launches := [(5, l)], arg := [5, 1] }
/-- The hypotheses of a clause of CollectiveSteps can be met. -/
theorem witness_collective_steps_5 :
    (s.arg = [5, 1] ∧ (getLaunch s 5).live = true ∧ isCollective (getLaunch s 5) = true ∧ s.colls.length = 0 ∧ (getLaunch s 5).code = 0) ∧
    (placeColl s 5).isSome = true :=
  ⟨by decide +kernel, by decide +kernel⟩
end WCollectiveSteps5

namespace WCollectiveSteps6
def l : Launch := { words := [0x101, at_ 32 1, 0, 0, 0, 0, 0, 0, 0, 4095] ++ List.replicate 14 0 ++ [0x8000], tiles := [0], threads := [0], swapped := [0] }
/-- The launch of a collective whose descriptor stands at 0x8000, and whose group 0 is ranks 0 and 1; the group table stands at 0xA00000. -/
def s (d : List Word) (entry : List Word) : State :=
  let u := writeD (updField mapped 0 (fun f => { f with groupBase := 0xA00001 })) 0xA00000 (imgD entry 0)
  let u := writeD u 0xA00008 (imgD entry 1)
  let u := writeD (writeD (writeD u 0x8000 (imgD d 0)) 0x8010 (imgD d 2)) 0x8018 (imgD d 3)
  { u with launches := [(5, l)], arg := [5] }
def good : State := s [0, 0, 0x100, 1] [1, at_ 32 2]
def badD : State := s [0, 0, 0x100, 0] [1, at_ 32 2]
def badG : State := s [0, 0, 0x100, 1] [1, 0]
def lost : State := { good with launches := [(5, { l with words := l.words.take 24 ++ [0x40000000] })] }
/-- The group and the check of the descriptor, as a start finds them. -/
def found (s : State) : Option (Option Bool) :=
  match partReadWords s (getLaunch s 5).field (recD (getLaunch s 5).words 0xC0) .supervisor 8 with
  | .ok (d, u) => some (match validGroup u (getLaunch s 5).part (getLaunch s 5).field (field (dw d 0) 23 12) with
    | some (b, ls) => some (collBad d ls.length (b 0).2.length (getLaunch s 5).threads.length)
    | none => none)
  | .error _ => none
/-- The hypotheses of a clause of CollectiveSteps can be met. -/
theorem witness_collective_steps_6 :
    (good.arg = [5] ∧ smFind good.colls 5 = none ∧ (getLaunch good 5).live = true ∧ isCollective (getLaunch good 5) = true ∧ ∀ t ∈ (getLaunch good 5).threads, t ∈ (getLaunch good 5).swapped) ∧
    (found good = some (some false)) ∧
    (found badD = some (some true)) ∧
    (found badG = some none) ∧
    (found lost = none) ∧
    (groupEntry good 0 9999 = none ∧ (match groupEntry good 0 0 with | some e => e.getD 0 0 == 1 && decide (0 < field (e.getD 1 0) 63 32 ∧ field (e.getD 1 0) 63 32 ≤ 65536) && decide (field (e.getD 1 0) 31 0 + field (e.getD 1 0) 63 32 ≤ tileCount good 0) | none => false) = true) ∧
    ((match groupEntry badG 0 0 with | some e => e.getD 0 0 == 1 && field (e.getD 1 0) 63 32 == 0 | none => false) = true) :=
  ⟨by decide +kernel, by decide +kernel, by decide +kernel, by decide +kernel, by decide +kernel, by decide +kernel, by decide +kernel⟩
end WCollectiveSteps6

namespace WCollectiveSteps7
def c (k n : Nat) : Coll := { words := [BitVec.ofNat 64 k, 0, 0x100, BitVec.ofNat 64 n, 0, 0, 0, 0], root := (false, 0), nodes := [[(true, 1), (true, 2)]], leaves := [1, 2], outs := [(0, [(0, (7, 0)), (1, (8, 0))])] }
def s : State := { parted with colls := [(5, c 0 2)], launches := [(5, { threads := [0, 9] })] }
def dead : State := updTile s 9 (fun t => { t with run := .killed })
/-- A child whose value lies on no tile. -/
def far (k : Nat) : Coll := { c k 2 with words := [BitVec.ofNat 64 k, 0x10000000, 0x100, 2, 0, 0, 0, 0] }
/-- The hypotheses of a clause of CollectiveSteps can be met. -/
theorem witness_collective_steps_7 :
    (rootValue s (c 0 2) 1 = some (8, 0) ∧ (putAll (c 0 2) s ((c 0 2).leaves.map (fun r => (r, 1, 8)))).isSome = true ∧ (c 0 2).kind = 0) ∧
    ((c 1 2).kind = 1 ∧ rootValue s (c 1 2) 1 = some (8, 0) ∧ (putMember s (c 1 2) ((c 1 2).leaves.getD (field (dw (c 1 2).words 0) 47 32) 0) 1 8).isSome = true) ∧
    ((c 4 2).kind = 4 ∧ rootValue s (c 4 2) 1 = some (8, 0) ∧ (putMember s (c 4 2) ((c 4 2).leaves.getD (1 / ((c 4 2).count / 2)) 0) (1 % ((c 4 2).count / 2)) 8).isSome = true) ∧
    ((c 2 2).kind = 2 ∧ (childValue s (c 2 2) 1 (true, (c 2 2).leaves.getD (field (dw (c 2 2).words 0) 47 32) 0)).isSome = true ∧ (putAll (c 2 2) s ((c 2 2).leaves.map (fun r => (r, 1, 0)))).isSome = true) ∧
    ((c 3 2).kind = 3 ∧ (c 3 2).leaves.map (fun r => childValue s (c 3 2) 1 (true, r)) = [(0#64, 0#64), (0, 0)].map some ∧ (putAll (c 3 2) s ((c 3 2).leaves.flatMap (fun r => (([(0#64, 0#64), (0, 0)]).zipIdx).map (fun v => (r, v.2 * (c 3 2).count + 1, v.1.1))))).isSome = true) ∧
    (nodeTile dead 5 1 = some 9 ∧ sealed dead 9 = true) ∧
    ((∃ h ∈ (far 0).nodes.getD 0 [], childValue s (far 0) 1 h = none) ∧ (∀ h ∈ (far 0).nodes.getD 0 [], h.1 = true → 2 ^ 20 ≤ h.2 → childValue s (far 0) 1 h ≠ none)) :=
  ⟨by decide +kernel, by decide +kernel, by decide +kernel, by decide +kernel, by decide +kernel, by decide +kernel, by decide +kernel⟩
end WCollectiveSteps7

namespace WCollectiveSteps8
def c : Coll := { words := [0, 0, 0x100, 2, 0x9000, 0, 0, 0], leaves := [1, 2] }
def s : State := { mapped with colls := [(5, c)], launches := [(5, { field := 0 })] }
/-- The hypotheses of a clause of CollectiveSteps can be met. -/
theorem witness_collective_steps_8 :
    (Sys2Proof.Machine.Inv s) ∧
    ((memberKey s c 1 (dw c.words 2).toNat 1).isSome = true ∧ memberKey s c 1 (dw c.words 2).toNat (2 ^ 20) = none ∧ (1 : Nat) < 2 ^ 20) ∧
    (dw c.words 4 ≠ 0 ∧ completeMembers c = 2 ∧ (∀ r ∈ c.leaves, r < 2 ^ 20) ∧ field (dw c.words 0) 47 32 < c.leaves.length) ∧
    ((match partIncrement s (getLaunch s 5).field (dw c.words 4) .supervisor with | .ok u => (match partIncrement u (getLaunch s 5).field (dw c.words 4) .supervisor with | .ok _ => true | .error _ => false) | .error _ => false) = true) :=
  ⟨by delta Sys2Proof.Machine.Inv; decide +kernel, by decide +kernel, by decide +kernel, by decide +kernel⟩
end WCollectiveSteps8

namespace WCombineOrder1
def c : Coll := { words := [0x10, 0, 0, 2, 0, 0, 0, 0], nodes := [[(true, 1), (false, 1)], [(true, 2), (true, 3), (true, 4)]], leaves := [1, 2, 3, 4] }
def p : Coll := { c with words := [0x100, 0, 0, 2, 0, 0, 0, 0] }
def s (c : Coll) : State := { parted with colls := [(5, c)], launches := [(5, { threads := [0, 9] })], arg := [5, 1, 1] }
/-- The hypotheses of a clause of CombineOrder can be met. -/
theorem witness_combine_order_1 :
    (c.pair = false ∧ c.op ≤ 6 ∧ (s c).arg = [5, 1, 1] ∧ smFind (s c).colls 5 = some c ∧ 1 < c.count ∧ (getLaunch (s c) 5).code = 0 ∧ nodeTile (s c) 5 1 = some 9 ∧ sealed (s c) 9 = false ∧ c.kind ∈ [0, 1, 4] ∧ (0 : Nat) < 1 ∧ 1 < c.nodes.length) ∧
    ((c.nodes.getD 1 []).map (childValue (s c) c 1) = (0 :: [0, 0]).map (fun w => some (w, 0))) ∧
    (p.pair = true ∧ smFind (s p).colls 5 = some p ∧ (p.nodes.getD 1 []).map (childValue (s p) p 1) = ((0, 0) :: [(0, 0), (0, 0)]).map some) :=
  ⟨by decide +kernel, by decide +kernel, by decide +kernel⟩
end WCombineOrder1

namespace WCombineOrder2
def c : Coll := { words := [0x10, 0, 0x100, 2, 0, 0, 0, 0], root := (false, 0), nodes := [[(true, 1), (true, 2)]], leaves := [1, 2] }
def s : State := { parted with colls := [(5, c)], launches := [(5, { threads := [9] })], arg := [5, 0, 0] }
def d : Coll := { c with
  outs := smSet c.outs 0 (smSet (smGet [] c.outs 0) 0 ([0].foldl (combineOp c.op) 0, 0))
  flags := c.flags ||| (combineChildren c ((0, 0) :: [0].map (fun w => (w, 0)))).2.toNat / 16 }
/-- The hypotheses of a clause of CombineOrder can be met. -/
theorem witness_combine_order_2 :
    (s.arg = [5, 0, 0] ∧ smFind s.colls 5 = some c ∧ 0 + 1 < c.count ∧ (getLaunch s 5).code = 0 ∧ nodeTile s 5 0 = some 9 ∧ sealed s 9 = false ∧ c.kind ∈ [0, 1, 4] ∧ c.nodes.length = 1 ∧ c.root = (false, 0) ∧ c.pair = false ∧ c.op ≤ 6) ∧
    ((c.nodes.getD 0 []).map (childValue s c 0) = (0 :: [0]).map (fun w => some (w, 0))) ∧
    ((deliverElem { s with colls := smSet s.colls 5 d } d 0).isSome = true) :=
  ⟨by decide +kernel, by decide +kernel, by decide +kernel⟩
end WCombineOrder2

namespace WCombineOrder3
/-- The T64 encodings of 1. -/
def one : Word := (roundT64 0 false 1 0).1
/-- The hypotheses of a clause of CombineOrder can be met. -/
theorem witness_combine_order_3 :
    ([one, one, one, one, one].map viewT64 = (List.replicate 5 (viewT64 one)) ∧ (match viewT64 one with | .fin _ _ _ => true | _ => false) = true) ∧
    (pairError one one one one one ≠ pairError one one 0 0 one) :=
  ⟨by decide +kernel, by decide +kernel⟩
end WCombineOrder3

namespace WOpticalSteps1
def r : Topo := { words := [0x100, 3, 0, 0, 0, 0, 0, 0, 0, 0, 0, 0, 0, 0, 0, 0] }
def at_ (o : List Word) : State := { updCSet parted 2 (fun c => { c with en := true, conduits := 5, pend := true, gen := 2 ^ 32 - 1, request := some r, others := [(1, (5, o))] }) with arg := [2] }
def got : State := updCSet (at_ r.words) 2 (fun c => { c with accepted := some r })
/-- The hypotheses of a clause of OpticalSteps can be met. -/
theorem witness_optical_steps_1 :
    ((at_ r.words).arg = [2] ∧ (getCSet (at_ r.words) 2).request = some r ∧ (getCSet (at_ r.words) 2).accepted = none ∧ tableGroup r.words = [0, 1] ∧ (at_ r.words).fleetId % 16 = 0 ∧ smFind (getCSet (at_ r.words) 2).others 1 = some ((getCSet (at_ r.words) 2).conduits, r.words)) ∧
    ((getCSet (at_ []) 2).request = some r ∧ (getCSet (at_ []) 2).accepted = none ∧ (∃ m ∈ tableGroup r.words, m ≠ (at_ []).fleetId % 16 ∧ smFind (getCSet (at_ []) 2).others m ≠ some ((getCSet (at_ []) 2).conduits, r.words) ∧ (smFind (getCSet (at_ []) 2).others m).isSome = true)) ∧
    (got.arg = [2] ∧ (getCSet got 2).accepted = some r) :=
  ⟨by decide +kernel, by decide +kernel, by decide +kernel⟩
end WOpticalSteps1

namespace WOpticalSteps2
def r : Topo := { words := [0x200 + 65536 * 100 + 2 ^ 32 * 5, 3, 0x1, 0, 0, 0, 0, 0, 0, 0, 0, 0, 0, 0, 0, 0] }
def s : State := { updCSet parted 2 (fun c => { c with en := true, conduits := 5, table := some r, period := 1 }) with arg := [2] }
def new : State := updCSet s 2 (fun c => { c with accepted := some r })
/-- The hypotheses of a clause of OpticalSteps can be met. -/
theorem witness_optical_steps_2 :
    (s.arg = [2] ∧ (getCSet s 2).table = some r ∧ (getCSet s 2).accepted = none) ∧
    (new.arg = [2] ∧ (getCSet new 2).table = some r ∧ (getCSet new 2).accepted = some r) :=
  ⟨by decide +kernel, by decide +kernel⟩
end WOpticalSteps2

namespace WOpticalSteps3
def h : Chunk := { toks := [{}, {}], port := 3, complete := true }
def r : Topo := { words := [0x100 + 65536 * 100 + 2 ^ 32 * 5, 3, 0x1, 0, 0, 0, 0, 0, 0, 0, 0, 0, 0, 0, 0, 0] }
def at_ (a : List Nat) : State := { updConduit (updCSet parted 2 (fun c => { c with en := true, conduits := 5, table := some r })) 0 (fun c => { c with sendQ := [(1, [h])] }) with arg := a }
def idle : State := updCSet (at_ [0, 1]) 2 (fun c => { c with table := none })
/-- The hypotheses of a clause of OpticalSteps can be met. -/
theorem witness_optical_steps_3 :
    ((at_ [0, 1, 60]).arg = [0, 1, 60] ∧ headChunk (smGet [] (getConduit (at_ [0, 1, 60]) 0).sendQ 1) = some (h, []) ∧ max 60 (max (getConduit (at_ [0, 1, 60]) 0).clock (guardEnd (at_ [0, 1, 60]) 0)) = 60) ∧
    (mayStart (at_ [0, 1, 60]) 0 1 60 h = true) ∧
    (mayStart (at_ [0, 1, 1000]) 0 1 1000 h = false) ∧
    (idle.arg = [0, 1] ∧ headChunk (smGet [] (getConduit idle 0).sendQ 1) = some (h, [])) :=
  ⟨by decide +kernel, by decide +kernel, by decide +kernel, by decide +kernel⟩
end WOpticalSteps3

namespace WOpticalSteps4
def ch : Chunk := { toks := [{}, {}], src := 1, port := 3, complete := true }
def s : State := { updConduit parted 0 (fun c => { c with rx := [ch] }) with arg := [0] }
/-- The hypotheses of a clause of OpticalSteps can be met. -/
theorem witness_optical_steps_4 :
    (s.arg = [0] ∧ (getConduit s 0).rx = [{ toks := {} :: [{}], src := 1, port := 3, complete := true }] ∧ ((getTile s (portTile 0 3).1).weir (portTile 0 3).2).room = true) :=
  by decide
end WOpticalSteps4

namespace WHostLinkSteps1
def s : State := { updVf (writeD mapped 0x10000 0x1122334455667788) 7 (fun v => { v with en := true, part := 0 }) with arg := [3, 7, 0x10002, 3] }
/-- The same where queue 3 of field 0 serves the function. -/
def q : State := updField s 0 (fun f => { f with lqCtl := [(3, at_ 32 1 ||| 7)] })
def dev : Nat := 0xFFFFFE0000001000
/-- The hypotheses of a clause of HostLinkSteps can be met. -/
theorem witness_host_link_steps_1 :
    (s.arg = [3, 7, 0x10002, 3] ∧ rillOk s 3 0x10002 3 = true ∧ s.rillQ = [] ∧ hostPlace s 7 0x10002 = .memory ∧ hostPlace s 8 0x10002 = .nothing ∧ rillOk s 3 0x0200000000000FFF 1 = true ∧ hostPlace s 7 0x0200000000000FFF = .page 0xFFF) ∧
    ((match hostTranslate s 7 0x10002 .read with | (.ok pa, u) => pa == 0x10002 && (List.range 3).all (fun i => !poisoned u (pa + i)) | _ => false) = true) ∧
    ((match hostTranslate s 7 0x40000000 .read with | (.error _, _) => true | _ => false) = true) ∧
    (hostPlace q 7 0x0100000000030000 = .window 0 3 ∧ rillOk q 3 0x0100000000030000 8 = true) ∧
    (hostPlace s 512 dev = .device ∧ rillOk s 3 dev 8 = true ∧ dev < 0xFFFFFEFFFFFFF000 ∧ dev % 8 = 0) ∧
    (hostPlace s 512 0x0300000000000008 = .record 1 ∧ rillOk s 3 0x0300000000000008 8 = true ∧ hostPlace s 512 0x0400000000000008 = .store 1 ∧ rillOk s 3 0x0400000000000008 8 = true) :=
  ⟨by decide +kernel, by decide +kernel, by decide +kernel, by decide +kernel, by decide +kernel, by decide +kernel⟩
end WHostLinkSteps1

namespace WHostLinkSteps2
def s : State := { updVf (writeD mapped 0x10000 0x1122334455667788) 7 (fun v => { v with en := true, part := 0 }) with arg := [3, 7, 0x10002, 3, 9, 255, 0] }
/-- The hypotheses of a clause of HostLinkSteps can be met. -/
theorem witness_host_link_steps_2 :
    (s.arg = 3 :: 7 :: 0x10002 :: 3 :: [9, 255, 0] ∧ [9, 255, 0].length = 3 ∧ (∀ b ∈ [9, 255, 0], b < 256) ∧ rillOk s 3 0x10002 3 = true ∧ s.rillQ = [] ∧ rillHeld s 7 0x10002 3 = false ∧ hostPlace s 7 0x10002 = .memory ∧ hostPlace s 8 0x10002 = .nothing) ∧
    ((match hostTranslate s 7 0x10002 .write with | (.ok pa, _) => pa == 0x10002 | _ => false) = true) ∧
    ((match hostTranslate s 7 0x40000000 .write with | (.error _, _) => true | _ => false) = true) ∧
    (Sys2Proof.Machine.Inv (hostTranslate s 7 0x10002 .write).2) :=
  ⟨by decide +kernel, by decide +kernel, by decide +kernel, by delta Sys2Proof.Machine.Inv; decide +kernel⟩
end WHostLinkSteps2

namespace WHostLinkSteps3
def busy : State := { updVf mapped 7 (fun v => { v with en := true, loadBusy := true }) with arg := [0, 7, 0x0200000000000200, 8, 1, 0, 0, 0, 0, 0, 0, 0] }
def free : State := updVf busy 7 (fun v => { v with loadBusy := false })
def q : RillReq := { port := 0, vf := 7, addr := 0x0200000000000200, len := 8, bytes := some ([1, 0, 0, 0, 0, 0, 0, 0].map (BitVec.ofNat 8)) }
def wait (s : State) (p : RillReq) : State := { s with rillQ := [p] }
def done (s : State) : State := { wait s q with arg := [] }
/-- Queue 3 of field 0 serves a function that is disabled. -/
def off : State := updField mapped 0 (fun f => { f with lqCtl := [(3, at_ 32 1 ||| 7)] })
/-- The hypotheses of a clause of HostLinkSteps can be met. -/
theorem witness_host_link_steps_3 :
    (busy.arg = q.port :: q.vf :: q.addr :: q.len :: [1, 0, 0, 0, 0, 0, 0, 0] ∧ rillOk busy q.port q.addr q.len = true ∧ busy.rillQ = [] ∧ q.bytes ≠ none ∧ rillHeld busy q.vf q.addr q.len = true) ∧
    ((wait busy q).arg = busy.arg ∧ q.waits (wait busy q) = true ∧ ({ q with port := 2 } : RillReq).waits (wait busy { q with port := 2 }) = true ∧ (2 : Nat) ≠ q.port) ∧
    (({ q with bytes := none } : RillReq).waits (wait busy { q with port := 2 }) = false) ∧
    ((done free).arg = [] ∧ (done free).rillQ = [q] ∧ q.waits (done free) = false) ∧
    ((done busy).arg = [] ∧ (done busy).rillQ = [q] ∧ q.waits (done busy) = true) ∧
    (hostPlace off 7 0x0100000000030008 = .window 0 3 ∧ (getVf off 7).en = false) ∧
    (hostPlace busy 7 0x0200000000000200 = .page 0x200 ∧ (getVf busy 7).loadBusy = true) :=
  ⟨by decide +kernel, by decide +kernel, by decide +kernel, by decide +kernel, by decide +kernel, by decide +kernel, by decide +kernel⟩
end WHostLinkSteps3

namespace WHostLinkSteps4
def w : Watch := { addr := 0x10000, target := 5, vector := 9, arm := true, port := 2 }
def at_ (w : Watch) (v : Word) (on : Bool) : State := { updVf (writeD mapped 0x10000 v) 7 (fun u => { u with en := on, watches := [(15, w)] }) with arg := [7, 15] }
def val (v : Word) : Option Word := match hostTranslate (at_ w v true) 7 w.addr .read with | (.ok pa, u) => some (readD u pa) | _ => none
def lost : Watch := { w with addr := 0x40000000 }
/-- The hypotheses of a clause of HostLinkSteps can be met. -/
theorem witness_host_link_steps_4 :
    ((at_ w 5 true).arg = [7, 15] ∧ smGet {} (getVf (at_ w 5 true) 7).watches 15 = w ∧ w.arm = true ∧ w.addr.toNat % 8 = 0 ∧ w.addr.toNat < 2 ^ 56 ∧ (getVf (at_ w 5 true) 7).en = true) ∧
    (val 5 = some 5#64 ∧ val 4 = some 4#64) ∧
    ((getVf (at_ w 5 false) 7).en = false) ∧
    ((match hostTranslate (at_ lost 5 true) 7 lost.addr .read with | (.error _, _) => true | _ => false) = true) ∧
    (({ w with addr := 0x10001 } : Watch).addr.toNat % 8 ≠ 0) :=
  ⟨by decide +kernel, by decide +kernel, by decide +kernel, by decide +kernel, by decide +kernel⟩
end WHostLinkSteps4

namespace WHostLinkSteps5
def fn (addr : Nat) : State := { updField (updVf mapped 7 (fun v => { v with en := true })) 0 (fun f => { f with lqCtl := [(3, at_ 32 1 ||| 7)] }) with arg := 3 :: 7 :: addr :: 8 :: [9, 255, 0, 0, 0, 0, 0, 1] }
def mgmt (addr : Nat) : State := { mapped with arg := 3 :: 512 :: addr :: 8 :: [9, 255, 0, 0, 0, 0, 0, 1] }
def ok (s : State) (vf addr : Nat) : Bool := rillOk s 3 addr 8 && s.rillQ.isEmpty && !rillHeld s vf addr 8
/-- The hypotheses of a clause of HostLinkSteps can be met. -/
theorem witness_host_link_steps_5 :
    (hostPlace (fn 0x0100000000030008) 7 0x0100000000030008 = .window 0 3 ∧ 0x0100000000030008 % 65536 = 8 * 1 ∧ ok (fn 0x0100000000030008) 7 0x0100000000030008 = true) ∧
    (hostPlace (fn 0x0200000000000010) 7 0x0200000000000010 = .page (8 * 2) ∧ ok (fn 0x0200000000000010) 7 0x0200000000000010 = true ∧ bitOf (BitVec.ofNat 64 (numOf ([9, 255, 0, 0, 0, 0, 0, 1].map (BitVec.ofNat 8)))) 0 = true) ∧
    (hostPlace (fn 0x0200000000000238) 7 0x0200000000000238 = .page (8 * 71) ∧ ok (fn 0x0200000000000238) 7 0x0200000000000238 = true) ∧
    (hostPlace (fn 0x0200000000000300) 7 0x0200000000000300 = .page (8 * 96) ∧ ok (fn 0x0200000000000300) 7 0x0200000000000300 = true) ∧
    (hostPlace (mgmt 0xFFFFFEFF00060040) 512 0xFFFFFEFF00060040 = .device ∧ ok (mgmt 0xFFFFFEFF00060040) 512 0xFFFFFEFF00060040 = true ∧ 0xFFFFFEFF00060040 < 0xFFFFFEFFFFFFF000 ∧ 0xFFFFFEFF00060040 % 8 = 0 ∧ devBlock (BitVec.ofNat 64 0xFFFFFEFF00060040) = (255, 0x60040)) ∧
    (hostPlace (mgmt 0x0300000000000008) 512 0x0300000000000008 = .record 1 ∧ ok (mgmt 0x0300000000000008) 512 0x0300000000000008 = true) ∧
    (hostPlace (mgmt 0x0400000000000008) 512 0x0400000000000008 = .store 1 ∧ ok (mgmt 0x0400000000000008) 512 0x0400000000000008 = true) :=
  ⟨by decide +kernel, by decide +kernel, by decide +kernel, by decide +kernel, by decide +kernel, by decide +kernel, by decide +kernel⟩
end WHostLinkSteps5

namespace WScalarFrame1
def l : List Instr := scalarForms 5 6 7 8 4 0 0 0 0
/-- The hypotheses of a clause of ScalarFrame can be met. -/
theorem witness_scalar_frame_1 :
    ((5 : Nat) < 32 ∧ l.length = 59 ∧ l.all wellFormed = true) :=
  by decide
end WScalarFrame1

namespace WNonCanonicalAddress1
def va : Word := 0x0100000000000000
/-- The hypotheses of a clause of NonCanonicalAddress can be met. -/
theorem witness_non_canonical_address_1 :
    (canonical va = false ∧ canonical 0xFF00000000000000 = true ∧ bitOf 0xFF 0 = true) :=
  by decide
end WNonCanonicalAddress1

namespace WStepRunsDecodedInstruction1
def u : State := State.reset.withFetchWord 32 0x04209FFF
def v : State := State.reset.withFetchWord 64 0xFFFFFFFE7C280004
/-- The hypotheses of a clause of StepRunsDecodedInstruction can be met. -/
theorem witness_step_runs_decoded_instruction_1 :
    (FetchesParcel u u.tile.pc 0x04209FFF) ∧
    (FetchesParcel v v.tile.pc 0x7C280004) ∧
    (FetchesParcel v (v.tile.pc + 4) 0xFFFFFFFE) ∧
    (lengthOf 0x04209FFF = 1 ∧ lengthOf 0x7C280004 = 2) :=
  ⟨⟨_, _, rfl, rfl⟩, ⟨_, _, rfl, rfl⟩, ⟨_, _, rfl, rfl⟩, by decide⟩
end WStepRunsDecodedInstruction1

namespace WStepRunsDecodedInstruction2
def s : State := State.reset.withFetchWord 32 0x04209FFF
/-- The hypotheses of a clause of StepRunsDecodedInstruction can be met. -/
theorem witness_step_runs_decoded_instruction_2 :
    (ThreadsTurn s 0 s) ∧
    (Undisturbed s) ∧
    (gather s = .parcels 0x04209FFF 0 0) ∧
    (parkBit 0x04209FFF = false ∧ decode 0x04209FFF 0 0 = .ok (.addImm 4 4 0x1FFF)) :=
  ⟨.inl ⟨rfl, rfl, rfl⟩, by delta Undisturbed; decide, rfl, ⟨rfl, rfl⟩⟩
end WStepRunsDecodedInstruction2

namespace WStepRunsDecodedInstruction3
def s : State := State.reset.withFetchWord 32 0x6C000000
/-- The hypotheses of a clause of StepRunsDecodedInstruction can be met. -/
theorem witness_step_runs_decoded_instruction_3 :
    (ThreadsTurn s 0 s) ∧
    (Undisturbed s) ∧
    (gather s = .parcels 0x6C000000 0 0) ∧
    (s.tile.longBuf = [] ∧ bitsOf s.tile.trapCause 3 0 = 0 ∧ decode 0x6C000000 0 0 = .error .major) :=
  ⟨.inl ⟨rfl, rfl, rfl⟩, by delta Undisturbed; decide, rfl, ⟨rfl, rfl, rfl⟩⟩
end WStepRunsDecodedInstruction3

namespace WStepRunsDecodedInstruction4
def s : State := { onTile State.reset (fun t => { t with sw := { t.sw with st := .running, word := some .snop } }) with agenda := [.switch 0] }
def u : State := focus { s with agenda := [] } 0
/-- The hypotheses of a clause of StepRunsDecodedInstruction can be met. -/
theorem witness_step_runs_decoded_instruction_4 :
    (s.agenda = .switch 0 :: [] ∧ u.tile.cutMarked = false ∧ u.tile.run ≠ .killed ∧ u.tile.cutOf = none ∧ u.tile.cancelled = false ∧ switchTurn u = (u, some .snop)) :=
  ⟨rfl, rfl, by decide, rfl, rfl, rfl⟩
end WStepRunsDecodedInstruction4

namespace WStepRunsDecodedInstruction5
def s : State := { State.reset with agenda := [.event 0 .clockStep [3]] }
/-- The hypotheses of a clause of StepRunsDecodedInstruction can be met. -/
theorem witness_step_runs_decoded_instruction_5 :
    (s.agenda = .event 0 .clockStep [3] :: [] ∧ encode 0 .clockStep = []) :=
  by decide
end WStepRunsDecodedInstruction5

namespace WDecodeEncode1
/-- The hypotheses of a clause of DecodeEncode can be met. -/
theorem witness_decode_encode_1 :
    (wellFormed (.add 5 6 7) = true ∧ encode 1 (.add 5 6 7) = 0x8228C380 :: [] ∧ isSwitchWord (.add 5 6 7) = false) ∧
    (wellFormed (.route 3 0) = true ∧ isSwitchWord (.route 3 0) = true ∧ encode 0 (.route 3 0) = halves 0x0000000040000003) :=
  ⟨by decide, by decide⟩
end WDecodeEncode1

namespace WMemoryFormKept1
def s : State := State.reset.withFetchWord 32 0x04209FFF
/-- The hypotheses of a clause of MemoryFormKept can be met. -/
theorem witness_memory_form_kept_1 :
    (Memory.wf s.mem = true) ∧
    ((match step s with | .next _ => true | _ => false) = true) :=
  ⟨by decide, by rfl⟩
end WMemoryFormKept1

namespace WRounding1
def n : Nat := 2 ^ 47 + 1
/-- The hypotheses of a clause of Rounding can be met. -/
theorem witness_rounding_1 :
    (n ≠ 0 ∧ (roundT64 4 true n (-10)).2 &&& fOF = 0 ∧ 2 ^ 46 + 1 < 2 ^ 47 ∧ (Nat.log2 (2 ^ 46 + 1) : Int) + (-32812) < 32768) :=
  by decide
end WRounding1

namespace WT64LaneResults1
def s : State := State.reset
/-- The hypotheses of a clause of T64LaneResults can be met. -/
theorem witness_t64_lane_results_1 :
    Ready [.v 15] [.v 15] s ∧
    s.tile.dispute = none ∧
    ((7#3).toNat ≠ 0) :=
  ⟨by delta Ready; rfl, by rfl, by decide⟩
end WT64LaneResults1

namespace WT64LaneResults2
def one : Word := 0x3FFFC00000000000
def two : Word := 0x4000400000000000
/-- The hypotheses of a clause of T64LaneResults can be met. -/
theorem witness_t64_lane_results_2 :
    (viewT64 one = .fin false (2 ^ 46) (-46) ∧ viewT64 two = .fin false (2 ^ 46) (-45) ∧ (2 ^ 46 : Nat) ≠ 0) ∧
    (isNaN one = false ∧ isNaN two = false ∧ isNaN (zeroT64 true) = false ∧ isNaN (zeroT64 false) = false) ∧
    Below (viewT64 one) (viewT64 two) ∧
    (¬ Below (viewT64 (zeroT64 true)) (viewT64 (zeroT64 false)) ∧ ¬ Below (viewT64 (zeroT64 false)) (viewT64 (zeroT64 true))) ∧
    ((zeroT64 true).getLsbD 63 = true ∧ (zeroT64 false).getLsbD 63 = false) ∧
    (viewT64 (infT64 true) = .inf true ∧ viewT64 canonNaN = .nan false ∧ 0 < 8 ∧ 8 ≤ 64 ∧ 0 ≤ 4) ∧
    (cvtiT64 0 8 false 0x4007C00000000000 = (BitVec.ofInt 64 (2 ^ 7 - 1), fNV) ∧ cvtiT64 0 8 false two = (2, 0) ∧
      (cvtiT64 0 8 true (one ||| 0x8000000000000000#64)).2 = fNV) :=
  ⟨⟨by rfl, by rfl, by decide⟩, by decide, by show unitsOf false (2 ^ 46) (-46) (-46) < unitsOf false (2 ^ 46) (-45) (-46); decide, ⟨by show ¬ unitsOf true 0 (-32812) (-32812) < unitsOf false 0 (-32812) (-32812); decide, by show ¬ unitsOf false 0 (-32812) (-32812) < unitsOf true 0 (-32812) (-32812); decide⟩, by decide, ⟨by rfl, by rfl, by decide⟩, by decide⟩
end WT64LaneResults2

namespace WInvalidOperations1
def a : Word := 0x7FFFE00000000000
def b : Word := 0x7FFF800000000001
/-- The hypotheses of a clause of InvalidOperations can be met. -/
theorem witness_invalid_operations_1 :
    (isNaN a = true ∧ isSNaN a = false ∧ isNaN 0 = false ∧ isNaN b = true ∧ isSNaN b = true) ∧
    (viewT64 1 = .fin false 1 (-32812) ∧ viewT64 0x8000000000000001 = .fin true 1 (-32812)) ∧
    (viewT64 (zeroT64 true) = .fin true 0 (-32812) ∧ viewT64 (infT64 false) = .inf false) :=
  ⟨by decide, ⟨rfl, rfl⟩, ⟨rfl, rfl⟩⟩
end WInvalidOperations1

namespace WMaskCompareResults1
def s : State := State.reset
def one : Word := 0x3FFFC00000000000
/-- The hypotheses of a clause of MaskCompareResults can be met. -/
theorem witness_mask_compare_results_1 :
    Ready [.v 0, .v 15] [] s ∧
    (isNaN one = false ∧ isNaN canonNaN = true) ∧
    (FCond.eq ≠ .lt ∧ FCond.eq ≠ .le) :=
  ⟨by delta Ready; rfl, by decide, by decide⟩
end WMaskCompareResults1

namespace WIntegerLaneResults1
def s : State := State.reset
/-- The hypotheses of a clause of IntegerLaneResults can be met. -/
theorem witness_integer_lane_results_1 :
    Ready [.v 0, .v 15] [.v 15] s ∧
    s.tile.dispute = none :=
  ⟨by delta Ready; rfl, by rfl⟩
end WIntegerLaneResults1

namespace WMergedElements1
def l : List (Option Nat) := (List.range 64).map (fun i => if i % 3 = 0 then some i else none)
/-- The hypotheses of a clause of MergedElements can be met. -/
theorem witness_merged_elements_1 :
    ((15#5).toNat < 16 ∧ l.length = 512 / (8 * 2 ^ (0#2).toNat) ∧ 16 ≤ (16#5).toNat) :=
  by decide
end WMergedElements1

namespace WReduceScanResults1
def s : State := State.reset
/-- The hypotheses of a clause of ReduceScanResults can be met. -/
theorem witness_reduce_scan_results_1 :
    Ready [.v 3] [.v 15] s ∧
    s.tile.dispute = none ∧
    ((4#3 : BitVec 3) ≠ 0#3) :=
  ⟨by delta Ready; rfl, by rfl, by decide⟩
end WReduceScanResults1

namespace WLongAccumulatorResults1
def s : State := State.reset
/-- The hypotheses of a clause of LongAccumulatorResults can be met. -/
theorem witness_long_accumulator_results_1 :
    s.tile.dispute = none ∧
    Ready [.x 1] [] s ∧
    Ready [.v 15] [] s ∧
    Ready [] [.x 48] s ∧
    (s.tile.la.exc = .none ∧ ({ s.tile.la with exc := .nan } : LongAcc).exc ≠ .none ∧ (s.tile.la.l + 1 * (5 * 2 ^ (0 + 300 : Int).toNat)).natAbs < 2 ^ 639) ∧
    (viewT64 0x3FFFC00000000000 = .fin false 70368744177664 (-46)) :=
  ⟨by rfl, by delta Ready; rfl, by delta Ready; rfl, by delta Ready; rfl, by decide, rfl⟩
end WLongAccumulatorResults1

namespace WMoveMaskResults1
def s : State := State.reset
/-- The hypotheses of a clause of MoveMaskResults can be met. -/
theorem witness_move_mask_results_1 :
    Ready [.v 3, .v 15] [.v 15] s ∧
    s.tile.dispute = none ∧
    Ready [.v 3] [.x 31] s ∧
    Ready [.x 3] [.v 0] s :=
  ⟨by delta Ready; rfl, by rfl, by delta Ready; rfl, by delta Ready; rfl⟩
end WMoveMaskResults1

end
end

section
/-! Addresses that are not canonical (R26): every check of an address refuses them first, so an access or a fetch there faults and changes
nothing. -/
namespace Sys2Proof.Machine

/- Canonical form -/

/-- Bits [63:56] of a doubleword are a byte of it. -/
theorem bitsOf_top_byte (va : Word) : bitsOf va 63 56 = (va.extractLsb' 56 8).toNat := by
  simp [bitsOf, BitVec.extractLsb'_toNat, Nat.shiftRight_eq_div_pow]

/-- A byte is 0 or 255 when all its bits equal its lowest. -/
theorem byte_uniform_iff (b : BitVec 8) : (b = 0#8 ∨ b = BitVec.allOnes 8) ↔ ∀ i, i < 8 → b.getLsbD i = b.getLsbD 0 := by
  constructor
  · rintro (rfl | rfl) i hi
    · simp
    · simp only [BitVec.getLsbD_allOnes, hi, Nat.zero_lt_succ]
  · intro h
    cases h0 : b.getLsbD 0 with
    | false => exact .inl (BitVec.eq_of_getLsbD_eq fun i hi => by rw [h i hi, h0, BitVec.getLsbD_zero])
    | true => exact .inr (BitVec.eq_of_getLsbD_eq fun i hi => by rw [h i hi, h0, BitVec.getLsbD_allOnes, decide_eq_true hi])

/-- An address is canonical when its top byte is 0 or 255. -/
theorem canonical_iff_top_byte (va : Word) :
    canonical va = true ↔ va.extractLsb' 56 8 = 0#8 ∨ va.extractLsb' 56 8 = BitVec.allOnes 8 := by
  simp [canonical, bitsOf_top_byte, ← BitVec.toNat_inj]

/-- An address is canonical when bits [63:57] all equal bit [56] (R26). -/
theorem canonical_iff_bits (va : Word) : canonical va = true ↔ ∀ k, 57 ≤ k → k ≤ 63 → va.getLsbD k = va.getLsbD 56 := by
  rw [canonical_iff_top_byte, byte_uniform_iff]
  constructor
  · intro h k hlo hhi
    have hk := h (k - 56) (by omega)
    simpa [BitVec.getLsbD_extractLsb', show k - 56 < 8 by omega, show 56 + (k - 56) = k by omega] using hk
  · intro h i hi
    cases i with
    | zero => rfl
    | succ j => simpa [BitVec.getLsbD_extractLsb', hi] using h (56 + (j + 1)) (by omega) (by omega)

section
variable {va : Word}

/- The checks of an address -/

/-- An address that is not canonical lies in no region. -/
theorem regionOf_nonCanonical (h : canonical va = false) : regionOf va = .error { prot := false, sub := 0 } := by
  simp [regionOf, h]

/-- The checks of an access begin with the canonical form (R41). -/
theorem resolve_nonCanonical (s : State) (t : Nat) (m : Mode) (r : AccessRule) (size : Nat) (h : canonical va = false) :
    resolve s t m r va size = .error (false, { prot := false, sub := 0 }) := by
  simp [resolve, regionOf_nonCanonical h]

/-- No walk begins for an address that is not canonical. -/
theorem afterFault_nonCanonical (s : State) (t : Nat) (m : Mode) (k : AccKind) (e : Bool × XErr) (h : canonical va = false) :
    afterFault s t m k va e = s := by
  simp [afterFault, regionOf_nonCanonical h]

/-- A fetch from an address that is not canonical reads no buffer. -/
theorem fetchAt_nonCanonical (s : State) (t : Nat) (m : Mode) (h : canonical va = false) :
    fetchAt s t va m = .bad { prot := false, sub := 0 } := by
  simp [fetchAt, fetchBad, regionOf_nonCanonical h]

/- The fault -/

/-- A fault is XLATE with sub-code NONCANON at an address (R26, R47). -/
def MemFault.IsNonCanonical (f : MemFault) (va : Word) : Prop := f.cause = .xlate ∧ f.va = va ∧ bitsOf f.info 3 0 = 0

/-- Performing an operation in a state faults with NONCANON at an address and leaves the state. -/
def Performed.RefusesNonCanonical (p : Performed) (s : State) (va : Word) : Prop :=
  p.st = s ∧ ∃ f, p.res = .fault f ∧ f.IsNonCanonical va

/-- XFAULT_INFO of a core's access holds sub-code NONCANON in bits [3:0] (R47). -/
theorem mkInfo_nonCanonical_sub (k : AccKind) : bitsOf (mkInfo 0 0 0 k { prot := false, sub := 0 }) 3 0 = 0 := by
  cases k <;> decide

/-- The fault of an access whose address is not canonical. -/
theorem accessFault_isNonCanonical (k : AccKind) (va : Word) :
    (accessFault k va (false, { prot := false, sub := 0 })).IsNonCanonical va :=
  ⟨rfl, rfl, mkInfo_nonCanonical_sub k⟩

/-- A fault stands at once, whatever a network interface holds from earlier. -/
theorem perform_of_fault {s : State} {t : Nat} {m : Mode} {op : LongOp} {f : MemFault} (h : (performNow s t m op).res = .fault f) :
    perform s t m op = performNow s t m op := by
  cases hb : heldBehind s t <;> simp [perform, hb, h]

/-- What the operation alone refuses, performing it behind held requests refuses too. -/
theorem perform_refusesNonCanonical {s : State} {t : Nat} {m : Mode} {op : LongOp} (h : (performNow s t m op).RefusesNonCanonical s va) :
    (perform s t m op).RefusesNonCanonical s va := by
  obtain ⟨-, f, hf, -⟩ := id h
  rwa [perform_of_fault hf]

/- The operations -/

/-- An atomic at an address that is not canonical. -/
theorem performAtomic_nonCanonical (s : State) (t : Nat) (m : Mode) (op : LongOp) (hva : op.target = va) (h : canonical va = false) :
    (performAtomic s t m op).RefusesNonCanonical s va := by
  subst hva
  simp only [performAtomic, resolve_nonCanonical _ _ _ _ _ h, afterFault_nonCanonical _ _ _ _ _ h]
  exact ⟨rfl, _, rfl, accessFault_isNonCanonical ..⟩

/-- A load from an address that is not canonical. -/
theorem load_nonCanonical (s : State) (t : Nat) (m : Mode) (size : Nat) (sgn : Bool) (h : canonical va = false) :
    (performNow s t m (.load size sgn va)).RefusesNonCanonical s va := by
  simp only [performNow, resolve_nonCanonical _ _ _ _ _ h, afterFault_nonCanonical _ _ _ _ _ h]
  exact ⟨rfl, _, rfl, accessFault_isNonCanonical ..⟩

/-- A store to an address that is not canonical. -/
theorem store_nonCanonical (s : State) (t : Nat) (m : Mode) (size : Nat) (d : Word) (h : canonical va = false) :
    (performNow s t m (.store size va d)).RefusesNonCanonical s va := by
  simp only [performNow, resolve_nonCanonical _ _ _ _ _ h, afterFault_nonCanonical _ _ _ _ _ h]
  exact ⟨rfl, _, rfl, accessFault_isNonCanonical ..⟩

/-- Lanes whose first is active and not canonical resolve no lane. -/
theorem resolveLanes_nonCanonical (s : State) (t : Nat) (m : Mode) (k : AccKind) (r : List (Word × Bool)) (h : canonical va = false) :
    resolveLanes s t m k ((va, true) :: r) =
      (.error { accessFault k va (false, { prot := false, sub := 0 }) with loads := true, va := va }, s) := by
  simp [resolveLanes, resolve_nonCanonical _ _ _ _ _ h, afterFault_nonCanonical _ _ _ _ _ h]

/-- A vector access whose first lane is active and not canonical. -/
theorem performLanes_nonCanonical (s : State) (t : Nat) (m : Mode) (op : LongOp) (vas : List Word) (mask : Word) (data : Option (List Word))
    (h : canonical va = false) (hmask : bitOf mask 0 = true) : (performLanes s t m op (va :: vas) mask data).RefusesNonCanonical s va := by
  simp only [performLanes, List.zipIdx_cons, List.map_cons, hmask, resolveLanes_nonCanonical _ _ _ _ _ h]
  obtain ⟨hcause, -, hsub⟩ := accessFault_isNonCanonical (if data.isSome then .write else .read) va
  exact ⟨rfl, _, rfl, hcause, rfl, hsub⟩

end

/-- Settles O54: every access checks the canonical form first, and a fault there stands at once and leaves the state. -/
theorem nonCanonicalAddress : Obligations.NonCanonicalAddress := by
  unfold Obligations.NonCanonicalAddress
  refine ⟨canonical_iff_bits, fun s t m r va size h => resolve_nonCanonical s t m r size h, ?scalar, ?vector,
    fun s t m va h => fetchAt_nonCanonical s t m h⟩
  case scalar =>
    intro s t size m sgn o va b c h op hop
    refine perform_refusesNonCanonical ?_
    have atomic : ∀ op : LongOp, op.target = va → (performAtomic s t m op).RefusesNonCanonical s va :=
      fun op hva => performAtomic_nonCanonical s t m op hva h
    simp only [List.mem_cons, List.not_mem_nil, or_false] at hop
    obtain rfl | rfl | rfl | rfl | rfl | rfl | rfl | rfl := hop
    · exact load_nonCanonical s t m size sgn h
    · exact store_nonCanonical s t m size b h
    all_goals exact atomic _ rfl
  case vector =>
    intro s t m va vas mask data h hmask op hop
    refine perform_refusesNonCanonical ?_
    simp only [List.mem_cons, List.not_mem_nil, or_false] at hop
    obtain rfl | rfl := hop
    · exact performLanes_nonCanonical s t m _ vas mask none h hmask
    · exact performLanes_nonCanonical s t m _ vas mask (some data) h hmask

end Sys2Proof.Machine
end

section
/-! Bit fields of a doubleword: what a field holds after a replacement of the same bits and of others. -/
namespace Sys2Proof.Machine

/-- The bits of a field are bits of its doubleword. -/
theorem testBit_bitsOf (w : Word) (hi lo i : Nat) : (bitsOf w hi lo).testBit i = (decide (i < hi + 1 - lo) && w.getLsbD (lo + i)) := by
  rw [bitsOf, Nat.testBit_mod_two_pow, Nat.testBit_div_two_pow, Nat.add_comm i, BitVec.getLsbD]

/-- A replacement changes the bits it names, up to bit 63, and no other. -/
theorem getLsbD_putBits (w : Word) (lo len v i : Nat) :
    (putBits w lo len v).getLsbD i = (decide (i < 64) && if lo ≤ i ∧ i < lo + len then v.testBit (i - lo) else w.getLsbD i) := by
  simp only [putBits, BitVec.getLsbD_or, BitVec.getLsbD_and, BitVec.getLsbD_not, BitVec.getLsbD_ofNat, Nat.testBit_mul_two_pow,
    Nat.testBit_two_pow_sub_one, Nat.testBit_mod_two_pow]
  by_cases hi : i < 64
  · by_cases hlo : lo ≤ i
    · by_cases hlen : i < lo + len
      · simp [hi, hlo, hlen, show i - lo < len by omega]
      · simp [hi, hlo, hlen, show ¬ i - lo < len by omega]
    · simp [hi, hlo]
  · simp [hi]

/-- A field reads back as it was replaced. -/
theorem bitsOf_putBits_same {w : Word} {hi lo len v : Nat} (hlen : len = hi + 1 - lo) (hhi : hi < 64) :
    bitsOf (putBits w lo len v) hi lo = v % 2 ^ len := by
  refine Nat.eq_of_testBit_eq fun i => ?_
  rw [testBit_bitsOf, getLsbD_putBits, Nat.testBit_mod_two_pow, ← hlen]
  by_cases hi' : i < len
  · simp [hi', show lo + i < 64 by omega]
  · simp [hi']

/-- A replacement leaves a field that it does not meet. -/
theorem bitsOf_putBits_disjoint {w : Word} {hi lo lo' len v : Nat} (h : hi < lo' ∨ lo' + len ≤ lo) :
    bitsOf (putBits w lo' len v) hi lo = bitsOf w hi lo := by
  refine Nat.eq_of_testBit_eq fun i => ?_
  rw [testBit_bitsOf, testBit_bitsOf, getLsbD_putBits]
  by_cases hi' : i < hi + 1 - lo
  · rw [if_neg (by omega)]
    by_cases hw : lo + i < 64
    · simp [hw]
    · simp [hw, BitVec.getLsbD_of_ge w (lo + i) (by omega)]
  · simp [hi']

/-- Setting bit 31 is a replacement of one bit. -/
theorem or_bit31_eq_putBits (w : Word) : w ||| 0x80000000#64 = putBits w 31 1 1 := by
  show w ||| 0x80000000#64 = w &&& ~~~0x80000000#64 ||| 0x80000000#64
  generalize 0x80000000#64 = bit
  refine BitVec.eq_of_getLsbD_eq fun i hi => ?_
  simp [hi, Bool.or_and_distrib_right]

/-- A field of the statements is a field of the model. -/
theorem field_eq_bitsOf (w : Word) {hi lo : Nat} (h : lo ≤ hi) : field w hi lo = bitsOf w hi lo := by
  rw [field, bitsOf, show hi - lo + 1 = hi + 1 - lo by omega]

end Sys2Proof.Machine
end

section
/-! The word of a barrier after one arrival (R109), field by field. -/
namespace Sys2Proof.Machine

/-- An arrival that completes the phase counts it and clears COUNT. -/
theorem arrive_complete {w : Word} (h : min (bitsOf w 15 0) 0x7FFF ≤ bitsOf w 30 16 + 1) :
    arrive w false = putBits (putBits w 32 32 (bitsOf w 63 32 + 1)) 16 15 0 :=
  if_pos h

/-- An arrival that does not complete the phase counts itself. -/
theorem arrive_count {w : Word} (h : ¬ min (bitsOf w 15 0) 0x7FFF ≤ bitsOf w 30 16 + 1) :
    arrive w false = putBits w 16 15 (bitsOf w 30 16 + 1) :=
  if_neg h

/-- An arrival made for a cancelled member is an arrival that sets CANCEL too. -/
theorem arrive_cancelled (w : Word) : arrive w true = putBits (arrive w false) 31 1 1 := or_bit31_eq_putBits _

/-- PHASE counts the phases that are complete, modulo 2³². -/
theorem phase_arrive (w : Word) :
    bitsOf (arrive w false) 63 32 =
      if bitsOf w 30 16 + 1 ≥ min (bitsOf w 15 0) 0x7FFF then (bitsOf w 63 32 + 1) % 2 ^ 32 else bitsOf w 63 32 := by
  split
  case isTrue h => rw [arrive_complete h, bitsOf_putBits_disjoint (by decide), bitsOf_putBits_same (by decide) (by decide)]
  case isFalse h => rw [arrive_count h, bitsOf_putBits_disjoint (by decide)]

/-- COUNT starts again with a phase and else counts the arrival: what EXPECTED admits has room in its 15 bits. -/
theorem count_arrive (w : Word) :
    bitsOf (arrive w false) 30 16 = if bitsOf w 30 16 + 1 ≥ min (bitsOf w 15 0) 0x7FFF then 0 else bitsOf w 30 16 + 1 := by
  split
  case isTrue h => rw [arrive_complete h, bitsOf_putBits_same (by decide) (by decide), Nat.zero_mod]
  case isFalse h => rw [arrive_count h, bitsOf_putBits_same (by decide) (by decide), Nat.mod_eq_of_lt (by omega)]

/-- An arrival leaves every field that meets neither PHASE nor COUNT. -/
theorem bitsOf_arrive_other (w : Word) {hi lo : Nat} (h : hi < 16 ∨ 31 ≤ lo ∧ hi < 32) : bitsOf (arrive w false) hi lo = bitsOf w hi lo := by
  by_cases hc : min (bitsOf w 15 0) 0x7FFF ≤ bitsOf w 30 16 + 1
  · rw [arrive_complete hc, bitsOf_putBits_disjoint (by omega), bitsOf_putBits_disjoint (by omega)]
  · rw [arrive_count hc, bitsOf_putBits_disjoint (by omega)]

/-- An arrival for a cancelled member differs in CANCEL alone. -/
theorem bitsOf_arrive_cancelled (w : Word) (cancelled : Bool) {hi lo : Nat} (h : hi < 31 ∨ 32 ≤ lo) :
    bitsOf (arrive w cancelled) hi lo = bitsOf (arrive w false) hi lo := by
  cases cancelled with
  | false => rfl
  | true => rw [arrive_cancelled, bitsOf_putBits_disjoint h]

/-- CANCEL is set by an arrival for a cancelled member, and else left. -/
theorem cancel_arrive (w : Word) (cancelled : Bool) :
    bitsOf (arrive w cancelled) 31 31 = if cancelled then 1 else bitsOf w 31 31 := by
  cases cancelled with
  | false => exact bitsOf_arrive_other w (by decide)
  | true => rw [arrive_cancelled, bitsOf_putBits_same (by decide) (by decide)]; rfl

end Sys2Proof.Machine
end

section
/-! The homes' bytes: what an access does to the caches and to the owner's unit leaves them, so that a read and a write of a target are a read and
a write at its home address. -/
namespace Sys2Proof.Machine

/-- What the homes hold: the bytes listed, and the stretches whose contents are undefined. -/
def State.homes (s : State) : List Host.Cell × List Undef := (s.mem, s.undef)

/- What leaves the homes -/

@[simp] theorem updTile_homes (s : State) (t : Nat) (g : Tile → Tile) : (updTile s t g).homes = s.homes := by simp [State.homes]
@[simp] theorem updCluster_homes (s : State) (c : Nat) (g : Cluster → Cluster) : (updCluster s c g).homes = s.homes := rfl
@[simp] theorem updCistern_homes (s : State) (c : Nat) (g : Cistern → Cistern) : (updCistern s c g).homes = s.homes := rfl

/-- A slice takes a line at the address's cistern, or nothing happens where no memory is. The function itself is unfolded, and the cistern then made
a variable: unfolding an application would have the kernel evaluate the cistern's address arithmetic. -/
theorem sliceAt_cases (s : State) (pa : Nat) (dirty : Bool) : sliceAt s pa dirty = s ∨ ∃ c g, sliceAt s pa dirty = updCistern s c g := by
  obtain ⟨slice, h⟩ : ∃ f, f = sliceAt := ⟨_, rfl⟩
  rw [← h]
  delta sliceAt at h
  subst h
  dsimp only
  generalize cisternOf s pa = home
  cases home with
  | none => exact .inl rfl
  | some p => exact .inr ⟨_, _, rfl⟩

@[simp] theorem sliceAt_homes (s : State) (pa : Nat) (dirty : Bool) : (sliceAt s pa dirty).homes = s.homes := by
  obtain h | ⟨c, g, h⟩ := sliceAt_cases s pa dirty
  · rw [h]
  · rw [h, updCistern_homes]

/-- A step that is taken under a condition leaves the homes where it leaves them when taken. -/
theorem ite_homes {c : Prop} [Decidable c] {s u : State} (h : u.homes = s.homes) : (if c then u else s).homes = s.homes := by
  split
  · exact h
  · rfl

@[simp] theorem recallWhere_homes (s : State) (line : Nat) (p : DLine → Bool) : (recallWhere s line p).homes = s.homes := by
  unfold recallWhere
  refine (ite_homes (sliceAt_homes ..)).trans ?_
  refine (foldl_keeps _ State.homes (fun u e => ite_homes (updCluster_homes ..)) _ _).trans ?_
  exact foldl_keeps _ State.homes (fun u id => ite_homes (updTile_homes ..)) _ _

@[simp] theorem recallLine_homes (s : State) (line : Nat) : (recallLine s line).homes = s.homes := recallWhere_homes s line _

@[simp] theorem atHome_homes (s : State) (tg : Target) (dirty : Bool) : (atHome s tg dirty).homes = s.homes := by
  cases tg <;> simp [atHome]

@[simp] theorem atOwner_homes (s : State) (t : Nat) (va : Word) (tg : Target) : (atOwner s t va tg).homes = s.homes := by
  unfold atOwner
  split
  · rw [updTile_homes]; split <;> simp
  · simp

@[simp] theorem markScratch_homes (s : State) (t off n : Nat) : (markScratch s t off n).homes = s.homes := updTile_homes s t _

/- What the homes decide -/

theorem readByte_homes {s u : State} (h : s.homes = u.homes) (a : Nat) : readByte s a = readByte u a := by
  obtain ⟨hmem, hundef⟩ := Prod.mk.inj h
  rw [readByte, readByte, hmem, hundef]

theorem readBytes_homes {s u : State} (h : s.homes = u.homes) (a n : Nat) : readBytes s a n = readBytes u a n := by
  induction n generalizing a with
  | zero => rfl
  | succ n ih => rw [readBytes, readBytes, readByte_homes h, ih]

theorem readNum_homes {s u : State} (h : s.homes = u.homes) (a n : Nat) : readNum s a n = readNum u a n := by
  rw [readNum, readNum, readBytes_homes h]

theorem memOk_homes {s u : State} (h : s.homes = u.homes) : MemOk s ↔ MemOk u := by
  rw [MemOk, MemOk, (Prod.mk.inj h).1]

/- A target in memory -/

section
variable {tg : Target} {pa : Nat} (h : targetKey tg = some pa)
include h

/-- A target in memory is read at its home address, with no other effect. -/
theorem readAt_of_targetKey (s : State) (n : Nat) : readAt s tg n = (readNum s pa n, s) := by
  cases tg <;> cases h <;> rfl

/-- A target in memory is written at its home address. -/
theorem writeAt_homes (s : State) (n v : Nat) : (writeAt s tg n v).homes = (writeNum s pa n v).homes := by
  cases tg <;> cases h
  case mem => rfl
  case scratch => exact markScratch_homes ..

theorem targetPoisoned_of_targetKey (s : State) : targetPoisoned s tg = poisoned s pa := by simp [targetPoisoned, h]

end

end Sys2Proof.Machine
end

section
/-! Atomic updates at their owner (R106): the word at the home address becomes what the operation makes of it, the answer is the operation's, and
no other byte changes. -/
namespace Sys2Proof.Machine

/-- Is an operation one atomic update of a doubleword, with nothing to forward? -/
def LongOp.isUpdate : LongOp → Bool
  | .amo _ _ _ | .cas _ _ _ | .red _ _ _ | .barinit _ _ | .bararv _ | .cancelMark _ _ => true
  | _ => false

/-- What an atomic update answers, by the old value: that value, or an acknowledgement (R279, R284). -/
def LongOp.answer (op : LongOp) (old : Word) : LongRes :=
  match op with
  | .amo _ _ _ | .cas _ _ _ | .bararv _ => .word old
  | _ => .ack

/-- The state after an atomic update of a target has written, if it writes. -/
def writeUpdate (s : State) (tg : Target) (w : Option Word) : State :=
  match w with
  | some w => writeAt s tg 8 w.toNat
  | none => s

/-- Performing an update is the atomic at its owner. -/
theorem performNow_of_isUpdate {op : LongOp} (h : op.isUpdate = true) (s : State) (t : Nat) (m : Mode) :
    performNow s t m op = performAtomic s t m op := by
  cases op with
  | load | store | vload | vstore | redf | mr => cases h
  | amo | cas | red | barinit | bararv | cancelMark => rfl

/-- With nothing held before it, an operation is performed at once. -/
theorem perform_of_heldBehind_none {s : State} {t : Nat} (h : heldBehind s t = none) (m : Mode) (op : LongOp) :
    perform s t m op = performNow s t m op := by
  simp [perform, h]

/-- A checked update that nothing stands in the way of is done at the owner. -/
theorem performAtomic_of_free {s u : State} {t pa : Nat} {tg : Target} {m : Mode} {op : LongOp} {old : Word} (hop : op.isUpdate = true)
    (hres : resolve s t m (coreRule .atomic) op.target 8 = .ok (tg, u)) (hkey : targetKey tg = some pa)
    (hfree : blockOf u t op.target tg true = .free) (hpoison : poisoned u pa = false) (hold : BitVec.ofNat 64 (readNum u pa 8) = old) :
    performAtomic s t m op =
      { res := op.answer old, op := op, st := writeUpdate (atOwner u t op.target tg) tg (updateOf op old) } := by
  have hp : targetPoisoned u tg = false := (targetPoisoned_of_targetKey hkey u).trans hpoison
  have hread := readAt_of_targetKey hkey (atOwner u t op.target tg) 8
  rw [readNum_homes (atOwner_homes ..)] at hread
  simp only [performAtomic, hres, hfree, hp, hread, hold]
  cases op with
  | load | store | vload | vstore | redf | mr => cases hop
  | amo | cas | red | barinit | bararv | cancelMark => rfl

/-- The word at the home address of a target after an update. -/
theorem readNum_writeUpdate {s : State} {tg : Target} {pa : Nat} (hkey : targetKey tg = some pa) (hs : MemOk s) (w : Option Word) :
    BitVec.ofNat 64 (readNum (writeUpdate s tg w) pa 8) = w.getD (BitVec.ofNat 64 (readNum s pa 8)) := by
  cases w with
  | none => rfl
  | some w =>
    rw [writeUpdate, readNum_homes (writeAt_homes hkey ..)]
    exact readD_writeD s pa w hs

/-- An update leaves every byte outside its word. -/
theorem readByte_writeUpdate_other {s : State} {tg : Target} {pa b : Nat} (hkey : targetKey tg = some pa) (hs : MemOk s) (w : Option Word)
    (hb : b < pa ∨ pa + 8 ≤ b) : readByte (writeUpdate s tg w) b = readByte s b := by
  cases w with
  | none => rfl
  | some w => rw [writeUpdate, readByte_homes (writeAt_homes hkey ..), readByte_writeNum_other s pa 8 _ b hb hs]

/-- A family of atomic updates does at the owner what its update function and its answer say. -/
theorem updateAtOwner {op : Word → LongOp} {g : Word → Option Word} {r : Word → LongRes} (hop : ∀ va, (op va).isUpdate = true)
    (htarget : ∀ va, (op va).target = va) (hupdate : ∀ va old, updateOf (op va) old = g old) (hanswer : ∀ va old, (op va).answer old = r old) :
    UpdateAtOwner op g r := by
  intro s u t pa tg m va hinv hres hheld hkey hfree hpoison old p
  have hown : (atOwner u t va tg).homes = u.homes := atOwner_homes ..
  have hok : MemOk (atOwner u t va tg) := (memOk_homes hown).2 hinv
  have hp : p = { res := r old, op := op va, st := writeUpdate (atOwner u t va tg) tg (g old) } := by
    have h := performAtomic_of_free (hop va) (by rw [htarget]; exact hres) hkey (by rw [htarget]; exact hfree) hpoison rfl
    rw [htarget, hupdate, hanswer] at h
    exact (perform_of_heldBehind_none hheld m (op va)).trans ((performNow_of_isUpdate (hop va) s t m).trans h)
  rw [hp]
  refine ⟨rfl, ?word, fun b hb => ?bytes⟩
  case word => rw [readNum_writeUpdate hkey hok, readNum_homes hown]
  case bytes => rw [readByte_writeUpdate_other hkey hok _ hb, readByte_homes hown]

/-- Settles O15: field by field over R109's two branches; BARARV and the mark for a cancelled member are atomic updates at the word's owner. -/
theorem barrierArrival : Obligations.BarrierArrival := by
  unfold Obligations.BarrierArrival
  refine ⟨fun w cancelled => ?fields, ?arrival, fun ph => ?cancelled⟩
  case fields =>
    simp (disch := decide) only [field_eq_bitsOf]
    refine ⟨?phase, ?count, cancel_arrive w cancelled, ?expected⟩
    case phase => rw [bitsOf_arrive_cancelled w cancelled (by decide), phase_arrive]
    case count => rw [bitsOf_arrive_cancelled w cancelled (by decide), count_arrive]
    case expected => rw [bitsOf_arrive_cancelled w cancelled (by decide), bitsOf_arrive_other w (by decide)]
  case arrival => exact updateAtOwner (fun _ => rfl) (fun _ => rfl) (fun _ _ => rfl) (fun _ _ => rfl)
  case cancelled =>
    refine updateAtOwner (fun _ => rfl) (fun _ => rfl) (fun va old => ?_) (fun _ _ => rfl)
    rw [field_eq_bitsOf old (by decide)]
    rfl

end Sys2Proof.Machine
end

section
/-! The combination of a node's children (R397, R398): what one step gives, and so what the fold over the children in their order gives. -/
namespace Sys2Proof.Machine

/-- The value of an operation is what OP names (R395, R397). -/
theorem combine_value (op : Nat) (a b : Word) : (combine op a b).1 = combineOp op a b :=
  match op with
  | 0 | 1 | 2 | 3 | 4 | 5 | _ + 6 => rfl

/-- One compensated step (R398): the rounded sum of the values, with the error of both and of the addition. -/
def compensatedStep (a b : Word × Word) : Word × Word :=
  let t := (addT64 0 a.1 b.1).1
  (t, (pairError a.2 b.2 a.1 b.1 t).1)

theorem combineStep_of_pair {c : Coll} (h : c.pair = true) (a b : Word × Word) :
    combineStep c a b = (compensatedStep a b, (addT64 0 a.1 b.1).2 ||| (pairError a.2 b.2 a.1 b.1 (addT64 0 a.1 b.1).1).2) := by
  rw [combineStep, if_pos h]
  rfl

theorem combineStep_of_single {c : Coll} (h : c.pair = false) (a b : Word × Word) :
    combineStep c a b = ((combineOp c.op a.1 b.1, 0), (combine c.op a.1 b.1).2) := by
  simp [combineStep, h, combine_value]

/-- The value of a node is the fold of the steps; the flags are gathered beside it. -/
theorem combineChildren_value (c : Coll) (v : Word × Word) (vs : List (Word × Word)) :
    (combineChildren c (v :: vs)).1 = vs.foldl (fun a b => (combineStep c a b).1) v :=
  (List.foldl_hom Prod.fst fun _ _ => rfl).symm

/-- Two children raise the flags of their one step. -/
theorem combineChildren_flags_two (c : Coll) (a b : Word × Word) : (combineChildren c [a, b]).2 = (combineStep c a b).2 :=
  BitVec.zero_or

theorem combineChildren_of_pair {c : Coll} (h : c.pair = true) (v : Word × Word) (vs : List (Word × Word)) :
    (combineChildren c (v :: vs)).1 = vs.foldl compensatedStep v := by
  simp only [combineChildren_value, combineStep_of_pair h]

theorem combineChildren_of_single {c : Coll} (h : c.pair = false) (v : Word) (vs : List Word) :
    (combineChildren c ((v, 0) :: vs.map (fun w => (w, 0)))).1 = (vs.foldl (combineOp c.op) v, 0) := by
  rw [combineChildren_value, List.foldl_map]
  simp only [combineStep_of_single h]
  exact List.foldl_hom (fun w : Word => (w, (0 : Word))) fun _ _ => rfl

end Sys2Proof.Machine
end

section
/-! The error of a compensated step (R398): with finite terms, their exact sum rounded once. -/
namespace Sys2Proof.Machine

theorem finite_of_viewT64 {w : Word} {n : Bool × Nat × Int} (h : viewT64 w = .fin n.1 n.2.1 n.2.2) : finite w = some n := by
  simp [finite, h]

/-- The model's multiple of a weight is the multiple that the statements name. -/
theorem atWeight_eq_unitsOf (neg : Bool) (n : Nat) (e q : Int) : atWeight neg n e q = unitsOf neg n e q := by
  cases neg <;> simp [atWeight, unitsOf, inUnits]

/-- The exact sum of an error step in units of 2^q: both errors and both values, less what the addition gave. -/
def errorUnits (a b c d x : Bool × Nat × Int) (q : Int) : Int :=
  atWeight a.1 a.2.1 a.2.2 q + atWeight b.1 b.2.1 b.2.2 q + atWeight c.1 c.2.1 c.2.2 q + atWeight d.1 d.2.1 d.2.2 q - atWeight x.1 x.2.1 x.2.2 q

theorem pairError_of_finite {e e2 v v2 t : Word} {a b c d x : Bool × Nat × Int} {q N : Int}
    (ha : finite e = some a) (hb : finite e2 = some b) (hc : finite v = some c) (hd : finite v2 = some d) (hx : finite t = some x)
    (hq : q = min (min a.2.2 b.2.2) (min (min c.2.2 d.2.2) x.2.2)) (hN : N = errorUnits a b c d x q) :
    pairError e e2 v v2 t =
      if N = 0 then (zeroT64 (a.1 && a.2.1 == 0 && b.1 && b.2.1 == 0), 0) else roundT64 0 (decide (N < 0)) N.natAbs q := by
  subst hq hN
  simp only [pairError, ha, hb, hc, hd, hx]
  rfl

/-- The error of a compensated step over finite terms given as one list, the sum's value last. -/
theorem pairError_of_views {e e2 v v2 t : Word} {ns : List (Bool × Nat × Int)} {q N : Int}
    (hviews : [e, e2, v, v2, t].map viewT64 = ns.map (fun n => .fin n.1 n.2.1 n.2.2))
    (hq : q = (ns.map (fun n => n.2.2)).foldl min (ns.getD 0 (false, 0, 0)).2.2)
    (hN : N = ((ns.take 4).map (fun n => unitsOf n.1 n.2.1 n.2.2 q)).sum - (ns.drop 4 |>.map (fun n => unitsOf n.1 n.2.1 n.2.2 q)).sum) :
    ∃ b, pairError e e2 v v2 t = if N = 0 then (zeroT64 b, 0) else roundT64 0 (decide (N < 0)) N.natAbs q := by
  replace hviews := hviews.symm
  simp only [List.map_cons, List.map_nil, List.map_eq_cons_iff, List.map_eq_nil_iff] at hviews
  obtain ⟨a, _, rfl, ha, b, _, rfl, hb, c, _, rfl, hc, d, _, rfl, hd, x, _, rfl, hx, rfl⟩ := hviews
  refine ⟨_, pairError_of_finite (finite_of_viewT64 ha.symm) (finite_of_viewT64 hb.symm) (finite_of_viewT64 hc.symm)
    (finite_of_viewT64 hd.symm) (finite_of_viewT64 hx.symm) ?weight ?sum⟩
  case weight =>
    simp only [List.map_cons, List.map_nil, List.foldl_cons, List.foldl_nil, List.getD_cons_zero] at hq
    omega
  case sum =>
    simp only [List.take_succ_cons, List.take_zero, List.drop_succ_cons, List.drop_zero, List.map_cons, List.map_nil, List.sum_cons,
      List.sum_nil] at hN
    simp only [errorUnits, atWeight_eq_unitsOf]
    omega

end Sys2Proof.Machine
end

section
/-! The step of a node whose children all have their values (R395, R397, R398): the result is written as the node's element, and then the next
node's turn comes, or the root's element is delivered. -/
namespace Sys2Proof.Machine

@[simp] theorem smFind_smSet_same {α : Type} (m : SMap α) (n : Nat) (a : α) : smFind (smSet m n a) n = some a := by
  induction m with
  | nil => simp [smSet, smFind]
  | cons p r ih =>
    obtain ⟨k, b⟩ := p
    rw [smSet]
    split
    case isTrue => simp [smFind]
    case isFalse =>
      split
      case isTrue => simp [smFind]
      case isFalse h => simp [smFind, Ne.symm h, ih]

@[simp] theorem smGet_smSet_same {α : Type} (d : α) (m : SMap α) (n : Nat) (a : α) : smGet d (smSet m n a) n = a := by
  simp [smGet]

/-- A node of a tree that combines, on its turn: its launch goes on, its tile runs, and its children's values for the element are there. -/
structure NodeCombines (s : State) (id node e : Nat) (c : Coll) (vs : List (Word × Word)) : Prop where
  arg : s.arg = [id, node, e]
  coll : smFind s.colls id = some c
  element : e < c.count
  goesOn : (getLaunch s id).code = 0
  tile : ∀ t, nodeTile s id node = some t → sealed s t = false
  kind : c.kind ∈ [0, 1, 4]
  inTree : node < c.nodes.length
  children : (c.nodes.getD node []).map (childValue s c e) = vs.map some

/-- A collective when a node has combined the values of its children for an element. -/
def Coll.combined (c : Coll) (node e : Nat) (vs : List (Word × Word)) : Coll :=
  { c with
    outs := smSet c.outs node (smSet (smGet [] c.outs node) e (combineChildren c vs).1)
    flags := c.flags ||| (combineChildren c vs).2.toNat / 16 }

/-- The machine when a node has combined an element. -/
def withCombined (s : State) (id node e : Nat) (c : Coll) (vs : List (Word × Word)) : State :=
  { s with colls := smSet s.colls id (c.combined node e vs) }

/-- A combined node's element is the combination of its children. -/
theorem smFind_outs_combined (c : Coll) (node e : Nat) (vs : List (Word × Word)) :
    smFind (smGet [] (c.combined node e vs).outs node) e = some (combineChildren c vs).1 := by
  simp [Coll.combined]

section
variable {s : State} {id node e : Nat} {c : Coll} {vs : List (Word × Word)}

/-- A node that combines takes the values of its children in their order, writes their combination, and goes on: to the next node toward the
root, or at the root to the destinations. -/
theorem nodeStep_of_combines (h : NodeCombines s id node e c vs) (i : Instr) :
    nodeStep s i =
      let d := c.combined node e vs
      let u := withCombined s id node e c vs
      if node ≠ 0 then schedule u s.tile.id [collStep d id (node - 1) e]
      else if awaitsFleet u d e then again u i
      else match deliverElem u d e with
        | none => stopColl u id d
        | some (v, fl) =>
          let k := { d with flags := d.flags ||| fl.toNat / 16 }
          let w := { v with colls := smSet v.colls id k }
          if e + 1 = c.count then finishColl w id k else schedule w v.tile.id [collStep k id (c.nodes.length - 1) (e + 1)] := by
  obtain ⟨harg, hcoll, helement, hcode, htile, hkind, htree, hchildren⟩ := h
  have hup : (nodeTile s id node).any (sealed s) = false := by
    cases ht : nodeTile s id node with
    | none => rfl
    | some t => exact htile t ht
  have hneed : (c.kind == 0 || c.kind == 1 || c.kind == 4) = true := by simpa [or_assoc] using hkind
  have hthere : (vs.map some).any (·.isNone) = false := by simp
  have hvalues : (vs.map some).filterMap (fun x => x) = vs := List.filterMap_map.trans List.filterMap_some
  have hopen : ((s.arg.length = 1 || c.count ≤ e || (getLaunch s id).code != 0) = true) = False := by simp [harg, hcode, helement]
  have hargs : argAt s 0 = id ∧ argAt s 1 = node ∧ argAt s 2 = e ∧ fleetInputs c e (s.arg.drop 3) = c := by
    simp [argAt, harg, fleetInputs]
  obtain ⟨hid, hn, he, hin⟩ := hargs
  simp only [nodeStep, hid, hn, he, hin, hcoll, hopen, hup, hneed, hchildren, hthere, hvalues, htree, if_false, if_true,
    Bool.true_and, Bool.false_eq_true, decide_true, Bool.and_false] <;> rfl

/-- The instruction of a node's turn, by PAIR, is that step. -/
theorem exec_nodeStep {i : Instr} (hcoll : smFind s.colls (argAt s 0) = some c)
    (hi : i = if c.pair then .collectivePairCombine else .collectiveNodeCombine) : exec i s = event (fun u => nodeStep u i) s := by
  cases hpair : c.pair with
  | false =>
    obtain rfl : i = .collectiveNodeCombine := by simpa [hpair] using hi
    simp [exec, execCollectiveNodeCombine, event, hcoll, hpair]
  | true =>
    obtain rfl : i = .collectivePairCombine := by simpa [hpair] using hi
    simp [exec, execCollectivePairCombine, event, hcoll, hpair]

/-- A turn that combines reaches what its step gives, whatever the time then. -/
theorem reaches_of_combines {i : Instr} {P : State → Prop} (h : NodeCombines s id node e c vs)
    (hi : i = if c.pair then .collectivePairCombine else .collectiveNodeCombine)
    (hP : P { nodeStep s i with time := s.time + 1 }) : Reaches i s P := by
  have hid : argAt s 0 = id := by simp [argAt, h.arg]
  exact ⟨_, exec_nodeStep (hid.symm ▸ h.coll) hi, hP⟩

/-- Below the root, the turn leaves the combination as the node's element. -/
theorem reaches_element {i : Instr} (h : NodeCombines s id node e c vs) (hnode : 0 < node)
    (hi : i = if c.pair then .collectivePairCombine else .collectiveNodeCombine) :
    Reaches i s (fun t => ∃ d, smFind t.colls id = some d ∧
      smFind (smGet [] d.outs node) e = some (combineChildren c vs).1) := by
  refine reaches_of_combines h hi ⟨c.combined node e vs, ?_, smFind_outs_combined ..⟩
  simp [nodeStep_of_combines h, Nat.ne_of_gt hnode, withCombined]

/-- The value of a tree whose root is node 0 is that node's element. -/
theorem rootValue_combined (u : State) (hroot : c.root = (false, 0)) (hpair : c.pair = false) :
    rootValue u (c.combined 0 e vs) e = some ((combineChildren c vs).1.1, 0) := by
  have hsingle : (c.combined 0 e vs).pair = false := hpair
  have hnode0 : (c.combined 0 e vs).root = (false, 0) := hroot
  simp [rootValue, childValue, hsingle, hnode0, smFind_outs_combined]

/-- A tree of this module's nodes awaits no other module. -/
theorem awaitsFleet_of_root (u : State) (hkind : c.kind ∈ [0, 1, 4]) (hroot : c.root = (false, 0)) : awaitsFleet u c e = false := by
  have hkinds : c.kind = 0 ∨ c.kind = 1 ∨ c.kind = 4 := by simpa using hkind
  have hne : c.kind ≠ 2 ∧ c.kind ≠ 3 := by omega
  simp [awaitsFleet, hne, hroot]

/-- At the root, before the last element, memory becomes what the delivery makes it. -/
theorem reaches_delivery {i : Instr} {v : State} {fl : Flags} (h : NodeCombines s id 0 e c vs) (hroot : c.root = (false, 0))
    (hi : i = if c.pair then .collectivePairCombine else .collectiveNodeCombine) (hnext : e + 1 < c.count)
    (hdeliver : deliverElem (withCombined s id 0 e c vs) (c.combined 0 e vs) e = some (v, fl)) :
    Reaches i s (fun t => t.mem = v.mem) := by
  have haway : awaitsFleet (withCombined s id 0 e c vs) (c.combined 0 e vs) e = false :=
    awaitsFleet_of_root (c := c.combined 0 e vs) _ h.kind hroot
  refine reaches_of_combines h hi ?_
  simp [nodeStep_of_combines h, haway, hdeliver, Nat.ne_of_lt hnext]

end

/-- Settles O55: the fold over the children gives the clauses about values, and a turn of a node writes what the fold gives. -/
theorem combineOrder : Obligations.CombineOrder := by
  unfold Obligations.CombineOrder
  refine ⟨fun c v vs hpair _ => combineChildren_of_single hpair v vs, fun c v vs hpair => combineChildren_of_pair hpair v vs,
    fun c a b => ⟨fun hpair hop => ?addFlags, fun hpair => ?pairFlags⟩, fun e e2 v v2 t ns q N hviews hq hN => ?error, ?node, ?root⟩
  case addFlags => rw [combineChildren_flags_two, combineStep_of_single hpair, hop]; rfl
  case pairFlags => rw [combineChildren_flags_two, combineStep_of_pair hpair]
  case error =>
    obtain ⟨b, herror⟩ := pairError_of_views hviews hq hN
    exact ⟨fun h => herror.trans (if_neg h), fun h => ⟨b, herror.trans (if_pos h)⟩⟩
  case node =>
    intro s id node e c i harg hcoll helement hcode htile hkind hnode htree hi
    refine ⟨fun v vs hchildren hpair _ => ?single, fun v vs hchildren hpair => ?pair⟩
    case single =>
      have hchildren := hchildren.trans (List.map_map (g := some) (f := fun w => (w, 0)) (l := v :: vs)).symm
      rw [← combineChildren_of_single hpair]
      exact reaches_element ⟨harg, hcoll, helement, hcode, htile, hkind, htree, hchildren⟩ hnode hi
    case pair =>
      have hvalue := combineChildren_of_pair hpair v vs
      exact hvalue ▸ reaches_element ⟨harg, hcoll, helement, hcode, htile, hkind, htree, hchildren⟩ hnode hi
  case root =>
    intro s v id e c fl a as harg hcoll hnext hcode htile hkind hnodes hroot hpair _ hchildren
    have hchildren := hchildren.trans (List.map_map (g := some) (f := fun w => (w, 0)) (l := a :: as)).symm
    have h : NodeCombines s id 0 e c ((a, 0) :: as.map (fun w => (w, 0))) :=
      ⟨harg, hcoll, by omega, hcode, htile, hkind, List.length_pos_iff.2 hnodes, hchildren⟩
    rw [← combineChildren_of_single hpair]
    exact ⟨(rootValue_combined _ hroot hpair).trans (by rw [combineChildren_of_single hpair]),
      fun hdeliver => reaches_delivery h hroot (by simp [hpair]) hnext hdeliver⟩

end Sys2Proof.Machine
end
